-- ==== Sys2Proof/Word.lean ====
section
/-! DEFINITION. The word types and the one container of the model: a sparse map from numbers to values, held as a
list of pairs in one canonical form (keys strictly rising, no entry equal to the value an unlisted key reads as). -/

namespace Sys2Proof

/-- A 64-bit scalar register value, address or doubleword. -/
abbrev Word := BitVec 64
/-- One byte of memory. -/
abbrev Byte := BitVec 8
/-- One 512-byte vector row (R122): byte `b` is bits `8b+7 … 8b`. -/
abbrev Row := BitVec 4096
/-- A 512-bit mask (R125), or one enable bit for each byte of a row. -/
abbrev Mask := BitVec 512

/-- A sparse array: what is not listed reads as a default that the reader gives. -/
abbrev SMap (α : Type) := List (Nat × α)

/-- Reads entry `k`; an unlisted entry reads as `d`. -/
def smGet {α : Type} (m : SMap α) (d : α) (k : Nat) : α :=
  match m with
  | [] => d
  | (j, v) :: r => if j = k then v else smGet r d k

/-- Puts the pair in its place without a test for the default. -/
def smPut {α : Type} (m : SMap α) (k : Nat) (v : α) : SMap α :=
  match m with
  | [] => [(k, v)]
  | (j, w) :: r => if k < j then (k, v) :: (j, w) :: r else if j = k then (k, v) :: r else (j, w) :: smPut r k v

/-- Takes an entry out, so that it reads as the default again. -/
def smDel {α : Type} (m : SMap α) (k : Nat) : SMap α :=
  match m with
  | [] => []
  | (j, w) :: r => if j = k then r else (j, w) :: smDel r k

/-- Writes entry `k`, keeping the canonical form: writing the default removes the entry. -/
def smSet {α : Type} [DecidableEq α] (m : SMap α) (d : α) (k : Nat) (v : α) : SMap α :=
  if v = d then smDel m k else smPut m k v

/-- The canonical form: keys strictly rising from `lo`, no entry equal to the default. -/
def smWfFrom {α : Type} [DecidableEq α] (d : α) (lo : Nat) : SMap α → Bool
  | [] => true
  | (k, v) :: r => decide (lo ≤ k) && decide (v ≠ d) && smWfFrom d (k + 1) r

/-- The canonical form of a sparse array whose default is `d`. -/
def smWf {α : Type} [DecidableEq α] (d : α) (m : SMap α) : Bool := smWfFrom d 0 m

/-- One byte-addressed memory: a list of (address, byte) pairs (the shape of `Host.Cell`). An unlisted byte reads 0. -/
abbrev Memory := SMap Byte

end Sys2Proof
end

