-- ==== Sys2Proof/Terms.lean ====
section
/-! DEFINITION. What the terms of an instruction or an event are made of: token fields, operand kinds (R53), the field
groups of the formats F-V and F-E (R49), and what an event brings with it from the fabric or the host. -/

namespace Sys2Proof

/-- The four sequencers of a core (R19). -/
inductive Seq where
  | ctrl | load | exec | store
  deriving DecidableEq, Repr, Inhabited

/-- A scalar register field, s0 to s31. -/
abbrev Reg := BitVec 5

/-- The token field TK (R59): partner to pop from and partner to push to, 0 for none. -/
structure Tok where
  pop  : BitVec 2
  push : BitVec 2
  deriving DecidableEq, Repr, Inhabited

/-- A source operand of F-S (R53): kinds 0b01, 0b10 and 0b11, the last in its short and its extended form (R55). -/
inductive SOp where
  | reg  (r : Reg)
  | bank (f : BitVec 5)
  | lit  (v : BitVec 5)
  | ext  (v : BitVec 32)
  deriving DecidableEq, Repr, Inhabited

/-- A source operand of F-V (R53): kinds 0b00, 0b01, 0b10 and 0b11. -/
inductive VOp where
  | vec  (n : BitVec 7)
  | reg  (f : BitVec 7)
  | bank (f : BitVec 7)
  | lit  (v : BitVec 7)
  | ext  (v : BitVec 32)
  deriving DecidableEq, Repr, Inhabited

/-- The fields of an F-V instruction (R49, R58) but for OP and FN. -/
structure FV where
  tk  : Tok
  bc  : Bool
  vd  : BitVec 7
  a   : VOp
  b   : VOp
  c   : VOp
  msk : BitVec 3
  vt  : BitVec 3
  rm  : BitVec 3
  sat : Bool
  aux : BitVec 4
  deriving DecidableEq, Repr, Inhabited

/-- The fields of an F-E instruction (R49) but for OP and FN. -/
structure FE where
  tk   : Tok
  d    : Reg
  a    : Reg
  b    : Reg
  wait : BitVec 16
  sig  : BitVec 16
  deriving DecidableEq, Repr, Inhabited

/-- The physical spaces a page can name (LOC, R194). -/
inductive Space where
  | hbm | deep | host
  deriving DecidableEq, Repr, Inhabited

/-- What a bit error strikes (R37, R38, R174, R209): the home of a line, a line of a core's L1, the scratchpad line at an
offset, an accumulator row, or the entry of a quad's lens cache at a place in its order of use. -/
inductive ErrSite where
  | home (sp : Space)
  | l1   (sp : Space)
  | spad | acc | lens
  deriving DecidableEq, Repr, Inhabited

/-- What answers a park retrieval (R297): a record, and which of its four lines are poisoned (R209). -/
structure ParkRecord where
  bits : BitVec 4096
  bad  : List Nat
  deriving DecidableEq, Repr, Inhabited

/-- What a window access does at its target (R190, R215). -/
inductive WinOp where
  | load
  | store
  | atomic (aop : Nat) (op cmp : Word) (rel acq : Bool)
  deriving DecidableEq, Repr, Inhabited

/-- A window request (an LDST packet): who waits for its reply, where it goes and what it does there, and the budget class
it carries. `poison` marks a store's data as poisoned, and a load as one whose poison travels with its data instead of
faulting (R209, R219, R259). -/
structure WinReq where
  src     : Nat
  core    : Nat
  seq     : Seq
  tag     : Nat
  dst     : Nat
  relaxed : Bool
  asid    : Nat
  off     : Nat
  size    : Nat
  op      : WinOp
  data    : BitVec 1024
  poison  : Bool
  cls     : Nat
  deriving DecidableEq, Repr, Inhabited

/-- The reply to a window request: its bytes, or the code of the fault found at the target. -/
structure WinRep where
  core   : Nat
  seq    : Seq
  tag    : Nat
  node   : Nat
  addr   : Word
  isStore : Bool
  code   : Nat
  data   : BitVec 1024
  poison : Bool
  deriving DecidableEq, Repr, Inhabited

/-- A packet image of R266: 288 bytes, byte `b` at bits `8b+7 … 8b`. -/
abbrev PImage := BitVec 2304

/-- What a message does at its peer (R305, R306). -/
inductive MsgOp where
  | send | write | read
  deriving DecidableEq, Repr, Inhabited

/-- A message on the fabric (R302 to R309), its payload as bytes with one poison mark for each 128-byte piece. -/
structure Msg where
  op     : MsgOp
  src    : Nat
  core   : Nat
  ep     : Nat
  dst    : Nat
  peer   : Nat
  tenant : Nat
  sseq   : BitVec 32
  raddr  : Word
  laddr  : Word
  rctr   : Nat
  len    : Nat
  data   : List Byte
  poison : List Nat
  relaxed : Bool
  stamp  : Nat
  cls    : Nat
  deriving DecidableEq, Repr, Inhabited

/-- A collective chunk (R352) as the engine sees it: header fields and its 32 blocks, absent ones zero. -/
structure Chunk where
  src   : Nat
  dst   : Nat
  entry : Nat
  sentry : Nat
  down  : Bool
  cid   : BitVec 28
  tile  : Nat
  chunk : Nat
  srank : Nat
  pres  : BitVec 32
  seqNo : BitVec 32
  data  : BitVec 32768
  deriving DecidableEq, Repr, Inhabited

/-- A flit of R330 as it comes: its direction and wavelength, 140 data bytes and its first parity bytes, or, with no data
bytes, the further parity bytes of the flit kept on that wavelength (R331). -/
structure Flit where
  dir    : Nat
  wave   : Nat
  data   : List Byte
  parity : List Byte
  deriving DecidableEq, Repr, Inhabited

/-- What the arbiter of a line is told (R322): a request for its circuit of `hops` segments from `lo` on, or a release of
the `count` highest indices, 0 for all of them or for a request that is still pending. -/
structure LeaseCtl where
  release : Bool
  src     : Nat
  entry   : Nat
  serial  : Nat
  tenant  : Nat
  dim     : Nat
  plus    : Bool
  lo      : Nat
  hops    : Nat
  prio    : Nat
  timed   : Bool
  min     : Nat
  count   : Nat
  stamp   : Nat
  deriving DecidableEq, Repr, Inhabited

/-- What the arbiter answers (R322, R337): the entry's state and what takes effect at which boundary. -/
structure LeaseDec where
  dst    : Nat
  entry  : Nat
  serial : Nat
  state  : Nat
  mask1  : BitVec 640
  frame1 : Nat
  mask2  : BitVec 640
  frame2 : Nat
  ends   : Bool
  notice : Bool
  deriving DecidableEq, Repr, Inhabited

/-- A trap's cause (R405, R406): code, underlying code, agent, deferred or voluntary, address, message reference, and
whether a TRAP or BREAK resumes after itself. -/
structure Cause where
  code : Nat
  sub  : Nat
  agent : Nat
  deferred : Bool
  vol  : Bool
  addr : Word
  msgref : Word
  deriving DecidableEq, Repr, Inhabited

end Sys2Proof
end

