-- ==== Sys2Proof/Syntax.lean ====
section
/-! DEFINITION. The instruction and event terms: one constructor for each row of spec/opcode_table.json.
The steps that the machine makes by itself stand first, then the encoded instructions, then what comes from outside. Encoded rows carry the fields of their formats (R49, R274). Rows without an encoding are the steps that the engines, the fabric, the
dispatch unit and the host make: they carry the node, the core and what arrives. -/

namespace Sys2Proof

/-- One term for each row of the table. `n` is a node ID and `c` a core index throughout. -/
inductive Instr where
  /-- MODULE_RESET (R449). -/
  | moduleReset
  /-- ROM_CHECK (R454). -/
  | romCheck (n : Nat)
  /-- BRINGUP (R448). -/
  | bringup (n : Nat)
  /-- START (R448). -/
  | start (n : Nat)
  /-- ATTESTATION_REPORT (R455). -/
  | attestationReport (n : Nat)
  /-- FRAME_BOUNDARY (R32). -/
  | frameBoundary (n : Nat)
  /-- RETENTION_ENTRY_DONE (R208). -/
  | retentionEntryDone (n sl : Nat)
  /-- RETENTION_EXIT_DONE (R208). -/
  | retentionExitDone (n sl : Nat)
  /-- BUDGET_EXHAUSTED (R33). -/
  | budgetExhausted (n cls act : Nat)
  /-- FLIT_RECEIVE (R331). -/
  | flitReceive (n : Nat) (f : Flit)
  /-- MORE_REQUEST (R331). -/
  | moreRequest (n dir lseq inc : Nat)
  /-- ALIGN_FLIT (R333). -/
  | alignFlit (n src gsc phase : Nat)
  /-- ACK_RECEIVE (R314). -/
  | ackReceive (n dst bytes stamp : Nat)
  /-- PROG_ARRIVAL (R271). -/
  | progArrival (n : Nat) (p : PImage) (arr : Nat) (idx : Option Nat)
  /-- PROG_HOP (R272). -/
  | progHop (n k : Nat)
  /-- DATA_DELIVERY (R294). -/
  | dataDelivery (n : Nat) (p : PImage) (arr : Nat)
  /-- DELIVERY_RESERVE (R283). -/
  | deliveryReserve (n k : Nat)
  /-- DELIVERY_COUNT_ADVANCE (R283). -/
  | deliveryCountAdvance (n k : Nat)
  /-- DELIVERY_TIMEOUT (R283). -/
  | deliveryTimeout (n k : Nat)
  /-- NOTICE (R287). -/
  | notice (n t idx : Nat) (drop : Bool)
  /-- CANCEL_TOKEN (R391). -/
  | cancelToken (n t : Nat) (gin : BitVec 32)
  /-- WINDOW_ACCESS (R190). -/
  | windowAccess (n : Nat) (r : WinReq)
  /-- WINDOW_REPLY (R215). -/
  | windowReply (n : Nat) (r : WinRep)
  /-- DEFERRED_FAULT (R215). -/
  | deferredFault (n c : Nat)
  /-- WINDOW_PEERGONE (R215). -/
  | windowPeergone (n c tag : Nat)
  /-- PACKET_INJECTION (R293). -/
  | packetInjection (n c : Nat)
  /-- MESSAGE_INJECTION (R313). -/
  | messageInjection (n c : Nat)
  /-- MESSAGE_ARRIVAL (R305). -/
  | messageArrival (n : Nat) (m : Msg)
  /-- REMOTE_WRITE_ARRIVAL (R306). -/
  | remoteWriteArrival (n : Nat) (m : Msg)
  /-- REMOTE_READ_REQUEST (R306). -/
  | remoteReadRequest (n : Nat) (m : Msg)
  /-- READ_REPLY_ARRIVAL (R308). -/
  | readReplyArrival (n : Nat) (m : Msg)
  /-- RECEIVER_NOT_READY (R301). -/
  | receiverNotReady (n ep : Nat) (sseq : BitVec 32) (frames : Nat)
  /-- MESSAGE_RETRY (R301). -/
  | messageRetry (n ep : Nat)
  /-- MESSAGE_ACK (R308). -/
  | messageAck (n ep : Nat) (sseq : BitVec 32)
  /-- MESSAGE_REFUSED (R309). -/
  | messageRefused (n ep : Nat) (sseq : BitVec 32) (code : Nat)
  /-- MESSAGE_PEERGONE (R309). -/
  | messagePeergone (n ep : Nat) (sseq : BitVec 32)
  /-- ENDPOINT_FETCH (R300). -/
  | endpointFetch (n ep : Nat)
  /-- FIRED_ENQUEUE (R310). -/
  | firedEnqueue (n c : Nat)
  /-- LEASE_CTL_ARRIVAL (R322). -/
  | leaseCtlArrival (n : Nat) (l : LeaseCtl)
  /-- SHUTTER_ROTATION_START (R340). -/
  | shutterRotationStart (n : Nat)
  /-- SHUTTER_SLOT (R328). -/
  | shutterSlot (n : Nat)
  /-- PARKGET_REQUEST (R297). -/
  | parkgetRequest (n src core t : Nat)
  /-- PPARKGET_PEERGONE (R297). -/
  | pparkgetPeergone (n c : Nat)
  /-- REMOTE_TLBINV (R427). -/
  | remoteTlbinv (n src core asid mode : Nat) (va : Word)
  /-- TLBINV_PEERGONE (R427). -/
  | tlbinvPeergone (n c : Nat)
  /-- COLLECTIVE_START (R351). -/
  | collectiveStart (n e : Nat)
  /-- CHUNK_RESERVE (R354). -/
  | chunkReserve (n e : Nat)
  /-- CHUNK_GRANT (R354): leave to send chunk `k` of the collective with this identity and TILE. -/
  | chunkGrant (n e : Nat) (ident : Word) (tile k : Nat)
  /-- CHUNK_ARRIVAL (R352). -/
  | chunkArrival (n : Nat) (k : Chunk)
  /-- CHUNK_SWEEP (R354). -/
  | chunkSweep (n e k : Nat)
  /-- COLL_ENTRY_DONE (R356). -/
  | collEntryDone (n e : Nat)
  /-- COLLECTIVE_ABORT (R357). -/
  | collectiveAbort (n e : Nat)
  /-- COLLECTIVE_PEERGONE (R357). -/
  | collectivePeergone (n e : Nat)
  /-- COPY_ENTRY_BEGIN (R257). -/
  | copyEntryBegin (n c : Nat)
  /-- COPY_PIECE (R259). -/
  | copyPiece (n c : Nat)
  /-- COPY_ENTRY_COMPLETE (R259). -/
  | copyEntryComplete (n c : Nat)
  /-- REDUCTION_START (R161). -/
  | reductionStart (n c : Nat)
  /-- K_STEP (R162). -/
  | kStep (n c : Nat)
  /-- LENS_FILL (R171). -/
  | lensFill (n c : Nat)
  /-- REPLAY (R171). -/
  | replay (n c : Nat)
  /-- REDUCTION_RETIRE (R163). -/
  | reductionRetire (n c : Nat)
  /-- ACCUMULATOR_OP_DONE (R185). -/
  | accumulatorOpDone (n c : Nat)
  /-- VECTOR_RESULT_LANDING (R129). -/
  | vectorResultLanding (n c : Nat)
  /-- SCALAR_RESULT_WRITE (R96). -/
  | scalarResultWrite (n c : Nat)
  /-- LOAD_DATA_RETURN (R213). -/
  | loadDataReturn (n c : Nat) (q : Seq)
  /-- LDQ_FILL (R216). -/
  | ldqFill (n c tag : Nat)
  /-- BLK_RETIRE (R219). -/
  | blkRetire (n c tag : Nat)
  /-- ATOMIC_PERFORM (R239). -/
  | atomicPerform (n c : Nat) (q : Seq)
  /-- ATOMIC_RETURN (R238). -/
  | atomicReturn (n c : Nat) (q : Seq)
  /-- TRAP_CUT (R405). -/
  | trapCut (n c : Nat) (k : Cause)
  /-- LANDING_BUFFER_LAND (R413). -/
  | landingBufferLand (n c : Nat)
  /-- PREEMPTION_CUT (R415). -/
  | preemptionCut (n c : Nat)
  /-- CONTEXT_SAVE (R420). -/
  | contextSave (n c : Nat)
  /-- TASK_PLACEMENT (R379). -/
  | taskPlacement (n c : Nat)
  /-- STEAL (R378). -/
  | steal (n q : Nat)
  /-- PRELOAD (R421). -/
  | preload (n c : Nat)
  /-- TASK_RETIRE (R371). -/
  | taskRetire (n c : Nat)
  /-- MERGE_STEP (R384). -/
  | mergeStep (n g : Nat)
  /-- BARRIER_COMPLETE (R248). -/
  | barrierComplete (n lvl own id : Nat)
  /-- LINE_FETCH (R46). -/
  | lineFetch (n c : Nat) (q : Seq)
  /-- PARKGET_REPLY (R297). -/
  | parkgetReply (n c count : Nat) (r : ParkRecord)
  /-- TLBINV_ANSWER (R427). -/
  | tlbinvAnswer (n c src : Nat)
  /-- LEASE_DECISION_ARRIVAL (R322). -/
  | leaseDecisionArrival (n : Nat) (d : LeaseDec)
  /-- NOP (R117). -/
  | nop (t : Tok)
  /-- SQSTOP (R117). -/
  | sqstop (t : Tok)
  /-- SQWAIT (R113). -/
  | sqwait (t : Tok) (a : SOp)
  /-- SQSIG (R113). -/
  | sqsig (t : Tok) (a : SOp)
  /-- RDSTEP (R115). -/
  | rdstep (t : Tok) (d : BitVec 5)
  /-- RDCYC (R115). -/
  | rdcyc (t : Tok) (d : BitVec 5)
  /-- WAITSTEP (R116). -/
  | waitstep (t : Tok) (a : SOp)
  /-- SQID (R117). -/
  | sqid (t : Tok) (d : BitVec 5)
  /-- ADD (R101). -/
  | add (t : Tok) (d : BitVec 5) (a b : SOp)
  /-- SUB (R101). -/
  | sub (t : Tok) (d : BitVec 5) (a b : SOp)
  /-- AND (R101). -/
  | and (t : Tok) (d : BitVec 5) (a b : SOp)
  /-- OR (R101). -/
  | or (t : Tok) (d : BitVec 5) (a b : SOp)
  /-- XOR (R101). -/
  | xor (t : Tok) (d : BitVec 5) (a b : SOp)
  /-- ANDN (R101). -/
  | andn (t : Tok) (d : BitVec 5) (a b : SOp)
  /-- MIN (R101). -/
  | min (t : Tok) (d : BitVec 5) (a b : SOp)
  /-- MAX (R101). -/
  | max (t : Tok) (d : BitVec 5) (a b : SOp)
  /-- MINU (R101). -/
  | minu (t : Tok) (d : BitVec 5) (a b : SOp)
  /-- MAXU (R101). -/
  | maxu (t : Tok) (d : BitVec 5) (a b : SOp)
  /-- SHL (R102). -/
  | shl (t : Tok) (d : BitVec 5) (a b : SOp)
  /-- SHR (R102). -/
  | shr (t : Tok) (d : BitVec 5) (a b : SOp)
  /-- SAR (R102). -/
  | sar (t : Tok) (d : BitVec 5) (a b : SOp)
  /-- ROTL (R102). -/
  | rotl (t : Tok) (d : BitVec 5) (a b : SOp)
  /-- CLZ (R101). -/
  | clz (t : Tok) (d : BitVec 5) (a : SOp)
  /-- POPC (R101). -/
  | popc (t : Tok) (d : BitVec 5) (a : SOp)
  /-- MUL (R101). -/
  | mul (t : Tok) (d : BitVec 5) (a b : SOp)
  /-- MULH (R101). -/
  | mulh (t : Tok) (d : BitVec 5) (a b : SOp)
  /-- MULHU (R101). -/
  | mulhu (t : Tok) (d : BitVec 5) (a b : SOp)
  /-- DIV (R102). -/
  | div (t : Tok) (d : BitVec 5) (a b : SOp)
  /-- DIVU (R102). -/
  | divu (t : Tok) (d : BitVec 5) (a b : SOp)
  /-- REM (R102). -/
  | rem (t : Tok) (d : BitVec 5) (a b : SOp)
  /-- REMU (R102). -/
  | remu (t : Tok) (d : BitVec 5) (a b : SOp)
  /-- ADDW (R101). -/
  | addw (t : Tok) (d : BitVec 5) (a b : SOp)
  /-- CEQ (R101). -/
  | ceq (t : Tok) (d : BitVec 5) (a b : SOp)
  /-- CNE (R101). -/
  | cne (t : Tok) (d : BitVec 5) (a b : SOp)
  /-- CLT (R101). -/
  | clt (t : Tok) (d : BitVec 5) (a b : SOp)
  /-- CLTU (R101). -/
  | cltu (t : Tok) (d : BitVec 5) (a b : SOp)
  /-- CLE (R101). -/
  | cle (t : Tok) (d : BitVec 5) (a b : SOp)
  /-- CLEU (R101). -/
  | cleu (t : Tok) (d : BitVec 5) (a b : SOp)
  /-- CSEL (R101). -/
  | csel (t : Tok) (d : BitVec 5) (a b : SOp)
  /-- MOV (R101). -/
  | mov (t : Tok) (d : BitVec 5) (a : SOp)
  /-- ADDS1 (R101). -/
  | adds1 (t : Tok) (d : BitVec 5) (a b : SOp)
  /-- ADDS2 (R101). -/
  | adds2 (t : Tok) (d : BitVec 5) (a b : SOp)
  /-- ADDS3 (R101). -/
  | adds3 (t : Tok) (d : BitVec 5) (a b : SOp)
  /-- ADDS4 (R101). -/
  | adds4 (t : Tok) (d : BitVec 5) (a b : SOp)
  /-- SEXTB (R101). -/
  | sextb (t : Tok) (d : BitVec 5) (a : SOp)
  /-- SEXTH (R101). -/
  | sexth (t : Tok) (d : BitVec 5) (a : SOp)
  /-- SEXTW (R101). -/
  | sextw (t : Tok) (d : BitVec 5) (a : SOp)
  /-- ZEXTW (R101). -/
  | zextw (t : Tok) (d : BitVec 5) (a : SOp)
  /-- ADDI (R103). -/
  | addi (t : Tok) (d a : BitVec 5) (i : BitVec 12)
  /-- ANDI (R103). -/
  | andi (t : Tok) (d a : BitVec 5) (i : BitVec 12)
  /-- ORI (R103). -/
  | ori (t : Tok) (d a : BitVec 5) (i : BitVec 12)
  /-- XORI (R103). -/
  | xori (t : Tok) (d a : BitVec 5) (i : BitVec 12)
  /-- SHLI (R103). -/
  | shli (t : Tok) (d a : BitVec 5) (n : BitVec 6)
  /-- SHRI (R103). -/
  | shri (t : Tok) (d a : BitVec 5) (n : BitVec 6)
  /-- SARI (R103). -/
  | sari (t : Tok) (d a : BitVec 5) (n : BitVec 6)
  /-- ROTLI (R103). -/
  | rotli (t : Tok) (d a : BitVec 5) (n : BitVec 6)
  /-- LI (R103). -/
  | li (t : Tok) (d : BitVec 5) (i : BitVec 17)
  /-- QPUT (R112). -/
  | qput (t : Tok) (a : SOp) (b : BitVec 5)
  /-- QGET (R112). -/
  | qget (t : Tok) (d b : BitVec 5)
  /-- QPEEK (R112). -/
  | qpeek (t : Tok) (d b : BitVec 5)
  /-- QCNT (R112). -/
  | qcnt (t : Tok) (d b : BitVec 5)
  /-- TOKGIVE (R110). -/
  | tokgive (t : Tok) (a : SOp) (b : BitVec 5)
  /-- TOKTAKE (R110). -/
  | toktake (t : Tok) (a : SOp) (b : BitVec 5)
  /-- TOKCNT_IN (R110). -/
  | tokcntIn (t : Tok) (d b : BitVec 5)
  /-- TOKCNT_OUT (R110). -/
  | tokcntOut (t : Tok) (d b : BitVec 5)
  /-- MFSR (R118). -/
  | mfsr (t : Tok) (d : BitVec 5) (i : BitVec 12)
  /-- MTSR (R118). -/
  | mtsr (t : Tok) (a : BitVec 5) (i : BitVec 12)
  /-- CBLD (R99). -/
  | cbld (t : Tok) (a : BitVec 5) (n : BitVec 4) (e : BitVec 8)
  /-- LDB (R213). -/
  | ldb (t : Tok) (d a : BitVec 5) (o : BitVec 9)
  /-- LDBU (R213). -/
  | ldbu (t : Tok) (d a : BitVec 5) (o : BitVec 9)
  /-- LDH (R213). -/
  | ldh (t : Tok) (d a : BitVec 5) (o : BitVec 9)
  /-- LDHU (R213). -/
  | ldhu (t : Tok) (d a : BitVec 5) (o : BitVec 9)
  /-- LDW (R213). -/
  | ldw (t : Tok) (d a : BitVec 5) (o : BitVec 9)
  /-- LDWU (R213). -/
  | ldwu (t : Tok) (d a : BitVec 5) (o : BitVec 9)
  /-- LDD (R213). -/
  | ldd (t : Tok) (d a : BitVec 5) (o : BitVec 9)
  /-- STB (R214). -/
  | stb (t : Tok) (d a : BitVec 5) (o : BitVec 9)
  /-- STH (R214). -/
  | sth (t : Tok) (d a : BitVec 5) (o : BitVec 9)
  /-- STW (R214). -/
  | stw (t : Tok) (d a : BitVec 5) (o : BitVec 9)
  /-- STD (R214). -/
  | std (t : Tok) (d a : BitVec 5) (o : BitVec 9)
  /-- LDQ_B (R216). -/
  | ldqB (t : Tok) (d a : BitVec 5) (o : BitVec 9)
  /-- LDQ_BU (R216). -/
  | ldqBu (t : Tok) (d a : BitVec 5) (o : BitVec 9)
  /-- LDQ_H (R216). -/
  | ldqH (t : Tok) (d a : BitVec 5) (o : BitVec 9)
  /-- LDQ_HU (R216). -/
  | ldqHu (t : Tok) (d a : BitVec 5) (o : BitVec 9)
  /-- LDQ_W (R216). -/
  | ldqW (t : Tok) (d a : BitVec 5) (o : BitVec 9)
  /-- LDQ_WU (R216). -/
  | ldqWu (t : Tok) (d a : BitVec 5) (o : BitVec 9)
  /-- LDQ_D (R216). -/
  | ldqD (t : Tok) (d a : BitVec 5) (o : BitVec 9)
  /-- PREF (R217). -/
  | pref (t : Tok) (a : BitVec 5) (o : BitVec 9)
  /-- CWB (R217). -/
  | cwb (t : Tok) (a : BitVec 5) (o : BitVec 9)
  /-- CINV (R217). -/
  | cinv (t : Tok) (a : BitVec 5) (o : BitVec 9)
  /-- CFLUSH (R217). -/
  | cflush (t : Tok) (a : BitVec 5) (o : BitVec 9)
  /-- ZERO (R217). -/
  | zero (t : Tok) (a : BitVec 5) (o : BitVec 9)
  /-- BLKLD (R218). -/
  | blkld (t : Tok) (d : BitVec 5) (a b : SOp)
  /-- BLKST (R218). -/
  | blkst (t : Tok) (d : BitVec 5) (a b : SOp)
  /-- BLKROW (R218). -/
  | blkrow (t : Tok) (d : BitVec 5) (a b : SOp)
  /-- FENCE (R229). -/
  | fence (t : Tok) (s y : BitVec 5)
  /-- QFENCE (R230). -/
  | qfence (t : Tok) (a : SOp) (s : BitVec 5)
  /-- AMOADD (R238). -/
  | amoadd (t : Tok) (d a b : BitVec 5) (z : BitVec 1) (o : BitVec 2)
  /-- AMOAND (R238). -/
  | amoand (t : Tok) (d a b : BitVec 5) (z : BitVec 1) (o : BitVec 2)
  /-- AMOOR (R238). -/
  | amoor (t : Tok) (d a b : BitVec 5) (z : BitVec 1) (o : BitVec 2)
  /-- AMOXOR (R238). -/
  | amoxor (t : Tok) (d a b : BitVec 5) (z : BitVec 1) (o : BitVec 2)
  /-- AMOMIN (R238). -/
  | amomin (t : Tok) (d a b : BitVec 5) (z : BitVec 1) (o : BitVec 2)
  /-- AMOMAX (R238). -/
  | amomax (t : Tok) (d a b : BitVec 5) (z : BitVec 1) (o : BitVec 2)
  /-- AMOMINU (R238). -/
  | amominu (t : Tok) (d a b : BitVec 5) (z : BitVec 1) (o : BitVec 2)
  /-- AMOMAXU (R238). -/
  | amomaxu (t : Tok) (d a b : BitVec 5) (z : BitVec 1) (o : BitVec 2)
  /-- AMOSWAP (R238). -/
  | amoswap (t : Tok) (d a b : BitVec 5) (z : BitVec 1) (o : BitVec 2)
  /-- AMOFADD (R238). -/
  | amofadd (t : Tok) (d a b : BitVec 5) (o : BitVec 2)
  /-- AMOFMIN (R238). -/
  | amofmin (t : Tok) (d a b : BitVec 5) (o : BitVec 2)
  /-- AMOFMAX (R238). -/
  | amofmax (t : Tok) (d a b : BitVec 5) (o : BitVec 2)
  /-- AMOCAS (R238). -/
  | amocas (t : Tok) (d a b : BitVec 5) (z : BitVec 1) (o : BitVec 2)
  /-- RNGCLAIM (R246). -/
  | rngclaim (t : Tok) (d : BitVec 5) (a : SOp)
  /-- RNGPUB (R246). -/
  | rngpub (t : Tok) (a b : SOp)
  /-- RNGWFILL (R246). -/
  | rngwfill (t : Tok) (d : BitVec 5) (a b : SOp)
  /-- RNGWFREE (R246). -/
  | rngwfree (t : Tok) (d : BitVec 5) (a b : SOp)
  /-- RNGREL (R246). -/
  | rngrel (t : Tok) (a b : SOp)
  /-- RNGSTAT (R246). -/
  | rngstat (t : Tok) (d : BitVec 5) (a : SOp)
  /-- RNGINIT (R245). -/
  | rnginit (t : Tok) (a b : SOp)
  /-- RNGPEEK (R246). -/
  | rngpeek (t : Tok) (d : BitVec 5) (a b : SOp)
  /-- BARARR (R248). -/
  | bararr (t : Tok) (d : BitVec 5) (a : SOp) (l : BitVec 5)
  /-- BARWAIT (R248). -/
  | barwait (t : Tok) (d : BitVec 5) (a : SOp) (l : BitVec 5)
  /-- BARSYNC (R248). -/
  | barsync (t : Tok) (d : BitVec 5) (a : SOp) (l : BitVec 5)
  /-- BARINIT (R248). -/
  | barinit (t : Tok) (a : SOp) (l : BitVec 5)
  /-- RET (R106). -/
  | ret (t : Tok)
  /-- JMPR (R106). -/
  | jmpr (t : Tok) (a : SOp)
  /-- CALLR (R106). -/
  | callr (t : Tok) (a : SOp)
  /-- TRAP (R108). -/
  | trap (t : Tok) (a : SOp)
  /-- BREAK (R108). -/
  | brk (t : Tok)
  /-- B (R104). -/
  | b (t : Tok) (line : BitVec 24) (unit : BitVec 4)
  /-- BEQZ (R104). -/
  | beqz (t : Tok) (a : BitVec 5) (line : BitVec 24) (unit : BitVec 4)
  /-- BNEZ (R104). -/
  | bnez (t : Tok) (a : BitVec 5) (line : BitVec 24) (unit : BitVec 4)
  /-- BLTZ (R104). -/
  | bltz (t : Tok) (a : BitVec 5) (line : BitVec 24) (unit : BitVec 4)
  /-- BGEZ (R104). -/
  | bgez (t : Tok) (a : BitVec 5) (line : BitVec 24) (unit : BitVec 4)
  /-- BGTZ (R104). -/
  | bgtz (t : Tok) (a : BitVec 5) (line : BitVec 24) (unit : BitVec 4)
  /-- BLEZ (R104). -/
  | blez (t : Tok) (a : BitVec 5) (line : BitVec 24) (unit : BitVec 4)
  /-- BLOOP (R104). -/
  | bloop (t : Tok) (a : BitVec 5) (line : BitVec 24) (unit : BitVec 4)
  /-- CALL (R106). -/
  | call (t : Tok) (line : BitVec 24) (unit : BitVec 4)
  /-- PSHI (R274). -/
  | pshi (v : BitVec 11)
  /-- PSHK (R274). -/
  | pshk (n : BitVec 2)
  /-- POPK (R274). -/
  | popk (n : BitVec 2)
  /-- CMP (R274). -/
  | cmp (c : BitVec 3)
  /-- GET (R277). -/
  | get (d : BitVec 3) (s : BitVec 4)
  /-- CLONE (R282). -/
  | clone (d : BitVec 3)
  /-- BRZ (R274). -/
  | brz (t : BitVec 4)
  /-- BRNZ (R274). -/
  | brnz (t : BitVec 4)
  /-- JMP (R274). -/
  | jmp (t : BitVec 4)
  /-- DIRSET (R280). -/
  | dirset (d : BitVec 3)
  /-- DIRMIN (R280). -/
  | dirmin (m : BitVec 6)
  /-- DIRMIN_NA (R280). -/
  | dirminNa (m : BitVec 6)
  /-- PLDW (R274). -/
  | pldw (w : BitVec 4)
  /-- PSTW (R274). -/
  | pstw (w : BitVec 4)
  /-- ENTRY (R274). -/
  | entry (t : BitVec 4)
  /-- DUP (R274). -/
  | dup
  /-- DROPS (R274). -/
  | drops
  /-- SWAP (R274). -/
  | swap
  /-- OVER (R274). -/
  | over
  /-- PRISM_ADD (R274). -/
  | prismAdd
  /-- PRISM_SUB (R274). -/
  | prismSub
  /-- PRISM_AND (R274). -/
  | prismAnd
  /-- PRISM_OR (R274). -/
  | prismOr
  /-- PRISM_XOR (R274). -/
  | prismXor
  /-- PRISM_SHL (R274). -/
  | prismShl
  /-- PRISM_SHR (R274). -/
  | prismShr
  /-- CTRLD (R278). -/
  | ctrld
  /-- CTRADD (R278). -/
  | ctradd
  /-- SWLD (R279). -/
  | swld
  /-- SWADD (R279). -/
  | swadd
  /-- SWCAS (R279). -/
  | swcas
  /-- DIRSET_STACK (R280). -/
  | dirsetStack
  /-- DIRTO (R280). -/
  | dirto
  /-- DIRTO_STACK (R280). -/
  | dirtoStack
  /-- FWD (R281). -/
  | fwd
  /-- DLVR (R283). -/
  | dlvr
  /-- PARK (R284). -/
  | park
  /-- DROP (R284). -/
  | drop
  /-- DROP_N (R284). -/
  | dropN
  /-- VADD (R135). -/
  | vadd (f : FV)
  /-- VSUB (R135). -/
  | vsub (f : FV)
  /-- VMUL (R135). -/
  | vmul (f : FV)
  /-- VFMA (R135). -/
  | vfma (f : FV)
  /-- VFMS (R135). -/
  | vfms (f : FV)
  /-- VMIN (R135). -/
  | vmin (f : FV)
  /-- VMAX (R135). -/
  | vmax (f : FV)
  /-- VABS (R135). -/
  | vabs (f : FV)
  /-- VNEG (R135). -/
  | vneg (f : FV)
  /-- VDIV (R135). -/
  | vdiv (f : FV)
  /-- VSQRT (R135). -/
  | vsqrt (f : FV)
  /-- VCPYS (R135). -/
  | vcpys (f : FV)
  /-- VIADD (R136). -/
  | viadd (f : FV)
  /-- VISUB (R136). -/
  | visub (f : FV)
  /-- VIMUL (R136). -/
  | vimul (f : FV)
  /-- VIMIN (R136). -/
  | vimin (f : FV)
  /-- VIMAX (R136). -/
  | vimax (f : FV)
  /-- VIABS (R136). -/
  | viabs (f : FV)
  /-- VAND (R136). -/
  | vand (f : FV)
  /-- VOR (R136). -/
  | vor (f : FV)
  /-- VXOR (R136). -/
  | vxor (f : FV)
  /-- VNOT (R136). -/
  | vnot (f : FV)
  /-- VSHL (R137). -/
  | vshl (f : FV)
  /-- VSHR (R137). -/
  | vshr (f : FV)
  /-- VSAR (R137). -/
  | vsar (f : FV)
  /-- VROTL (R137). -/
  | vrotl (f : FV)
  /-- VCEQ (R138). -/
  | vceq (f : FV)
  /-- VCNE (R138). -/
  | vcne (f : FV)
  /-- VCLT (R138). -/
  | vclt (f : FV)
  /-- VCLE (R138). -/
  | vcle (f : FV)
  /-- VCLTU (R138). -/
  | vcltu (f : FV)
  /-- VCLEU (R138). -/
  | vcleu (f : FV)
  /-- VFCLASS (R138). -/
  | vfclass (f : FV)
  /-- VSEL (R138). -/
  | vsel (f : FV)
  /-- VMAND (R138). -/
  | vmand (f : FV)
  /-- VMOR (R138). -/
  | vmor (f : FV)
  /-- VMCNT (R138). -/
  | vmcnt (f : FV)
  /-- VEXP2 (R139). -/
  | vexp2 (f : FV)
  /-- VLOG2 (R139). -/
  | vlog2 (f : FV)
  /-- VRCP (R139). -/
  | vrcp (f : FV)
  /-- VRSQRT (R139). -/
  | vrsqrt (f : FV)
  /-- VTANH (R139). -/
  | vtanh (f : FV)
  /-- VERF (R139). -/
  | verf (f : FV)
  /-- VREDADD (R140). -/
  | vredadd (f : FV)
  /-- VREDMAX (R140). -/
  | vredmax (f : FV)
  /-- VREDMIN (R140). -/
  | vredmin (f : FV)
  /-- VSCAN (R141). -/
  | vscan (f : FV)
  /-- VSHUF (R142). -/
  | vshuf (f : FV)
  /-- VBCAST (R142). -/
  | vbcast (f : FV)
  /-- VEXTR (R142). -/
  | vextr (f : FV)
  /-- VIOTA (R142). -/
  | viota (f : FV)
  /-- VCVT (R143). -/
  | vcvt (f : FV)
  /-- VPACK (R143). -/
  | vpack (f : FV)
  /-- VUNPK (R143). -/
  | vunpk (f : FV)
  /-- VSCALE (R143). -/
  | vscale (f : FV)
  /-- VRND (R143). -/
  | vrnd (f : FV)
  /-- VLD (R144). -/
  | vld (f : FV)
  /-- VST (R144). -/
  | vst (f : FV)
  /-- VLDS (R144). -/
  | vlds (f : FV)
  /-- VSTS (R144). -/
  | vsts (f : FV)
  /-- VGATH (R144). -/
  | vgath (f : FV)
  /-- VSCAT (R144). -/
  | vscat (f : FV)
  /-- VSETT (R147). -/
  | vsett (f : FV)
  /-- VMOV (R147). -/
  | vmov (f : FV)
  /-- VMSET (R147). -/
  | vmset (f : FV)
  /-- VMGET (R147). -/
  | vmget (f : FV)
  /-- MSETN (R180). -/
  | msetn (f : FE)
  /-- MSETS (R180). -/
  | msets (f : FE)
  /-- MSETA (R180). -/
  | mseta (f : FE)
  /-- MCLRS (R180). -/
  | mclrs (f : FE)
  /-- MGO (R181). -/
  | mgo (f : FE)
  /-- MWAIT (R182). -/
  | mwait (f : FE)
  /-- MSTAT (R183). -/
  | mstat (f : FE)
  /-- MABORT (R184). -/
  | mabort (f : FE)
  /-- ACOPY (R185). -/
  | acopy (f : FE)
  /-- ACLR (R185). -/
  | aclr (f : FE)
  /-- ADLOAD (R186). -/
  | adload (f : FE)
  /-- ADINV (R186). -/
  | adinv (f : FE)
  /-- COPY (R255). -/
  | copy (f : FE)
  /-- COPYI (R263). -/
  | copyi (f : FE)
  /-- CPWAIT (R263). -/
  | cpwait (f : FE)
  /-- CPSTAT (R263). -/
  | cpstat (f : FE)
  /-- PBUILD (R292). -/
  | pbuild (f : FE)
  /-- PSEND (R293). -/
  | psend (f : FE)
  /-- PCTRW (R295). -/
  | pctrw (f : FE)
  /-- PCTRR (R295). -/
  | pctrr (f : FE)
  /-- PCTRS (R295). -/
  | pctrs (f : FE)
  /-- PCTRA (R295). -/
  | pctra (f : FE)
  /-- PPARKGET (R297). -/
  | pparkget (f : FE)
  /-- PRESUME (R298). -/
  | presume (f : FE)
  /-- EPOPEN (R303). -/
  | epopen (f : FE)
  /-- EPCLOSE (R303). -/
  | epclose (f : FE)
  /-- MSEND (R305). -/
  | msend (f : FE)
  /-- MRECV (R305). -/
  | mrecv (f : FE)
  /-- MWRITE (R306). -/
  | mwrite (f : FE)
  /-- MREAD (R306). -/
  | mread (f : FE)
  /-- TSEND (R310). -/
  | tsend (f : FE)
  /-- TWRITE (R310). -/
  | twrite (f : FE)
  /-- TDISARM (R311). -/
  | tdisarm (f : FE)
  /-- MPOLL (R312). -/
  | mpoll (f : FE)
  /-- LEASE (R335). -/
  | lease (f : FE)
  /-- LREL (R336). -/
  | lrel (f : FE)
  /-- LQRY (R337). -/
  | lqry (f : FE)
  /-- LWAIT (R338). -/
  | lwait (f : FE)
  /-- SHUTW (R339). -/
  | shutw (f : FE)
  /-- SHUTGO (R340). -/
  | shutgo (f : FE)
  /-- COMMDEF (R361). -/
  | commdef (f : FE)
  /-- CTSET (R362). -/
  | ctset (f : FE)
  /-- CTREADY (R363). -/
  | ctready (f : FE)
  /-- CTWAIT (R364). -/
  | ctwait (f : FE)
  /-- CTDROP (R364). -/
  | ctdrop (f : FE)
  /-- SPAWN (R393). -/
  | spawn (f : FE)
  /-- MERGE (R394). -/
  | merge (f : FE)
  /-- TEND (R394). -/
  | tend (f : FE)
  /-- TWAIT (R395). -/
  | twait (f : FE)
  /-- SUCCADD (R395). -/
  | succadd (f : FE)
  /-- CANCEL (R396). -/
  | cancel (f : FE)
  /-- YIELD (R397). -/
  | yield (f : FE)
  /-- TSELF (R398). -/
  | tself (f : FE)
  /-- GANGJOIN (R399). -/
  | gangjoin (f : FE)
  /-- TRET (R424). -/
  | tret (f : FE)
  /-- CTXSAVE (R425). -/
  | ctxsave (f : FE)
  /-- CTXLOAD (R426). -/
  | ctxload (f : FE)
  /-- TLBINV (R427). -/
  | tlbinv (f : FE)
  /-- ATTN (R428). -/
  | attn (f : FE)
  /-- TNSET (R429). -/
  | tnset (f : FE)
  /-- BUDSET (R430). -/
  | budset (f : FE)
  /-- THERMRD (R431). -/
  | thermrd (f : FE)
  /-- RETAIN (R433). -/
  | retain (f : FE)
  /-- WAKE (R433). -/
  | wake (f : FE)
  /-- BOOT (R448). -/
  | boot (n : Nat)
  /-- NODELOST (R450). -/
  | nodelost (n lost : Nat)
  /-- SHUTCLR (R452). -/
  | shutclr (n : Nat)
  /-- ATTREQ (R455). -/
  | attreq (n : Nat)
  /-- CORECTL_RESUME (R453). -/
  | corectlResume (n c : Nat)
  /-- CORECTL_END (R453). -/
  | corectlEnd (n c code : Nat)
  /-- CORECTL_REQUEUE (R453). -/
  | corectlRequeue (n c : Nat)
  /-- CORECTL_RERUN (R453). -/
  | corectlRerun (n c : Nat)
  /-- CORECTL_CANCEL (R453). -/
  | corectlCancel (n c : Nat)
  /-- CORECTL_SAVEQ (R453). -/
  | corectlSaveq (n c : Nat)
  /-- LAUNCH (R370). -/
  | launch (n q : Nat) (va : Word)
  /-- TENANT_CONFIG_WRITE (R451). -/
  | tenantConfigWrite (n t w : Nat) (v : Word)
  /-- REGISTER_WRITE (R445). -/
  | registerWrite (n off size : Nat) (v : Word)
  /-- HOST_MEMORY_ACCESS (R444). -/
  | hostMemoryAccess (n pa : Nat) (store : Bool) (bytes : List Byte)
  /-- UNCORRECTABLE_ERROR (R209), or a bit error that the code corrects (R37): what it strikes, of which core or quad, and
  where: an address, an offset, a row or a place. -/
  | uncorrectableError (n : Nat) (site : ErrSite) (owner place : Nat) (corrected : Bool)
  /-- LINK_FAILURE (R319). -/
  | linkFailure (n dir : Nat) (waves : BitVec 640)
  /-- UCIE_MODULE_LOSS (R444). -/
  | ucieModuleLoss (n k : Nat)
  deriving DecidableEq, Repr, Inhabited

end Sys2Proof
end

