-- ==== Sys2Proof/WellFormed.lean ====
section
/-! DEFINITION. Which terms an encoding can stand for: the reserved, unused and out-of-range fields of R49 to R65 and
R134, and the ranges of node and core numbers in events. -/

namespace Sys2Proof

/-- A scalar source operand: the short literal −16 is the marker of an extended one (R53). -/
def SOp.ok : SOp → Bool
  | .lit v => v != 16
  | _ => true

/-- An operand that claims the extended unit (R55). -/
def SOp.isExt : SOp → Bool
  | .ext _ => true
  | _ => false

/-- Two scalar operands: each well formed, not both extended (R55). -/
def okTwo (a b : SOp) : Bool := a.ok && b.ok && !(a.isExt && b.isExt)

/-- A vector source operand (R53): v0 to v63, a relay entry, s0 to s31, a bank entry or a literal. -/
def VOp.ok : VOp → Bool
  | .vec n => n.toNat < 96
  | .reg f => f.toNat < 32
  | .bank _ => true
  | .lit v => v != 64
  | .ext _ => true

/-- An operand that claims the extended unit (R55). -/
def VOp.isExt : VOp → Bool
  | .ext _ => true
  | _ => false

/-- What a vector function asks of a source operand (R126, R134, R142 to R144). -/
inductive ARole where
  | none | any | vec | scalar | mask | quarter | half
  deriving DecidableEq, Repr

/-- Whether an operand fits its role. -/
def VOp.fits (o : VOp) : ARole → Bool
  | .none => o == .vec 0
  | .any => o.ok
  | .vec => match o with | .vec n => n.toNat < 96 | _ => false
  | .scalar => match o with | .vec _ => false | _ => o.ok
  | .mask => match o with | .lit v => v.toNat < 8 | _ => false
  | .quarter => match o with | .vec n => n == 0 | .lit v => v.toNat < 4 | _ => false
  | .half => match o with | .lit v => v.toNat < 2 | _ => false

/-- The kind of destination (R57, R134, R144). -/
inductive DRole where
  | vec | mask | scalar | load | none
  deriving DecidableEq, Repr

/-- Whether VD fits its role. -/
def okVd (vd : BitVec 7) : DRole → Bool
  | .vec => vd.toNat < 64 || vd == 127
  | .mask => (0 < vd.toNat && vd.toNat < 8) || vd == 127
  | .scalar => vd.toNat < 32
  | .load => vd.toNat < 64
  | .none => vd == 127

/-- The element types a function accepts: a float type, an integer type, all, or VT 0 alone. -/
inductive TRole where
  | float | int | all | zero
  deriving DecidableEq, Repr

/-- What AUX may hold. -/
inductive XRole where
  | zero | uns | satUns | unsInt | byteHi | source | group
  deriving DecidableEq, Repr

/-- What SAT may hold: float rounding only, integer saturation too, or zero. -/
inductive SRole where
  | any | intSat | no
  deriving DecidableEq, Repr

/-- The field rules of one vector function. -/
structure VShape where
  d   : DRole
  a   : ARole
  b   : ARole
  c   : ARole
  ty  : TRole
  aux : XRole
  mk_ : Bool
  sat : SRole
  rm  : Bool
  deriving DecidableEq, Repr

/-- A type code 4 to 6 is an integer type (R122). -/
def isIntTy (t : Nat) : Bool := t == 4 || t == 5 || t == 6

/-- The width in bytes of a type (R122). -/
def tyWidth (t : Nat) : Nat := if t == 1 || t == 4 then 4 else if t == 6 || t == 7 then 1 else 2

/-- The checks that need no type (R57, R58, R65, R134). -/
def FV.okFields (f : FV) (h : VShape) : Bool :=
  okVd f.vd h.d && f.a.fits h.a && f.b.fits h.b && f.c.fits h.c
  && !(f.a.isExt && f.b.isExt) && !(f.a.isExt && f.c.isExt) && !(f.b.isExt && f.c.isExt)
  && decide (f.rm.toNat < 6) && (h.rm || f.rm == 0) && (h.mk_ || f.msk == 0) && (h.ty != .zero || f.vt == 0)
  && (h.sat != .no || !f.sat)
  && match h.aux with
     | .zero => f.aux == 0
     | .uns | .unsInt | .byteHi => decide (f.aux.toNat < 2)
     | .satUns => decide (f.aux.toNat < 2) && (f.sat || f.aux == 0)
     | .source => true
     | .group => decide (f.aux.toNat < 4)

/-- The checks on the type T alone (R134, R136, R142, R144): made at decode for VT 1 to 7 and at issue for VT 0. -/
def FV.okType (f : FV) (h : VShape) (t : Nat) : Bool :=
  (match h.ty with
   | .float => !isIntTy t
   | .int => isIntTy t
   | _ => true)
  && (h.aux == .source || !isIntTy t || f.rm == 0)
  && (h.aux == .source || !isIntTy t || h.sat == .intSat || !f.sat)
  && (match h.aux with
      | .unsInt => isIntTy t || f.aux == 0
      | .byteHi => tyWidth t == 1 || f.aux == 0
      | .group => decide (128 * f.aux.toNat < 512 / tyWidth t)
      | _ => true)

/-- The quarter of VCVT: operand C of kind 0b11, or 0 (R143). -/
def VOp.imm : VOp → Nat
  | .lit v => v.toNat
  | _ => 0

/-- The checks of a conversion on T and its source type S (R134, R143): widths, quarter, rounding mode, AUX[3]. -/
def FV.okConv (f : FV) (h : VShape) (t src : Nat) : Bool :=
  h.aux != .source ||
  ((isIntTy src || !f.aux.getLsbD 3)
   && (!isIntTy t || !isIntTy src || f.rm == 0)
   && (match h.b, h.c with
       | .none, .quarter =>
          let wd := tyWidth t; let ws := tyWidth src
          decide (f.c.imm < max (wd / ws) (max (ws / wd) 1))
       | .half, _ => tyWidth t == 2 * tyWidth src
       | _, _ => tyWidth src == 2 * tyWidth t))

/-- The decode checks of one vector instruction (R134: the types named by VT and AUX; type 0 is checked at issue). -/
def FV.ok (f : FV) (h : VShape) : Bool :=
  f.okFields h
  && (h.ty == .zero || f.vt == 0 || f.okType h f.vt.toNat)
  && (h.ty == .zero || h.aux != .source || f.vt == 0 || f.aux.toNat % 8 == 0 || f.okConv h f.vt.toNat (f.aux.toNat % 8))

/-- An F-E instruction whose table marks some of D, A and B as 0 (R57, R63). -/
def FE.ok (f : FE) (d a b : Bool) : Bool := (d || f.d == 0) && (a || f.a == 0) && (b || f.b == 0)

/-- The special-register numbers of R118 and R404. -/
def okSreg (i : BitVec 12) : Bool :=
  let k := i.toNat
  k ≤ 0x00C || (0x010 ≤ k && k ≤ 0x026) || k == 0x030 || k == 0x031 || k == 0x040

/-- A node ID (R25). -/
def okNode (n : Nat) : Bool := n < 4096
/-- A node ID and a core index (R17). -/
def okCore (n c : Nat) : Bool := n < 4096 && c < 256
/-- A place that a bit error may strike. -/
def okSite : ErrSite → Nat → Nat → Bool
  | .home _, _, _ => true
  | .l1 _, c, _ => decide (c < 256)
  | .spad, c, off => decide (c < 256) && decide (off < 2 ^ 19)
  | .acc, c, row => decide (c < 256) && decide (row < 512)
  | .lens, q, k => decide (q < 64) && decide (k < 64)
/-- A branch target's unit (R50). -/
def okUnit (u : BitVec 4) : Bool := u != 15

/-- Field rules of VADD VSUB VMUL VMIN VMAX VDIV VCPYS VSCALE. -/
def VShape.float2 : VShape :=
  ⟨.vec, .any, .any, .none, .float, .zero, true, .any, true⟩

/-- Field rules of VFMA VFMS. -/
def VShape.float3 : VShape :=
  ⟨.vec, .any, .any, .any, .float, .zero, true, .any, true⟩

/-- Field rules of VABS VNEG VSQRT VFCLASS VEXP2 VLOG2 VRCP VRSQRT VTANH VERF VRND. -/
def VShape.float1 : VShape :=
  ⟨.vec, .any, .none, .none, .float, .zero, true, .any, true⟩

/-- Field rules of VIADD VISUB VIMUL. -/
def VShape.intSat2 : VShape :=
  ⟨.vec, .any, .any, .none, .int, .satUns, true, .intSat, true⟩

/-- Field rules of VIMIN VIMAX. -/
def VShape.intUns2 : VShape :=
  ⟨.vec, .any, .any, .none, .int, .uns, true, .no, true⟩

/-- Field rules of VIABS. -/
def VShape.intSat1 : VShape :=
  ⟨.vec, .any, .none, .none, .int, .zero, true, .intSat, true⟩

/-- Field rules of VAND VOR VXOR. -/
def VShape.bits2 : VShape :=
  ⟨.vec, .any, .any, .none, .all, .zero, true, .no, true⟩

/-- Field rules of VNOT. -/
def VShape.bits1 : VShape :=
  ⟨.vec, .any, .none, .none, .all, .zero, true, .no, true⟩

/-- Field rules of VSHL VSHR VSAR VROTL. -/
def VShape.shift2 : VShape :=
  ⟨.vec, .any, .any, .none, .int, .zero, true, .no, true⟩

/-- Field rules of VCEQ VCNE VCLT VCLE. -/
def VShape.cmpAll : VShape :=
  ⟨.mask, .any, .any, .none, .all, .zero, true, .any, true⟩

/-- Field rules of VCLTU VCLEU. -/
def VShape.cmpInt : VShape :=
  ⟨.mask, .any, .any, .none, .int, .zero, true, .any, true⟩

/-- Field rules of VSEL. -/
def VShape.sel : VShape :=
  ⟨.vec, .any, .any, .none, .all, .zero, true, .any, true⟩

/-- Field rules of VMAND VMOR. -/
def VShape.maskLogic : VShape :=
  ⟨.mask, .mask, .mask, .none, .zero, .uns, true, .no, false⟩

/-- Field rules of VMCNT. -/
def VShape.maskCount : VShape :=
  ⟨.scalar, .mask, .none, .none, .all, .zero, true, .no, false⟩

/-- Field rules of VREDADD VSCAN. -/
def VShape.redAdd : VShape :=
  ⟨.vec, .any, .none, .none, .all, .zero, true, .intSat, true⟩

/-- Field rules of VREDMAX VREDMIN. -/
def VShape.redCmp : VShape :=
  ⟨.vec, .any, .none, .none, .all, .unsInt, true, .any, true⟩

/-- Field rules of VSHUF. -/
def VShape.shuf : VShape :=
  ⟨.vec, .any, .vec, .none, .all, .byteHi, true, .any, true⟩

/-- Field rules of VBCAST. -/
def VShape.bcast : VShape :=
  ⟨.vec, .any, .scalar, .none, .all, .zero, true, .any, true⟩

/-- Field rules of VEXTR. -/
def VShape.extr : VShape :=
  ⟨.scalar, .any, .scalar, .none, .all, .unsInt, false, .any, true⟩

/-- Field rules of VIOTA. -/
def VShape.iota : VShape :=
  ⟨.vec, .scalar, .none, .none, .all, .zero, true, .intSat, true⟩

/-- Field rules of VCVT. -/
def VShape.cvt : VShape :=
  ⟨.vec, .any, .none, .quarter, .all, .source, true, .any, true⟩

/-- Field rules of VPACK. -/
def VShape.pack : VShape :=
  ⟨.vec, .any, .any, .none, .all, .source, true, .any, true⟩

/-- Field rules of VUNPK. -/
def VShape.unpk : VShape :=
  ⟨.vec, .any, .half, .none, .all, .source, true, .any, true⟩

/-- Field rules of VLD VLDS. -/
def VShape.load : VShape :=
  ⟨.load, .scalar, .scalar, .none, .all, .zero, true, .no, false⟩

/-- Field rules of VST VSTS. -/
def VShape.store : VShape :=
  ⟨.none, .scalar, .scalar, .any, .all, .zero, true, .any, true⟩

/-- Field rules of VGATH. -/
def VShape.gath : VShape :=
  ⟨.load, .scalar, .vec, .none, .all, .group, true, .no, false⟩

/-- Field rules of VSCAT. -/
def VShape.scat : VShape :=
  ⟨.none, .scalar, .vec, .any, .all, .group, true, .any, true⟩

/-- Field rules of VSETT. -/
def VShape.sett : VShape :=
  ⟨.none, .scalar, .none, .none, .zero, .zero, false, .no, false⟩

/-- Field rules of VMOV. -/
def VShape.mov : VShape :=
  ⟨.vec, .any, .none, .none, .all, .zero, true, .any, true⟩

/-- Field rules of VMSET. -/
def VShape.mset : VShape :=
  ⟨.mask, .any, .none, .none, .all, .zero, true, .any, true⟩

/-- Field rules of VMGET. -/
def VShape.mget : VShape :=
  ⟨.vec, .mask, .none, .none, .all, .zero, true, .no, false⟩

/-- Whether a term is one that an encoding, or an agent of the machine, can stand for. -/
def wellFormed : Instr → Bool
  | .moduleReset => true
  | .boot n => okNode n
  | .romCheck n => okNode n
  | .bringup n => okNode n
  | .start n => okNode n
  | .nodelost n _ => okNode n
  | .shutclr n => okNode n
  | .attreq n => okNode n
  | .attestationReport n => okNode n
  | .corectlResume n c => okCore n c
  | .corectlEnd n c _ => okCore n c
  | .corectlRequeue n c => okCore n c
  | .corectlRerun n c => okCore n c
  | .corectlCancel n c => okCore n c
  | .corectlSaveq n c => okCore n c
  | .launch n _ _ => okNode n
  | .tenantConfigWrite n _ _ _ => okNode n
  | .registerWrite n _ _ _ => okNode n
  | .hostMemoryAccess n _ _ _ => okNode n
  | .frameBoundary n => okNode n
  | .retentionEntryDone n _ => okNode n
  | .retentionExitDone n _ => okNode n
  | .budgetExhausted n _ _ => okNode n
  | .uncorrectableError n site owner place _ => okNode n && okSite site owner place
  | .linkFailure n _ _ => okNode n
  | .flitReceive n _ => okNode n
  | .moreRequest n _ _ _ => okNode n
  | .alignFlit n _ _ _ => okNode n
  | .ackReceive n _ _ _ => okNode n
  | .progArrival n _ _ _ => okNode n
  | .progHop n _ => okNode n
  | .dataDelivery n _ _ => okNode n
  | .deliveryReserve n _ => okNode n
  | .deliveryCountAdvance n _ => okNode n
  | .deliveryTimeout n _ => okNode n
  | .notice n _ _ _ => okNode n
  | .cancelToken n _ _ => okNode n
  | .windowAccess n _ => okNode n
  | .windowReply n _ => okNode n
  | .deferredFault n c => okCore n c
  | .windowPeergone n c _ => okCore n c
  | .packetInjection n c => okCore n c
  | .messageInjection n c => okCore n c
  | .messageArrival n _ => okNode n
  | .remoteWriteArrival n _ => okNode n
  | .remoteReadRequest n _ => okNode n
  | .readReplyArrival n _ => okNode n
  | .receiverNotReady n _ _ _ => okNode n
  | .messageRetry n _ => okNode n
  | .messageAck n _ _ => okNode n
  | .messageRefused n _ _ _ => okNode n
  | .messagePeergone n _ _ => okNode n
  | .endpointFetch n _ => okNode n
  | .firedEnqueue n c => okCore n c
  | .leaseCtlArrival n _ => okNode n
  | .shutterRotationStart n => okNode n
  | .shutterSlot n => okNode n
  | .parkgetRequest n _ _ _ => okNode n
  | .pparkgetPeergone n c => okCore n c
  | .remoteTlbinv n _ _ _ _ _ => okNode n
  | .tlbinvPeergone n c => okCore n c
  | .collectiveStart n _ => okNode n
  | .chunkReserve n _ => okNode n
  | .chunkGrant n _ _ _ _ => okNode n
  | .chunkArrival n _ => okNode n
  | .chunkSweep n _ _ => okNode n
  | .collEntryDone n _ => okNode n
  | .collectiveAbort n _ => okNode n
  | .collectivePeergone n _ => okNode n
  | .copyEntryBegin n c => okCore n c
  | .copyPiece n c => okCore n c
  | .copyEntryComplete n c => okCore n c
  | .reductionStart n c => okCore n c
  | .kStep n c => okCore n c
  | .lensFill n c => okCore n c
  | .replay n c => okCore n c
  | .reductionRetire n c => okCore n c
  | .accumulatorOpDone n c => okCore n c
  | .vectorResultLanding n c => okCore n c
  | .scalarResultWrite n c => okCore n c
  | .loadDataReturn n c _ => okCore n c
  | .ldqFill n c _ => okCore n c
  | .blkRetire n c _ => okCore n c
  | .atomicPerform n c _ => okCore n c
  | .atomicReturn n c _ => okCore n c
  | .trapCut n c _ => okCore n c
  | .landingBufferLand n c => okCore n c
  | .preemptionCut n c => okCore n c
  | .contextSave n c => okCore n c
  | .taskPlacement n c => okCore n c
  | .steal n _ => okNode n
  | .preload n c => okCore n c
  | .taskRetire n c => okCore n c
  | .mergeStep n _ => okNode n
  | .barrierComplete n _ _ _ => okNode n
  | .nop _ => true
  | .sqstop _ => true
  | .sqwait _ a => a.ok
  | .sqsig _ a => a.ok
  | .rdstep _ _ => true
  | .rdcyc _ _ => true
  | .waitstep _ a => a.ok
  | .sqid _ _ => true
  | .add _ _ a b => okTwo a b
  | .sub _ _ a b => okTwo a b
  | .and _ _ a b => okTwo a b
  | .or _ _ a b => okTwo a b
  | .xor _ _ a b => okTwo a b
  | .andn _ _ a b => okTwo a b
  | .min _ _ a b => okTwo a b
  | .max _ _ a b => okTwo a b
  | .minu _ _ a b => okTwo a b
  | .maxu _ _ a b => okTwo a b
  | .shl _ _ a b => okTwo a b
  | .shr _ _ a b => okTwo a b
  | .sar _ _ a b => okTwo a b
  | .rotl _ _ a b => okTwo a b
  | .clz _ _ a => a.ok
  | .popc _ _ a => a.ok
  | .mul _ _ a b => okTwo a b
  | .mulh _ _ a b => okTwo a b
  | .mulhu _ _ a b => okTwo a b
  | .div _ _ a b => okTwo a b
  | .divu _ _ a b => okTwo a b
  | .rem _ _ a b => okTwo a b
  | .remu _ _ a b => okTwo a b
  | .addw _ _ a b => okTwo a b
  | .ceq _ _ a b => okTwo a b
  | .cne _ _ a b => okTwo a b
  | .clt _ _ a b => okTwo a b
  | .cltu _ _ a b => okTwo a b
  | .cle _ _ a b => okTwo a b
  | .cleu _ _ a b => okTwo a b
  | .csel _ _ a b => okTwo a b
  | .mov _ _ a => a.ok
  | .adds1 _ _ a b => okTwo a b
  | .adds2 _ _ a b => okTwo a b
  | .adds3 _ _ a b => okTwo a b
  | .adds4 _ _ a b => okTwo a b
  | .sextb _ _ a => a.ok
  | .sexth _ _ a => a.ok
  | .sextw _ _ a => a.ok
  | .zextw _ _ a => a.ok
  | .addi _ _ _ _ => true
  | .andi _ _ _ _ => true
  | .ori _ _ _ _ => true
  | .xori _ _ _ _ => true
  | .shli _ _ _ _ => true
  | .shri _ _ _ _ => true
  | .sari _ _ _ _ => true
  | .rotli _ _ _ _ => true
  | .li _ _ _ => true
  | .qput _ a b => a.ok && decide (b.toNat < 8)
  | .qget _ _ b => decide (b.toNat < 8)
  | .qpeek _ _ b => decide (b.toNat < 8)
  | .qcnt _ _ b => decide (b.toNat < 8)
  | .tokgive _ a b => a.ok && decide (0 < b.toNat && b.toNat < 4)
  | .toktake _ a b => a.ok && decide (0 < b.toNat && b.toNat < 4)
  | .tokcntIn _ _ b => decide (0 < b.toNat && b.toNat < 4)
  | .tokcntOut _ _ b => decide (0 < b.toNat && b.toNat < 4)
  | .mfsr _ _ i => okSreg i
  | .mtsr _ _ i => okSreg i
  | .cbld _ _ _ _ => true
  | .ldb _ _ _ _ => true
  | .ldbu _ _ _ _ => true
  | .ldh _ _ _ _ => true
  | .ldhu _ _ _ _ => true
  | .ldw _ _ _ _ => true
  | .ldwu _ _ _ _ => true
  | .ldd _ _ _ _ => true
  | .stb _ _ _ _ => true
  | .sth _ _ _ _ => true
  | .stw _ _ _ _ => true
  | .std _ _ _ _ => true
  | .ldqB _ d _ _ => decide (d.toNat < 8)
  | .ldqBu _ d _ _ => decide (d.toNat < 8)
  | .ldqH _ d _ _ => decide (d.toNat < 8)
  | .ldqHu _ d _ _ => decide (d.toNat < 8)
  | .ldqW _ d _ _ => decide (d.toNat < 8)
  | .ldqWu _ d _ _ => decide (d.toNat < 8)
  | .ldqD _ d _ _ => decide (d.toNat < 8)
  | .pref _ _ _ => true
  | .cwb _ _ _ => true
  | .cinv _ _ _ => true
  | .cflush _ _ _ => true
  | .zero _ _ _ => true
  | .blkld _ _ a b => okTwo a b
  | .blkst _ _ a b => okTwo a b
  | .blkrow _ _ a b => okTwo a b
  | .fence _ s y => decide (s.toNat < 6) && decide (0 < y.toNat && y.toNat < 4)
  | .qfence _ a s => a.ok && decide (s.toNat < 6)
  | .amoadd _ _ _ _ _ _ => true
  | .amoand _ _ _ _ _ _ => true
  | .amoor _ _ _ _ _ _ => true
  | .amoxor _ _ _ _ _ _ => true
  | .amomin _ _ _ _ _ _ => true
  | .amomax _ _ _ _ _ _ => true
  | .amominu _ _ _ _ _ _ => true
  | .amomaxu _ _ _ _ _ _ => true
  | .amoswap _ _ _ _ _ _ => true
  | .amofadd _ _ _ _ _ => true
  | .amofmin _ _ _ _ _ => true
  | .amofmax _ _ _ _ _ => true
  | .amocas _ _ _ _ _ _ => true
  | .rngclaim _ _ a => a.ok
  | .rngpub _ a b => okTwo a b
  | .rngwfill _ _ a b => okTwo a b
  | .rngwfree _ _ a b => okTwo a b
  | .rngrel _ a b => okTwo a b
  | .rngstat _ _ a => a.ok
  | .rnginit _ a b => okTwo a b
  | .rngpeek _ _ a b => okTwo a b
  | .bararr _ _ a l => a.ok && decide (l.toNat < 5)
  | .barwait _ _ a l => a.ok && decide (l.toNat < 5)
  | .barsync _ _ a l => a.ok && decide (l.toNat < 5)
  | .barinit _ a l => a.ok && decide (l.toNat < 5)
  | .ret _ => true
  | .jmpr _ a => a.ok
  | .callr _ a => a.ok
  | .trap _ a => a.ok
  | .brk _ => true
  | .b _ _ unit => okUnit unit
  | .beqz _ _ _ unit => okUnit unit
  | .bnez _ _ _ unit => okUnit unit
  | .bltz _ _ _ unit => okUnit unit
  | .bgez _ _ _ unit => okUnit unit
  | .bgtz _ _ _ unit => okUnit unit
  | .blez _ _ _ unit => okUnit unit
  | .bloop _ a _ unit => okUnit unit && a != 0
  | .call _ _ unit => okUnit unit
  | .vadd f => f.ok .float2
  | .vsub f => f.ok .float2
  | .vmul f => f.ok .float2
  | .vfma f => f.ok .float3
  | .vfms f => f.ok .float3
  | .vmin f => f.ok .float2
  | .vmax f => f.ok .float2
  | .vabs f => f.ok .float1
  | .vneg f => f.ok .float1
  | .vdiv f => f.ok .float2
  | .vsqrt f => f.ok .float1
  | .vcpys f => f.ok .float2
  | .viadd f => f.ok .intSat2
  | .visub f => f.ok .intSat2
  | .vimul f => f.ok .intSat2
  | .vimin f => f.ok .intUns2
  | .vimax f => f.ok .intUns2
  | .viabs f => f.ok .intSat1
  | .vand f => f.ok .bits2
  | .vor f => f.ok .bits2
  | .vxor f => f.ok .bits2
  | .vnot f => f.ok .bits1
  | .vshl f => f.ok .shift2
  | .vshr f => f.ok .shift2
  | .vsar f => f.ok .shift2
  | .vrotl f => f.ok .shift2
  | .vceq f => f.ok .cmpAll
  | .vcne f => f.ok .cmpAll
  | .vclt f => f.ok .cmpAll
  | .vcle f => f.ok .cmpAll
  | .vcltu f => f.ok .cmpInt
  | .vcleu f => f.ok .cmpInt
  | .vfclass f => f.ok .float1
  | .vsel f => f.ok .sel
  | .vmand f => f.ok .maskLogic
  | .vmor f => f.ok .maskLogic
  | .vmcnt f => f.ok .maskCount
  | .vexp2 f => f.ok .float1
  | .vlog2 f => f.ok .float1
  | .vrcp f => f.ok .float1
  | .vrsqrt f => f.ok .float1
  | .vtanh f => f.ok .float1
  | .verf f => f.ok .float1
  | .vredadd f => f.ok .redAdd
  | .vredmax f => f.ok .redCmp
  | .vredmin f => f.ok .redCmp
  | .vscan f => f.ok .redAdd
  | .vshuf f => f.ok .shuf
  | .vbcast f => f.ok .bcast
  | .vextr f => f.ok .extr
  | .viota f => f.ok .iota
  | .vcvt f => f.ok .cvt
  | .vpack f => f.ok .pack
  | .vunpk f => f.ok .unpk
  | .vscale f => f.ok .float2
  | .vrnd f => f.ok .float1
  | .vld f => f.ok .load
  | .vst f => f.ok .store
  | .vlds f => f.ok .load
  | .vsts f => f.ok .store
  | .vgath f => f.ok .gath
  | .vscat f => f.ok .scat
  | .vsett f => f.ok .sett
  | .vmov f => f.ok .mov
  | .vmset f => f.ok .mset
  | .vmget f => f.ok .mget
  | .msetn f => f.ok false true true
  | .msets f => f.ok false true true
  | .mseta f => f.ok false true true
  | .mclrs f => f.ok false false false
  | .mgo f => f.ok false true false
  | .mwait f => f.ok true true false
  | .mstat f => f.ok true true false
  | .mabort f => f.ok false false false
  | .acopy f => f.ok false true true
  | .aclr f => f.ok false true true
  | .adload f => f.ok false true true
  | .adinv f => f.ok false true false
  | .copy f => f.ok true true false
  | .copyi f => f.ok true true true
  | .cpwait f => f.ok true true false
  | .cpstat f => f.ok true true false
  | .pbuild f => f.ok true true true
  | .psend f => f.ok true true false
  | .pctrw f => f.ok true true true
  | .pctrr f => f.ok true true false
  | .pctrs f => f.ok false true true
  | .pctra f => f.ok true true true
  | .pparkget f => f.ok true true true
  | .presume f => f.ok true true true
  | .epopen f => f.ok false true true
  | .epclose f => f.ok false true false
  | .msend f => f.ok true true true
  | .mrecv f => f.ok true true true
  | .mwrite f => f.ok true true true
  | .mread f => f.ok true true true
  | .tsend f => f.ok true true true
  | .twrite f => f.ok true true true
  | .tdisarm f => f.ok true true false
  | .mpoll f => f.ok true true false
  | .lease f => f.ok true true false
  | .lrel f => f.ok false true true
  | .lqry f => f.ok true true true
  | .lwait f => f.ok true true false
  | .shutw f => f.ok false true true
  | .shutgo f => f.ok true true true
  | .commdef f => f.ok true true true
  | .ctset f => f.ok false true true
  | .ctready f => f.ok false true false
  | .ctwait f => f.ok true true false
  | .ctdrop f => f.ok true true false
  | .spawn f => f.ok true true false
  | .merge f => f.ok false false false && f.sig == 0
  | .tend f => f.ok false false false && f.sig == 0
  | .twait f => f.ok true false false
  | .succadd f => f.ok false true false
  | .cancel f => f.ok false true true
  | .yield f => f.ok false false false
  | .tself f => f.ok true true false
  | .gangjoin f => f.ok true true true
  | .tret f => f.ok false true true
  | .ctxsave f => f.ok true true true
  | .ctxload f => f.ok false true false
  | .tlbinv f => f.ok false true true
  | .attn f => f.ok false true true
  | .tnset f => f.ok true true true
  | .budset f => f.ok true true true
  | .thermrd f => f.ok true true false
  | .retain f => f.ok true true true
  | .wake f => f.ok true true true
  | .pshi _ => true
  | .pshk _ => true
  | .popk _ => true
  | .dup => true
  | .drops => true
  | .swap => true
  | .over => true
  | .prismAdd => true
  | .prismSub => true
  | .prismAnd => true
  | .prismOr => true
  | .prismXor => true
  | .prismShl => true
  | .prismShr => true
  | .cmp _ => true
  | .get _ _ => true
  | .ctrld => true
  | .ctradd => true
  | .swld => true
  | .swadd => true
  | .swcas => true
  | .clone _ => true
  | .brz _ => true
  | .brnz _ => true
  | .jmp _ => true
  | .dirset _ => true
  | .dirsetStack => true
  | .dirmin _ => true
  | .dirminNa _ => true
  | .dirto => true
  | .dirtoStack => true
  | .fwd => true
  | .dlvr => true
  | .park => true
  | .drop => true
  | .dropN => true
  | .pldw _ => true
  | .pstw _ => true
  | .entry _ => true
  | .lineFetch n c _ => okCore n c
  | .parkgetReply n c _ _ => okCore n c
  | .tlbinvAnswer n c _ => okCore n c
  | .leaseDecisionArrival n _ => okNode n
  | .ucieModuleLoss n _ => okNode n

end Sys2Proof
end

