-- ==== Sys2Proof/Codes.lean ====
section
/-! DEFINITION. The vector and F-E functions by name, and the decoder's own term for an instruction, which `Code.instr`
turns into an `Instr`. (Lean compiles no constructor beyond the 245th that carries fields, so the decoder that runs gives
a `Code`; the kernel sees `Instr`.) -/

namespace Sys2Proof

/-- The F-V functions (R62). -/
inductive VFn where
  | vadd | vsub | vmul | vfma | vfms | vmin | vmax | vabs | vneg | vdiv | vsqrt | vcpys | viadd | visub | vimul | vimin | vimax | viabs | vand | vor | vxor | vnot | vshl | vshr | vsar | vrotl | vceq | vcne | vclt | vcle | vcltu | vcleu | vfclass | vsel | vmand | vmor | vmcnt | vexp2 | vlog2 | vrcp | vrsqrt | vtanh | verf | vredadd | vredmax | vredmin | vscan | vshuf | vbcast | vextr | viota | vcvt | vpack | vunpk | vscale | vrnd | vld | vst | vlds | vsts | vgath | vscat | vsett | vmov | vmset | vmget
  deriving DecidableEq, Repr, Inhabited

/-- The F-E functions (R62). -/
inductive EFn where
  | msetn | msets | mseta | mclrs | mgo | mwait | mstat | mabort | acopy | aclr | adload | adinv | copy | copyi | cpwait | cpstat | pbuild | psend | pctrw | pctrr | pctrs | pctra | pparkget | presume | epopen | epclose | msend | mrecv | mwrite | mread | tsend | twrite | tdisarm | mpoll | lease | lrel | lqry | lwait | shutw | shutgo | commdef | ctset | ctready | ctwait | ctdrop | spawn | merge | tend | twait | succadd | cancel | yield | tself | gangjoin | tret | ctxsave | ctxload | tlbinv | attn | tnset | budset | thermrd | retain | wake
  deriving DecidableEq, Repr, Inhabited

/-- The field rules of a vector function. -/
def VFn.shape : VFn → VShape
  | .vadd => .float2
  | .vsub => .float2
  | .vmul => .float2
  | .vfma => .float3
  | .vfms => .float3
  | .vmin => .float2
  | .vmax => .float2
  | .vabs => .float1
  | .vneg => .float1
  | .vdiv => .float2
  | .vsqrt => .float1
  | .vcpys => .float2
  | .viadd => .intSat2
  | .visub => .intSat2
  | .vimul => .intSat2
  | .vimin => .intUns2
  | .vimax => .intUns2
  | .viabs => .intSat1
  | .vand => .bits2
  | .vor => .bits2
  | .vxor => .bits2
  | .vnot => .bits1
  | .vshl => .shift2
  | .vshr => .shift2
  | .vsar => .shift2
  | .vrotl => .shift2
  | .vceq => .cmpAll
  | .vcne => .cmpAll
  | .vclt => .cmpAll
  | .vcle => .cmpAll
  | .vcltu => .cmpInt
  | .vcleu => .cmpInt
  | .vfclass => .float1
  | .vsel => .sel
  | .vmand => .maskLogic
  | .vmor => .maskLogic
  | .vmcnt => .maskCount
  | .vexp2 => .float1
  | .vlog2 => .float1
  | .vrcp => .float1
  | .vrsqrt => .float1
  | .vtanh => .float1
  | .verf => .float1
  | .vredadd => .redAdd
  | .vredmax => .redCmp
  | .vredmin => .redCmp
  | .vscan => .redAdd
  | .vshuf => .shuf
  | .vbcast => .bcast
  | .vextr => .extr
  | .viota => .iota
  | .vcvt => .cvt
  | .vpack => .pack
  | .vunpk => .unpk
  | .vscale => .float2
  | .vrnd => .float1
  | .vld => .load
  | .vst => .store
  | .vlds => .load
  | .vsts => .store
  | .vgath => .gath
  | .vscat => .scat
  | .vsett => .sett
  | .vmov => .mov
  | .vmset => .mset
  | .vmget => .mget

/-- Which of D, A and B an F-E function uses, and whether SIGMASK may be set. -/
def EFn.uses : EFn → Bool × Bool × Bool × Bool
  | .msetn => (false, true, true, true)
  | .msets => (false, true, true, true)
  | .mseta => (false, true, true, true)
  | .mclrs => (false, false, false, true)
  | .mgo => (false, true, false, true)
  | .mwait => (true, true, false, true)
  | .mstat => (true, true, false, true)
  | .mabort => (false, false, false, true)
  | .acopy => (false, true, true, true)
  | .aclr => (false, true, true, true)
  | .adload => (false, true, true, true)
  | .adinv => (false, true, false, true)
  | .copy => (true, true, false, true)
  | .copyi => (true, true, true, true)
  | .cpwait => (true, true, false, true)
  | .cpstat => (true, true, false, true)
  | .pbuild => (true, true, true, true)
  | .psend => (true, true, false, true)
  | .pctrw => (true, true, true, true)
  | .pctrr => (true, true, false, true)
  | .pctrs => (false, true, true, true)
  | .pctra => (true, true, true, true)
  | .pparkget => (true, true, true, true)
  | .presume => (true, true, true, true)
  | .epopen => (false, true, true, true)
  | .epclose => (false, true, false, true)
  | .msend => (true, true, true, true)
  | .mrecv => (true, true, true, true)
  | .mwrite => (true, true, true, true)
  | .mread => (true, true, true, true)
  | .tsend => (true, true, true, true)
  | .twrite => (true, true, true, true)
  | .tdisarm => (true, true, false, true)
  | .mpoll => (true, true, false, true)
  | .lease => (true, true, false, true)
  | .lrel => (false, true, true, true)
  | .lqry => (true, true, true, true)
  | .lwait => (true, true, false, true)
  | .shutw => (false, true, true, true)
  | .shutgo => (true, true, true, true)
  | .commdef => (true, true, true, true)
  | .ctset => (false, true, true, true)
  | .ctready => (false, true, false, true)
  | .ctwait => (true, true, false, true)
  | .ctdrop => (true, true, false, true)
  | .spawn => (true, true, false, true)
  | .merge => (false, false, false, false)
  | .tend => (false, false, false, false)
  | .twait => (true, false, false, true)
  | .succadd => (false, true, false, true)
  | .cancel => (false, true, true, true)
  | .yield => (false, false, false, true)
  | .tself => (true, true, false, true)
  | .gangjoin => (true, true, true, true)
  | .tret => (false, true, true, true)
  | .ctxsave => (true, true, true, true)
  | .ctxload => (false, true, false, true)
  | .tlbinv => (false, true, true, true)
  | .attn => (false, true, true, true)
  | .tnset => (true, true, true, true)
  | .budset => (true, true, true, true)
  | .thermrd => (true, true, false, true)
  | .retain => (true, true, true, true)
  | .wake => (true, true, true, true)

/-- An instruction as the decoder gives it. -/
inductive Code where
  | one (i : Instr)
  | v (n : VFn) (f : FV)
  | e (n : EFn) (f : FE)
  deriving DecidableEq, Repr

/-- Whether a decoded term is well formed. -/
def Code.ok : Code → Bool
  | .one i => wellFormed i
  | .v n f => f.ok n.shape
  | .e n f => f.ok n.uses.1 n.uses.2.1 n.uses.2.2.1 && (n.uses.2.2.2 || f.sig == 0)

/-- The instruction of a vector function. -/
noncomputable def VFn.instr (f : FV) : VFn → Instr
  | .vadd => .vadd f
  | .vsub => .vsub f
  | .vmul => .vmul f
  | .vfma => .vfma f
  | .vfms => .vfms f
  | .vmin => .vmin f
  | .vmax => .vmax f
  | .vabs => .vabs f
  | .vneg => .vneg f
  | .vdiv => .vdiv f
  | .vsqrt => .vsqrt f
  | .vcpys => .vcpys f
  | .viadd => .viadd f
  | .visub => .visub f
  | .vimul => .vimul f
  | .vimin => .vimin f
  | .vimax => .vimax f
  | .viabs => .viabs f
  | .vand => .vand f
  | .vor => .vor f
  | .vxor => .vxor f
  | .vnot => .vnot f
  | .vshl => .vshl f
  | .vshr => .vshr f
  | .vsar => .vsar f
  | .vrotl => .vrotl f
  | .vceq => .vceq f
  | .vcne => .vcne f
  | .vclt => .vclt f
  | .vcle => .vcle f
  | .vcltu => .vcltu f
  | .vcleu => .vcleu f
  | .vfclass => .vfclass f
  | .vsel => .vsel f
  | .vmand => .vmand f
  | .vmor => .vmor f
  | .vmcnt => .vmcnt f
  | .vexp2 => .vexp2 f
  | .vlog2 => .vlog2 f
  | .vrcp => .vrcp f
  | .vrsqrt => .vrsqrt f
  | .vtanh => .vtanh f
  | .verf => .verf f
  | .vredadd => .vredadd f
  | .vredmax => .vredmax f
  | .vredmin => .vredmin f
  | .vscan => .vscan f
  | .vshuf => .vshuf f
  | .vbcast => .vbcast f
  | .vextr => .vextr f
  | .viota => .viota f
  | .vcvt => .vcvt f
  | .vpack => .vpack f
  | .vunpk => .vunpk f
  | .vscale => .vscale f
  | .vrnd => .vrnd f
  | .vld => .vld f
  | .vst => .vst f
  | .vlds => .vlds f
  | .vsts => .vsts f
  | .vgath => .vgath f
  | .vscat => .vscat f
  | .vsett => .vsett f
  | .vmov => .vmov f
  | .vmset => .vmset f
  | .vmget => .vmget f

/-- The instruction of an F-E function. -/
noncomputable def EFn.instr (f : FE) : EFn → Instr
  | .msetn => .msetn f
  | .msets => .msets f
  | .mseta => .mseta f
  | .mclrs => .mclrs f
  | .mgo => .mgo f
  | .mwait => .mwait f
  | .mstat => .mstat f
  | .mabort => .mabort f
  | .acopy => .acopy f
  | .aclr => .aclr f
  | .adload => .adload f
  | .adinv => .adinv f
  | .copy => .copy f
  | .copyi => .copyi f
  | .cpwait => .cpwait f
  | .cpstat => .cpstat f
  | .pbuild => .pbuild f
  | .psend => .psend f
  | .pctrw => .pctrw f
  | .pctrr => .pctrr f
  | .pctrs => .pctrs f
  | .pctra => .pctra f
  | .pparkget => .pparkget f
  | .presume => .presume f
  | .epopen => .epopen f
  | .epclose => .epclose f
  | .msend => .msend f
  | .mrecv => .mrecv f
  | .mwrite => .mwrite f
  | .mread => .mread f
  | .tsend => .tsend f
  | .twrite => .twrite f
  | .tdisarm => .tdisarm f
  | .mpoll => .mpoll f
  | .lease => .lease f
  | .lrel => .lrel f
  | .lqry => .lqry f
  | .lwait => .lwait f
  | .shutw => .shutw f
  | .shutgo => .shutgo f
  | .commdef => .commdef f
  | .ctset => .ctset f
  | .ctready => .ctready f
  | .ctwait => .ctwait f
  | .ctdrop => .ctdrop f
  | .spawn => .spawn f
  | .merge => .merge f
  | .tend => .tend f
  | .twait => .twait f
  | .succadd => .succadd f
  | .cancel => .cancel f
  | .yield => .yield f
  | .tself => .tself f
  | .gangjoin => .gangjoin f
  | .tret => .tret f
  | .ctxsave => .ctxsave f
  | .ctxload => .ctxload f
  | .tlbinv => .tlbinv f
  | .attn => .attn f
  | .tnset => .tnset f
  | .budset => .budset f
  | .thermrd => .thermrd f
  | .retain => .retain f
  | .wake => .wake f

/-- The instruction a decoded term stands for. -/
noncomputable def Code.instr : Code → Instr
  | .one i => i
  | .v n f => n.instr f
  | .e n f => n.instr f

end Sys2Proof
end

