-- ==== Sys2Proof/Decode.lean ====
section
/-! DEFINITION. The decoder of instruction units (R49 to R65), of bundles (R65) and of prism instructions (R274), each
total and rejecting by name, and the encoder written from the same tables. -/

namespace Sys2Proof

/-- What the units at a program counter decode to: an instruction and its length in units, one whose extended literal
lies beyond the line (R55), or an illegal pattern (R63). -/
inductive Decoded where
  | ok (i : Code) (len : Nat)
  | literal (i : Code)
  | illegal
  deriving DecidableEq, Repr

/-- Bits `hi … lo` of a unit as a number. -/
def unitBits (u : BitVec 32) (hi lo : Nat) : Nat := (u.toNat >>> lo) % 2 ^ (hi + 1 - lo)
/-- The major opcode (R49). -/
def opOf (u : BitVec 32) : Nat := unitBits u 31 26
/-- The token field (R59). -/
def tokOf (u : BitVec 32) : Tok := ⟨u.extractLsb' 24 2, u.extractLsb' 22 2⟩
/-- A scalar operand of kind `k` and field `f`, with `v` the extended unit (R53). -/
def sopOf (k : BitVec 2) (f : BitVec 5) (v : BitVec 32) : Option SOp :=
  match k with
  | 0 => none
  | 1 => some (.reg f)
  | 2 => some (.bank f)
  | _ => some (if f = 16 then .ext v else .lit f)
/-- A vector operand (R53). -/
def vopOf (k : BitVec 2) (f : BitVec 7) (v : BitVec 32) : VOp :=
  match k with
  | 0 => .vec f
  | 1 => .reg f
  | 2 => .bank f
  | _ => if f = 64 then .ext v else .lit f
/-- A term, or ILLEGAL where it is not well formed. -/
def accept (i : Option Code) (len : Nat) : Decoded :=
  match i with
  | some i => if i.ok then .ok i len else .illegal
  | none => .illegal
/-- As `accept`, with the extended unit taken from what follows where a marker asks for it (R55). -/
def acceptExt (mark : Bool) (rest : List (BitVec 32)) (len : Nat) (f : BitVec 32 → Option Code) : Decoded :=
  if mark then
    match rest with
    | v :: _ => accept (f v) (len + 1)
    | [] => match accept (f 0) len with | .ok i _ => .literal i | _ => .illegal
  else accept (f 0) len
/-- The marker of an extended literal in a scalar operand. -/
def sMark (k : BitVec 2) (f : BitVec 5) : Bool := k == 3 && f == 16
/-- The marker of an extended literal in a vector operand. -/
def vMark (k : BitVec 2) (f : BitVec 7) : Bool := k == 3 && f == 64
/-- Whether a unit carries the fixed bits of a row of the table. -/
def fitsRow (u mask val : BitVec 32) : Bool := u &&& mask == val

/-- Major 0x00 (R61, R62): NOP, SQSTOP, SQWAIT, SQSIG, RDSTEP, RDCYC, WAITSTEP, SQID. -/
def decode00 (u : BitVec 32) (rest : List (BitVec 32)) : Decoded :=
  if fitsRow u 0xFC3FFFFF 0x00000000 then
    accept (some (.one (.nop (tokOf u)))) 1
  else if fitsRow u 0xFC3FFFFF 0x00000001 then
    accept (some (.one (.sqstop (tokOf u)))) 1
  else if fitsRow u 0xFC3E03FF 0x00000002 then
    acceptExt (sMark (u.extractLsb' 15 2) (u.extractLsb' 10 5)) rest 1 fun v => (sopOf (u.extractLsb' 15 2) (u.extractLsb' 10 5) v).bind fun a => some (.one (.sqwait (tokOf u) a))
  else if fitsRow u 0xFC3E03FF 0x00000003 then
    acceptExt (sMark (u.extractLsb' 15 2) (u.extractLsb' 10 5)) rest 1 fun v => (sopOf (u.extractLsb' 15 2) (u.extractLsb' 10 5) v).bind fun a => some (.one (.sqsig (tokOf u) a))
  else if fitsRow u 0xFC01FFFF 0x00000004 then
    accept (some (.one (.rdstep (tokOf u) (u.extractLsb' 17 5)))) 1
  else if fitsRow u 0xFC01FFFF 0x00000005 then
    accept (some (.one (.rdcyc (tokOf u) (u.extractLsb' 17 5)))) 1
  else if fitsRow u 0xFC3E03FF 0x00000006 then
    acceptExt (sMark (u.extractLsb' 15 2) (u.extractLsb' 10 5)) rest 1 fun v => (sopOf (u.extractLsb' 15 2) (u.extractLsb' 10 5) v).bind fun a => some (.one (.waitstep (tokOf u) a))
  else if fitsRow u 0xFC01FFFF 0x00000007 then
    accept (some (.one (.sqid (tokOf u) (u.extractLsb' 17 5)))) 1
  else .illegal

/-- Major 0x01 (R61, R62): ADD, SUB, AND, OR, XOR, ANDN, MIN, MAX. -/
def decode01 (u : BitVec 32) (rest : List (BitVec 32)) : Decoded :=
  if fitsRow u 0xFC000007 0x04000000 then
    acceptExt (sMark (u.extractLsb' 15 2) (u.extractLsb' 10 5) || sMark (u.extractLsb' 8 2) (u.extractLsb' 3 5)) rest 1 fun v => (sopOf (u.extractLsb' 15 2) (u.extractLsb' 10 5) v).bind fun a => (sopOf (u.extractLsb' 8 2) (u.extractLsb' 3 5) v).bind fun b => some (.one (.add (tokOf u) (u.extractLsb' 17 5) a b))
  else if fitsRow u 0xFC000007 0x04000001 then
    acceptExt (sMark (u.extractLsb' 15 2) (u.extractLsb' 10 5) || sMark (u.extractLsb' 8 2) (u.extractLsb' 3 5)) rest 1 fun v => (sopOf (u.extractLsb' 15 2) (u.extractLsb' 10 5) v).bind fun a => (sopOf (u.extractLsb' 8 2) (u.extractLsb' 3 5) v).bind fun b => some (.one (.sub (tokOf u) (u.extractLsb' 17 5) a b))
  else if fitsRow u 0xFC000007 0x04000002 then
    acceptExt (sMark (u.extractLsb' 15 2) (u.extractLsb' 10 5) || sMark (u.extractLsb' 8 2) (u.extractLsb' 3 5)) rest 1 fun v => (sopOf (u.extractLsb' 15 2) (u.extractLsb' 10 5) v).bind fun a => (sopOf (u.extractLsb' 8 2) (u.extractLsb' 3 5) v).bind fun b => some (.one (.and (tokOf u) (u.extractLsb' 17 5) a b))
  else if fitsRow u 0xFC000007 0x04000003 then
    acceptExt (sMark (u.extractLsb' 15 2) (u.extractLsb' 10 5) || sMark (u.extractLsb' 8 2) (u.extractLsb' 3 5)) rest 1 fun v => (sopOf (u.extractLsb' 15 2) (u.extractLsb' 10 5) v).bind fun a => (sopOf (u.extractLsb' 8 2) (u.extractLsb' 3 5) v).bind fun b => some (.one (.or (tokOf u) (u.extractLsb' 17 5) a b))
  else if fitsRow u 0xFC000007 0x04000004 then
    acceptExt (sMark (u.extractLsb' 15 2) (u.extractLsb' 10 5) || sMark (u.extractLsb' 8 2) (u.extractLsb' 3 5)) rest 1 fun v => (sopOf (u.extractLsb' 15 2) (u.extractLsb' 10 5) v).bind fun a => (sopOf (u.extractLsb' 8 2) (u.extractLsb' 3 5) v).bind fun b => some (.one (.xor (tokOf u) (u.extractLsb' 17 5) a b))
  else if fitsRow u 0xFC000007 0x04000005 then
    acceptExt (sMark (u.extractLsb' 15 2) (u.extractLsb' 10 5) || sMark (u.extractLsb' 8 2) (u.extractLsb' 3 5)) rest 1 fun v => (sopOf (u.extractLsb' 15 2) (u.extractLsb' 10 5) v).bind fun a => (sopOf (u.extractLsb' 8 2) (u.extractLsb' 3 5) v).bind fun b => some (.one (.andn (tokOf u) (u.extractLsb' 17 5) a b))
  else if fitsRow u 0xFC000007 0x04000006 then
    acceptExt (sMark (u.extractLsb' 15 2) (u.extractLsb' 10 5) || sMark (u.extractLsb' 8 2) (u.extractLsb' 3 5)) rest 1 fun v => (sopOf (u.extractLsb' 15 2) (u.extractLsb' 10 5) v).bind fun a => (sopOf (u.extractLsb' 8 2) (u.extractLsb' 3 5) v).bind fun b => some (.one (.min (tokOf u) (u.extractLsb' 17 5) a b))
  else if fitsRow u 0xFC000007 0x04000007 then
    acceptExt (sMark (u.extractLsb' 15 2) (u.extractLsb' 10 5) || sMark (u.extractLsb' 8 2) (u.extractLsb' 3 5)) rest 1 fun v => (sopOf (u.extractLsb' 15 2) (u.extractLsb' 10 5) v).bind fun a => (sopOf (u.extractLsb' 8 2) (u.extractLsb' 3 5) v).bind fun b => some (.one (.max (tokOf u) (u.extractLsb' 17 5) a b))
  else .illegal

/-- Major 0x02 (R61, R62): MINU, MAXU, SHL, SHR, SAR, ROTL, CLZ, POPC. -/
def decode02 (u : BitVec 32) (rest : List (BitVec 32)) : Decoded :=
  if fitsRow u 0xFC000007 0x08000000 then
    acceptExt (sMark (u.extractLsb' 15 2) (u.extractLsb' 10 5) || sMark (u.extractLsb' 8 2) (u.extractLsb' 3 5)) rest 1 fun v => (sopOf (u.extractLsb' 15 2) (u.extractLsb' 10 5) v).bind fun a => (sopOf (u.extractLsb' 8 2) (u.extractLsb' 3 5) v).bind fun b => some (.one (.minu (tokOf u) (u.extractLsb' 17 5) a b))
  else if fitsRow u 0xFC000007 0x08000001 then
    acceptExt (sMark (u.extractLsb' 15 2) (u.extractLsb' 10 5) || sMark (u.extractLsb' 8 2) (u.extractLsb' 3 5)) rest 1 fun v => (sopOf (u.extractLsb' 15 2) (u.extractLsb' 10 5) v).bind fun a => (sopOf (u.extractLsb' 8 2) (u.extractLsb' 3 5) v).bind fun b => some (.one (.maxu (tokOf u) (u.extractLsb' 17 5) a b))
  else if fitsRow u 0xFC000007 0x08000002 then
    acceptExt (sMark (u.extractLsb' 15 2) (u.extractLsb' 10 5) || sMark (u.extractLsb' 8 2) (u.extractLsb' 3 5)) rest 1 fun v => (sopOf (u.extractLsb' 15 2) (u.extractLsb' 10 5) v).bind fun a => (sopOf (u.extractLsb' 8 2) (u.extractLsb' 3 5) v).bind fun b => some (.one (.shl (tokOf u) (u.extractLsb' 17 5) a b))
  else if fitsRow u 0xFC000007 0x08000003 then
    acceptExt (sMark (u.extractLsb' 15 2) (u.extractLsb' 10 5) || sMark (u.extractLsb' 8 2) (u.extractLsb' 3 5)) rest 1 fun v => (sopOf (u.extractLsb' 15 2) (u.extractLsb' 10 5) v).bind fun a => (sopOf (u.extractLsb' 8 2) (u.extractLsb' 3 5) v).bind fun b => some (.one (.shr (tokOf u) (u.extractLsb' 17 5) a b))
  else if fitsRow u 0xFC000007 0x08000004 then
    acceptExt (sMark (u.extractLsb' 15 2) (u.extractLsb' 10 5) || sMark (u.extractLsb' 8 2) (u.extractLsb' 3 5)) rest 1 fun v => (sopOf (u.extractLsb' 15 2) (u.extractLsb' 10 5) v).bind fun a => (sopOf (u.extractLsb' 8 2) (u.extractLsb' 3 5) v).bind fun b => some (.one (.sar (tokOf u) (u.extractLsb' 17 5) a b))
  else if fitsRow u 0xFC000007 0x08000005 then
    acceptExt (sMark (u.extractLsb' 15 2) (u.extractLsb' 10 5) || sMark (u.extractLsb' 8 2) (u.extractLsb' 3 5)) rest 1 fun v => (sopOf (u.extractLsb' 15 2) (u.extractLsb' 10 5) v).bind fun a => (sopOf (u.extractLsb' 8 2) (u.extractLsb' 3 5) v).bind fun b => some (.one (.rotl (tokOf u) (u.extractLsb' 17 5) a b))
  else if fitsRow u 0xFC0003FF 0x08000006 then
    acceptExt (sMark (u.extractLsb' 15 2) (u.extractLsb' 10 5)) rest 1 fun v => (sopOf (u.extractLsb' 15 2) (u.extractLsb' 10 5) v).bind fun a => some (.one (.clz (tokOf u) (u.extractLsb' 17 5) a))
  else if fitsRow u 0xFC0003FF 0x08000007 then
    acceptExt (sMark (u.extractLsb' 15 2) (u.extractLsb' 10 5)) rest 1 fun v => (sopOf (u.extractLsb' 15 2) (u.extractLsb' 10 5) v).bind fun a => some (.one (.popc (tokOf u) (u.extractLsb' 17 5) a))
  else .illegal

/-- Major 0x03 (R61, R62): MUL, MULH, MULHU, DIV, DIVU, REM, REMU, ADDW. -/
def decode03 (u : BitVec 32) (rest : List (BitVec 32)) : Decoded :=
  if fitsRow u 0xFC000007 0x0C000000 then
    acceptExt (sMark (u.extractLsb' 15 2) (u.extractLsb' 10 5) || sMark (u.extractLsb' 8 2) (u.extractLsb' 3 5)) rest 1 fun v => (sopOf (u.extractLsb' 15 2) (u.extractLsb' 10 5) v).bind fun a => (sopOf (u.extractLsb' 8 2) (u.extractLsb' 3 5) v).bind fun b => some (.one (.mul (tokOf u) (u.extractLsb' 17 5) a b))
  else if fitsRow u 0xFC000007 0x0C000001 then
    acceptExt (sMark (u.extractLsb' 15 2) (u.extractLsb' 10 5) || sMark (u.extractLsb' 8 2) (u.extractLsb' 3 5)) rest 1 fun v => (sopOf (u.extractLsb' 15 2) (u.extractLsb' 10 5) v).bind fun a => (sopOf (u.extractLsb' 8 2) (u.extractLsb' 3 5) v).bind fun b => some (.one (.mulh (tokOf u) (u.extractLsb' 17 5) a b))
  else if fitsRow u 0xFC000007 0x0C000002 then
    acceptExt (sMark (u.extractLsb' 15 2) (u.extractLsb' 10 5) || sMark (u.extractLsb' 8 2) (u.extractLsb' 3 5)) rest 1 fun v => (sopOf (u.extractLsb' 15 2) (u.extractLsb' 10 5) v).bind fun a => (sopOf (u.extractLsb' 8 2) (u.extractLsb' 3 5) v).bind fun b => some (.one (.mulhu (tokOf u) (u.extractLsb' 17 5) a b))
  else if fitsRow u 0xFC000007 0x0C000003 then
    acceptExt (sMark (u.extractLsb' 15 2) (u.extractLsb' 10 5) || sMark (u.extractLsb' 8 2) (u.extractLsb' 3 5)) rest 1 fun v => (sopOf (u.extractLsb' 15 2) (u.extractLsb' 10 5) v).bind fun a => (sopOf (u.extractLsb' 8 2) (u.extractLsb' 3 5) v).bind fun b => some (.one (.div (tokOf u) (u.extractLsb' 17 5) a b))
  else if fitsRow u 0xFC000007 0x0C000004 then
    acceptExt (sMark (u.extractLsb' 15 2) (u.extractLsb' 10 5) || sMark (u.extractLsb' 8 2) (u.extractLsb' 3 5)) rest 1 fun v => (sopOf (u.extractLsb' 15 2) (u.extractLsb' 10 5) v).bind fun a => (sopOf (u.extractLsb' 8 2) (u.extractLsb' 3 5) v).bind fun b => some (.one (.divu (tokOf u) (u.extractLsb' 17 5) a b))
  else if fitsRow u 0xFC000007 0x0C000005 then
    acceptExt (sMark (u.extractLsb' 15 2) (u.extractLsb' 10 5) || sMark (u.extractLsb' 8 2) (u.extractLsb' 3 5)) rest 1 fun v => (sopOf (u.extractLsb' 15 2) (u.extractLsb' 10 5) v).bind fun a => (sopOf (u.extractLsb' 8 2) (u.extractLsb' 3 5) v).bind fun b => some (.one (.rem (tokOf u) (u.extractLsb' 17 5) a b))
  else if fitsRow u 0xFC000007 0x0C000006 then
    acceptExt (sMark (u.extractLsb' 15 2) (u.extractLsb' 10 5) || sMark (u.extractLsb' 8 2) (u.extractLsb' 3 5)) rest 1 fun v => (sopOf (u.extractLsb' 15 2) (u.extractLsb' 10 5) v).bind fun a => (sopOf (u.extractLsb' 8 2) (u.extractLsb' 3 5) v).bind fun b => some (.one (.remu (tokOf u) (u.extractLsb' 17 5) a b))
  else if fitsRow u 0xFC000007 0x0C000007 then
    acceptExt (sMark (u.extractLsb' 15 2) (u.extractLsb' 10 5) || sMark (u.extractLsb' 8 2) (u.extractLsb' 3 5)) rest 1 fun v => (sopOf (u.extractLsb' 15 2) (u.extractLsb' 10 5) v).bind fun a => (sopOf (u.extractLsb' 8 2) (u.extractLsb' 3 5) v).bind fun b => some (.one (.addw (tokOf u) (u.extractLsb' 17 5) a b))
  else .illegal

/-- Major 0x04 (R61, R62): CEQ, CNE, CLT, CLTU, CLE, CLEU, CSEL, MOV. -/
def decode04 (u : BitVec 32) (rest : List (BitVec 32)) : Decoded :=
  if fitsRow u 0xFC000007 0x10000000 then
    acceptExt (sMark (u.extractLsb' 15 2) (u.extractLsb' 10 5) || sMark (u.extractLsb' 8 2) (u.extractLsb' 3 5)) rest 1 fun v => (sopOf (u.extractLsb' 15 2) (u.extractLsb' 10 5) v).bind fun a => (sopOf (u.extractLsb' 8 2) (u.extractLsb' 3 5) v).bind fun b => some (.one (.ceq (tokOf u) (u.extractLsb' 17 5) a b))
  else if fitsRow u 0xFC000007 0x10000001 then
    acceptExt (sMark (u.extractLsb' 15 2) (u.extractLsb' 10 5) || sMark (u.extractLsb' 8 2) (u.extractLsb' 3 5)) rest 1 fun v => (sopOf (u.extractLsb' 15 2) (u.extractLsb' 10 5) v).bind fun a => (sopOf (u.extractLsb' 8 2) (u.extractLsb' 3 5) v).bind fun b => some (.one (.cne (tokOf u) (u.extractLsb' 17 5) a b))
  else if fitsRow u 0xFC000007 0x10000002 then
    acceptExt (sMark (u.extractLsb' 15 2) (u.extractLsb' 10 5) || sMark (u.extractLsb' 8 2) (u.extractLsb' 3 5)) rest 1 fun v => (sopOf (u.extractLsb' 15 2) (u.extractLsb' 10 5) v).bind fun a => (sopOf (u.extractLsb' 8 2) (u.extractLsb' 3 5) v).bind fun b => some (.one (.clt (tokOf u) (u.extractLsb' 17 5) a b))
  else if fitsRow u 0xFC000007 0x10000003 then
    acceptExt (sMark (u.extractLsb' 15 2) (u.extractLsb' 10 5) || sMark (u.extractLsb' 8 2) (u.extractLsb' 3 5)) rest 1 fun v => (sopOf (u.extractLsb' 15 2) (u.extractLsb' 10 5) v).bind fun a => (sopOf (u.extractLsb' 8 2) (u.extractLsb' 3 5) v).bind fun b => some (.one (.cltu (tokOf u) (u.extractLsb' 17 5) a b))
  else if fitsRow u 0xFC000007 0x10000004 then
    acceptExt (sMark (u.extractLsb' 15 2) (u.extractLsb' 10 5) || sMark (u.extractLsb' 8 2) (u.extractLsb' 3 5)) rest 1 fun v => (sopOf (u.extractLsb' 15 2) (u.extractLsb' 10 5) v).bind fun a => (sopOf (u.extractLsb' 8 2) (u.extractLsb' 3 5) v).bind fun b => some (.one (.cle (tokOf u) (u.extractLsb' 17 5) a b))
  else if fitsRow u 0xFC000007 0x10000005 then
    acceptExt (sMark (u.extractLsb' 15 2) (u.extractLsb' 10 5) || sMark (u.extractLsb' 8 2) (u.extractLsb' 3 5)) rest 1 fun v => (sopOf (u.extractLsb' 15 2) (u.extractLsb' 10 5) v).bind fun a => (sopOf (u.extractLsb' 8 2) (u.extractLsb' 3 5) v).bind fun b => some (.one (.cleu (tokOf u) (u.extractLsb' 17 5) a b))
  else if fitsRow u 0xFC000007 0x10000006 then
    acceptExt (sMark (u.extractLsb' 15 2) (u.extractLsb' 10 5) || sMark (u.extractLsb' 8 2) (u.extractLsb' 3 5)) rest 1 fun v => (sopOf (u.extractLsb' 15 2) (u.extractLsb' 10 5) v).bind fun a => (sopOf (u.extractLsb' 8 2) (u.extractLsb' 3 5) v).bind fun b => some (.one (.csel (tokOf u) (u.extractLsb' 17 5) a b))
  else if fitsRow u 0xFC0003FF 0x10000007 then
    acceptExt (sMark (u.extractLsb' 15 2) (u.extractLsb' 10 5)) rest 1 fun v => (sopOf (u.extractLsb' 15 2) (u.extractLsb' 10 5) v).bind fun a => some (.one (.mov (tokOf u) (u.extractLsb' 17 5) a))
  else .illegal

/-- Major 0x05 (R61, R62): ADDS1, ADDS2, ADDS3, ADDS4, SEXTB, SEXTH, SEXTW, ZEXTW. -/
def decode05 (u : BitVec 32) (rest : List (BitVec 32)) : Decoded :=
  if fitsRow u 0xFC000007 0x14000000 then
    acceptExt (sMark (u.extractLsb' 15 2) (u.extractLsb' 10 5) || sMark (u.extractLsb' 8 2) (u.extractLsb' 3 5)) rest 1 fun v => (sopOf (u.extractLsb' 15 2) (u.extractLsb' 10 5) v).bind fun a => (sopOf (u.extractLsb' 8 2) (u.extractLsb' 3 5) v).bind fun b => some (.one (.adds1 (tokOf u) (u.extractLsb' 17 5) a b))
  else if fitsRow u 0xFC000007 0x14000001 then
    acceptExt (sMark (u.extractLsb' 15 2) (u.extractLsb' 10 5) || sMark (u.extractLsb' 8 2) (u.extractLsb' 3 5)) rest 1 fun v => (sopOf (u.extractLsb' 15 2) (u.extractLsb' 10 5) v).bind fun a => (sopOf (u.extractLsb' 8 2) (u.extractLsb' 3 5) v).bind fun b => some (.one (.adds2 (tokOf u) (u.extractLsb' 17 5) a b))
  else if fitsRow u 0xFC000007 0x14000002 then
    acceptExt (sMark (u.extractLsb' 15 2) (u.extractLsb' 10 5) || sMark (u.extractLsb' 8 2) (u.extractLsb' 3 5)) rest 1 fun v => (sopOf (u.extractLsb' 15 2) (u.extractLsb' 10 5) v).bind fun a => (sopOf (u.extractLsb' 8 2) (u.extractLsb' 3 5) v).bind fun b => some (.one (.adds3 (tokOf u) (u.extractLsb' 17 5) a b))
  else if fitsRow u 0xFC000007 0x14000003 then
    acceptExt (sMark (u.extractLsb' 15 2) (u.extractLsb' 10 5) || sMark (u.extractLsb' 8 2) (u.extractLsb' 3 5)) rest 1 fun v => (sopOf (u.extractLsb' 15 2) (u.extractLsb' 10 5) v).bind fun a => (sopOf (u.extractLsb' 8 2) (u.extractLsb' 3 5) v).bind fun b => some (.one (.adds4 (tokOf u) (u.extractLsb' 17 5) a b))
  else if fitsRow u 0xFC0003FF 0x14000004 then
    acceptExt (sMark (u.extractLsb' 15 2) (u.extractLsb' 10 5)) rest 1 fun v => (sopOf (u.extractLsb' 15 2) (u.extractLsb' 10 5) v).bind fun a => some (.one (.sextb (tokOf u) (u.extractLsb' 17 5) a))
  else if fitsRow u 0xFC0003FF 0x14000005 then
    acceptExt (sMark (u.extractLsb' 15 2) (u.extractLsb' 10 5)) rest 1 fun v => (sopOf (u.extractLsb' 15 2) (u.extractLsb' 10 5) v).bind fun a => some (.one (.sexth (tokOf u) (u.extractLsb' 17 5) a))
  else if fitsRow u 0xFC0003FF 0x14000006 then
    acceptExt (sMark (u.extractLsb' 15 2) (u.extractLsb' 10 5)) rest 1 fun v => (sopOf (u.extractLsb' 15 2) (u.extractLsb' 10 5) v).bind fun a => some (.one (.sextw (tokOf u) (u.extractLsb' 17 5) a))
  else if fitsRow u 0xFC0003FF 0x14000007 then
    acceptExt (sMark (u.extractLsb' 15 2) (u.extractLsb' 10 5)) rest 1 fun v => (sopOf (u.extractLsb' 15 2) (u.extractLsb' 10 5) v).bind fun a => some (.one (.zextw (tokOf u) (u.extractLsb' 17 5) a))
  else .illegal

/-- Major 0x06 (R61, R62): ADDI. -/
def decode06 (u : BitVec 32) (_ : List (BitVec 32)) : Decoded :=
  if fitsRow u 0xFC000000 0x18000000 then
    accept (some (.one (.addi (tokOf u) (u.extractLsb' 17 5) (u.extractLsb' 12 5) (u.extractLsb' 0 12)))) 1
  else .illegal

/-- Major 0x07 (R61, R62): ANDI. -/
def decode07 (u : BitVec 32) (_ : List (BitVec 32)) : Decoded :=
  if fitsRow u 0xFC000000 0x1C000000 then
    accept (some (.one (.andi (tokOf u) (u.extractLsb' 17 5) (u.extractLsb' 12 5) (u.extractLsb' 0 12)))) 1
  else .illegal

/-- Major 0x08 (R61, R62): ORI. -/
def decode08 (u : BitVec 32) (_ : List (BitVec 32)) : Decoded :=
  if fitsRow u 0xFC000000 0x20000000 then
    accept (some (.one (.ori (tokOf u) (u.extractLsb' 17 5) (u.extractLsb' 12 5) (u.extractLsb' 0 12)))) 1
  else .illegal

/-- Major 0x09 (R61, R62): XORI. -/
def decode09 (u : BitVec 32) (_ : List (BitVec 32)) : Decoded :=
  if fitsRow u 0xFC000000 0x24000000 then
    accept (some (.one (.xori (tokOf u) (u.extractLsb' 17 5) (u.extractLsb' 12 5) (u.extractLsb' 0 12)))) 1
  else .illegal

/-- Major 0x0A (R61, R62): SHLI, SHRI, SARI, ROTLI. -/
def decode0A (u : BitVec 32) (_ : List (BitVec 32)) : Decoded :=
  if fitsRow u 0xFC000FC0 0x28000000 then
    accept (some (.one (.shli (tokOf u) (u.extractLsb' 17 5) (u.extractLsb' 12 5) (u.extractLsb' 0 6)))) 1
  else if fitsRow u 0xFC000FC0 0x28000400 then
    accept (some (.one (.shri (tokOf u) (u.extractLsb' 17 5) (u.extractLsb' 12 5) (u.extractLsb' 0 6)))) 1
  else if fitsRow u 0xFC000FC0 0x28000800 then
    accept (some (.one (.sari (tokOf u) (u.extractLsb' 17 5) (u.extractLsb' 12 5) (u.extractLsb' 0 6)))) 1
  else if fitsRow u 0xFC000FC0 0x28000C00 then
    accept (some (.one (.rotli (tokOf u) (u.extractLsb' 17 5) (u.extractLsb' 12 5) (u.extractLsb' 0 6)))) 1
  else .illegal

/-- Major 0x0B (R61, R62): LI. -/
def decode0B (u : BitVec 32) (_ : List (BitVec 32)) : Decoded :=
  if fitsRow u 0xFC000000 0x2C000000 then
    accept (some (.one (.li (tokOf u) (u.extractLsb' 17 5) (u.extractLsb' 0 17)))) 1
  else .illegal

/-- Major 0x0C (R61, R62): QPUT, QGET, QPEEK, QCNT, TOKGIVE, TOKTAKE, TOKCNT_IN, TOKCNT_OUT. -/
def decode0C (u : BitVec 32) (rest : List (BitVec 32)) : Decoded :=
  if fitsRow u 0xFC3E0307 0x30000300 then
    acceptExt (sMark (u.extractLsb' 15 2) (u.extractLsb' 10 5)) rest 1 fun v => (sopOf (u.extractLsb' 15 2) (u.extractLsb' 10 5) v).bind fun a => some (.one (.qput (tokOf u) a (u.extractLsb' 3 5)))
  else if fitsRow u 0xFC01FF07 0x30000301 then
    accept (some (.one (.qget (tokOf u) (u.extractLsb' 17 5) (u.extractLsb' 3 5)))) 1
  else if fitsRow u 0xFC01FF07 0x30000302 then
    accept (some (.one (.qpeek (tokOf u) (u.extractLsb' 17 5) (u.extractLsb' 3 5)))) 1
  else if fitsRow u 0xFC01FF07 0x30000303 then
    accept (some (.one (.qcnt (tokOf u) (u.extractLsb' 17 5) (u.extractLsb' 3 5)))) 1
  else if fitsRow u 0xFC3E0307 0x30000304 then
    acceptExt (sMark (u.extractLsb' 15 2) (u.extractLsb' 10 5)) rest 1 fun v => (sopOf (u.extractLsb' 15 2) (u.extractLsb' 10 5) v).bind fun a => some (.one (.tokgive (tokOf u) a (u.extractLsb' 3 5)))
  else if fitsRow u 0xFC3E0307 0x30000305 then
    acceptExt (sMark (u.extractLsb' 15 2) (u.extractLsb' 10 5)) rest 1 fun v => (sopOf (u.extractLsb' 15 2) (u.extractLsb' 10 5) v).bind fun a => some (.one (.toktake (tokOf u) a (u.extractLsb' 3 5)))
  else if fitsRow u 0xFC01FF07 0x30018306 then
    accept (some (.one (.tokcntIn (tokOf u) (u.extractLsb' 17 5) (u.extractLsb' 3 5)))) 1
  else if fitsRow u 0xFC01FF07 0x30018706 then
    accept (some (.one (.tokcntOut (tokOf u) (u.extractLsb' 17 5) (u.extractLsb' 3 5)))) 1
  else .illegal

/-- Major 0x0D (R61, R62): MFSR. -/
def decode0D (u : BitVec 32) (_ : List (BitVec 32)) : Decoded :=
  if fitsRow u 0xFC01F000 0x34000000 then
    accept (some (.one (.mfsr (tokOf u) (u.extractLsb' 17 5) (u.extractLsb' 0 12)))) 1
  else .illegal

/-- Major 0x0E (R61, R62): MTSR. -/
def decode0E (u : BitVec 32) (_ : List (BitVec 32)) : Decoded :=
  if fitsRow u 0xFC3E0000 0x38000000 then
    accept (some (.one (.mtsr (tokOf u) (u.extractLsb' 12 5) (u.extractLsb' 0 12)))) 1
  else .illegal

/-- Major 0x0F (R61, R62): CBLD. -/
def decode0F (u : BitVec 32) (_ : List (BitVec 32)) : Decoded :=
  if fitsRow u 0xFC3E0000 0x3C000000 then
    accept (some (.one (.cbld (tokOf u) (u.extractLsb' 12 5) (u.extractLsb' 8 4) (u.extractLsb' 0 8)))) 1
  else .illegal

/-- Major 0x10 (R61, R62): LDB, LDBU, LDH, LDHU, LDW, LDWU, LDD. -/
def decode10 (u : BitVec 32) (_ : List (BitVec 32)) : Decoded :=
  if fitsRow u 0xFC000E00 0x40000000 then
    accept (some (.one (.ldb (tokOf u) (u.extractLsb' 17 5) (u.extractLsb' 12 5) (u.extractLsb' 0 9)))) 1
  else if fitsRow u 0xFC000E00 0x40000200 then
    accept (some (.one (.ldbu (tokOf u) (u.extractLsb' 17 5) (u.extractLsb' 12 5) (u.extractLsb' 0 9)))) 1
  else if fitsRow u 0xFC000E00 0x40000400 then
    accept (some (.one (.ldh (tokOf u) (u.extractLsb' 17 5) (u.extractLsb' 12 5) (u.extractLsb' 0 9)))) 1
  else if fitsRow u 0xFC000E00 0x40000600 then
    accept (some (.one (.ldhu (tokOf u) (u.extractLsb' 17 5) (u.extractLsb' 12 5) (u.extractLsb' 0 9)))) 1
  else if fitsRow u 0xFC000E00 0x40000800 then
    accept (some (.one (.ldw (tokOf u) (u.extractLsb' 17 5) (u.extractLsb' 12 5) (u.extractLsb' 0 9)))) 1
  else if fitsRow u 0xFC000E00 0x40000A00 then
    accept (some (.one (.ldwu (tokOf u) (u.extractLsb' 17 5) (u.extractLsb' 12 5) (u.extractLsb' 0 9)))) 1
  else if fitsRow u 0xFC000E00 0x40000C00 then
    accept (some (.one (.ldd (tokOf u) (u.extractLsb' 17 5) (u.extractLsb' 12 5) (u.extractLsb' 0 9)))) 1
  else .illegal

/-- Major 0x11 (R61, R62): STB, STH, STW, STD. -/
def decode11 (u : BitVec 32) (_ : List (BitVec 32)) : Decoded :=
  if fitsRow u 0xFC000E00 0x44000000 then
    accept (some (.one (.stb (tokOf u) (u.extractLsb' 17 5) (u.extractLsb' 12 5) (u.extractLsb' 0 9)))) 1
  else if fitsRow u 0xFC000E00 0x44000400 then
    accept (some (.one (.sth (tokOf u) (u.extractLsb' 17 5) (u.extractLsb' 12 5) (u.extractLsb' 0 9)))) 1
  else if fitsRow u 0xFC000E00 0x44000800 then
    accept (some (.one (.stw (tokOf u) (u.extractLsb' 17 5) (u.extractLsb' 12 5) (u.extractLsb' 0 9)))) 1
  else if fitsRow u 0xFC000E00 0x44000C00 then
    accept (some (.one (.std (tokOf u) (u.extractLsb' 17 5) (u.extractLsb' 12 5) (u.extractLsb' 0 9)))) 1
  else .illegal

/-- Major 0x12 (R61, R62): LDQ_B, LDQ_BU, LDQ_H, LDQ_HU, LDQ_W, LDQ_WU, LDQ_D. -/
def decode12 (u : BitVec 32) (_ : List (BitVec 32)) : Decoded :=
  if fitsRow u 0xFC000E00 0x48000000 then
    accept (some (.one (.ldqB (tokOf u) (u.extractLsb' 17 5) (u.extractLsb' 12 5) (u.extractLsb' 0 9)))) 1
  else if fitsRow u 0xFC000E00 0x48000200 then
    accept (some (.one (.ldqBu (tokOf u) (u.extractLsb' 17 5) (u.extractLsb' 12 5) (u.extractLsb' 0 9)))) 1
  else if fitsRow u 0xFC000E00 0x48000400 then
    accept (some (.one (.ldqH (tokOf u) (u.extractLsb' 17 5) (u.extractLsb' 12 5) (u.extractLsb' 0 9)))) 1
  else if fitsRow u 0xFC000E00 0x48000600 then
    accept (some (.one (.ldqHu (tokOf u) (u.extractLsb' 17 5) (u.extractLsb' 12 5) (u.extractLsb' 0 9)))) 1
  else if fitsRow u 0xFC000E00 0x48000800 then
    accept (some (.one (.ldqW (tokOf u) (u.extractLsb' 17 5) (u.extractLsb' 12 5) (u.extractLsb' 0 9)))) 1
  else if fitsRow u 0xFC000E00 0x48000A00 then
    accept (some (.one (.ldqWu (tokOf u) (u.extractLsb' 17 5) (u.extractLsb' 12 5) (u.extractLsb' 0 9)))) 1
  else if fitsRow u 0xFC000E00 0x48000C00 then
    accept (some (.one (.ldqD (tokOf u) (u.extractLsb' 17 5) (u.extractLsb' 12 5) (u.extractLsb' 0 9)))) 1
  else .illegal

/-- Major 0x13 (R61, R62): PREF, CWB, CINV, CFLUSH, ZERO. -/
def decode13 (u : BitVec 32) (_ : List (BitVec 32)) : Decoded :=
  if fitsRow u 0xFC3E0E00 0x4C000000 then
    accept (some (.one (.pref (tokOf u) (u.extractLsb' 12 5) (u.extractLsb' 0 9)))) 1
  else if fitsRow u 0xFC3E0E00 0x4C000200 then
    accept (some (.one (.cwb (tokOf u) (u.extractLsb' 12 5) (u.extractLsb' 0 9)))) 1
  else if fitsRow u 0xFC3E0E00 0x4C000400 then
    accept (some (.one (.cinv (tokOf u) (u.extractLsb' 12 5) (u.extractLsb' 0 9)))) 1
  else if fitsRow u 0xFC3E0E00 0x4C000600 then
    accept (some (.one (.cflush (tokOf u) (u.extractLsb' 12 5) (u.extractLsb' 0 9)))) 1
  else if fitsRow u 0xFC3E0E00 0x4C000800 then
    accept (some (.one (.zero (tokOf u) (u.extractLsb' 12 5) (u.extractLsb' 0 9)))) 1
  else .illegal

/-- Major 0x14 (R61, R62): BLKLD, BLKST, BLKROW. -/
def decode14 (u : BitVec 32) (rest : List (BitVec 32)) : Decoded :=
  if fitsRow u 0xFC000007 0x50000000 then
    acceptExt (sMark (u.extractLsb' 15 2) (u.extractLsb' 10 5) || sMark (u.extractLsb' 8 2) (u.extractLsb' 3 5)) rest 1 fun v => (sopOf (u.extractLsb' 15 2) (u.extractLsb' 10 5) v).bind fun a => (sopOf (u.extractLsb' 8 2) (u.extractLsb' 3 5) v).bind fun b => some (.one (.blkld (tokOf u) (u.extractLsb' 17 5) a b))
  else if fitsRow u 0xFC000007 0x50000001 then
    acceptExt (sMark (u.extractLsb' 15 2) (u.extractLsb' 10 5) || sMark (u.extractLsb' 8 2) (u.extractLsb' 3 5)) rest 1 fun v => (sopOf (u.extractLsb' 15 2) (u.extractLsb' 10 5) v).bind fun a => (sopOf (u.extractLsb' 8 2) (u.extractLsb' 3 5) v).bind fun b => some (.one (.blkst (tokOf u) (u.extractLsb' 17 5) a b))
  else if fitsRow u 0xFC000007 0x50000002 then
    acceptExt (sMark (u.extractLsb' 15 2) (u.extractLsb' 10 5) || sMark (u.extractLsb' 8 2) (u.extractLsb' 3 5)) rest 1 fun v => (sopOf (u.extractLsb' 15 2) (u.extractLsb' 10 5) v).bind fun a => (sopOf (u.extractLsb' 8 2) (u.extractLsb' 3 5) v).bind fun b => some (.one (.blkrow (tokOf u) (u.extractLsb' 17 5) a b))
  else .illegal

/-- Major 0x15 (R61, R62): FENCE, QFENCE. -/
def decode15 (u : BitVec 32) (rest : List (BitVec 32)) : Decoded :=
  if fitsRow u 0xFC3F8307 0x54018300 then
    accept (some (.one (.fence (tokOf u) (u.extractLsb' 10 5) (u.extractLsb' 3 5)))) 1
  else if fitsRow u 0xFC3E0307 0x54000301 then
    acceptExt (sMark (u.extractLsb' 15 2) (u.extractLsb' 10 5)) rest 1 fun v => (sopOf (u.extractLsb' 15 2) (u.extractLsb' 10 5) v).bind fun a => some (.one (.qfence (tokOf u) a (u.extractLsb' 3 5)))
  else .illegal

/-- Major 0x16 (R61, R62): AMOADD, AMOAND, AMOOR, AMOXOR, AMOMIN, AMOMAX, AMOMINU, AMOMAXU, AMOSWAP, AMOFADD, AMOFMIN, AMOFMAX, AMOCAS. -/
def decode16 (u : BitVec 32) (_ : List (BitVec 32)) : Decoded :=
  if fitsRow u 0xFC000078 0x58000000 then
    accept (some (.one (.amoadd (tokOf u) (u.extractLsb' 17 5) (u.extractLsb' 12 5) (u.extractLsb' 7 5) (u.extractLsb' 2 1) (u.extractLsb' 0 2)))) 1
  else if fitsRow u 0xFC000078 0x58000008 then
    accept (some (.one (.amoand (tokOf u) (u.extractLsb' 17 5) (u.extractLsb' 12 5) (u.extractLsb' 7 5) (u.extractLsb' 2 1) (u.extractLsb' 0 2)))) 1
  else if fitsRow u 0xFC000078 0x58000010 then
    accept (some (.one (.amoor (tokOf u) (u.extractLsb' 17 5) (u.extractLsb' 12 5) (u.extractLsb' 7 5) (u.extractLsb' 2 1) (u.extractLsb' 0 2)))) 1
  else if fitsRow u 0xFC000078 0x58000018 then
    accept (some (.one (.amoxor (tokOf u) (u.extractLsb' 17 5) (u.extractLsb' 12 5) (u.extractLsb' 7 5) (u.extractLsb' 2 1) (u.extractLsb' 0 2)))) 1
  else if fitsRow u 0xFC000078 0x58000020 then
    accept (some (.one (.amomin (tokOf u) (u.extractLsb' 17 5) (u.extractLsb' 12 5) (u.extractLsb' 7 5) (u.extractLsb' 2 1) (u.extractLsb' 0 2)))) 1
  else if fitsRow u 0xFC000078 0x58000028 then
    accept (some (.one (.amomax (tokOf u) (u.extractLsb' 17 5) (u.extractLsb' 12 5) (u.extractLsb' 7 5) (u.extractLsb' 2 1) (u.extractLsb' 0 2)))) 1
  else if fitsRow u 0xFC000078 0x58000030 then
    accept (some (.one (.amominu (tokOf u) (u.extractLsb' 17 5) (u.extractLsb' 12 5) (u.extractLsb' 7 5) (u.extractLsb' 2 1) (u.extractLsb' 0 2)))) 1
  else if fitsRow u 0xFC000078 0x58000038 then
    accept (some (.one (.amomaxu (tokOf u) (u.extractLsb' 17 5) (u.extractLsb' 12 5) (u.extractLsb' 7 5) (u.extractLsb' 2 1) (u.extractLsb' 0 2)))) 1
  else if fitsRow u 0xFC000078 0x58000040 then
    accept (some (.one (.amoswap (tokOf u) (u.extractLsb' 17 5) (u.extractLsb' 12 5) (u.extractLsb' 7 5) (u.extractLsb' 2 1) (u.extractLsb' 0 2)))) 1
  else if fitsRow u 0xFC00007C 0x58000048 then
    accept (some (.one (.amofadd (tokOf u) (u.extractLsb' 17 5) (u.extractLsb' 12 5) (u.extractLsb' 7 5) (u.extractLsb' 0 2)))) 1
  else if fitsRow u 0xFC00007C 0x58000050 then
    accept (some (.one (.amofmin (tokOf u) (u.extractLsb' 17 5) (u.extractLsb' 12 5) (u.extractLsb' 7 5) (u.extractLsb' 0 2)))) 1
  else if fitsRow u 0xFC00007C 0x58000058 then
    accept (some (.one (.amofmax (tokOf u) (u.extractLsb' 17 5) (u.extractLsb' 12 5) (u.extractLsb' 7 5) (u.extractLsb' 0 2)))) 1
  else if fitsRow u 0xFC000078 0x58000060 then
    accept (some (.one (.amocas (tokOf u) (u.extractLsb' 17 5) (u.extractLsb' 12 5) (u.extractLsb' 7 5) (u.extractLsb' 2 1) (u.extractLsb' 0 2)))) 1
  else .illegal

/-- Major 0x17 (R61, R62): RNGCLAIM, RNGPUB, RNGWFILL, RNGWFREE, RNGREL, RNGSTAT, RNGINIT, RNGPEEK. -/
def decode17 (u : BitVec 32) (rest : List (BitVec 32)) : Decoded :=
  if fitsRow u 0xFC0003FF 0x5C000000 then
    acceptExt (sMark (u.extractLsb' 15 2) (u.extractLsb' 10 5)) rest 1 fun v => (sopOf (u.extractLsb' 15 2) (u.extractLsb' 10 5) v).bind fun a => some (.one (.rngclaim (tokOf u) (u.extractLsb' 17 5) a))
  else if fitsRow u 0xFC3E0007 0x5C000001 then
    acceptExt (sMark (u.extractLsb' 15 2) (u.extractLsb' 10 5) || sMark (u.extractLsb' 8 2) (u.extractLsb' 3 5)) rest 1 fun v => (sopOf (u.extractLsb' 15 2) (u.extractLsb' 10 5) v).bind fun a => (sopOf (u.extractLsb' 8 2) (u.extractLsb' 3 5) v).bind fun b => some (.one (.rngpub (tokOf u) a b))
  else if fitsRow u 0xFC000007 0x5C000002 then
    acceptExt (sMark (u.extractLsb' 15 2) (u.extractLsb' 10 5) || sMark (u.extractLsb' 8 2) (u.extractLsb' 3 5)) rest 1 fun v => (sopOf (u.extractLsb' 15 2) (u.extractLsb' 10 5) v).bind fun a => (sopOf (u.extractLsb' 8 2) (u.extractLsb' 3 5) v).bind fun b => some (.one (.rngwfill (tokOf u) (u.extractLsb' 17 5) a b))
  else if fitsRow u 0xFC000007 0x5C000003 then
    acceptExt (sMark (u.extractLsb' 15 2) (u.extractLsb' 10 5) || sMark (u.extractLsb' 8 2) (u.extractLsb' 3 5)) rest 1 fun v => (sopOf (u.extractLsb' 15 2) (u.extractLsb' 10 5) v).bind fun a => (sopOf (u.extractLsb' 8 2) (u.extractLsb' 3 5) v).bind fun b => some (.one (.rngwfree (tokOf u) (u.extractLsb' 17 5) a b))
  else if fitsRow u 0xFC3E0007 0x5C000004 then
    acceptExt (sMark (u.extractLsb' 15 2) (u.extractLsb' 10 5) || sMark (u.extractLsb' 8 2) (u.extractLsb' 3 5)) rest 1 fun v => (sopOf (u.extractLsb' 15 2) (u.extractLsb' 10 5) v).bind fun a => (sopOf (u.extractLsb' 8 2) (u.extractLsb' 3 5) v).bind fun b => some (.one (.rngrel (tokOf u) a b))
  else if fitsRow u 0xFC0003FF 0x5C000005 then
    acceptExt (sMark (u.extractLsb' 15 2) (u.extractLsb' 10 5)) rest 1 fun v => (sopOf (u.extractLsb' 15 2) (u.extractLsb' 10 5) v).bind fun a => some (.one (.rngstat (tokOf u) (u.extractLsb' 17 5) a))
  else if fitsRow u 0xFC3E0007 0x5C000006 then
    acceptExt (sMark (u.extractLsb' 15 2) (u.extractLsb' 10 5) || sMark (u.extractLsb' 8 2) (u.extractLsb' 3 5)) rest 1 fun v => (sopOf (u.extractLsb' 15 2) (u.extractLsb' 10 5) v).bind fun a => (sopOf (u.extractLsb' 8 2) (u.extractLsb' 3 5) v).bind fun b => some (.one (.rnginit (tokOf u) a b))
  else if fitsRow u 0xFC000007 0x5C000007 then
    acceptExt (sMark (u.extractLsb' 15 2) (u.extractLsb' 10 5) || sMark (u.extractLsb' 8 2) (u.extractLsb' 3 5)) rest 1 fun v => (sopOf (u.extractLsb' 15 2) (u.extractLsb' 10 5) v).bind fun a => (sopOf (u.extractLsb' 8 2) (u.extractLsb' 3 5) v).bind fun b => some (.one (.rngpeek (tokOf u) (u.extractLsb' 17 5) a b))
  else .illegal

/-- Major 0x18 (R61, R62): BARARR, BARWAIT, BARSYNC, BARINIT. -/
def decode18 (u : BitVec 32) (rest : List (BitVec 32)) : Decoded :=
  if fitsRow u 0xFC000307 0x60000300 then
    acceptExt (sMark (u.extractLsb' 15 2) (u.extractLsb' 10 5)) rest 1 fun v => (sopOf (u.extractLsb' 15 2) (u.extractLsb' 10 5) v).bind fun a => some (.one (.bararr (tokOf u) (u.extractLsb' 17 5) a (u.extractLsb' 3 5)))
  else if fitsRow u 0xFC000307 0x60000301 then
    acceptExt (sMark (u.extractLsb' 15 2) (u.extractLsb' 10 5)) rest 1 fun v => (sopOf (u.extractLsb' 15 2) (u.extractLsb' 10 5) v).bind fun a => some (.one (.barwait (tokOf u) (u.extractLsb' 17 5) a (u.extractLsb' 3 5)))
  else if fitsRow u 0xFC000307 0x60000302 then
    acceptExt (sMark (u.extractLsb' 15 2) (u.extractLsb' 10 5)) rest 1 fun v => (sopOf (u.extractLsb' 15 2) (u.extractLsb' 10 5) v).bind fun a => some (.one (.barsync (tokOf u) (u.extractLsb' 17 5) a (u.extractLsb' 3 5)))
  else if fitsRow u 0xFC3E0307 0x60000303 then
    acceptExt (sMark (u.extractLsb' 15 2) (u.extractLsb' 10 5)) rest 1 fun v => (sopOf (u.extractLsb' 15 2) (u.extractLsb' 10 5) v).bind fun a => some (.one (.barinit (tokOf u) a (u.extractLsb' 3 5)))
  else .illegal

/-- Major 0x19 (R61, R62): RET, JMPR, CALLR, TRAP, BREAK. -/
def decode19 (u : BitVec 32) (rest : List (BitVec 32)) : Decoded :=
  if fitsRow u 0xFC3FFFFF 0x64000000 then
    accept (some (.one (.ret (tokOf u)))) 1
  else if fitsRow u 0xFC3E03FF 0x64000001 then
    acceptExt (sMark (u.extractLsb' 15 2) (u.extractLsb' 10 5)) rest 1 fun v => (sopOf (u.extractLsb' 15 2) (u.extractLsb' 10 5) v).bind fun a => some (.one (.jmpr (tokOf u) a))
  else if fitsRow u 0xFC3E03FF 0x64000002 then
    acceptExt (sMark (u.extractLsb' 15 2) (u.extractLsb' 10 5)) rest 1 fun v => (sopOf (u.extractLsb' 15 2) (u.extractLsb' 10 5) v).bind fun a => some (.one (.callr (tokOf u) a))
  else if fitsRow u 0xFC3E03FF 0x64000003 then
    acceptExt (sMark (u.extractLsb' 15 2) (u.extractLsb' 10 5)) rest 1 fun v => (sopOf (u.extractLsb' 15 2) (u.extractLsb' 10 5) v).bind fun a => some (.one (.trap (tokOf u) a))
  else if fitsRow u 0xFC3FFFFF 0x64000004 then
    accept (some (.one (.brk (tokOf u)))) 1
  else .illegal

/-- The functions of major 0x22 (R62). -/
def vfun22 : Nat → Option VFn
  | 0 => some .vadd
  | 1 => some .vsub
  | 2 => some .vmul
  | 3 => some .vfma
  | 4 => some .vfms
  | 5 => some .vmin
  | 6 => some .vmax
  | 7 => some .vabs
  | 8 => some .vneg
  | 9 => some .vdiv
  | 10 => some .vsqrt
  | 11 => some .vcpys
  | _ => none

/-- The functions of major 0x23 (R62). -/
def vfun23 : Nat → Option VFn
  | 0 => some .viadd
  | 1 => some .visub
  | 2 => some .vimul
  | 3 => some .vimin
  | 4 => some .vimax
  | 5 => some .viabs
  | 6 => some .vand
  | 7 => some .vor
  | 8 => some .vxor
  | 9 => some .vnot
  | 10 => some .vshl
  | 11 => some .vshr
  | 12 => some .vsar
  | 13 => some .vrotl
  | _ => none

/-- The functions of major 0x24 (R62). -/
def vfun24 : Nat → Option VFn
  | 0 => some .vceq
  | 1 => some .vcne
  | 2 => some .vclt
  | 3 => some .vcle
  | 4 => some .vcltu
  | 5 => some .vcleu
  | 6 => some .vfclass
  | 7 => some .vsel
  | 8 => some .vmand
  | 9 => some .vmor
  | 10 => some .vmcnt
  | _ => none

/-- The functions of major 0x25 (R62). -/
def vfun25 : Nat → Option VFn
  | 0 => some .vexp2
  | 1 => some .vlog2
  | 2 => some .vrcp
  | 3 => some .vrsqrt
  | 4 => some .vtanh
  | 5 => some .verf
  | _ => none

/-- The functions of major 0x26 (R62). -/
def vfun26 : Nat → Option VFn
  | 0 => some .vredadd
  | 1 => some .vredmax
  | 2 => some .vredmin
  | 3 => some .vscan
  | 4 => some .vshuf
  | 5 => some .vbcast
  | 6 => some .vextr
  | 7 => some .viota
  | _ => none

/-- The functions of major 0x27 (R62). -/
def vfun27 : Nat → Option VFn
  | 0 => some .vcvt
  | 1 => some .vpack
  | 2 => some .vunpk
  | 3 => some .vscale
  | 4 => some .vrnd
  | _ => none

/-- The functions of major 0x28 (R62). -/
def vfun28 : Nat → Option VFn
  | 0 => some .vld
  | 1 => some .vst
  | 2 => some .vlds
  | 3 => some .vsts
  | 4 => some .vgath
  | 5 => some .vscat
  | _ => none

/-- The functions of major 0x29 (R62). -/
def vfun29 : Nat → Option VFn
  | 0 => some .vsett
  | 1 => some .vmov
  | 2 => some .vmset
  | 3 => some .vmget
  | _ => none

/-- The vector functions of a major. -/
def vfun (op fn : Nat) : Option VFn :=
  match op with
  | 0x22 => vfun22 fn
  | 0x23 => vfun23 fn
  | 0x24 => vfun24 fn
  | 0x25 => vfun25 fn
  | 0x26 => vfun26 fn
  | 0x27 => vfun27 fn
  | 0x28 => vfun28 fn
  | 0x29 => vfun29 fn
  | _ => none

/-- The fields of an F-V instruction (R49). -/
def fvOf (u w v : BitVec 32) : FV :=
  { tk := tokOf u, bc := u.getLsbD 21, vd := u.extractLsb' 14 7,
    a := vopOf (u.extractLsb' 12 2) (u.extractLsb' 5 7) v,
    b := vopOf (w.extractLsb' 30 2) (w.extractLsb' 23 7) v,
    c := vopOf (w.extractLsb' 21 2) (w.extractLsb' 14 7) v,
    msk := w.extractLsb' 11 3, vt := w.extractLsb' 8 3, rm := w.extractLsb' 5 3, sat := w.getLsbD 4,
    aux := w.extractLsb' 0 4 }

/-- An F-V instruction: two units and perhaps an extended literal. -/
def decodeV (u : BitVec 32) (rest : List (BitVec 32)) : Decoded :=
  match rest, vfun (opOf u) (unitBits u 4 0) with
  | w :: rest, some c =>
    let mark := vMark (u.extractLsb' 12 2) (u.extractLsb' 5 7) || vMark (w.extractLsb' 30 2) (w.extractLsb' 23 7)
      || vMark (w.extractLsb' 21 2) (w.extractLsb' 14 7)
    acceptExt mark rest 2 fun v => some (.v c (fvOf u w v))
  | _, _ => .illegal

/-- The functions of major 0x2A (R62). -/
def efun2A : Nat → Option EFn
  | 0 => some .msetn
  | 1 => some .msets
  | 2 => some .mseta
  | 3 => some .mclrs
  | _ => none

/-- The functions of major 0x2B (R62). -/
def efun2B : Nat → Option EFn
  | 0 => some .mgo
  | 1 => some .mwait
  | 2 => some .mstat
  | 3 => some .mabort
  | 4 => some .acopy
  | 5 => some .aclr
  | 6 => some .adload
  | 7 => some .adinv
  | _ => none

/-- The functions of major 0x2C (R62). -/
def efun2C : Nat → Option EFn
  | 0 => some .copy
  | 1 => some .copyi
  | 2 => some .cpwait
  | 3 => some .cpstat
  | _ => none

/-- The functions of major 0x2D (R62). -/
def efun2D : Nat → Option EFn
  | 0 => some .pbuild
  | 1 => some .psend
  | 2 => some .pctrw
  | 3 => some .pctrr
  | 4 => some .pctrs
  | 5 => some .pctra
  | 6 => some .pparkget
  | 7 => some .presume
  | _ => none

/-- The functions of major 0x2E (R62). -/
def efun2E : Nat → Option EFn
  | 0 => some .epopen
  | 1 => some .epclose
  | 2 => some .msend
  | 3 => some .mrecv
  | 4 => some .mwrite
  | 5 => some .mread
  | 6 => some .tsend
  | 7 => some .twrite
  | 8 => some .tdisarm
  | 9 => some .mpoll
  | _ => none

/-- The functions of major 0x2F (R62). -/
def efun2F : Nat → Option EFn
  | 0 => some .lease
  | 1 => some .lrel
  | 2 => some .lqry
  | 3 => some .lwait
  | 4 => some .shutw
  | 5 => some .shutgo
  | _ => none

/-- The functions of major 0x30 (R62). -/
def efun30 : Nat → Option EFn
  | 0 => some .commdef
  | 1 => some .ctset
  | 2 => some .ctready
  | 3 => some .ctwait
  | 4 => some .ctdrop
  | _ => none

/-- The functions of major 0x31 (R62). -/
def efun31 : Nat → Option EFn
  | 0 => some .spawn
  | 1 => some .merge
  | 2 => some .tend
  | 3 => some .twait
  | 4 => some .succadd
  | 5 => some .cancel
  | 6 => some .yield
  | 7 => some .tself
  | 8 => some .gangjoin
  | _ => none

/-- The functions of major 0x32 (R62). -/
def efun32 : Nat → Option EFn
  | 0 => some .tret
  | 1 => some .ctxsave
  | 2 => some .ctxload
  | 3 => some .tlbinv
  | 4 => some .attn
  | 5 => some .tnset
  | 6 => some .budset
  | 7 => some .thermrd
  | 8 => some .retain
  | 9 => some .wake
  | _ => none

/-- The F-E functions of a major. -/
def efun (op fn : Nat) : Option EFn :=
  match op with
  | 0x2A => efun2A fn
  | 0x2B => efun2B fn
  | 0x2C => efun2C fn
  | 0x2D => efun2D fn
  | 0x2E => efun2E fn
  | 0x2F => efun2F fn
  | 0x30 => efun30 fn
  | 0x31 => efun31 fn
  | 0x32 => efun32 fn
  | _ => none

/-- The fields of an F-E instruction (R49). -/
def feOf (u w : BitVec 32) : FE :=
  { tk := tokOf u, d := u.extractLsb' 17 5, a := u.extractLsb' 12 5, b := u.extractLsb' 7 5,
    wait := w.extractLsb' 16 16, sig := w.extractLsb' 0 16 }

/-- An F-E instruction: two units. -/
def decodeE (u : BitVec 32) (rest : List (BitVec 32)) : Decoded :=
  match rest, efun (opOf u) (unitBits u 6 2) with
  | w :: _, some c => if unitBits u 1 0 = 0 then accept (some (.e c (feOf u w))) 2 else .illegal
  | _, _ => .illegal

/-- A branch (R104). -/
def branchOf (u w : BitVec 32) : Option Code :=
  let t := tokOf u; let a : BitVec 5 := u.extractLsb' 17 5
  let line : BitVec 24 := w.extractLsb' 8 24; let unit : BitVec 4 := w.extractLsb' 4 4
  match unitBits u 16 14 with
  | 0 => if a = 0 then some (.one (.b t line unit)) else none
  | 1 => some (.one (.beqz t a line unit))
  | 2 => some (.one (.bnez t a line unit))
  | 3 => some (.one (.bltz t a line unit))
  | 4 => some (.one (.bgez t a line unit))
  | 5 => some (.one (.bgtz t a line unit))
  | 6 => some (.one (.blez t a line unit))
  | _ => some (.one (.bloop t a line unit))

/-- An F-B instruction: two units. -/
def decodeB (u : BitVec 32) (rest : List (BitVec 32)) : Decoded :=
  match rest with
  | w :: _ =>
    if unitBits u 13 0 = 0 ∧ unitBits w 3 0 = 0 then
      if opOf u = 0x20 then accept (branchOf u w) 2
      else if unitBits u 21 14 = 0 then
        accept (some (.one (.call (tokOf u) (w.extractLsb' 8 24) (w.extractLsb' 4 4)))) 2
      else .illegal
    else .illegal
  | [] => .illegal

/-- The instruction that begins at the first of `us`, the units from the program counter to the line's last unit in use
(R49, R61, R63). -/
def decodeUnits : List (BitVec 32) → Decoded
  | [] => .illegal
  | u :: rest =>
    match opOf u with
    | 0x00 => decode00 u rest
    | 0x01 => decode01 u rest
    | 0x02 => decode02 u rest
    | 0x03 => decode03 u rest
    | 0x04 => decode04 u rest
    | 0x05 => decode05 u rest
    | 0x06 => decode06 u rest
    | 0x07 => decode07 u rest
    | 0x08 => decode08 u rest
    | 0x09 => decode09 u rest
    | 0x0A => decode0A u rest
    | 0x0B => decode0B u rest
    | 0x0C => decode0C u rest
    | 0x0D => decode0D u rest
    | 0x0E => decode0E u rest
    | 0x0F => decode0F u rest
    | 0x10 => decode10 u rest
    | 0x11 => decode11 u rest
    | 0x12 => decode12 u rest
    | 0x13 => decode13 u rest
    | 0x14 => decode14 u rest
    | 0x15 => decode15 u rest
    | 0x16 => decode16 u rest
    | 0x17 => decode17 u rest
    | 0x18 => decode18 u rest
    | 0x19 => decode19 u rest
    | 0x20 | 0x21 => decodeB u rest
    | 0x22 | 0x23 | 0x24 | 0x25 | 0x26 | 0x27 | 0x28 | 0x29 => decodeV u rest
    | 0x2A | 0x2B | 0x2C | 0x2D | 0x2E | 0x2F | 0x30 | 0x31 | 0x32 => decodeE u rest
    | _ => .illegal

/-- What EXEC finds at its program counter: one scalar or F-E instruction, or the instructions of a bundle (R65). -/
inductive Group where
  | single (i : Code) (len : Nat)
  | bundle (is : List (VFn × FV)) (len : Nat)
  | literal (i : Code)
  | illegal
  deriving DecidableEq, Repr

/-- A vector major. -/
def isVMajor (op : Nat) : Bool := decide (0x22 ≤ op) && decide (op ≤ 0x29)

/-- The instructions of a bundle from the first on: at most four, one VSF and one VMEM among them (R65); a missing
extended literal (R55) is reported after every other rule. -/
def bundleFrom (lit : Option Code) (vsf vmem : Bool) (len : Nat) (us : List (BitVec 32)) : Nat → Group
  | 0 => .illegal
  | fuel + 1 =>
    match us with
    | [] => .illegal
    | u :: _ =>
      let op := opOf u
      if !isVMajor op || (vsf && op == 0x25) || (vmem && op == 0x28) then .illegal else
      match decodeUnits us with
      | .illegal | .ok (.one _) _ | .ok (.e _ _) _ => .illegal
      | .literal i => if u.getLsbD 21 then .illegal else .literal (lit.getD i)
      | .ok (.v i f) n =>
        if f.bc then
          match bundleFrom lit (vsf || op == 0x25) (vmem || op == 0x28) (len + n) (us.drop n) fuel with
          | .bundle is m => .bundle ((i, f) :: is) m
          | g => g
        else match lit with
          | some j => .literal j
          | none => .bundle [(i, f)] (len + n)

/-- The issue group at the program counter of EXEC (R65). -/
def decodeGroup (us : List (BitVec 32)) : Group :=
  match us with
  | [] => .illegal
  | u :: _ =>
    if isVMajor (opOf u) then bundleFrom none false false 0 us 4
    else match decodeUnits us with
      | .ok i n => .single i n
      | .literal i => .literal i
      | .illegal => .illegal

/-- The operand bits that an opcode of R274 reads; DIRSET with S set reads no direction. -/
def prismMask (u : BitVec 16) : BitVec 16 :=
  match (u >>> 11).toNat with
  | 0 => 0xFFFF
  | 1 | 2 | 3 => 0xF803
  | 11 | 18 => 0xF807
  | 12 | 23 => 0xF87F
  | 19 | 20 | 21 | 29 | 30 | 31 => 0xF80F
  | 22 => if u.getLsbD 3 then 0xF808 else 0xF80F
  | 24 | 28 => 0xF801
  | _ => 0xF800

/-- The instruction of a row of R274 whose reserved operand bits are zero. -/
def prismRow (u : BitVec 16) : Option Instr :=
  if u &&& 0xF800 = 0x0000 then some (.pshi (u.extractLsb' 0 11))
  else if u &&& 0xFFFC = 0x0800 then some (.pshk (u.extractLsb' 0 2))
  else if u &&& 0xFFFC = 0x1000 then some (.popk (u.extractLsb' 0 2))
  else if u &&& 0xFFFF = 0x1800 then some .dup
  else if u &&& 0xFFFF = 0x1801 then some .drops
  else if u &&& 0xFFFF = 0x1802 then some .swap
  else if u &&& 0xFFFF = 0x1803 then some .over
  else if u &&& 0xFFFF = 0x2000 then some .prismAdd
  else if u &&& 0xFFFF = 0x2800 then some .prismSub
  else if u &&& 0xFFFF = 0x3000 then some .prismAnd
  else if u &&& 0xFFFF = 0x3800 then some .prismOr
  else if u &&& 0xFFFF = 0x4000 then some .prismXor
  else if u &&& 0xFFFF = 0x4800 then some .prismShl
  else if u &&& 0xFFFF = 0x5000 then some .prismShr
  else if u &&& 0xFFF8 = 0x5800 then some (.cmp (u.extractLsb' 0 3))
  else if u &&& 0xFF80 = 0x6000 then some (.get (u.extractLsb' 4 3) (u.extractLsb' 0 4))
  else if u &&& 0xFFFF = 0x6800 then some .ctrld
  else if u &&& 0xFFFF = 0x7000 then some .ctradd
  else if u &&& 0xFFFF = 0x7800 then some .swld
  else if u &&& 0xFFFF = 0x8000 then some .swadd
  else if u &&& 0xFFFF = 0x8800 then some .swcas
  else if u &&& 0xFFF8 = 0x9000 then some (.clone (u.extractLsb' 0 3))
  else if u &&& 0xFFF0 = 0x9800 then some (.brz (u.extractLsb' 0 4))
  else if u &&& 0xFFF0 = 0xA000 then some (.brnz (u.extractLsb' 0 4))
  else if u &&& 0xFFF0 = 0xA800 then some (.jmp (u.extractLsb' 0 4))
  else if u &&& 0xFFF8 = 0xB000 then some (.dirset (u.extractLsb' 0 3))
  else if u &&& 0xFFFF = 0xB008 then some .dirsetStack
  else if u &&& 0xFFC0 = 0xB800 then some (.dirmin (u.extractLsb' 0 6))
  else if u &&& 0xFFC0 = 0xB840 then some (.dirminNa (u.extractLsb' 0 6))
  else if u &&& 0xFFFF = 0xC000 then some .dirto
  else if u &&& 0xFFFF = 0xC001 then some .dirtoStack
  else if u &&& 0xFFFF = 0xC800 then some .fwd
  else if u &&& 0xFFFF = 0xD000 then some .dlvr
  else if u &&& 0xFFFF = 0xD800 then some .park
  else if u &&& 0xFFFF = 0xE000 then some .drop
  else if u &&& 0xFFFF = 0xE001 then some .dropN
  else if u &&& 0xFFF0 = 0xE800 then some (.pldw (u.extractLsb' 0 4))
  else if u &&& 0xFFF0 = 0xF000 then some (.pstw (u.extractLsb' 0 4))
  else if u &&& 0xFFF0 = 0xF800 then some (.entry (u.extractLsb' 0 4))
  else none

/-- A prism instruction: reserved operand bits are ignored (R273). -/
def decodePrism (u : BitVec 16) : Option Instr := prismRow (u &&& prismMask u)

/-- The kind tag and field of a scalar operand. -/
def SOp.bits : SOp → BitVec 2 × BitVec 5
  | .reg r => (1, r)
  | .bank f => (2, f)
  | .lit v => (3, v)
  | .ext _ => (3, 16)
/-- The extended unit of scalar operands. -/
def SOp.unit : SOp → List (BitVec 32)
  | .ext v => [v]
  | _ => []
/-- The kind tag and field of a vector operand. -/
def VOp.bits : VOp → BitVec 2 × BitVec 7
  | .vec n => (0, n)
  | .reg f => (1, f)
  | .bank f => (2, f)
  | .lit v => (3, v)
  | .ext _ => (3, 64)
/-- The extended unit of vector operands. -/
def VOp.unit : VOp → List (BitVec 32)
  | .ext v => [v]
  | _ => []
/-- A row's fixed bits with the token field placed. -/
def base (m : BitVec 32) (t : Tok) : BitVec 32 :=
  m ||| (t.pop.setWidth 32 <<< 24) ||| (t.push.setWidth 32 <<< 22)
/-- A field placed at `lo`. -/
def put {w : Nat} (v : BitVec w) (lo : Nat) : BitVec 32 := v.setWidth 32 <<< lo
/-- Operand A of F-S. -/
def putA (a : SOp) : BitVec 32 := put a.bits.1 15 ||| put a.bits.2 10
/-- Operand B of F-S. -/
def putB (b : SOp) : BitVec 32 := put b.bits.1 8 ||| put b.bits.2 3
/-- The units of an F-V instruction (R49). -/
def encodeV (op fn : Nat) (f : FV) : List (BitVec 32) :=
  [base (BitVec.ofNat 32 (op * 2 ^ 26 + fn)) f.tk ||| put (BitVec.ofBool f.bc) 21 ||| put f.vd 14 ||| put f.a.bits.1 12
     ||| put f.a.bits.2 5,
   put f.b.bits.1 30 ||| put f.b.bits.2 23 ||| put f.c.bits.1 21 ||| put f.c.bits.2 14 ||| put f.msk 11
     ||| put f.vt 8 ||| put f.rm 5 ||| put (BitVec.ofBool f.sat) 4 ||| put f.aux 0]
  ++ f.a.unit ++ f.b.unit ++ f.c.unit
/-- The units of an F-E instruction (R49). -/
def encodeE (op fn : Nat) (f : FE) : List (BitVec 32) :=
  [base (BitVec.ofNat 32 (op * 2 ^ 26 + fn * 4)) f.tk ||| put f.d 17 ||| put f.a 12 ||| put f.b 7,
   put f.wait 16 ||| put f.sig 0]
/-- The units of a branch or call (R49). -/
def encodeB (op cond : Nat) (t : Tok) (a : BitVec 5) (line : BitVec 24) (unit : BitVec 4) : List (BitVec 32) :=
  [base (BitVec.ofNat 32 (op * 2 ^ 26 + cond * 2 ^ 14)) t ||| put a 17, put line 8 ||| put unit 4]

/-- The units of an instruction of a core; empty for prism instructions and for steps without an encoding. -/
def encode : Instr → List (BitVec 32)
  | .nop t => [base 0x00000000 t]
  | .sqstop t => [base 0x00000001 t]
  | .sqwait t a => [base 0x00000002 t ||| putA a] ++ a.unit
  | .sqsig t a => [base 0x00000003 t ||| putA a] ++ a.unit
  | .rdstep t d => [base 0x00000004 t ||| put d 17]
  | .rdcyc t d => [base 0x00000005 t ||| put d 17]
  | .waitstep t a => [base 0x00000006 t ||| putA a] ++ a.unit
  | .sqid t d => [base 0x00000007 t ||| put d 17]
  | .add t d a b => [base 0x04000000 t ||| put d 17 ||| putA a ||| putB b] ++ a.unit ++ b.unit
  | .sub t d a b => [base 0x04000001 t ||| put d 17 ||| putA a ||| putB b] ++ a.unit ++ b.unit
  | .and t d a b => [base 0x04000002 t ||| put d 17 ||| putA a ||| putB b] ++ a.unit ++ b.unit
  | .or t d a b => [base 0x04000003 t ||| put d 17 ||| putA a ||| putB b] ++ a.unit ++ b.unit
  | .xor t d a b => [base 0x04000004 t ||| put d 17 ||| putA a ||| putB b] ++ a.unit ++ b.unit
  | .andn t d a b => [base 0x04000005 t ||| put d 17 ||| putA a ||| putB b] ++ a.unit ++ b.unit
  | .min t d a b => [base 0x04000006 t ||| put d 17 ||| putA a ||| putB b] ++ a.unit ++ b.unit
  | .max t d a b => [base 0x04000007 t ||| put d 17 ||| putA a ||| putB b] ++ a.unit ++ b.unit
  | .minu t d a b => [base 0x08000000 t ||| put d 17 ||| putA a ||| putB b] ++ a.unit ++ b.unit
  | .maxu t d a b => [base 0x08000001 t ||| put d 17 ||| putA a ||| putB b] ++ a.unit ++ b.unit
  | .shl t d a b => [base 0x08000002 t ||| put d 17 ||| putA a ||| putB b] ++ a.unit ++ b.unit
  | .shr t d a b => [base 0x08000003 t ||| put d 17 ||| putA a ||| putB b] ++ a.unit ++ b.unit
  | .sar t d a b => [base 0x08000004 t ||| put d 17 ||| putA a ||| putB b] ++ a.unit ++ b.unit
  | .rotl t d a b => [base 0x08000005 t ||| put d 17 ||| putA a ||| putB b] ++ a.unit ++ b.unit
  | .clz t d a => [base 0x08000006 t ||| put d 17 ||| putA a] ++ a.unit
  | .popc t d a => [base 0x08000007 t ||| put d 17 ||| putA a] ++ a.unit
  | .mul t d a b => [base 0x0C000000 t ||| put d 17 ||| putA a ||| putB b] ++ a.unit ++ b.unit
  | .mulh t d a b => [base 0x0C000001 t ||| put d 17 ||| putA a ||| putB b] ++ a.unit ++ b.unit
  | .mulhu t d a b => [base 0x0C000002 t ||| put d 17 ||| putA a ||| putB b] ++ a.unit ++ b.unit
  | .div t d a b => [base 0x0C000003 t ||| put d 17 ||| putA a ||| putB b] ++ a.unit ++ b.unit
  | .divu t d a b => [base 0x0C000004 t ||| put d 17 ||| putA a ||| putB b] ++ a.unit ++ b.unit
  | .rem t d a b => [base 0x0C000005 t ||| put d 17 ||| putA a ||| putB b] ++ a.unit ++ b.unit
  | .remu t d a b => [base 0x0C000006 t ||| put d 17 ||| putA a ||| putB b] ++ a.unit ++ b.unit
  | .addw t d a b => [base 0x0C000007 t ||| put d 17 ||| putA a ||| putB b] ++ a.unit ++ b.unit
  | .ceq t d a b => [base 0x10000000 t ||| put d 17 ||| putA a ||| putB b] ++ a.unit ++ b.unit
  | .cne t d a b => [base 0x10000001 t ||| put d 17 ||| putA a ||| putB b] ++ a.unit ++ b.unit
  | .clt t d a b => [base 0x10000002 t ||| put d 17 ||| putA a ||| putB b] ++ a.unit ++ b.unit
  | .cltu t d a b => [base 0x10000003 t ||| put d 17 ||| putA a ||| putB b] ++ a.unit ++ b.unit
  | .cle t d a b => [base 0x10000004 t ||| put d 17 ||| putA a ||| putB b] ++ a.unit ++ b.unit
  | .cleu t d a b => [base 0x10000005 t ||| put d 17 ||| putA a ||| putB b] ++ a.unit ++ b.unit
  | .csel t d a b => [base 0x10000006 t ||| put d 17 ||| putA a ||| putB b] ++ a.unit ++ b.unit
  | .mov t d a => [base 0x10000007 t ||| put d 17 ||| putA a] ++ a.unit
  | .adds1 t d a b => [base 0x14000000 t ||| put d 17 ||| putA a ||| putB b] ++ a.unit ++ b.unit
  | .adds2 t d a b => [base 0x14000001 t ||| put d 17 ||| putA a ||| putB b] ++ a.unit ++ b.unit
  | .adds3 t d a b => [base 0x14000002 t ||| put d 17 ||| putA a ||| putB b] ++ a.unit ++ b.unit
  | .adds4 t d a b => [base 0x14000003 t ||| put d 17 ||| putA a ||| putB b] ++ a.unit ++ b.unit
  | .sextb t d a => [base 0x14000004 t ||| put d 17 ||| putA a] ++ a.unit
  | .sexth t d a => [base 0x14000005 t ||| put d 17 ||| putA a] ++ a.unit
  | .sextw t d a => [base 0x14000006 t ||| put d 17 ||| putA a] ++ a.unit
  | .zextw t d a => [base 0x14000007 t ||| put d 17 ||| putA a] ++ a.unit
  | .addi t d a i => [base 0x18000000 t ||| put d 17 ||| put a 12 ||| put i 0]
  | .andi t d a i => [base 0x1C000000 t ||| put d 17 ||| put a 12 ||| put i 0]
  | .ori t d a i => [base 0x20000000 t ||| put d 17 ||| put a 12 ||| put i 0]
  | .xori t d a i => [base 0x24000000 t ||| put d 17 ||| put a 12 ||| put i 0]
  | .shli t d a n => [base 0x28000000 t ||| put d 17 ||| put a 12 ||| put n 0]
  | .shri t d a n => [base 0x28000400 t ||| put d 17 ||| put a 12 ||| put n 0]
  | .sari t d a n => [base 0x28000800 t ||| put d 17 ||| put a 12 ||| put n 0]
  | .rotli t d a n => [base 0x28000C00 t ||| put d 17 ||| put a 12 ||| put n 0]
  | .li t d i => [base 0x2C000000 t ||| put d 17 ||| put i 0]
  | .qput t a b => [base 0x30000300 t ||| putA a ||| put b 3] ++ a.unit
  | .qget t d b => [base 0x30000301 t ||| put d 17 ||| put b 3]
  | .qpeek t d b => [base 0x30000302 t ||| put d 17 ||| put b 3]
  | .qcnt t d b => [base 0x30000303 t ||| put d 17 ||| put b 3]
  | .tokgive t a b => [base 0x30000304 t ||| putA a ||| put b 3] ++ a.unit
  | .toktake t a b => [base 0x30000305 t ||| putA a ||| put b 3] ++ a.unit
  | .tokcntIn t d b => [base 0x30018306 t ||| put d 17 ||| put b 3]
  | .tokcntOut t d b => [base 0x30018706 t ||| put d 17 ||| put b 3]
  | .mfsr t d i => [base 0x34000000 t ||| put d 17 ||| put i 0]
  | .mtsr t a i => [base 0x38000000 t ||| put a 12 ||| put i 0]
  | .cbld t a n e => [base 0x3C000000 t ||| put a 12 ||| put n 8 ||| put e 0]
  | .ldb t d a o => [base 0x40000000 t ||| put d 17 ||| put a 12 ||| put o 0]
  | .ldbu t d a o => [base 0x40000200 t ||| put d 17 ||| put a 12 ||| put o 0]
  | .ldh t d a o => [base 0x40000400 t ||| put d 17 ||| put a 12 ||| put o 0]
  | .ldhu t d a o => [base 0x40000600 t ||| put d 17 ||| put a 12 ||| put o 0]
  | .ldw t d a o => [base 0x40000800 t ||| put d 17 ||| put a 12 ||| put o 0]
  | .ldwu t d a o => [base 0x40000A00 t ||| put d 17 ||| put a 12 ||| put o 0]
  | .ldd t d a o => [base 0x40000C00 t ||| put d 17 ||| put a 12 ||| put o 0]
  | .stb t d a o => [base 0x44000000 t ||| put d 17 ||| put a 12 ||| put o 0]
  | .sth t d a o => [base 0x44000400 t ||| put d 17 ||| put a 12 ||| put o 0]
  | .stw t d a o => [base 0x44000800 t ||| put d 17 ||| put a 12 ||| put o 0]
  | .std t d a o => [base 0x44000C00 t ||| put d 17 ||| put a 12 ||| put o 0]
  | .ldqB t d a o => [base 0x48000000 t ||| put d 17 ||| put a 12 ||| put o 0]
  | .ldqBu t d a o => [base 0x48000200 t ||| put d 17 ||| put a 12 ||| put o 0]
  | .ldqH t d a o => [base 0x48000400 t ||| put d 17 ||| put a 12 ||| put o 0]
  | .ldqHu t d a o => [base 0x48000600 t ||| put d 17 ||| put a 12 ||| put o 0]
  | .ldqW t d a o => [base 0x48000800 t ||| put d 17 ||| put a 12 ||| put o 0]
  | .ldqWu t d a o => [base 0x48000A00 t ||| put d 17 ||| put a 12 ||| put o 0]
  | .ldqD t d a o => [base 0x48000C00 t ||| put d 17 ||| put a 12 ||| put o 0]
  | .pref t a o => [base 0x4C000000 t ||| put a 12 ||| put o 0]
  | .cwb t a o => [base 0x4C000200 t ||| put a 12 ||| put o 0]
  | .cinv t a o => [base 0x4C000400 t ||| put a 12 ||| put o 0]
  | .cflush t a o => [base 0x4C000600 t ||| put a 12 ||| put o 0]
  | .zero t a o => [base 0x4C000800 t ||| put a 12 ||| put o 0]
  | .blkld t d a b => [base 0x50000000 t ||| put d 17 ||| putA a ||| putB b] ++ a.unit ++ b.unit
  | .blkst t d a b => [base 0x50000001 t ||| put d 17 ||| putA a ||| putB b] ++ a.unit ++ b.unit
  | .blkrow t d a b => [base 0x50000002 t ||| put d 17 ||| putA a ||| putB b] ++ a.unit ++ b.unit
  | .fence t s y => [base 0x54018300 t ||| put s 10 ||| put y 3]
  | .qfence t a s => [base 0x54000301 t ||| putA a ||| put s 3] ++ a.unit
  | .amoadd t d a b z o => [base 0x58000000 t ||| put d 17 ||| put a 12 ||| put b 7 ||| put z 2 ||| put o 0]
  | .amoand t d a b z o => [base 0x58000008 t ||| put d 17 ||| put a 12 ||| put b 7 ||| put z 2 ||| put o 0]
  | .amoor t d a b z o => [base 0x58000010 t ||| put d 17 ||| put a 12 ||| put b 7 ||| put z 2 ||| put o 0]
  | .amoxor t d a b z o => [base 0x58000018 t ||| put d 17 ||| put a 12 ||| put b 7 ||| put z 2 ||| put o 0]
  | .amomin t d a b z o => [base 0x58000020 t ||| put d 17 ||| put a 12 ||| put b 7 ||| put z 2 ||| put o 0]
  | .amomax t d a b z o => [base 0x58000028 t ||| put d 17 ||| put a 12 ||| put b 7 ||| put z 2 ||| put o 0]
  | .amominu t d a b z o => [base 0x58000030 t ||| put d 17 ||| put a 12 ||| put b 7 ||| put z 2 ||| put o 0]
  | .amomaxu t d a b z o => [base 0x58000038 t ||| put d 17 ||| put a 12 ||| put b 7 ||| put z 2 ||| put o 0]
  | .amoswap t d a b z o => [base 0x58000040 t ||| put d 17 ||| put a 12 ||| put b 7 ||| put z 2 ||| put o 0]
  | .amofadd t d a b o => [base 0x58000048 t ||| put d 17 ||| put a 12 ||| put b 7 ||| put o 0]
  | .amofmin t d a b o => [base 0x58000050 t ||| put d 17 ||| put a 12 ||| put b 7 ||| put o 0]
  | .amofmax t d a b o => [base 0x58000058 t ||| put d 17 ||| put a 12 ||| put b 7 ||| put o 0]
  | .amocas t d a b z o => [base 0x58000060 t ||| put d 17 ||| put a 12 ||| put b 7 ||| put z 2 ||| put o 0]
  | .rngclaim t d a => [base 0x5C000000 t ||| put d 17 ||| putA a] ++ a.unit
  | .rngpub t a b => [base 0x5C000001 t ||| putA a ||| putB b] ++ a.unit ++ b.unit
  | .rngwfill t d a b => [base 0x5C000002 t ||| put d 17 ||| putA a ||| putB b] ++ a.unit ++ b.unit
  | .rngwfree t d a b => [base 0x5C000003 t ||| put d 17 ||| putA a ||| putB b] ++ a.unit ++ b.unit
  | .rngrel t a b => [base 0x5C000004 t ||| putA a ||| putB b] ++ a.unit ++ b.unit
  | .rngstat t d a => [base 0x5C000005 t ||| put d 17 ||| putA a] ++ a.unit
  | .rnginit t a b => [base 0x5C000006 t ||| putA a ||| putB b] ++ a.unit ++ b.unit
  | .rngpeek t d a b => [base 0x5C000007 t ||| put d 17 ||| putA a ||| putB b] ++ a.unit ++ b.unit
  | .bararr t d a l => [base 0x60000300 t ||| put d 17 ||| putA a ||| put l 3] ++ a.unit
  | .barwait t d a l => [base 0x60000301 t ||| put d 17 ||| putA a ||| put l 3] ++ a.unit
  | .barsync t d a l => [base 0x60000302 t ||| put d 17 ||| putA a ||| put l 3] ++ a.unit
  | .barinit t a l => [base 0x60000303 t ||| putA a ||| put l 3] ++ a.unit
  | .ret t => [base 0x64000000 t]
  | .jmpr t a => [base 0x64000001 t ||| putA a] ++ a.unit
  | .callr t a => [base 0x64000002 t ||| putA a] ++ a.unit
  | .trap t a => [base 0x64000003 t ||| putA a] ++ a.unit
  | .brk t => [base 0x64000004 t]
  | .b t line unit => encodeB 0x20 0 t 0 line unit
  | .beqz t a line unit => encodeB 0x20 1 t a line unit
  | .bnez t a line unit => encodeB 0x20 2 t a line unit
  | .bltz t a line unit => encodeB 0x20 3 t a line unit
  | .bgez t a line unit => encodeB 0x20 4 t a line unit
  | .bgtz t a line unit => encodeB 0x20 5 t a line unit
  | .blez t a line unit => encodeB 0x20 6 t a line unit
  | .bloop t a line unit => encodeB 0x20 7 t a line unit
  | .call t line unit => encodeB 0x21 0 t 0 line unit
  | .vadd f => encodeV 0x22 0 f
  | .vsub f => encodeV 0x22 1 f
  | .vmul f => encodeV 0x22 2 f
  | .vfma f => encodeV 0x22 3 f
  | .vfms f => encodeV 0x22 4 f
  | .vmin f => encodeV 0x22 5 f
  | .vmax f => encodeV 0x22 6 f
  | .vabs f => encodeV 0x22 7 f
  | .vneg f => encodeV 0x22 8 f
  | .vdiv f => encodeV 0x22 9 f
  | .vsqrt f => encodeV 0x22 10 f
  | .vcpys f => encodeV 0x22 11 f
  | .viadd f => encodeV 0x23 0 f
  | .visub f => encodeV 0x23 1 f
  | .vimul f => encodeV 0x23 2 f
  | .vimin f => encodeV 0x23 3 f
  | .vimax f => encodeV 0x23 4 f
  | .viabs f => encodeV 0x23 5 f
  | .vand f => encodeV 0x23 6 f
  | .vor f => encodeV 0x23 7 f
  | .vxor f => encodeV 0x23 8 f
  | .vnot f => encodeV 0x23 9 f
  | .vshl f => encodeV 0x23 10 f
  | .vshr f => encodeV 0x23 11 f
  | .vsar f => encodeV 0x23 12 f
  | .vrotl f => encodeV 0x23 13 f
  | .vceq f => encodeV 0x24 0 f
  | .vcne f => encodeV 0x24 1 f
  | .vclt f => encodeV 0x24 2 f
  | .vcle f => encodeV 0x24 3 f
  | .vcltu f => encodeV 0x24 4 f
  | .vcleu f => encodeV 0x24 5 f
  | .vfclass f => encodeV 0x24 6 f
  | .vsel f => encodeV 0x24 7 f
  | .vmand f => encodeV 0x24 8 f
  | .vmor f => encodeV 0x24 9 f
  | .vmcnt f => encodeV 0x24 10 f
  | .vexp2 f => encodeV 0x25 0 f
  | .vlog2 f => encodeV 0x25 1 f
  | .vrcp f => encodeV 0x25 2 f
  | .vrsqrt f => encodeV 0x25 3 f
  | .vtanh f => encodeV 0x25 4 f
  | .verf f => encodeV 0x25 5 f
  | .vredadd f => encodeV 0x26 0 f
  | .vredmax f => encodeV 0x26 1 f
  | .vredmin f => encodeV 0x26 2 f
  | .vscan f => encodeV 0x26 3 f
  | .vshuf f => encodeV 0x26 4 f
  | .vbcast f => encodeV 0x26 5 f
  | .vextr f => encodeV 0x26 6 f
  | .viota f => encodeV 0x26 7 f
  | .vcvt f => encodeV 0x27 0 f
  | .vpack f => encodeV 0x27 1 f
  | .vunpk f => encodeV 0x27 2 f
  | .vscale f => encodeV 0x27 3 f
  | .vrnd f => encodeV 0x27 4 f
  | .vld f => encodeV 0x28 0 f
  | .vst f => encodeV 0x28 1 f
  | .vlds f => encodeV 0x28 2 f
  | .vsts f => encodeV 0x28 3 f
  | .vgath f => encodeV 0x28 4 f
  | .vscat f => encodeV 0x28 5 f
  | .vsett f => encodeV 0x29 0 f
  | .vmov f => encodeV 0x29 1 f
  | .vmset f => encodeV 0x29 2 f
  | .vmget f => encodeV 0x29 3 f
  | .msetn f => encodeE 0x2A 0 f
  | .msets f => encodeE 0x2A 1 f
  | .mseta f => encodeE 0x2A 2 f
  | .mclrs f => encodeE 0x2A 3 f
  | .mgo f => encodeE 0x2B 0 f
  | .mwait f => encodeE 0x2B 1 f
  | .mstat f => encodeE 0x2B 2 f
  | .mabort f => encodeE 0x2B 3 f
  | .acopy f => encodeE 0x2B 4 f
  | .aclr f => encodeE 0x2B 5 f
  | .adload f => encodeE 0x2B 6 f
  | .adinv f => encodeE 0x2B 7 f
  | .copy f => encodeE 0x2C 0 f
  | .copyi f => encodeE 0x2C 1 f
  | .cpwait f => encodeE 0x2C 2 f
  | .cpstat f => encodeE 0x2C 3 f
  | .pbuild f => encodeE 0x2D 0 f
  | .psend f => encodeE 0x2D 1 f
  | .pctrw f => encodeE 0x2D 2 f
  | .pctrr f => encodeE 0x2D 3 f
  | .pctrs f => encodeE 0x2D 4 f
  | .pctra f => encodeE 0x2D 5 f
  | .pparkget f => encodeE 0x2D 6 f
  | .presume f => encodeE 0x2D 7 f
  | .epopen f => encodeE 0x2E 0 f
  | .epclose f => encodeE 0x2E 1 f
  | .msend f => encodeE 0x2E 2 f
  | .mrecv f => encodeE 0x2E 3 f
  | .mwrite f => encodeE 0x2E 4 f
  | .mread f => encodeE 0x2E 5 f
  | .tsend f => encodeE 0x2E 6 f
  | .twrite f => encodeE 0x2E 7 f
  | .tdisarm f => encodeE 0x2E 8 f
  | .mpoll f => encodeE 0x2E 9 f
  | .lease f => encodeE 0x2F 0 f
  | .lrel f => encodeE 0x2F 1 f
  | .lqry f => encodeE 0x2F 2 f
  | .lwait f => encodeE 0x2F 3 f
  | .shutw f => encodeE 0x2F 4 f
  | .shutgo f => encodeE 0x2F 5 f
  | .commdef f => encodeE 0x30 0 f
  | .ctset f => encodeE 0x30 1 f
  | .ctready f => encodeE 0x30 2 f
  | .ctwait f => encodeE 0x30 3 f
  | .ctdrop f => encodeE 0x30 4 f
  | .spawn f => encodeE 0x31 0 f
  | .merge f => encodeE 0x31 1 f
  | .tend f => encodeE 0x31 2 f
  | .twait f => encodeE 0x31 3 f
  | .succadd f => encodeE 0x31 4 f
  | .cancel f => encodeE 0x31 5 f
  | .yield f => encodeE 0x31 6 f
  | .tself f => encodeE 0x31 7 f
  | .gangjoin f => encodeE 0x31 8 f
  | .tret f => encodeE 0x32 0 f
  | .ctxsave f => encodeE 0x32 1 f
  | .ctxload f => encodeE 0x32 2 f
  | .tlbinv f => encodeE 0x32 3 f
  | .attn f => encodeE 0x32 4 f
  | .tnset f => encodeE 0x32 5 f
  | .budset f => encodeE 0x32 6 f
  | .thermrd f => encodeE 0x32 7 f
  | .retain f => encodeE 0x32 8 f
  | .wake f => encodeE 0x32 9 f
  | _ => []

/-- The word of a prism instruction (R274). -/
def encodePrism : Instr → Option (BitVec 16)
  | .pshi v => some (0x0000 ||| v.setWidth 16)
  | .pshk n => some (0x0800 ||| n.setWidth 16)
  | .popk n => some (0x1000 ||| n.setWidth 16)
  | .dup => some (0x1800)
  | .drops => some (0x1801)
  | .swap => some (0x1802)
  | .over => some (0x1803)
  | .prismAdd => some (0x2000)
  | .prismSub => some (0x2800)
  | .prismAnd => some (0x3000)
  | .prismOr => some (0x3800)
  | .prismXor => some (0x4000)
  | .prismShl => some (0x4800)
  | .prismShr => some (0x5000)
  | .cmp c => some (0x5800 ||| c.setWidth 16)
  | .get d s => some (0x6000 ||| d.setWidth 16 <<< 4 ||| s.setWidth 16)
  | .ctrld => some (0x6800)
  | .ctradd => some (0x7000)
  | .swld => some (0x7800)
  | .swadd => some (0x8000)
  | .swcas => some (0x8800)
  | .clone d => some (0x9000 ||| d.setWidth 16)
  | .brz t => some (0x9800 ||| t.setWidth 16)
  | .brnz t => some (0xA000 ||| t.setWidth 16)
  | .jmp t => some (0xA800 ||| t.setWidth 16)
  | .dirset d => some (0xB000 ||| d.setWidth 16)
  | .dirsetStack => some (0xB008)
  | .dirmin m => some (0xB800 ||| m.setWidth 16)
  | .dirminNa m => some (0xB840 ||| m.setWidth 16)
  | .dirto => some (0xC000)
  | .dirtoStack => some (0xC001)
  | .fwd => some (0xC800)
  | .dlvr => some (0xD000)
  | .park => some (0xD800)
  | .drop => some (0xE000)
  | .dropN => some (0xE001)
  | .pldw w => some (0xE800 ||| w.setWidth 16)
  | .pstw w => some (0xF000 ||| w.setWidth 16)
  | .entry t => some (0xF800 ||| t.setWidth 16)
  | _ => none

/-- The instruction that begins at the first of `us`, or none where the units decode to none. -/
noncomputable def decode (us : List (BitVec 32)) : Option Instr :=
  match decodeUnits us with
  | .ok i _ => some i.instr
  | _ => none

/-- The units that hold the number `w`, the first at the lowest address (R44), with zero units after them. -/
def unitsOf (w : Nat) : List (BitVec 32) :=
  [BitVec.ofNat 32 w, BitVec.ofNat 32 (w >>> 32), BitVec.ofNat 32 (w >>> 64)]

/-- The instruction that the decoder reads from the bits `w`: a prism instruction where the row has 16 bits, the first
instruction of a line whose units hold `w` otherwise. -/
noncomputable def decodeTableWord (nbits w : Nat) : Option Instr :=
  if nbits ≤ 16 then decodePrism (BitVec.ofNat 16 w) else decode (unitsOf w)

end Sys2Proof
end

