-- ==== Sys2Proof/Config.lean ====
section
/-! DEFINITION. What an implementation fixes and the manual leaves open: times marked "about" or not given (log 7), and
free values, constants with no body of which nothing can be proved (logs 5, 8 to 13). -/

namespace Sys2Proof.Config

/-- Cycles from issue to data for the scratchpad (R213, "about"; log 7). -/
def latSpad : Nat := 3
/-- L1 hit (R213, "about"; log 7). -/
def latL1 : Nat := 5
/-- L2 or deep store, 20 ns (R213, "about"; log 7). -/
def latNear : Nat := 50
/-- HBM, 110 ns (R213, "about"; log 7). -/
def latHbm : Nat := 275
/-- Host memory: no figure is given, and the model takes that of HBM (log 7). -/
def latHost : Nat := latHbm
/-- Placement: no figure is given, and the model leaves its time out (log 7). -/
def latPlace : Nat := 1
/-- A steal takes about 40 ns (R378; log 7). -/
def latSteal : Nat := 100
/-- What an access of a vector or a copy at another node takes: the most one way that R28 gives, 114 ns (log 7). -/
def latFabric : Nat := 285
/-- One link, or a turn and the first segment of a circuit: the time of a router, 12 ns (R28; log 7). -/
def latHop : Nat := 30
/-- Each further segment of a circuit: so much that the longest way of three legs stays within the 114 ns of R28 (log 7). -/
def latSeg : Nat := 5
/-- A lens fill: no figure is given, and the model takes that of HBM (log 7). -/
def latFill : Nat := latHbm
/-- An endpoint context fetch takes about 1 µs (R300; log 7). -/
def latEndpoint : Nat := 2500
/-- A DIE barrier completes in 40 ns (R247; log 7). -/
def latDie : Nat := 100
/-- A DOMAIN barrier completes within 650 ns (R247; log 7). -/
def latDomain : Nat := 1625
/-- Signing takes at most 20 ms (R455; log 7). -/
def latSign : Nat := 50000000
/-- Entry to and exit from retention, 13.1 µs (R208). -/
def latRetain : Nat := 32750
/-- Frame length in cc: 6,250 steps of 4 cc (R31). -/
def frameCc : Nat := 25000
/-- Steps of a frame (R31). -/
def frameSteps : Nat := 6250

/-- A byte whose place R418 does not give, and any other byte the manual leaves open (log 10). -/
opaque freeByte : Nat → Byte
/-- A 64-bit value that the manual does not state (log 5). -/
opaque freeWord : Nat → Word
/-- Which of two permitted values a racing access takes (R197 and the like; log 8). -/
opaque choice : Nat → Bool
/-- How many DETERM entries a spill region of so many MiB holds (R237; log 8). -/
opaque spillEntries : Nat → Nat
/-- The vendor key digest fused into the die (R454; log 9). -/
opaque vendorDigest : BitVec 512
/-- The device serial of the report (R455; log 9). -/
opaque deviceSerial : BitVec 128
/-- An RSA-4096 key pair (R454, R455): a modulus of 4,096 bits, a public exponent of 32 and a secret one that undoes it. What it
is made of stands in no rule. -/
structure KeyPair where
  modulus  : Nat := 2 ^ 4095
  exponent : Nat := 1
  secret   : Nat := 1
  modulus_ge  : 2 ^ 4095 ≤ modulus := by exact Nat.le_refl _
  modulus_lt  : modulus < 2 ^ 4096 := by exact Nat.pow_lt_pow_right (by decide) (by decide)
  exponent_lt : exponent < 2 ^ 32 := by exact (by decide : 1 < 2 ^ 32)
  secret_lt   : secret < 2 ^ 4096 := by exact Nat.one_lt_two_pow (by decide)
  pair : ∀ x, x < modulus → (x ^ secret % modulus) ^ exponent % modulus = x := by
    intro x h
    rw [Nat.pow_one, Nat.pow_one, Nat.mod_eq_of_lt h, Nat.mod_eq_of_lt h]
  deriving Inhabited

/-- The device identity key (R455; log 9). -/
opaque identity : KeyPair
/-- The 64 bytes of salt of a signature (R454; log 9). -/
opaque signSalt : Nat → BitVec 512
/-- Whether a read of the image over CXL.mem fails (R448; log 11). -/
opaque cxlReadFails : Nat → Bool
/-- The failure code with which a node's BRINGUP ends, 0 for success (R448; log 11). -/
opaque bringupFail : Nat → Nat
/-- The physical site of a logical quad and of a logical slice (R18, R452; log 11). -/
opaque quadSite : Nat → Nat → Nat
/-- The physical place of a logical slice (R18, R452; log 11). -/
opaque sliceSite : Nat → Nat → Nat
/-- The GSC that a node loads at BRINGUP (R333; log 11). -/
opaque gscAtBringup : Nat → Nat

end Sys2Proof.Config
end

