-- ==== Sys2Proof/Machine/State.lean ====
section
/-! DEFINITION. The state of the machine as plain data: every node of the torus with its cores, quads, engines, memories
and host window; what travels on the fabric; and which agent moves next. A sparse map's default is the value after
reset, so an unlisted node, core, quad or register stands as reset left it. -/

namespace Sys2Proof.Machine

/-- Why a step stops with a fault. The machine itself reports every fault of the spec as a trap (R405), which is a next
state, so no instruction and no event of a well-formed state stops here. -/
inductive Fault where
  /-- Raised by `exec` on a term that is not well formed (an event that names a core above 255, say). No decoder gives
  such a term and no agent makes one. Safe: the machine has no such term. -/
  | illFormed
  deriving DecidableEq, Repr

/-- Why a step gives no meaning. -/
inductive Refusal where
  /-- Raised by an arm of `exec` that has no meaning yet. Safe: nothing is claimed of such an instruction. -/
  | notModelled (mnemonic : String)
  deriving DecidableEq, Repr

/-- The canonical form of a memory: addresses strictly rising, no listed byte equal to 0. -/
def Memory.wf (m : Memory) : Bool := smWf 0 m

/-- Page kinds (R194). -/
inductive Kind where
  | strong | release | unordered | determ
  deriving DecidableEq, Repr, Inhabited

/-- Where a checked access is performed (R188 to R194): a physical line, a scratchpad, or another node. -/
inductive Target where
  | mem (sp : Space) (pa : Nat) (kind : Kind) (zp : Bool)
  | spad (core off : Nat)
  | remote (node : Nat) (relaxed : Bool) (off : Nat)
  deriving DecidableEq, Repr, Inhabited

/-- The states of R94. -/
inductive SeqStatus where
  | idle | running | blocked | stopped
  deriving DecidableEq, Repr, Inhabited

/-- The line a sequencer has fetched, or the fault its fetch met (R40, R46, R48). -/
inductive LineBuf where
  | none
  | ready (idx : Nat) (bits : BitVec 512)
  | bad (idx : Nat) (code : Nat) (addr : Word)
  deriving DecidableEq, Repr, Inhabited

/-- An access that has issued and has not returned: LD, LDQ or an atomic (R213, R216, R238); `aBit` is where an atomic still
to be performed sets the A bit of its page's entry (R196). -/
structure PendAcc where
  tag    : Nat
  va     : Word
  tgt    : Target
  size   : Nat
  signed : Bool
  aop    : Option Nat
  op     : Word
  cmp    : Word
  rel    : Bool
  acq    : Bool
  reg    : Option Reg
  queue  : Option (Nat × Nat)
  data   : Option (BitVec 64)
  code   : Nat
  tok    : Option Nat
  pop    : Nat
  pc     : BitVec 28
  sent   : Nat
  aBit   : Option Nat
  deriving DecidableEq, Repr, Inhabited

/-- What an F-E instruction that waits for an answer gives back should it fault after all (R297): its program
counter, the cc of its request, the FIFO it popped from (16: none), the flags it took, its push and its SIGMASK. -/
structure Back where
  pc   : BitVec 28
  sent : Nat
  pop  : Nat
  wait : BitVec 16
  tok  : Option Nat
  sig  : BitVec 16
  deriving DecidableEq, Repr, Inhabited

/-- What keeps a sequencer from issuing after an instruction has issued. -/
inductive Hold where
  | none
  | load (p : PendAcc)
  | atomic (p : PendAcc)
  | parkget (d : Reg) (off node : Nat) (b : Back)
  | join (id : Nat) (scope : Nat) (tok : Option Nat)
  | barrier (lvl own id : Nat) (phase : BitVec 32) (d : Reg) (tok : Option Nat)
  deriving DecidableEq, Repr, Inhabited

/-- One sequencer (R93, R94). `past`: it has passed the last unit of the line of `pc`, and END or a NEXT that R46 refuses
leaves it there (R45 to R47). `regs`, `bank` and `phases` read 0, 0 and none where unlisted. -/
structure Sequencer where
  status  : SeqStatus := .idle
  regs    : SMap Word := []
  pc      : BitVec 28 := 0
  past    : Bool := false
  rstack  : List (BitVec 28) := []
  bank    : SMap Word := []
  cbb     : Word := 0
  span    : Nat := 0
  quiet   : Bool := true
  gscHi   : Option (BitVec 32) := none
  line    : LineBuf := .none
  hold    : Hold := .none
  issued  : BitVec 32 := 0
  notBefore : Nat := 0
  phases  : SMap (Option (BitVec 32)) := []
  doneQ   : SMap Bool := []
  deriving DecidableEq, Repr, Inhabited

/-- A token FIFO (R109): N, V, and the tokens popped in this cc that its producer does not see yet. -/
structure Fifo where
  n : Nat := 0
  v : Nat := 0
  popped : Nat := 0
  deriving DecidableEq, Repr, Inhabited

/-- A queue-register entry (R111, R216). -/
inductive QEntry where
  | reserved
  | filled (v : Word)
  | bad (code : Nat) (addr : Word)
  deriving DecidableEq, Repr, Inhabited

/-- A queue register: entries head first, the serial number of the head, and removals of this cc not yet seen. -/
structure QReg where
  base    : Nat := 0
  entries : List QEntry := []
  freed   : Nat := 0
  deriving DecidableEq, Repr, Inhabited

/-- Where a result of latency above 1 cc goes (R411). -/
inductive Dest where
  | sreg (q : Seq) (r : Reg)
  | row (n : Nat)
  | mask (m : Nat)
  | none
  deriving DecidableEq, Repr, Inhabited

/-- A result in flight, or a landing-buffer entry (R127 to R130, R411): due cycle in the core's own cycles, destination,
value, one enable bit a byte, relay slot, token to push, whether a VMEM load made it (R132), and whose it is (R117). -/
structure Result where
  due   : Nat
  dest  : Dest
  val   : Row
  en    : Mask
  relay : Option Nat
  tok   : Option Nat
  sig   : BitVec 16
  vmem  : Bool
  seq   : Seq
  deriving DecidableEq, Repr, Inhabited

/-- A TLBINV that stands at issue (R423, R427): the other nodes whose answer is wanted, the cc of its request, the cc when this
die's accesses that used a removed entry are done, its DETERM entries that did and are not published (core, number), and
whether a node has given no answer. -/
structure TlbWait where
  left : List Nat
  sent : Nat
  due  : Nat
  dets : List (Nat × Nat)
  gone : Bool
  deriving DecidableEq, Repr, Inhabited

/-- The removal that another node's TLBINV has asked of a die and that is not answered (R427): the node and core that asked,
and what the answer waits for, as in `TlbWait`. -/
structure TlbAsk where
  src  : Nat
  core : Nat
  due  : Nat
  dets : List (Nat × Nat)
  deriving DecidableEq, Repr, Inhabited

/-- A cached translation (R197): the page's base and size in the 48-bit space, its PTE and where the PTE lies. -/
structure TlbEntry where
  asid : Nat
  base : Nat
  size : Nat
  pte  : Word
  pteAt : Nat
  deriving DecidableEq, Repr, Inhabited

/-- A table pointer in the walk cache (R197): the table of a level for the addresses that share it under an ASID. -/
structure WalkPtr where
  asid  : Nat
  level : Nat
  pref  : Nat
  table : Nat
  deriving DecidableEq, Repr, Inhabited

/-- A line of the L1 (R202). -/
structure L1Line where
  sp     : Space
  pa     : Nat
  kind   : Kind
  data   : BitVec 1024
  dirty  : BitVec 128
  poison : Bool
  way    : Nat
  cls    : Nat
  deriving DecidableEq, Repr, Inhabited

/-- A BLK that has issued and not retired (R218, R219): the lines of other nodes still to arrive with their scratchpad
offsets and addresses, its scratchpad range, the memory lines it has in the own scratchpad, and when its own lines are done. -/
structure BlkOp where
  tag    : Nat
  seq    : Seq
  store  : Bool
  lines  : List (Target × Nat)
  vas    : List Nat
  off    : Nat
  len    : Nat
  own    : List Nat
  tok    : Option Nat
  due    : Nat
  deriving DecidableEq, Repr, Inhabited

/-- A window store waiting for its acknowledgement (R215), and whether its page is STRONG at the target (R226). -/
structure WinOut where
  tag  : Nat
  seq  : Seq
  node : Nat
  addr : Word
  sent : Nat
  strong : Bool
  deriving DecidableEq, Repr, Inhabited

/-- One DETERM entry (R233): the line, the byte mask with its data or the atomic, the core index, the
tenant, the poison its bytes carry, the class its writing is charged to (R459) and its number among the core's entries. -/
structure DetEntry where
  sp     : Space
  pa     : Nat
  mask   : BitVec 128
  data   : BitVec 1024
  aop    : Option Nat
  aoff   : Nat
  asize  : Nat
  op     : Word
  cmp    : Word
  core   : Nat
  tenant : Nat
  poison : Bool
  cls    : Nat
  serial : Nat
  deriving DecidableEq, Repr, Inhabited

/-- A barrier (R247): phase count, participants, arrivals. -/
structure Barrier where
  phase : BitVec 32 := 0
  part  : Nat := 0
  arr   : Nat := 0
  deriving DecidableEq, Repr, Inhabited

/-- A stream descriptor (R152). -/
structure StreamDesc where
  w0 : Word := 0
  w1 : Word := 0
  w2 : Word := 0
  w3 : Word := 0
  w4 : Word := 0
  deriving DecidableEq, Repr, Inhabited

/-- The shadow set (R151). Unlisted descriptors are 0 and unlisted trip counts 1. -/
structure Shadow where
  sd    : SMap StreamDesc := []
  tc    : SMap Nat := []
  attr  : Word := 0
  adtab : Word := 0
  deriving DecidableEq, Repr, Inhabited

/-- What a matrix-queue entry does (R150). -/
inductive MOp where
  | go (nest : Shadow) (start : Nat)
  | acopy (dst src n : Nat)
  | aclr (first n : Nat)
  | adload (id kt nt : Nat) (nest : Shadow)
  | adinv (id : Nat) (all : Bool)
  | join (id : Nat)
  deriving DecidableEq, Repr, Inhabited

/-- A matrix-queue entry (R150): operation, flags to set, whether it has begun, reductions retired, when its next act is
due in the core's cycles, and the number of its nest (R173). -/
structure MEntry where
  op      : MOp
  sig     : BitVec 16
  id      : Nat
  begun   : Bool
  retired : Nat
  due     : Nat
  ahead   : Nat
  deriving DecidableEq, Repr, Inhabited

/-- A reduction in a working buffer (R161): its nest's entry, its number, the k-step, the cells (row `i` of the buffer is
`work i`), the side array t(i, j) at key 32·i + j, the row IDs, the table entries and the B slices read for them, the
replay list of (row, kk), the fills it waits for as (ID, KT, NT, due cycle), when its k-step is over and whether that has
read its operands, the cycle of its start, the rows that have entered the replay list (R171), and its nest's number, for
RCNT (R173). -/
structure Reduction where
  entry  : Nat
  q      : Nat
  kk     : Nat
  tile   : Nat
  work   : SMap Row
  side   : SMap (BitVec 32)
  ids    : List Nat
  tab    : List (Nat × Nat)
  bs     : List (Nat × List Byte)
  replay : List (Nat × Nat)
  fills  : List (Nat × Nat × Nat × Nat)
  due    : Nat
  done   : Bool
  ran    : Bool
  t0     : Nat
  listed : List Nat
  nseq   : Nat
  deriving DecidableEq, Repr, Inhabited

/-- A lens-cache entry (R169): tag and the bytes of its two slices as its fill read them, newest use first in the list, and
whether an uncorrectable error has struck it (R174). -/
structure LensEntry where
  tenant : Nat
  id     : Nat
  kt     : Nat
  nt     : Nat
  gen    : Nat
  rank   : Nat
  af     : Nat
  alpha  : BitVec 32
  aSlice : List Byte
  bSlice : List Byte
  bad    : Bool
  deriving DecidableEq, Repr, Inhabited

/-- A copy command (R253). -/
structure CopyCmd where
  src : Word
  dst : Word
  len0 : Nat
  n1 : Nat
  n2 : Nat
  n3 : Nat
  ss1 : Word
  ss2 : Word
  ss3 : Word
  ds1 : Word
  ds2 : Word
  ds3 : Word
  fill : Bool
  pattern : Word
  predEn : Bool
  predQ : Nat
  predSeq : BitVec 32
  bwait : BitVec 16
  bsig : BitVec 16
  deriving DecidableEq, Repr, Inhabited

/-- A copy-queue entry (R255 to R262), or a QFENCE join. -/
structure CEntry where
  cmd    : CopyCmd
  joinId : Option Nat
  seqNo  : BitVec 32
  sig    : BitVec 16
  begun  : Bool
  piece  : Nat
  bytes  : Nat
  cls    : Nat
  gin    : BitVec 32
  waitBud : Bool
  checked : Bool
  due    : Nat
  deriving DecidableEq, Repr, Inhabited

/-- A packet-buffer slot (R292). -/
inductive PSlot where
  | free
  | built (p : PImage)
  | queued (p : PImage)
  deriving DecidableEq, Repr, Inhabited

/-- A packet-queue entry: a PSEND from a slot, or a PRESUME with its node, start index and arrival direction (R293, R298). -/
structure PEntry where
  img    : PImage
  slot   : Option Nat
  resume : Option (Nat × Nat × Nat)
  joinId : Option Nat
  sig    : BitVec 16
  gin    : BitVec 32
  cls    : Nat
  deriving DecidableEq, Repr, Inhabited

/-- The stages of a message-queue entry (R308, R313): not begun, sent, locally complete or failed. -/
inductive MsgStage where
  | queued | sent | complete
  deriving DecidableEq, Repr, Inhabited

/-- A message-queue entry (R304, R313). -/
structure MsgEntry where
  op     : MsgOp
  ep     : Nat
  desc   : BitVec 512
  sseq   : BitVec 32
  sig    : BitVec 16
  tenant : Nat
  gin    : BitVec 32
  cls    : Nat
  asid   : Nat
  root   : Word
  owner  : Word
  joinId : Option Nat
  stage  : MsgStage
  deriving DecidableEq, Repr, Inhabited

/-- A collective-queue entry (R359). `ghost`: one that stayed with another core when the context of a join behind it was saved,
for which that join still waits; it takes no place here. `behind`: the joins ahead of it that were saved with their context. -/
structure CollQ where
  entry  : Nat
  joinId : Option Nat
  done   : Bool
  waiting : Bool
  ghost  : Bool
  behind : List Nat
  deriving DecidableEq, Repr, Inhabited

/-- A QFENCE join that has not left its queues (R230), the sequencer that SEQ joins, and whether its task has ended while it
stands in the collective queue (R359, R371). -/
structure Join where
  id     : Nat
  mask   : Nat
  scope  : Nat
  seq    : Option Seq
  stay   : Bool
  deriving DecidableEq, Repr, Inhabited

/-- A gang a task belongs to (R388): record number and member number. -/
structure GangRef where
  rec_ : Nat
  m    : Nat
  g    : Nat
  deriving DecidableEq, Repr, Inhabited

/-- The resident task (R366, R367, R41): what the dispatch unit read at placement, the level it was placed from, its dynamic
successors (R395), its open group's record, its gang, and the gang record and member number of a GANGJOIN that waits. -/
structure Task where
  tcb     : Word
  ctl     : Word
  args    : Word
  image   : Word
  views   : Word
  marea   : Word
  parent  : Word
  gin     : BitVec 32
  lines   : Nat
  cbase   : Nat
  clen    : Nat
  level   : Nat
  dq      : Nat
  succ    : List Word
  group   : Option Nat
  gang    : Option GangRef
  waitGang : Option (Nat × Nat)
  deriving DecidableEq, Repr, Inhabited

/-- What a core is doing: free; running a task; cut and waiting for its accesses in flight (R405); running the trap
handler, or waiting for its header (R33, R409); halted or held for the host (R409, R453); saving a voluntary cut (R420); or ending its task with a code and what
its STATUS becomes: 5 DONE, 6 FAULTED, 7 CANCELLED, 4 requeued, 2 rerun (R371, R372, R424). -/
inductive CoreMode where
  | free | run
  | cutting (k : Cause)
  | entering (k : Cause)
  | handler
  | hostHeld (inHandler : Bool) (k : Cause)
  | saving
  | ending (code : Nat) (status : Nat)
  deriving DecidableEq, Repr, Inhabited

/-- One core (R19) with its engines. Sparse maps read the value after task start where unlisted. `pre` is a preload (R421):
the tenant and TCB it was made for and the ways it zeroed;
`saveHeld` what the host holds while SAVEQ saves it (R453); `tlbOwed` the nodes that have still to answer a TLBINV which
CTRL no longer waits for; `saveId` the number of a saved context (log 10); `commWait` the cycle in which a COMMDEF that stands at issue has done its work (R361). -/
structure Core where
  mode    : CoreMode := .free
  task    : Option Task := none
  seqs    : SMap Sequencer := []
  hseq    : Sequencer := {}
  himg    : Word × Nat × Nat × Nat := (0, 0, 0, 0)
  rmode   : Nat := 0
  det     : Bool := false
  interlock : Bool := false
  vtype   : Word := 0x1101
  vwb     : Word := 0
  evt     : BitVec 16 := 0
  mprog   : Word := 0
  masks   : SMap Mask := []
  trapCause : Word := 0
  trapAddr  : Word := 0
  redLimit  : Word := 1024
  ptRoot  : Word := 0
  asid    : Word := 0
  fifos   : SMap Fifo := []
  queues  : SMap QReg := []
  inflight : List Result := []
  landing : List Result := []
  cutGsc  : Nat := 0
  resumeAt : Nat := 0
  saved   : Option Word := none
  relay   : SMap Row := []
  acc     : SMap Row := []
  spad    : Memory := []
  spadPoison : SMap Bool := []
  part    : Nat := 0
  l1      : List L1Line := []
  tlb     : List TlbEntry := []
  tlbWait : Option TlbWait := none
  tlbOwed : List Nat := []
  loads   : List PendAcc := []
  blks    : List BlkOp := []
  winOut  : List WinOut := []
  deferred : List Cause := []
  detBuf  : List DetEntry := []
  detMine : List DetEntry := []
  detFull : Bool := false
  bars    : SMap Barrier := []
  shadow  : Shadow := {}
  mq      : List MEntry := []
  dropped : List MEntry := []
  mDone   : BitVec 32 := 0
  red     : Option Reduction := none
  ret     : Option Reduction := none
  lensHits : Nat := 0
  lensMiss : Nat := 0
  replays : Nat := 0
  cq      : List CEntry := []
  cAcc    : BitVec 32 := 0
  cCmp    : BitVec 32 := 0
  slots   : SMap PSlot := []
  pq      : List PEntry := []
  pDone   : BitVec 32 := 0
  pSeqR   : BitVec 32 := 0
  pSeqO   : BitVec 32 := 0
  msgq    : List MsgEntry := []
  msgFree : Nat := 0
  firedQ  : List Nat := []
  mgDone  : BitVec 32 := 0
  armCount : BitVec 20 := 0
  collq   : List CollQ := []
  collDone : BitVec 32 := 0
  joins   : List Join := []
  preempt : Option Nat := none
  leaving : Bool := false
  detNext : Nat := 0
  accPoison : SMap Bool := []
  ctrWait : Option (Nat × Word × Option Word) := none
  commWait : Option Nat := none
  nextTag : Nat := 0
  pre     : Option (Nat × Word × List Nat) := none
  msgref  : Word := 0
  saveHeld : Option (Bool × Cause) := none
  saveId  : Nat := 0
  deriving DecidableEq, Repr, Inhabited

/-- A ring descriptor (R243 to R245). Slot states: 1 CLAIMED, 2 PUBLISHED, 3 RELEASED; `who` is the TCB of the task that
claimed a slot. -/
structure Ring where
  valid   : Bool := false
  owner   : Word := 0
  core    : Nat := 0
  head    : BitVec 16 := 0
  tail    : BitVec 16 := 0
  claimed : BitVec 16 := 0
  countL2 : Nat := 0
  slotL2  : Nat := 0
  base    : Nat := 0
  slots   : SMap Nat := []
  who     : SMap Word := []
  deriving DecidableEq, Repr, Inhabited

/-- One change of a ring as other cores come to see it (R246): when it took effect, on which core, and the counts after it. -/
structure RingLog where
  ring    : Nat
  cc      : Nat
  core    : Nat
  head    : BitVec 16
  tail    : BitVec 16
  claimed : BitVec 16
  deriving DecidableEq, Repr, Inhabited

/-- A deque or pending-list entry (R373): the TCB and the tenant under which it is read, its control word and GIN, its level
and wait count; of a pre-empted task its save area, its gang record, the quad it is bound to (R251), its rings (R243), and the cc
in which it left its core (R389). -/
structure DEntry where
  tcb    : Word
  tenant : Nat
  ctl    : Word
  gin    : BitVec 32
  level  : Nat
  wait   : Nat
  aged   : Bool
  area   : Option Word
  gang   : Option Nat
  quad   : Option Nat
  rings  : List Nat
  since  : Nat
  deriving DecidableEq, Repr, Inhabited

/-- One quad (R20): lens cache, rings, QUAD barriers, TLB, deques at key 4·DQ + level (oldest first), the thermal sensor's
reading (the environment's), the level that the temperature gives, and what the last frame boundary latched. -/
structure Quad where
  lens    : List LensEntry := []
  rings   : SMap Ring := []
  rlog    : List RingLog := []
  bars    : SMap Barrier := []
  tlb     : List TlbEntry := []
  deques  : SMap (List DEntry) := []
  lastDq  : Nat := 15
  lastVictim : Nat := 63
  lastSteal : Nat := 15
  sensor  : Nat := 0
  heat    : Nat := 0
  level   : Nat := 0
  temp    : Nat := 0
  age     : Nat := 0
  cyc     : Nat := 0
  since   : Nat := 0
  deriving DecidableEq, Repr, Inhabited

/-- A prism context or a delivery in progress (R271, R283): the packet, what the hop has done, and its stage:
0 running, 1 waiting for room, 2 waiting for earlier reservations. -/
structure Hop where
  img    : PImage
  pc     : Nat
  start  : Nat
  prev   : Nat
  steps  : Nat
  arr    : Nat
  stage  : Nat
  slot   : Nat
  until_ : Nat
  ready  : Nat
  cfg    : List Word
  deriving DecidableEq, Repr, Inhabited

/-- A packet waiting for a context (R271): its image, the direction it counts as coming from, the index its hop starts at if
PRESUME gives one, the cc of its arrival, and the link whose input buffer it occupies, 6 for none. -/
structure Arrival where
  img : PImage
  arr : Nat
  idx : Option Nat
  cc  : Nat
  via : Nat
  deriving DecidableEq, Repr, Inhabited

/-- A tenant's delivery and park ring counts held by the router (R283, R285), the changes of its produced count that wait
for a delivery in progress (R283: whether a set, and the value), and its lost notices (R451). -/
structure TenantRt where
  res     : Option Nat := none
  parkIn  : BitVec 16 := 0
  parkOut : BitVec 16 := 0
  waiting : List (Bool × Word) := []
  lost    : Word := 0
  deriving DecidableEq, Repr, Inhabited

/-- An endpoint context (R299, R312); `rnrAt` is the earliest message answered not-ready here and not performed since (R301),
`sentHome` what words 2 and 3 held when the context went to its home (R300). -/
structure Endpoint where
  opened : Bool := false
  w0 : Word := 0
  rqBase : Word := 0
  rqPost : BitVec 16 := 0
  rqTake : BitVec 16 := 0
  sSeq : BitVec 32 := 0
  rSeq : BitVec 32 := 0
  sendPend : Nat := 0
  rnrCnt : Nat := 0
  errCode : Nat := 0
  cached : Bool := false
  used : Nat := 0
  fetching : Bool := false
  rnrAt : Option (BitVec 32) := none
  miss : List Msg := []
  sentHome : Option (BitVec 16 × BitVec 16 × BitVec 32 × BitVec 32) := none
  deriving DecidableEq, Repr, Inhabited

/-- A message sent and not yet answered (R301, R308, R309): what was sent, by whom, what it does at local completion, where in the
retransmit store its payload is captured (offsets and lengths; the message then holds no bytes of its own), when it was sent, and its retry: 0 none, 1 waiting for frame `due`, 2 sent again, 3 held behind another. -/
structure OutMsg where
  msg    : Msg
  core   : Nat
  owner  : Word
  cls    : Nat
  asid   : Nat
  root   : Word
  lctr   : Nat
  sig    : BitVec 16
  capt   : List (Nat × Nat)
  done   : Bool
  sent   : Nat
  held   : Nat
  due    : Nat
  deriving DecidableEq, Repr, Inhabited

/-- An armed operation (R310). -/
structure Armed where
  write  : Bool
  ep     : Nat
  desc   : BitVec 512
  core   : Nat
  tenant : Nat
  gin    : BitVec 32
  cls    : Nat
  asid   : Nat
  root   : Word
  owner  : Word
  count  : BitVec 20
  fired  : Bool
  sseq   : BitVec 32
  sig    : BitVec 16
  deriving DecidableEq, Repr, Inhabited

/-- A lease-table entry of the node that asked (R335, R337): state 0 pending, 1 holding, 3 refused; the indices in force,
from boundary `eff1` and from boundary `eff2`; whether the holding ends then; AGE; the direction and the segments. -/
structure LeaseEntry where
  serial : Nat
  tenant : Nat
  req    : LeaseCtl
  state  : Nat
  held   : BitVec 640
  next   : BitVec 640
  eff1   : Nat
  after  : BitVec 640
  eff2   : Nat
  ends   : Bool
  notice : Bool
  age    : Nat
  dir    : Nat
  deriving DecidableEq, Repr, Inhabited

/-- A holding in an arbiter's table (R320): its tenant (none: the base holder), its segments from `lo` over `hops`, its
mode and priority, its indices in force, those that join at the next boundary and at the one after, those that leave at the
next boundary by release, and those revoked that leave at the next boundary and at the one after (R322, R323). -/
structure Holding where
  tenant : Option Nat
  src    : Nat
  entry  : Nat
  serial : Nat
  plus   : Bool
  lo     : Nat
  hops   : Nat
  timed  : Bool
  prio   : Nat
  idx    : BitVec 640
  join1  : BitVec 640
  join2  : BitVec 640
  rel1   : BitVec 640
  rev1   : BitVec 640
  rev2   : BitVec 640
  ends   : Bool
  deriving DecidableEq, Repr, Inhabited

/-- The floor of a pair (R317): its circuit and its indices. -/
structure Floor where
  plus : Bool
  lo   : Nat
  hops : Nat
  idx  : BitVec 640
  deriving DecidableEq, Repr, Inhabited

/-- One line's arbiter table (R320): floors, holdings, pending requests, releases received, and the indices that have left
use on a segment, as segment, direction and index (R319). -/
structure LineTab where
  built    : Bool := false
  floors   : List Floor := []
  holdings : List Holding := []
  requests : List LeaseCtl := []
  releases : List LeaseCtl := []
  retired  : List (Nat × Bool × Nat) := []
  deriving DecidableEq, Repr, Inhabited

/-- A packet on its way over the fabric (R265, R318, R332): the node it comes from, the number and the GSC stamp it carries,
its destination, its channel (0 ordered, 1 relaxed, 2 control), its tenant, its bytes with the header, how many packets its
transfer has, and what happens at the destination once all of them are there. -/
structure Parcel where
  src    : Nat
  seq    : Nat
  stamp  : Nat
  dst    : Nat
  ch     : Nat
  tenant : Nat
  bytes  : Nat
  parts  : Nat
  what   : Instr
  deriving DecidableEq, Repr

/-- The shutter table (R327, R340): owner, both copies, the rotations scheduled as (step, count), the running ones as (step,
count, 0 for until stopped), a clear requested, the frame of the owner's last use, the send queues as (destination, packets
left, flits of the last one, its parcel), what waits behind a full one in the same form, and the packets that are being launched
in each direction as (step when its wavelengths are free again, wavelengths). -/
structure Shutter where
  owner   : Option Nat := none
  shadow  : SMap Word := []
  active  : SMap Word := []
  runs    : List (Nat × Nat) := []
  started : Option (Nat × Nat) := none
  last    : Nat := 0
  sendq   : List (Nat × Nat × Nat × Parcel) := []
  back    : List (Nat × Nat × Nat × Parcel) := []
  taken   : SMap (List (Nat × Nat)) := []
  deriving DecidableEq, Repr, Inhabited

/-- A communicator slot (R342 to R344). -/
structure Comm where
  owner : Nat
  nr    : Nat
  ng    : Nat
  ranks : List (Nat × Nat)
  first : List Nat
  ident : Word
  deriving DecidableEq, Repr, Inhabited

/-- One chunk in flight at a leader's entry (R354): the contributions read and the operands received (by event), each as
bytes with its present blocks; the slots it holds, when its sweep is done, the partial or final result, what has been done
with it, the events to send to and those whose acceptance is awaited, and since when it waits for each event's partner. -/
structure ChunkRun where
  k       : Nat
  own     : List (BitVec 32768 × BitVec 32)
  recv    : SMap (BitVec 32768 × BitVec 32)
  slots   : Nat
  due     : Option Nat
  val     : BitVec 32768
  pres    : BitVec 32
  swept   : Bool
  granted : Bool
  final   : Bool
  sentUp  : Bool
  out     : List Nat
  acks    : List Nat
  since   : SMap Nat
  deriving DecidableEq, Repr, Inhabited

/-- A tile-table entry (R350): the image of CTSET, its status, who set and readied it, its chunks, the next one, and
chunks that came before their slot was reserved,
the grants held as (identity, TILE, chunk), and when each event's partner last sent a grant or a chunk. -/
structure Tile where
  img    : BitVec 512 := (BitVec.allOnes 96).setWidth 512 <<< 416
  tenant : Nat := 0
  ident  : Word := 0
  state  : Nat := 0
  cdone  : Nat := 0
  fcode  : Nat := 0
  core   : Nat := 0
  owner  : Word := 0
  gin    : BitVec 32 := 0
  cls    : Nat := 0
  asid   : Nat := 0
  root   : Word := 0
  runs   : List ChunkRun := []
  nextK  : Nat := 0
  early  : List Chunk := []
  grants : List (Word × Nat × Nat) := []
  heard  : SMap Nat := []
  deriving DecidableEq, Repr, Inhabited

/-- A spawn group (R381, R384): views as (base, length, operator, type, format); leaves and steps that are complete are
in `complete` as pairs (a, b), `at_` is the next view of a step under way (key 4096·a + b), `fold` that of the final fold,
`who` the core whose child completed (a, b); a fault that stopped the group, and whether TWAIT has raised it (R386). -/
structure Group where
  parent  : Word
  pcore   : Nat
  tenant  : Nat
  asid    : Nat
  root    : Word
  n       : Nat
  spawned : Nat
  views   : Word
  marea   : Word
  table   : List (Word × Nat × Nat × Nat × Nat)
  complete : List (Nat × Nat)
  fold    : Nat
  at_     : SMap Nat
  who     : SMap Nat
  fault   : Option (Nat × Word)
  raised  : Bool
  done    : Bool
  deriving DecidableEq, Repr, Inhabited

/-- A gang record (R388): tenant and key, size, the members that have joined as (m, TCB, core), whether it has formed
and in which cc, the members that a fault has ended, and those whose trap is not yet resumed (R390). -/
structure Gang where
  tenant : Nat
  key    : BitVec 32
  g      : Nat
  gin    : BitVec 32
  dq     : Nat
  cls    : Nat
  members : List (Nat × Word × Nat)
  formed : Bool
  since  : Nat
  gone   : List Nat
  held   : List (Nat × Bool)
  deriving DecidableEq, Repr, Inhabited

/-- A dispatch queue's register block (R369), its pending list (R373: the four levels in one list, each entry with its level
and each level in its order), and the cores it holds for a waiting gang (R389). -/
structure DQueue where
  qmask   : Word := 0
  dqctl   : Word := 0
  faults  : Nat := 0
  dropped : Nat := 0
  dqfault : Word := 0
  pending : List DEntry := []
  reserved : List Nat := []
  deriving DecidableEq, Repr, Inhabited

/-- The remaining budget of a class in this frame (R32, R33): none is unlimited; cycles, copy, HBM, prism, message. -/
structure Bucket where
  cyc : Option Nat := none
  cpy : Option Nat := none
  hbm : Option Nat := none
  pstep : Option Nat := none
  msg : Option Nat := none
  deriving DecidableEq, Repr, Inhabited

/-- A slice's retention state (R208, R433): 0 active, 1 entering, 2 retained, 3 leaving; used in this frame, to be left as
soon as entered by an access, the frame of a WAKE that asks the same, to be entered at the next boundary; idle frames, end
cc. -/
structure Slice where
  state : Nat := 0
  mark  : Bool := false
  wake  : Bool := false
  wakeAt : Option Nat := none
  retain : Bool := false
  idle  : Nat := 0
  until_ : Nat := 0
  deriving DecidableEq, Repr, Inhabited

/-- An attention record (R450). -/
structure Attn where
  kind : Nat
  core : Nat
  code : Nat
  val  : Word
  gsc  : Word
  task : Word
  deriving DecidableEq, Repr, Inhabited

/-- A tag of the L2 (R207): the data of an L2 line is that of its home. -/
structure L2Tag where
  pa : Nat
  dirty : Bool
  deriving DecidableEq, Repr, Inhabited

/-- The congestion window toward one destination (R314). -/
structure CWin where
  w    : Nat := 16384
  out  : Nat := 0
  last : Nat := 0
  deriving DecidableEq, Repr, Inhabited

/-- The flit state of one link or circuit (R318, R330, R331). Receiving: the next LSEQ expected of each channel, flits kept while
parity is asked for, oldest first, as (channel·2²⁴ + LSEQ of the flit asked about, flit), what a resend is asked for, flits
ahead of their turn as (channel, LSEQ, FT, payload), the bytes of the packet under way on each channel, and the whole packets
that the machine does not take further (log 48). Sending: the next LSEQ of each channel, the replay buffer as (channel, LSEQ,
flit), the resends of each wavelength in this frame, the wavelengths that failed and wait for the boundary, the packets that
wait for a wavelength as (units left, units in all, packet), the wavelengths in use as (end cc, wavelength), and the room left
in the peer's input buffer (R271, R277). -/
structure Link where
  expect  : SMap Nat := []
  kept    : List (Nat × Flit) := []
  asked   : List Nat := []
  early   : List (Nat × Nat × Nat × List Byte) := []
  asm     : SMap (List Byte) := []
  got     : List (Nat × List Byte) := []
  next    : SMap Nat := []
  replay  : List (Nat × Nat × Flit) := []
  resends : SMap Nat := []
  dead    : BitVec 640 := 0
  txq     : List (Nat × Nat × Parcel) := []
  busy    : List (Nat × Nat) := []
  room    : Nat := 8192
  deriving DecidableEq, Repr, Inhabited

/-- One node: the module (R13) with its window (R445). -/
structure Node where
  phase    : Nat := 0
  fail     : Nat := 0
  fwAddr   : Word := 0
  fwLen    : Word := 0
  dways    : Nat := 16
  epHome   : Word := 0
  dspill   : Word := 0
  retIdle  : Word := 0
  powLim   : Nat := 3400
  hostBase : Word := 0
  hostLen  : Word := 0
  troot    : SMap Word := []
  fw       : List Byte := []
  m0       : BitVec 512 := 0
  m1       : BitVec 512 := 0
  nonce    : BitVec 512 := 0
  attBusy  : Bool := false
  attDone  : Bool := false
  report   : List Byte := []
  lost     : List Nat := []
  attn     : List (Nat × Attn) := []
  attHead  : Word := 0
  attTail  : Word := 0
  attLost  : Word := 0
  poisonZ  : SMap Word := []
  qmap     : List Nat := []
  smap     : List Nat := []
  sparedHbm : Nat := 0
  retiredW : Nat := 0
  spares   : Word := 0
  spareW   : Nat := 0
  spareR   : Nat := 0
  spareS   : Nat := 0
  spareQ   : Nat := 0
  eccCnt   : Word := 0
  resendC  : Word := 0
  badFlits : Nat := 0
  ucie     : List Nat := []
  gscOn    : Bool := false
  gscBase  : Nat := 0
  gscFrom  : Nat := 0
  gscPhase : Nat := 0
  startFrame : Nat := 0
  steerAt  : Nat := 0
  frame    : Nat := 0
  budget   : SMap Word := []
  bucket   : SMap Bucket := []
  trapVec  : Word := 0
  trapCut  : Word := 0
  saveArea : Word := 0
  saveLen  : Word := 0
  thermTab : Word := 0
  powHot   : Bool := false
  power    : List Nat := []
  dqs      : SMap DQueue := []
  prism    : SMap Word := []
  leaseW   : SMap Word := []
  trt      : SMap TenantRt := []
  counters : SMap Word := []
  hops     : SMap (Option Hop) := []
  arrivals : List Arrival := []
  dataDel  : List (Nat × Hop) := []
  nextDel  : Nat := 0
  eps      : SMap Endpoint := []
  armed    : SMap (Option Armed) := []
  outMsgs  : List OutMsg := []
  cwin     : SMap CWin := []
  leases   : SMap (Option LeaseEntry) := []
  leaseCnt : Nat := 0
  lines    : SMap LineTab := []
  pools    : SMap Nat := []
  poolIdx  : SMap (BitVec 640) := []
  circIdx  : SMap (BitVec 640) := []
  paceq    : List (Nat × Parcel) := []
  netSeq   : Nat := 0
  partly   : List (Nat × Nat × Nat) := []
  loads    : Option (Nat × List Nat) := none
  shutter  : Shutter := {}
  comms    : SMap (Option Comm) := []
  tiles    : SMap Tile := []
  staging  : Nat := 0
  chunkSeq : SMap Nat := []
  cancels  : List (Nat × BitVec 32) := []
  cancelWait : List (Nat × BitVec 32) := []
  groups   : SMap (Option Group) := []
  gangs    : SMap (Option Gang) := []
  tbars    : SMap Barrier := []
  staged   : List DetEntry := []
  tlbAsks  : List TlbAsk := []
  cores    : SMap Core := []
  quads    : SMap Quad := []
  slices   : SMap Slice := []
  hbm      : Memory := []
  deep     : Memory := []
  host     : Memory := []
  hbmPoison : SMap Bool := []
  deepPoison : SMap Bool := []
  l2       : SMap (List L2Tag) := []
  walks    : List WalkPtr := []
  links    : SMap Link := []
  areas    : List (Nat × Core × List (Nat × Ring)) := []
  deriving DecidableEq, Repr, Inhabited

/-- An effect of this cc that other agents see from the next cc on (R97, R109, R111, R114, R119). -/
inductive Late where
  | tokPop (n c f k : Nat)
  | tokPush (n c f k : Nat)
  | qFill (n c q serial : Nat) (v : Word)
  | qFreed (n c q : Nat)
  | flags (n c : Nat) (m : BitVec 16)
  | evt (n c : Nat) (v : BitVec 16)
  | vtype (n c : Nat) (v : Word)
  | vwb (n c : Nat) (v : Word)
  | rmode (n c : Nat) (v : Nat)
  | det (n c : Nat) (b : Bool)
  | interlock (n c : Nat)
  | redLimit (n c : Nat) (v : Word)
  | ptRoot (n c : Nat) (v : Word)
  | asid (n c : Nat) (v : Word)
  | nodeReg (n r : Nat) (v : Word)
  | tnWord (n t w : Nat) (v : Word)
  | shTc (n c l k : Nat)
  | shSd (n c d w : Nat) (v : Word)
  | shAttr (n c : Nat) (a t : Word)
  | shClr (n c : Nat)
  | tdisarm (n c : Nat) (v : Word) (d : Reg)
  deriving DecidableEq, Repr, Inhabited

/-- What moves next: a sequencer, an event, or the choice among the faults of a core in this cc (R410). -/
inductive Turn where
  | arb (n c : Nat)
  | seq (n c : Nat) (q : Seq)
  | ev (i : Instr)
  deriving DecidableEq, Repr, Inhabited

/-- The agent that is moving: node, core, sequencer and bundle slot, or prism context. -/
structure Cur where
  node : Nat := 0
  core : Nat := 0
  seq  : Seq := .ctrl
  slot : Nat := 0
  ctx  : Nat := 0
  deriving DecidableEq, Repr, Inhabited

/-- The whole machine: time in cc, the agents still to move in this cc, timed events and inputs in due order, the
packets in the air as (cc of arrival, node, link there, packet), the effects of this cc still hidden, the torus and domain
extents, every node, what is kept of every saved context beside its bytes by the number that stands in them (the model's own,
log 10), the cc of the last module reset of all, the module that the next reset is of (none: all), the free-value
counter and the last trap taken in this cc (the model's own, log 6). -/
structure State where
  now    : Nat
  cur    : Cur
  ready  : List Turn
  timers : List (Nat × Instr)
  air    : List (Nat × Nat × Nat × Parcel)
  late   : List Late
  torus  : Nat × Nat × Nat
  domain : Nat × Nat × Nat
  nodes  : SMap Node
  kept   : SMap (Core × List (Nat × Ring))
  bornAt : Nat
  resetOf : Option Nat
  free   : Nat
  trap   : Option (Nat × Nat × Cause)
  deriving DecidableEq, Repr

/-- Module reset of one node (R449): every field at the Reset value of its map. -/
def Node.reset : Node := {}

/-- The machine right after module reset (R449): every node as `Node.reset`, in PHASE 0, waiting for BOOT. -/
def State.reset : State :=
  { now := 0, cur := {}, ready := [], timers := [], air := [], late := [], torus := (1, 1, 1), domain := (1, 1, 1),
    nodes := [], kept := [], bornAt := 0, resetOf := none, free := 0, trap := none }

end Sys2Proof.Machine
end

