-- ==== Sys2Proof/Machine/Bits.lean ====
section
/-! DEFINITION. Bit-field, sign-extension and byte-order helpers (R2, R8, R9), and lists of bytes. -/

namespace Sys2Proof.Machine

/-- Bits `hi … lo` of a number (R7: an unsigned value). -/
def bitsOf (x hi lo : Nat) : Nat := (x >>> lo) % 2 ^ (hi + 1 - lo)

/-- Bits `hi … lo` of a bit vector as a number. -/
def fld {n : Nat} (x : BitVec n) (hi lo : Nat) : Nat := bitsOf x.toNat hi lo

/-- One bit. -/
def bit {n : Nat} (x : BitVec n) (i : Nat) : Bool := x.toNat.testBit i

/-- Puts `v` into bits `hi … lo` (R8: its low bits). -/
def putFld {n : Nat} (x : BitVec n) (hi lo v : Nat) : BitVec n :=
  let w := 2 ^ (hi + 1 - lo)
  BitVec.ofNat n (x.toNat - bitsOf x.toNat hi lo * 2 ^ lo + (v % w) * 2 ^ lo)

/-- The value of x[n−1:0] read as two's complement (R9). -/
def sextN (x n : Nat) : Int :=
  let v := x % 2 ^ n
  if v < 2 ^ (n - 1) then (v : Int) else (v : Int) - (2 ^ n : Nat)

/-- The low `n` bits of an integer's two's-complement form (R8). -/
def wrapN (n : Nat) (x : Int) : Nat := (x % ((2 ^ n : Nat) : Int)).toNat

/-- An integer as a 64-bit register value (R8). -/
def toWord (x : Int) : Word := BitVec.ofInt 64 x

/-- sext(x, n) as a register value. -/
def sextW (x : Word) (n : Nat) : Word := toWord (sextN x.toNat n)

/-- zext(x, n) as a register value. -/
def zextW (x : Word) (n : Nat) : Word := BitVec.ofNat 64 (x.toNat % 2 ^ n)

/-- A flag as a number. -/
def b2n (b : Bool) : Nat := if b then 1 else 0

/-- Little-endian bytes as a number (R2). -/
def bytesVal : List Byte → Nat
  | [] => 0
  | b :: r => b.toNat + 256 * bytesVal r

/-- A number as `n` little-endian bytes (R2). -/
def valBytes : Nat → Nat → List Byte
  | 0, _ => []
  | n + 1, v => BitVec.ofNat 8 v :: valBytes n (v / 256)

/-- Reads `n` bytes from address `a` as a little-endian number. -/
def memRead (m : Memory) (a : Nat) : Nat → Nat
  | 0 => 0
  | n + 1 => (smGet m 0 a).toNat + 256 * memRead m (a + 1) n

/-- Writes the low `n` bytes of `v` from address `a` on. -/
def memWrite (m : Memory) (a : Nat) : Nat → Nat → Memory
  | 0, _ => m
  | n + 1, v => memWrite (smSet m 0 a (BitVec.ofNat 8 v)) (a + 1) n (v / 256)

/-- Reads `n` bytes as a list. -/
def memBytes (m : Memory) (a : Nat) : Nat → List Byte
  | 0 => []
  | n + 1 => smGet m 0 a :: memBytes m (a + 1) n

/-- Writes a list of bytes. -/
def memPut (m : Memory) (a : Nat) : List Byte → Memory
  | [] => m
  | b :: r => memPut (smSet m 0 a b) (a + 1) r

/-- Writes the bytes of `v` whose mask bit is set, `n` of them. -/
def memMasked (m : Memory) (a : Nat) (mask : Nat) (v : Nat) : Nat → Memory
  | 0 => m
  | n + 1 => memMasked (if mask % 2 = 1 then smSet m 0 a (BitVec.ofNat 8 v) else m) (a + 1) (mask / 2) (v / 256) n

/-- Sets every byte of `n` from `a` to zero by taking the entries out. -/
def memClear (m : Memory) (a n : Nat) : Memory := m.filter fun e => decide (e.1 < a) || decide (a + n ≤ e.1)

/-- A byte mask of `n` bits as a bit mask of `8·n` bits. -/
def widen (mask : Nat) : Nat → Nat
  | 0 => 0
  | n + 1 => (if mask % 2 = 1 then 255 else 0) + 256 * widen (mask / 2) n

/-- The number of set bits among the low `n`. -/
def popCount (x : Nat) : Nat → Nat
  | 0 => 0
  | n + 1 => x % 2 + popCount (x / 2) n

/-- The index of the lowest set bit among the low `n`, if any, counted from `i`. -/
def lowBit (x i : Nat) : Nat → Option Nat
  | 0 => none
  | n + 1 => if x % 2 = 1 then some i else lowBit (x / 2) (i + 1) n

/-- The low `n` bits of `x` that are set, lowest first, counted from `i`. -/
def bitList (x i : Nat) : Nat → List Nat
  | 0 => []
  | n + 1 => if x % 2 = 1 then i :: bitList (x / 2) (i + 1) n else bitList (x / 2) (i + 1) n

/-- The numbers `a, a+1, …`, `n` of them. -/
def upFrom (a : Nat) : Nat → List Nat
  | 0 => []
  | n + 1 => a :: upFrom (a + 1) n

/-- The first index from `i` below `i + n` for which `p` holds. -/
def findIdx (p : Nat → Bool) (i : Nat) : Nat → Option Nat
  | 0 => none
  | n + 1 => if p i then some i else findIdx p (i + 1) n

/-- Element `i` of a list, or `d`. -/
def nth {α : Type} (l : List α) (i : Nat) (d : α) : α := l.getD i d

/-- The list with element `i` changed. -/
def modNth {α : Type} (f : α → α) : List α → Nat → List α
  | [], _ => []
  | x :: r, 0 => f x :: r
  | x :: r, i + 1 => x :: modNth f r i

/-- The list without element `i`. -/
def delNth {α : Type} : List α → Nat → List α
  | [], _ => []
  | _ :: r, 0 => r
  | x :: r, i + 1 => x :: delNth r i

/-- The first element with `p`, and the list without it. -/
def takeFirst {α : Type} (p : α → Bool) : List α → Option (α × List α)
  | [] => none
  | x :: r => if p x then some (x, r) else (takeFirst p r).map fun y => (y.1, x :: y.2)

/-- ⌈a ÷ b⌉. -/
def ceilDiv (a b : Nat) : Nat := (a + b - 1) / b

/-- Inserts a key into a list with falling order not disturbed: insertion sort by a key, stable. -/
def insertBy {α : Type} (key : α → Nat) (x : α) : List α → List α
  | [] => [x]
  | y :: r => if key x < key y then x :: y :: r else y :: insertBy key x r

/-- Stable sort by a key, ascending. -/
def sortBy {α : Type} (key : α → Nat) (l : List α) : List α :=
  l.foldl (fun acc x => insertBy key x acc) []

/-- A saturating increment. -/
def satAdd (x k top : Nat) : Nat := min (x + k) top

end Sys2Proof.Machine
end

