-- ==== Sys2Proof/Machine/Access.lean ====
section
/-! DEFINITION. Reading and changing one node, quad, core or sequencer of the state, the clocks (R14, R30, R35), and the
numbering of sequencers, token FIFOs and queues (R59, R109, R111). -/

namespace Sys2Proof.Machine

/-- The number of a sequencer (R44). -/
def seqIdx : Seq → Nat
  | .ctrl => 0
  | .load => 1
  | .exec => 2
  | .store => 3

/-- The sequencer of a number. -/
def seqOfIdx (k : Nat) : Seq :=
  match k % 4 with
  | 0 => .ctrl
  | 1 => .load
  | 2 => .exec
  | _ => .store

/-- The four sequencers in the order in which they act in one cc (R114, R119). -/
def allSeqs : List Seq := [.ctrl, .load, .exec, .store]

/-- The partner `k` of a sequencer (R59). -/
def partner (q : Seq) (k : Nat) : Nat := (seqIdx q + k) % 4
/-- The key of the FIFO from partner `k` to `q`. -/
def fifoIn (q : Seq) (k : Nat) : Nat := 4 * partner q k + seqIdx q
/-- The key of the FIFO from `q` to partner `k`. -/
def fifoOut (q : Seq) (k : Nat) : Nat := 4 * seqIdx q + partner q k

/-- The producer of a queue register (R111). -/
def qProducer (k : Nat) : Seq := if k < 4 then .ctrl else if k = 6 then .exec else .load
/-- The consumer of a queue register (R111). -/
def qConsumer (k : Nat) : Seq :=
  match k with
  | 0 | 1 => .load
  | 2 | 4 | 5 => .exec
  | 3 | 6 => .store
  | _ => .ctrl
/-- The depth of a queue register (R111). -/
def qDepth (k : Nat) : Nat := if k < 4 then 32 else 16

/-- A node. -/
def nd (s : State) (n : Nat) : Node := smGet s.nodes Node.reset n
/-- Changes a node. -/
def modNd (s : State) (n : Nat) (f : Node → Node) : State := { s with nodes := smPut s.nodes n (f (nd s n)) }
/-- A core. -/
def co (s : State) (n c : Nat) : Core := smGet (nd s n).cores {} c
/-- Changes a core. -/
def modCo (s : State) (n c : Nat) (f : Core → Core) : State :=
  modNd s n fun d => { d with cores := smPut d.cores c (f (smGet d.cores {} c)) }
/-- A quad. -/
def qd (s : State) (n q : Nat) : Quad := smGet (nd s n).quads {} q
/-- Changes a quad. -/
def modQd (s : State) (n q : Nat) (f : Quad → Quad) : State :=
  modNd s n fun d => { d with quads := smPut d.quads q (f (smGet d.quads {} q)) }
/-- The quad of a core (R17). -/
def quadOf (c : Nat) : Nat := c / 4

/-- Whether CTRL runs the trap handler on a core (R409). -/
def inHandler (k : Core) : Bool := k.mode == .handler

/-- A sequencer as it runs: in the handler CTRL has scalar registers and a return stack of its own, and its one constant bank
with CBB (R409). -/
def seqIn (k : Core) (q : Seq) : Sequencer :=
  let t := smGet k.seqs {} (seqIdx q)
  if inHandler k && q == .ctrl then { k.hseq with bank := t.bank, cbb := t.cbb } else t
/-- Puts a sequencer back. -/
def putSeq (k : Core) (q : Seq) (x : Sequencer) : Core :=
  if inHandler k && q == .ctrl then
    let t := smGet k.seqs {} (seqIdx q)
    { k with hseq := { x with bank := [], cbb := 0 }, seqs := smPut k.seqs (seqIdx q) { t with bank := x.bank, cbb := x.cbb } }
  else { k with seqs := smPut k.seqs (seqIdx q) x }
/-- A sequencer of the state. -/
def sq (s : State) (n c : Nat) (q : Seq) : Sequencer := seqIn (co s n c) q
/-- Changes a sequencer. -/
def modSq (s : State) (n c : Nat) (q : Seq) (f : Sequencer → Sequencer) : State :=
  modCo s n c fun k => putSeq k q (f (seqIn k q))

/-- The core of the agent that is moving. -/
def cc (s : State) : Core := co s s.cur.node s.cur.core
/-- Changes the core of the agent that is moving. -/
def modCc (s : State) (f : Core → Core) : State := modCo s s.cur.node s.cur.core f
/-- The sequencer that is moving. -/
def cs (s : State) : Sequencer := sq s s.cur.node s.cur.core s.cur.seq
/-- Changes the sequencer that is moving. -/
def modCs (s : State) (f : Sequencer → Sequencer) : State := modSq s s.cur.node s.cur.core s.cur.seq f
/-- The node of the agent that is moving. -/
def cn (s : State) : Node := nd s s.cur.node
/-- Changes that node. -/
def modCn (s : State) (f : Node → Node) : State := modNd s s.cur.node f

/-- Adds an effect seen from the next cc on (R97). -/
def later (s : State) (l : Late) : State := { s with late := s.late ++ [l] }
/-- Schedules an event `d` cc ahead, kept in due order, earlier entries first. -/
def schedule (s : State) (d : Nat) (i : Instr) : State :=
  { s with timers := insertBy (fun t => t.1) (s.now + d, i) s.timers }
/-- Takes the next free value's number. -/
def fresh (s : State) : Nat × State := (s.free, { s with free := s.free + 1 })

/-- The GSC of a node (R30, R449): 0 until it is loaded. -/
def gsc (s : State) (n : Nat) : Nat :=
  let d := nd s n
  if d.gscOn then d.gscBase + (s.now - d.gscFrom + d.gscPhase) / 4 else 0
/-- The frame of a node. -/
def frameOf (s : State) (n : Nat) : Nat := gsc s n / Config.frameSteps

/-- The clock divider of a quad: 2 at LIMIT (R35). -/
def divider (q : Quad) : Nat := if q.level = 3 then 2 else 1
/-- The cc from which a quad's count of cycles goes on: its last change of divider, or its module's reset (R35, R115, R449). -/
def sinceOf (s : State) (q : Quad) : Nat := max q.since s.bornAt
/-- The cycle count of a core's own clock (R35, R115). -/
def coreCyc (s : State) (n c : Nat) : Nat :=
  let q := qd s n (quadOf c)
  q.cyc + (s.now - sinceOf s q) / divider q
/-- Whether this cc is a cycle of the core's own clock (R35). -/
def coreActs (s : State) (n c : Nat) : Bool :=
  let q := qd s n (quadOf c)
  (s.now - sinceOf s q) % divider q == 0

/-- Fields of the control word (R367). -/
def ctlTenant (w : Word) : Nat := fld w 19 14
def ctlClass (w : Word) : Nat := fld w 13 10
def ctlSpad (w : Word) : Nat := fld w 9 4
def ctlDet (w : Word) : Bool := bit w 3
def ctlPrio (w : Word) : Nat := fld w 2 1
def ctlDq (w : Word) : Nat := fld w 23 20
def ctlDcore (w : Word) : Nat := fld w 31 24
def ctlSidx (w : Word) : Nat := fld w 47 32
def ctlNsib (w : Word) : Nat := fld w 63 48

/-- The control word of a core's task, 0 without one. -/
def taskCtl (k : Core) : Word := match k.task with | some t => t.ctl | none => 0
/-- The tenant of a core's task. -/
def tenantOf (k : Core) : Nat := ctlTenant (taskCtl k)
/-- The budget class of a core's task. -/
def classOf (k : Core) : Nat := ctlClass (taskCtl k)
/-- The VA of a core's TCB (TASKID), 0 without a task. -/
def taskId (k : Core) : Word := match k.task with | some t => t.tcb | none => 0
/-- The GIN of a core's task. -/
def ginOf (k : Core) : BitVec 32 := match k.task with | some t => t.gin | none => 0
/-- Privileged state (R402): the handler, or a task of tenant 0. -/
def privileged (k : Core) : Bool := inHandler k || tenantOf k == 0
/-- The image the moving sequencer runs (base, LINES, CBASE, CLEN): the handler's in the handler (R409). -/
def imageOf (k : Core) : Word × Nat × Nat × Nat :=
  if inHandler k then k.himg else
  match k.task with
  | some t => (t.image, t.lines, t.cbase, t.clen)
  | none => (0, 0, 0, 0)

/-- Whether a node exists in the torus (R26). -/
def inTorus (s : State) (n : Nat) : Bool :=
  n < 4096 && n % 16 < s.torus.1 && n / 16 % 16 < s.torus.2.1 && n / 256 < s.torus.2.2
/-- Whether two nodes lie in one load-store domain (R27). -/
def sameDomain (s : State) (a b : Nat) : Bool :=
  a % 16 / s.domain.1 == b % 16 / s.domain.1
  && a / 16 % 16 / s.domain.2.1 == b / 16 % 16 / s.domain.2.1
  && a / 256 / s.domain.2.2 == b / 256 / s.domain.2.2
/-- The nodes of the torus, ascending. -/
def allNodes (s : State) : List Nat :=
  (upFrom 0 s.torus.2.2).flatMap fun z => (upFrom 0 s.torus.2.1).flatMap fun y =>
    (upFrom 0 s.torus.1).map fun x => x + 16 * y + 256 * z
/-- The nodes of a node's domain. -/
def domainNodes (s : State) (n : Nat) : List Nat := (allNodes s).filter fun m => sameDomain s n m
/-- Whether a node has been told that `m` is lost (R450). -/
def isLost (s : State) (n m : Nat) : Bool := (nd s n).lost.contains m

/-- The budget word of a class (R430): all ones but the reserved bits at reset. -/
def budgetWord (d : Node) (k : Nat) : Word := smGet d.budget 0xFFFFFFFFFFFFFFF0 k
/-- The bucket of a class. -/
def bucketOf (d : Node) (k : Nat) : Bucket := smGet d.bucket {} k
/-- Takes `v` from what is left in a bucket (R33, R34: the overdraft is forgiven). -/
def drain (b : Option Nat) (v : Nat) : Option Nat := b.map fun x => x - v
/-- Charges a class's bucket. -/
def charge (d : Node) (k : Nat) (f : Bucket → Bucket) : Node := { d with bucket := smPut d.bucket k (f (bucketOf d k)) }

/-- Posts an attention record, or counts it in ATTLOST when the ring is full (R450). -/
def postAttn (s : State) (n : Nat) (kind core code : Nat) (val : Word) : State :=
  modNd s n fun d =>
    if (d.attHead - d.attTail).toNat < 64 then
      let r : Attn := ⟨kind, core, code, val, BitVec.ofNat 64 (gsc s n), taskId (co s n core)⟩
      let old := d.attn.filter fun r => r.1 != d.attHead.toNat % 64
      { d with attn := old ++ [(d.attHead.toNat % 64, r)], attHead := d.attHead + 1 }
    else { d with attLost := BitVec.ofNat 64 (satAdd d.attLost.toNat 1 (2 ^ 64 - 1)) }

end Sys2Proof.Machine
end

