-- ==== Sys2Proof/Machine/Place.lean ====
section
/-! DEFINITION. Placing one instruction where the next step takes it (log 14): a program reaches a sequencer through a
posted task, its image and a line fetch, and a prism context through a packet; this stands for that load. -/

namespace Sys2Proof.Machine

/-- The sequencer that is given an instruction: one that accepts its major (R62). -/
def placeSeq (op : Nat) : Seq :=
  if op = 0x14 then .load else if 0x22 ≤ op ∧ op ≤ 0x29 then .exec else .ctrl

/-- The line that holds an instruction at unit 0, zero units after it, and ends there (R44). -/
def placeLine (q : Seq) (w : Nat) : BitVec 512 :=
  BitVec.ofNat 512 (seqIdx q * 2 ^ 30 + 2 ^ 28 + 14 * 2 ^ 24 + w * 2 ^ 32)

/-- A resident task of tenant 0 whose image has one line of code. -/
def placeTask : Task := ⟨0, 0, 0, 0, 0, 0, 0, 0, 2, 0, 0, 0, 0, [], none, none, none⟩

/-- A running core whose sequencer has fetched the line. -/
def placeCore (k : Core) (q : Seq) (w : Nat) : Core :=
  let x : Sequencer := { smGet k.seqs {} (seqIdx q) with status := .running, pc := 16, line := .ready 1 (placeLine q w), past := false, hold := .none, notBefore := 0, span := 0 }
  { k with mode := .run, leaving := false, resumeAt := 0, task := some placeTask, seqs := smPut k.seqs (seqIdx q) x }

/-- A program packet whose first instruction is a word. -/
def placePacket (w : Nat) : PImage := BitVec.ofNat 2304 (2 ^ 85 + w % 2 ^ 16 * 2 ^ 1024)

/-- An instruction of `nbits` bits where the next step runs it: 16 bits stand in a prism context, others on core 0. -/
def placeWord (s : State) (nbits w : Nat) : State :=
  if nbits ≤ 16 then
    let h : Hop := ⟨placePacket w, 0, 0, 0, 0, 6, 0, 0, 0, 0, []⟩
    { modNd s 0 fun d => { d with hops := smPut d.hops 0 (some h) } with ready := [.ev (.progHop 0 0)] }
  else
    let q := placeSeq ((w >>> 26) % 64)
    { modCo s 0 0 fun k => placeCore k q w with ready := [.seq 0 0 q] }

end Sys2Proof.Machine
end

