-- ==== Sys2Proof/Machine/Crypto.lean ====
section
/-! DEFINITION. SHA-512 (R343, R454), and the verification of an RSA-4096 RSASSA-PSS signature with SHA-512, MGF1 over
SHA-512 and a salt of 64 bytes (R454). -/

namespace Sys2Proof.Machine

/-! SHA-512. Its constants are the first 64 bits of the fractional parts of the square and cube roots of primes. -/

/-- The greatest `y` with `y ^ k ≤ x`, its bits found from the top. -/
def rootBits (k x : Nat) : Nat → Nat → Nat
  | 0, y => y
  | n + 1, y => rootBits k x n (if (y + 2 ^ n) ^ k ≤ x then y + 2 ^ n else y)

/-- The first 80 primes, as the numbers below 410 that no smaller one above 1 divides. -/
def smallPrimes : List Nat := (upFrom 2 408).filter fun p => !((upFrom 2 (p - 2)).any fun d => d * d ≤ p && p % d == 0)

/-- The initial hash value. -/
def shaInit : List Word := (smallPrimes.take 8).map fun p => BitVec.ofNat 64 (rootBits 2 (p * 2 ^ 128) 69 0)
/-- The round constants. -/
def shaConst : List Word := smallPrimes.map fun p => BitVec.ofNat 64 (rootBits 3 (p * 2 ^ 192) 68 0)

/-- The functions of the rounds. -/
def shaBig0 (x : Word) : Word := x.rotateRight 28 ^^^ x.rotateRight 34 ^^^ x.rotateRight 39
def shaBig1 (x : Word) : Word := x.rotateRight 14 ^^^ x.rotateRight 18 ^^^ x.rotateRight 41
def shaSmall0 (x : Word) : Word := x.rotateRight 1 ^^^ x.rotateRight 8 ^^^ (x >>> 7)
def shaSmall1 (x : Word) : Word := x.rotateRight 19 ^^^ x.rotateRight 61 ^^^ (x >>> 6)
def shaCh (x y z : Word) : Word := (x &&& y) ^^^ (~~~x &&& z)
def shaMaj (x y z : Word) : Word := (x &&& y) ^^^ (x &&& z) ^^^ (y &&& z)

/-- The message schedule, newest word first. -/
def shaSched : Nat → List Word → List Word
  | 0, l => l
  | n + 1, l => shaSched n ((shaSmall1 (l.getD 1 0) + l.getD 6 0 + shaSmall0 (l.getD 14 0) + l.getD 15 0) :: l)

/-- One round on the eight working words. -/
def shaRound (v : List Word) (kw : Word × Word) : List Word :=
  match v with
  | [a, b, c, d, e, f, g, h] =>
    let t1 := h + shaBig1 e + shaCh e f g + kw.1 + kw.2
    let t2 := shaBig0 a + shaMaj a b c
    [t1 + t2, a, b, c, d + t1, e, f, g]
  | _ => v

/-- Bytes as a number, the first one highest. -/
def beVal (bs : List Byte) : Nat := bs.foldl (fun a b => a * 256 + b.toNat) 0
/-- A number as `n` bytes, the highest first. -/
def beBytes (n v : Nat) : List Byte := (valBytes n v).reverse

/-- One block of 128 bytes. -/
def shaBlock (h : List Word) (b : List Byte) : List Word :=
  let w := (upFrom 0 16).map fun i => (BitVec.ofNat 64 (beVal ((b.drop (8 * i)).take 8)) : Word)
  let v := (shaConst.zip (shaSched 64 w.reverse).reverse).foldl shaRound h
  (h.zip v).map fun x => x.1 + x.2

/-- The blocks of a padded message. -/
def shaBlocks : Nat → List Byte → List Word → List Word
  | 0, _, h => h
  | n + 1, bs, h => shaBlocks n (bs.drop 128) (shaBlock h (bs.take 128))

/-- The SHA-512 digest. -/
def sha512 (m : List Byte) : List Byte :=
  let pad := (239 - m.length % 128) % 128
  let bs := m ++ (0x80 :: List.replicate pad 0) ++ beBytes 16 (8 * m.length)
  (shaBlocks (bs.length / 128) bs shaInit).flatMap fun w => beBytes 8 w.toNat

/-! RSASSA-PSS. -/

/-- b raised to an exponent of `n` bits modulo m. -/
def powMod (m b e : Nat) : Nat → Nat
  | 0 => 1 % m
  | n + 1 => let r := powMod m (b * b % m) (e / 2) n; if e % 2 = 1 then r * b % m else r

/-- MGF1 over SHA-512: `n` bytes. -/
def mgf1 (seed : List Byte) (n : Nat) : List Byte :=
  ((upFrom 0 (ceilDiv n 64)).flatMap fun c => sha512 (seed ++ beBytes 4 c)).take n

/-- Whether the encoded message `em` of 512 bytes fits the message `m` (a modulus of 4,096 bits, a salt of 64 bytes). -/
def pssMatches (em m : List Byte) : Bool :=
  let h := (em.drop 447).take 64
  let masked := em.take 447
  let db := (masked.zip (mgf1 h 447)).map fun x => x.1 ^^^ x.2
  let db := match db with
    | [] => []
    | b :: r => (b &&& 0x7F) :: r
  let salt := db.drop 383
  em.drop 511 == [0xBC] && (masked.headD 0).toNat < 128 && db.take 382 == List.replicate 382 0 && (db.drop 382).take 1 == [1]
    && sha512 (List.replicate 8 0 ++ sha512 m ++ salt) == h

/-- Whether a signature is valid for a message under a public key (R454). -/
def pssVerify (modulus exponent sig : Nat) (m : List Byte) : Bool :=
  decide (2 ^ 4095 ≤ modulus) && decide (sig < modulus) && pssMatches (beBytes 512 (powMod modulus sig exponent 32)) m

/-- The encoded message of a message and a salt of 64 bytes, for a modulus of 4,096 bits. -/
def pssEncode (m salt : List Byte) : List Byte :=
  let h := sha512 (List.replicate 8 0 ++ sha512 m ++ salt)
  let masked := (((List.replicate 382 0 : List Byte) ++ (1 : Byte) :: salt).zip (mgf1 h 447)).map fun x => x.1 ^^^ x.2
  let masked := match masked with
    | [] => []
    | b :: r => (b &&& 0x7F) :: r
  masked ++ h ++ [0xBC]

/-- The signature of a message under a secret exponent (R454, R455). -/
def pssSign (modulus secret : Nat) (m salt : List Byte) : Nat := powMod modulus (beVal (pssEncode m salt)) secret 4096

end Sys2Proof.Machine
end

