-- ==== Sys2Proof/Machine/Float.lean ====
section
/-! DEFINITION. Number formats, rounding and the exact values between (R74 to R92): a value is a NaN, an infinity or a
signed rational, and one function rounds it to a format. -/

namespace Sys2Proof.Machine

/-- A floating-point format (R74, R76): precision, exponent bias, the codes of the largest finite value and (if any) of
+∞, whether a sign bit stands above, whether it is a binary8 format, and its width in bits. -/
structure Fmt where
  p     : Nat
  bias  : Nat
  maxC  : Nat
  infC  : Option Nat
  sgn   : Bool
  b8    : Bool
  bits  : Nat
  nanC  : Nat
  deriving DecidableEq, Repr

/-- binary32 (R74). -/
def fmtF32 : Fmt := ⟨24, 127, 0x7F7FFFFF, some 0x7F800000, true, false, 32, 0x7FC00000⟩
/-- binary16 (R74). -/
def fmtF16 : Fmt := ⟨11, 15, 0x7BFF, some 0x7C00, true, false, 16, 0x7E00⟩
/-- bfloat16 (R74). -/
def fmtBF16 : Fmt := ⟨8, 127, 0x7F7F, some 0x7F80, true, false, 16, 0x7FC0⟩
/-- A binary8 format of a 5-bit code (R76, R77). -/
def fmtB8 (code : Nat) : Fmt :=
  let p := bitsOf code 4 2
  let uns := code.testBit 1
  let inf := code.testBit 0
  let w := if uns then 9 - p else 8 - p
  let top := if uns then 0xFE else 0x7F
  ⟨p, 2 ^ (w - 1), if inf then top - 1 else top, if inf then some top else none, !uns, true, 8,
    if uns then 0xFF else 0x80⟩

/-- An exact value: NaN, ±∞, or ±(m ÷ d) × 2^e. -/
inductive Val where
  | nan
  | inf (neg : Bool)
  | fin (neg : Bool) (m d : Nat) (e : Int)
  deriving DecidableEq, Repr

/-- Positive zero. -/
def vZero : Val := .fin false 0 1 0
/-- An integer as a value. -/
def vInt (x : Int) : Val := .fin (decide (x < 0)) x.natAbs 1 0

/-- The exponent of the format's finest grid. -/
def Fmt.qmin (f : Fmt) : Int := 1 - (f.bias : Int) - ((f.p : Int) - 1)

/-- Reads a code (R74 to R76): every code above the infinity, or the one NaN code of a binary8 format, is a NaN. -/
def decodeF (f : Fmt) (c : Nat) : Val :=
  let neg := f.sgn && c.testBit (f.bits - 1)
  let mag := if f.sgn then c % 2 ^ (f.bits - 1) else c % 2 ^ f.bits
  let nan := if f.b8 then c % 2 ^ f.bits == f.nanC
             else match f.infC with | some i => decide (i < mag) | none => false
  if nan then .nan
  else if f.infC == some mag then .inf neg
  else
    let big := mag / 2 ^ (f.p - 1)
    let t := mag % 2 ^ (f.p - 1)
    if big = 0 then .fin (neg && !(f.b8)) t 1 f.qmin |> fun v => if f.b8 && t != 0 then .fin neg t 1 f.qmin else v
    else .fin neg (2 ^ (f.p - 1) + t) 1 (f.qmin + big - 1)

/-- The code of the magnitude below a positive value on the unbounded grid of the format, and how the rest compares:
0 exact, 1 below the middle, 2 the middle, 3 above it. Codes rise by one from neighbour to neighbour (R82). -/
def gridBelow (f : Fmt) (m d : Nat) (e : Int) : Nat × Nat :=
  let x := e - f.qmin
  let num := if 0 ≤ x then m <<< x.toNat else m
  let den := if 0 ≤ x then d else d <<< (-x).toNat
  let t := num / den
  let j := if t < 2 ^ f.p then 0 else Nat.log2 t - (f.p - 1)
  let k := t >>> j
  let unit := den <<< j
  let rem := num - k * unit
  (j * 2 ^ (f.p - 1) + k, if rem = 0 then 0 else if 2 * rem < unit then 1 else if 2 * rem = unit then 2 else 3)

/-- The neighbour that a mode chooses (R82): whether to take the one above in magnitude. -/
def roundsUp (rm : Nat) (neg : Bool) (code rest : Nat) : Bool :=
  match rm with
  | 0 => rest == 3 || (rest == 2 && code % 2 == 1)
  | 1 => false
  | 2 => rest != 0 && !neg
  | 3 => rest != 0 && neg
  | _ => decide (2 ≤ rest)

/-- The sign bit of a format. -/
def Fmt.sign (f : Fmt) (neg : Bool) : Nat := if neg && f.sgn then 2 ^ (f.bits - 1) else 0
/-- A zero of a sign (R84): binary8 has one zero. -/
def Fmt.zero (f : Fmt) (neg : Bool) : Nat := if f.b8 then 0 else f.sign neg
/-- ±∞, or NaN in a format without it. -/
def Fmt.infOr (f : Fmt) (neg : Bool) : Nat :=
  match f.infC with
  | some c => c + f.sign neg
  | none => f.nanC

/-- round(x, mode) with SAT (R83). -/
def roundF (f : Fmt) (rm : Nat) (sat : Bool) : Val → Nat
  | .nan => f.nanC
  | .inf neg =>
    if neg && !f.sgn then (if sat then 0 else f.nanC)
    else match f.infC with
      | some c => c + f.sign neg
      | none => if sat then f.maxC + f.sign neg else f.nanC
  | .fin neg m d e =>
    if m = 0 then f.zero neg
    else if neg && !f.sgn then (if sat then 0 else f.nanC)
    else
      let g := gridBelow f m d e
      let y := if roundsUp rm neg g.1 g.2 then g.1 + 1 else g.1
      if f.maxC < y then
        if sat then f.maxC + f.sign neg
        else match rm with
          | 1 => f.maxC + f.sign neg
          | 2 => if neg then f.maxC + f.sign neg else f.infOr neg
          | 3 => if neg then f.infOr neg else f.maxC + f.sign neg
          | _ => f.infOr neg
      else if y = 0 then f.zero neg
      else y + f.sign neg

/-- −x. -/
def vNeg : Val → Val
  | .nan => .nan
  | .inf n => .inf (!n)
  | .fin n m d e => .fin (!n) m d e
/-- |x|. -/
def vAbs : Val → Val
  | .nan => .nan
  | .inf _ => .inf false
  | .fin _ m d e => .fin false m d e
/-- Whether a value is negative. -/
def vIsNeg : Val → Bool
  | .nan => false
  | .inf n => n
  | .fin n _ _ _ => n
/-- Whether a value is a zero. -/
def vIsZero : Val → Bool
  | .fin _ m _ _ => m == 0
  | _ => false
/-- Whether a value is a NaN. -/
def vIsNan : Val → Bool
  | .nan => true
  | _ => false

/-- A signed fraction over a power of two: ±m × 2^k as an integer numerator, with `k` taken from the exponent. -/
def scaledNum (neg : Bool) (m : Nat) (k : Int) : Int :=
  let x : Int := ((m <<< k.toNat : Nat) : Int)
  if neg then -x else x

/-- The exact sum (R84, R85); `rm` decides the sign of an exact zero. -/
def vAdd (rm : Nat) : Val → Val → Val
  | .nan, _ => .nan
  | _, .nan => .nan
  | .inf a, .inf b => if a == b then .inf a else .nan
  | .inf a, _ => .inf a
  | _, .inf b => .inf b
  | .fin n1 m1 d1 e1, .fin n2 m2 d2 e2 =>
    if m1 = 0 ∧ m2 = 0 then (if n1 == n2 then .fin n1 0 1 0 else .fin (rm == 3) 0 1 0)
    else if m1 = 0 then .fin n2 m2 d2 e2
    else if m2 = 0 then .fin n1 m1 d1 e1
    else
      let e := min e1 e2
      let x := scaledNum n1 (m1 * d2) (e1 - e) + scaledNum n2 (m2 * d1) (e2 - e)
      if x = 0 then .fin (rm == 3) 0 1 0 else .fin (decide (x < 0)) x.natAbs (d1 * d2) e

/-- The exact product (R84, R85). -/
def vMul : Val → Val → Val
  | .nan, _ => .nan
  | _, .nan => .nan
  | .inf a, .inf b => .inf (a != b)
  | .inf a, .fin n m _ _ => if m = 0 then .nan else .inf (a != n)
  | .fin n m _ _, .inf b => if m = 0 then .nan else .inf (n != b)
  | .fin n1 m1 d1 e1, .fin n2 m2 d2 e2 => .fin (n1 != n2) (m1 * m2) (d1 * d2) (e1 + e2)

/-- The exact quotient (R84, R85). A finite value by an infinity is a zero whose sign R84 and R85 do not give: here the
exclusive-or of the signs (DESIGN CHOICE, log 45). -/
def vDiv : Val → Val → Val
  | .nan, _ => .nan
  | _, .nan => .nan
  | .inf _, .inf _ => .nan
  | .inf a, .fin n _ _ _ => .inf (a != n)
  | .fin n _ _ _, .inf b => .fin (n != b) 0 1 0
  | .fin n1 m1 d1 e1, .fin n2 m2 d2 e2 =>
    if m2 = 0 then (if m1 = 0 then .nan else .inf (n1 != n2))
    else .fin (n1 != n2) (m1 * d2) (d1 * m2) (e1 - e2)

/-- x × 2^k; beyond ±100,000 every format's rounding is settled, so the exponent is held there. -/
def vScale (x : Val) (k : Int) : Val :=
  match x with
  | .fin n m d e => .fin n m d (e + max (-100000) (min 100000 k))
  | v => v

/-- The order of two values: less, equal, greater as an integer, zeros equal. -/
def vOrd : Val → Val → Int
  | .inf true, .inf true => 0
  | .inf false, .inf false => 0
  | .inf true, _ => -1
  | .inf false, _ => 1
  | _, .inf true => 1
  | _, .inf false => -1
  | .fin n1 m1 d1 e1, .fin n2 m2 d2 e2 =>
    let e := min e1 e2
    let x := scaledNum n1 (m1 * d2) (e1 - e) - scaledNum n2 (m2 * d1) (e2 - e)
    if x < 0 then -1 else if x = 0 then 0 else 1
  | _, _ => 0

/-- Equality of values (R138). -/
def vEq (a b : Val) : Bool := !vIsNan a && !vIsNan b && vOrd a b == 0
/-- Less than. -/
def vLt (a b : Val) : Bool := !vIsNan a && !vIsNan b && vOrd a b == -1
/-- The larger under R92: NaN wins, MAX(−0, +0) is +0. -/
def vMax (a b : Val) : Val :=
  if vIsNan a || vIsNan b then .nan
  else match vOrd a b with
    | -1 => b
    | 0 => if vIsNeg a then b else a
    | _ => a
/-- The smaller under R92. -/
def vMin (a b : Val) : Val :=
  if vIsNan a || vIsNan b then .nan
  else match vOrd a b with
    | -1 => a
    | 0 => if vIsNeg a then a else b
    | _ => b

/-- A value rounded to an integer under a mode (R81); NaN and infinities give none. -/
def vToInt (rm : Nat) : Val → Option Int
  | .fin n m d e =>
    let num := if 0 ≤ e then m <<< e.toNat else m
    let den := if 0 ≤ e then d else d <<< (-e).toNat
    let k := num / den
    let rem := num - k * den
    let rest := if rem = 0 then 0 else if 2 * rem < den then 1 else if 2 * rem = den then 2 else 3
    let y := if roundsUp rm n k rest then k + 1 else k
    some (if n then -(y : Int) else (y : Int))
  | _ => none

/-- Conversion to an integer range, clamped; NaN gives 0 (R81). A value beyond 2^200 is settled by its sign. -/
def toIntClamp (rm : Nat) (lo hi : Int) : Val → Int
  | .nan => 0
  | .inf n => if n then lo else hi
  | .fin n m d e =>
    if m = 0 then 0 else
    if 4000 < e then (if n then lo else hi) else
    match vToInt rm (.fin n m d (max e (-4000))) with
    | some k => max lo (min hi k)
    | none => 0

/-- The integer square root, one bit of the root a step. -/
def isqrtFrom (x : Nat) : Nat → Nat → Nat
  | 0, r => r
  | k + 1, r => let t := r + 2 ^ k; isqrtFrom x k (if t * t ≤ x then t else r)
/-- The integer square root. -/
def isqrt (x : Nat) : Nat := isqrtFrom x (Nat.log2 x / 2 + 1) 0

/-- A positive value known to `r ≤ v × 2^k < r + 1`: `r` itself when exact, else a point strictly between, which rounds
as the value does in every format of fewer bits than `r` has. -/
def between (neg : Bool) (r : Nat) (exact : Bool) (k : Int) : Val :=
  if exact then .fin neg r 1 (-k) else .fin neg (2 * r + 1) 1 (-k - 1)

/-- √x (R85): √(−0) = −0. -/
def vSqrt : Val → Val
  | .nan => .nan
  | .inf n => if n then .nan else .inf false
  | .fin n m d e =>
    if m = 0 then .fin n 0 1 0 else if n then .nan else
    let odd := e % 2 != 0
    let m' := if odd then 2 * m else m
    let e' := (if odd then e - 1 else e) / 2
    let x := (m' <<< 240) / d
    let r := isqrt x
    between false r (r * r * d == m' <<< 240) (120 - e')

/-- 1 ÷ x (R85). -/
def vRcp : Val → Val := vDiv (.fin false 1 1 0)
/-- 1 ÷ √x (R85): ±0 gives ±∞. -/
def vRsqrt : Val → Val
  | .nan => .nan
  | .inf n => if n then .nan else vZero
  | .fin n m d e => if m = 0 then .inf n else if n then .nan else vSqrt (.fin false d m (-e))

/-- The fixed point of the transcendental functions: 256 fraction bits. -/
def fxOne : Nat := 2 ^ 256
/-- ⌊ln 2 × 2^256⌋. -/
def fxLn2 : Nat := 80260960185991308862233904206310070533990667611589946606122867505419956976171
/-- ⌊(2 ÷ √π) × 2^256⌋. -/
def fxErfC : Nat := 130657381209852114387528029350014196574164286124850014242073919076264802271585

/-- Σ x^k ÷ k! in fixed point from term `t` of index `k` on. -/
def expTerms (x : Nat) : Nat → Nat → Nat → Nat
  | 0, _, _ => 0
  | fuel + 1, k, t => t + expTerms x fuel (k + 1) (t * x / fxOne / (k + 1))
/-- e^x for 0 ≤ x < 1 in fixed point, to within a few units. -/
def fxExp (x : Nat) : Nat := expTerms x 70 0 fxOne

/-- 2^x (R85): exact for an integer, otherwise irrational and never a tie. -/
def vExp2 : Val → Val
  | .nan => .nan
  | .inf n => if n then vZero else .inf false
  | .fin n m d e =>
    if m = 0 then .fin false 1 1 0 else
    if 40 < e then (if n then .fin false 1 1 (-100000) else .fin false 1 1 100000) else
    let num := if 0 ≤ e then m <<< e.toNat else m
    let den := if 0 ≤ e then d else d <<< (-e).toNat
    let q := num / den
    let rem := num - q * den
    if rem = 0 then .fin false 1 1 (max (-100000) (min 100000 (if n then -(q : Int) else (q : Int))))
    else
      let fr := rem * fxOne / den
      let f := if n then fxOne - fr else fr
      let k : Int := if n then -(q : Int) - 1 else (q : Int)
      between false (fxExp (f * fxLn2 / fxOne)) false (256 - max (-100000) (min 100000 k))

/-- Σ z^(2k+1) ÷ (2k+1) in fixed point, `t` the power and `z2` its step. -/
def atanhTerms (z2 : Nat) : Nat → Nat → Nat → Nat
  | 0, _, _ => 0
  | fuel + 1, k, t => t / (2 * k + 1) + atanhTerms z2 fuel (k + 1) (t * z2 / fxOne)
/-- ln f for 1 ≤ f < 2, `f` in fixed point. -/
def fxLn (f : Nat) : Nat :=
  let z := (f - fxOne) * fxOne / (f + fxOne)
  2 * atanhTerms (z * z / fxOne) 90 0 z

/-- log₂ x (R85); of 1 a zero whose sign R85 does not give: here +0 (DESIGN CHOICE, log 45). -/
def vLog2 : Val → Val
  | .nan => .nan
  | .inf n => if n then .nan else .inf false
  | .fin n m d e =>
    if m = 0 then .inf true else if n then .nan else
    let k := Nat.log2 m
    if d = 1 ∧ m = 2 ^ k then vInt (e + k) else
    let f := (m <<< 256) / 2 ^ k
    let n : Int := e + k
    let l := fxLn f * fxOne / fxLn2
    let v : Int := n * (fxOne : Int) + (l : Int)
    between (decide (v < 0)) v.natAbs false 256

/-- e^(−t) for t ≥ 0 in fixed point. -/
def fxExpNeg (t : Nat) : Nat :=
  let k := t / fxLn2
  fxExp (fxLn2 - (t - k * fxLn2)) / 2 ^ (k + 1)

/-- A positive value just below ±m × 2^e. -/
def justBelow (neg : Bool) (m : Nat) (e : Int) : Val := .fin neg (m * 2 ^ 200 - 1) 1 (e - 200)

/-- tanh x (R85); of −0 a zero whose sign R85 does not give: here −0 (DESIGN CHOICE, log 45). -/
def vTanh : Val → Val
  | .nan => .nan
  | .inf n => .fin n 1 1 0
  | .fin n m d e =>
    if m = 0 then .fin n 0 1 0 else
    let top : Int := e + (Nat.log2 m : Int)
    if top < -40 then justBelow n m e
    else if 6 ≤ top then justBelow n 1 0
    else
      let x := if 0 ≤ e then ((m * fxOne) <<< e.toNat) / d else m * fxOne / (d <<< (-e).toNat)
      let y := fxExpNeg (2 * x)
      between n ((fxOne - y) * fxOne / (fxOne + y)) false 256

/-- Σ (−1)^k x^(2k) ÷ (k! (2k+1)) in fixed point. -/
def erfTerms (x2 : Nat) : Nat → Nat → Nat → Int
  | 0, _, _ => 0
  | fuel + 1, k, t =>
    (if k % 2 = 0 then ((t / (2 * k + 1) : Nat) : Int) else -((t / (2 * k + 1) : Nat) : Int))
      + erfTerms x2 fuel (k + 1) (t * x2 / fxOne / (k + 1))

/-- erf x (R85); of −0 a zero whose sign R85 does not give: here −0 (DESIGN CHOICE, log 45). -/
def vErf : Val → Val
  | .nan => .nan
  | .inf n => .fin n 1 1 0
  | .fin n m d e =>
    if m = 0 then .fin n 0 1 0 else
    let top : Int := e + (Nat.log2 m : Int)
    if 3 ≤ top then justBelow n 1 0
    else
      let x2 := if top < -130 then 0 else
        if 0 ≤ e then ((m * m * fxOne) <<< (2 * e).toNat) / (d * d) else m * m * fxOne / ((d * d) <<< (-2 * e).toNat)
      let s := (erfTerms x2 330 0 fxOne).toNat
      let c := s * fxErfC / fxOne
      .fin n (2 * (m * c) + 1) d (e - 257)

end Sys2Proof.Machine
end

