-- ==== Sys2Proof/Machine/Mem.lean ====
section
/-! DEFINITION. The memories of a node: home reads and writes with poison (R209 to R211), L2 and the HBM charge (R207,
R459), retention (R208), page-table walks and TLBs (R191 to R197), address regions (R188 to R190), L1 (R199 to R205),
DETERM entries (R233 to R237), atomics (R238) and window accesses at their target (R190, R215). -/

namespace Sys2Proof.Machine

/-- Fault codes (R422). -/
def codeIllegal : Nat := 0x01
def codeWrongSeq : Nat := 0x02
def codePriv : Nat := 0x03
def codeAlign : Nat := 0x04
def codeXlate : Nat := 0x05
def codePerm : Nat := 0x06
def codePoison : Nat := 0x07
def codeRstack : Nat := 0x08
def codeLiteral : Nat := 0x09
def codeBudget : Nat := 0x0A
def codeDetConflict : Nat := 0x0B
def codeRingMisuse : Nat := 0x0C
def codeCancelled : Nat := 0x0D
def codePeerGone : Nat := 0x0E
def codeQuietSpan : Nat := 0x0F
def codeAdapter : Nat := 0x10
def codeMergeFault : Nat := 0x11
def codeSaveArea : Nat := 0x12
def codeRedLen : Nat := 0x13
def codeAccBusy : Nat := 0x14

/-- The permission an access needs (R195). -/
inductive Need where
  | r | w | rw | rx
  deriving DecidableEq, Repr

/-- The memory of a space. -/
def homeMem (d : Node) : Space → Memory
  | .hbm => d.hbm
  | .deep => d.deep
  | .host => d.host
/-- The address of a physical byte in its memory: host pages lie from HOSTBASE on (R194). -/
def homeAddr (d : Node) (sp : Space) (pa : Nat) : Nat :=
  match sp with
  | .host => d.hostBase.toNat + pa
  | _ => pa
/-- Replaces the memory of a space. -/
def setHomeMem (d : Node) (sp : Space) (m : Memory) : Node :=
  match sp with
  | .hbm => { d with hbm := m }
  | .deep => { d with deep := m }
  | .host => { d with host := m }
/-- The bytes of a space that pages may name (R194). -/
def spaceBytes (d : Node) : Space → Nat
  | .hbm => 2 ^ 39
  | .deep => d.dways * 2 ^ 25
  | .host => d.hostLen.toNat
/-- Whether the home line of an address is poisoned (R209). -/
def isPoison (d : Node) (sp : Space) (pa : Nat) : Bool :=
  match sp with
  | .hbm => smGet d.hbmPoison false (pa / 128)
  | .deep => smGet d.deepPoison false (pa / 128)
  | .host => false
/-- Marks or clears the poison of a home line. -/
def setPoison (d : Node) (sp : Space) (pa : Nat) (b : Bool) : Node :=
  match sp with
  | .hbm => { d with hbmPoison := smSet d.hbmPoison false (pa / 128) b }
  | .deep => { d with deepPoison := smSet d.deepPoison false (pa / 128) b }
  | .host => d
/-- Reads bytes at the home of their line. -/
def homeRead (d : Node) (sp : Space) (pa size : Nat) : Nat := memRead (homeMem d sp) (homeAddr d sp pa) size
/-- Writes the bytes of a mask at their home; a write of a whole line clears its poison (R211). -/
def homeWrite (d : Node) (sp : Space) (pa size mask v : Nat) : Node :=
  let d := setHomeMem d sp (memMasked (homeMem d sp) (homeAddr d sp pa) mask v size)
  if size = 128 ∧ mask % 2 ^ 128 = 2 ^ 128 - 1 then setPoison d sp pa false else d

/-- The slice of a physical line (R206). -/
def sliceOf (pa : Nat) : Nat := bitsOf pa 15 7
/-- The key of an L2 set: slice and set (R206). -/
def l2Key (pa : Nat) : Nat := sliceOf pa * 512 + bitsOf pa 24 16

/-- An access that reaches a slice: it is marked used, and one in retention begins its exit (R208). -/
def touchSlice (s : State) (n sl : Nat) : State :=
  let x := smGet (nd s n).slices {} sl
  let put (y : Slice) (s : State) := modNd s n fun d => { d with slices := smPut d.slices sl y }
  match x.state with
  | 2 => schedule (put { x with mark := true, state := 3, until_ := s.now + Config.latRetain } s) Config.latRetain
           (.retentionExitDone n sl)
  | 1 => put { x with mark := true, wake := true } s
  | _ => put { x with mark := true } s

/-- The cc an access must wait for its slice (R208). -/
def sliceDelay (s : State) (n : Nat) (sp : Space) (pa : Nat) : Nat :=
  if sp = .host then 0 else
  let x := smGet (nd s n).slices {} (sliceOf pa)
  match x.state with
  | 1 => x.until_ - s.now + Config.latRetain
  | 2 => Config.latRetain
  | 3 => x.until_ - s.now
  | _ => 0

/-- The bytes that an access of a line moves at the HBM port (R459): with D = 16 a read moves the line and a write its
bytes; otherwise a miss of L2 reads the line, but for a whole-line write. -/
def portBytes (d : Node) (sp : Space) (pa bytes : Nat) (write : Bool) : Nat :=
  if sp ≠ .hbm then 0
  else if d.dways = 16 then (if write then bytes else 128)
  else if (smGet d.l2 [] (l2Key pa)).any fun t => t.pa == pa / 128 then 0
  else if write && bytes == 128 then 0 else 128

/-- Passes an access of `bytes` of one line through L2 or straight to the HBM port, charging its class (R207, R459). -/
def touch (s : State) (n : Nat) (cls : Option Nat) (sp : Space) (pa bytes : Nat) (write : Bool) : State :=
  match sp with
  | .host => s
  | .deep => touchSlice s n (sliceOf pa)
  | .hbm =>
    let s := touchSlice s n (sliceOf pa)
    modNd s n fun d =>
      let v := portBytes d sp pa bytes write
      let d := match cls with
        | some k => if v = 0 then d else charge d k fun b => { b with hbm := drain b.hbm v }
        | none => d
      if d.dways = 16 then d
      else
        let set := smGet d.l2 [] (l2Key pa)
        match takeFirst (fun t => t.pa == pa / 128) set with
        | some (t, rest) => { d with l2 := smPut d.l2 (l2Key pa) ({ t with dirty := t.dirty || write } :: rest) }
        | none => { d with l2 := smPut d.l2 (l2Key pa) ((⟨pa / 128, write⟩ :: set).take (16 - d.dways)) }

/-- What a page-table walk finds. -/
inductive Walk where
  | leaf (e : TlbEntry)
  | fault (code : Nat)
  deriving DecidableEq, Repr

/-- The lowest VA bit that a level indexes with (R192). -/
def levelShift (level : Nat) : Nat := match level with | 1 => 39 | 2 => 30 | 3 => 21 | _ => 16
/-- The space of a LOC field. -/
def locSpace (k : Nat) : Option Space := match k with | 0 => some .hbm | 1 => some .deep | 2 => some .host | _ => none
/-- The kind of a KIND field. -/
def kindOf (k : Nat) : Kind := match k with | 0 => .strong | 1 => .release | 2 => .unordered | _ => .determ

/-- Whether a leaf at a level is well formed and its physical address lies in its space (R193, R194). -/
def leafOk (d : Node) (level : Nat) (pte : Word) (va : Nat) : Bool :=
  fld pte 63 52 == 0 && fld pte 15 10 == 0
  && (level != 3 || fld pte 20 16 == 0) && (level != 2 || fld pte 29 16 == 0)
  && match locSpace (fld pte 9 8) with
     | some sp => decide (fld pte 51 16 * 2 ^ 16 + va % 2 ^ levelShift level < spaceBytes d sp)
     | none => false

/-- The address of the entry of a table that an address indexes (R192). -/
def pteAddr (level table va : Nat) : Nat := table + 8 * (va / 2 ^ levelShift level % (if level = 4 then 32 else 512))

/-- A walk from `table` at a level (R192, R193); `k` is 5 less the level. -/
def walkFrom (d : Node) (asid va : Nat) : Nat → Nat → Walk
  | 0, _ => .fault codeXlate
  | k + 1, table =>
    let level := 4 - k
    let a := pteAddr level table va
    if 2 ^ 39 ≤ table then .fault codeXlate
    else if isPoison d .hbm a then .fault codePoison
    else
      let pte : Word := BitVec.ofNat 64 (homeRead d .hbm a 8)
      if !bit pte 0 then .fault codeXlate
      else if fld pte 5 3 = 0 then
        if level = 4 then .fault codeXlate else walkFrom d asid va k (fld pte 51 12 * 4096)
      else if level = 1 || !leafOk d level pte va then .fault codeXlate
      else .leaf ⟨asid, va / 2 ^ levelShift level * 2 ^ levelShift level, 2 ^ levelShift level, pte, a⟩

/-- A walk of the 48-bit space from a PTROOT value (R191, R192). -/
def walk (d : Node) (root : Word) (asid va : Nat) : Walk := walkFrom d asid va 4 (fld root 51 12 * 4096)

/-- The tables that a walk reads, with their levels (R192). -/
def walkTables (d : Node) (va : Nat) : Nat → Nat → List (Nat × Nat)
  | 0, _ => []
  | k + 1, table =>
    let level := 4 - k
    let a := pteAddr level table va
    if 2 ^ 39 ≤ table then []
    else
      let pte : Word := BitVec.ofNat 64 (homeRead d .hbm a 8)
      (level, table) ::
        (if isPoison d .hbm a || !bit pte 0 || fld pte 5 3 != 0 then [] else walkTables d va k (fld pte 51 12 * 4096))

/-- A PTE with its A bit set (R196). -/
def withA (pte : Word) : Word := pte ||| 0x80

/-- A TLB lookup (R197). -/
def tlbFind (l : List TlbEntry) (asid va : Nat) : Option TlbEntry :=
  l.find? fun e => e.asid == asid && decide (e.base ≤ va) && decide (va < e.base + e.size)
/-- An entry at the front of a TLB of a size, one entry a page. The manual gives no rule for the entry that a full TLB drops:
the model drops the least recently used one (DESIGN CHOICE, log 45). -/
def tlbPut (l : List TlbEntry) (e : TlbEntry) (cap : Nat) : List TlbEntry :=
  (e :: l.filter fun x => !(x.asid == e.asid && x.base == e.base && x.size == e.size)).take cap

/-- Whether a PTE grants what an access needs (R195). -/
def grants (pte : Word) : Need → Bool
  | .r => bit pte 3
  | .w => bit pte 4
  | .rw => bit pte 3 && bit pte 4
  | .rx => bit pte 3 && bit pte 5

/-- A translation of an access: the fault code, or the leaf, and the state after the TLBs and the A bit have changed. -/
structure Xlated where
  code : Nat
  pte  : Word
  pa   : Nat
  s    : State

/-- Caches a translation in a core's TLB and its quad's (R197). -/
def tlbCache (s : State) (n : Nat) (c : Option Nat) (e : TlbEntry) : State :=
  match c with
  | none => s
  | some c =>
    modQd (modCo s n c fun k => { k with tlb := tlbPut k.tlb e 64 }) n (quadOf c) fun q => { q with tlb := tlbPut q.tlb e 2048 }

/-- The addresses that share a table of a level. -/
def walkPref (level va : Nat) : Nat := va / 2 ^ levelShift (level - 1)

/-- The pointers a walk has read, put into the walk cache, whose size the manual does not give and the model takes as 64
(R197; log 44). -/
def cachePtrs (d : Node) (asid va : Nat) (ts : List (Nat × Nat)) : Node :=
  let new := (ts.filter fun t => decide (2 ≤ t.1)).map fun t => (⟨asid, t.1, walkPref t.1 va, t.2⟩ : WalkPtr)
  let other (p : WalkPtr) : Bool := !(new.any fun x => x.asid == p.asid && x.level == p.level && x.pref == p.pref)
  { d with walks := (new ++ d.walks.filter other).take 64 }

/-- The deepest cached pointer for an address that a fresh walk does not find in the tables (R197). -/
def stalePtr (d : Node) (asid va : Nat) (ts : List (Nat × Nat)) : Option WalkPtr :=
  let l := d.walks.filter fun p => p.asid == asid && p.pref == walkPref p.level va && !ts.contains (p.level, p.table)
  l.find? fun p => l.all fun x => decide (x.level ≤ p.level)

/-- A walk as the hardware makes it (R192, R197): its entries are read through L2 or from the port, uncharged (R207, R459),
and its pointers cached where it reaches a leaf; where a cached pointer is no longer in the tables, either may be used, which
is left open (log 8). -/
def walkOnce (s : State) (n : Nat) (root : Word) (asid va : Nat) : Walk × State :=
  let d := nd s n
  let ts := walkTables d va 4 (fld root 51 12 * 4096)
  let r : Walk × List (Nat × Nat) × State := match stalePtr d asid va ts with
    | none => (walk d root asid va, ts, s)
    | some p =>
      let s' := { s with free := s.free + 1 }
      if Config.choice s.free then (walkFrom d asid va (5 - p.level) p.table, walkTables d va (5 - p.level) p.table, s')
      else (walk d root asid va, ts, s')
  let s := r.2.1.foldl (fun s t => touch s n none .hbm (pteAddr t.1 t.2 va) 8 false) r.2.2
  match r.1 with
  | .leaf e => (.leaf e, modNd s n fun d => cachePtrs d asid va r.2.1)
  | .fault code => (.fault code, s)

/-- The leaf an access uses: one held in a TLB, or a walk's; where a held leaf is no longer what the tables give, either may
be used (R197), which is left open (log 8). -/
def leafFor (s : State) (n : Nat) (c : Option Nat) (root : Word) (asid va : Nat) : Walk × State :=
  let held := match c with
    | none => none
    | some c => match tlbFind (co s n c).tlb asid va with
      | some e => some e
      | none => tlbFind (qd s n (quadOf c)).tlb asid va
  match held with
  | none => walkOnce s n root asid va
  | some e =>
    let same := match walk (nd s n) root asid va with
      | .leaf f => withA f.pte == withA e.pte && f.base == e.base
      | .fault _ => false
    if same then (.leaf e, s)
    else if Config.choice s.free then (.leaf e, { s with free := s.free + 1 })
    else walkOnce { s with free := s.free + 1 } n root asid va

/-- Whether a page grants an access (R195, R233): its permission bits, and no DETERM page with LOC HOST or through the
window. -/
def pageGrants (pte : Word) (need : Need) (win : Bool) : Bool :=
  grants pte need && !(kindOf (fld pte 2 1) == .determ && (win || locSpace (fld pte 9 8) == some .host))

/-- Translates and checks an access to the local 48-bit space (R191 to R198). A translation whose walk succeeds is cached,
and only an access that passes sets A (R196, R197). -/
def xlate (s : State) (n : Nat) (c : Option Nat) (root : Word) (asid va : Nat) (need : Need) (win : Bool) : Xlated :=
  let r := leafFor s n c root asid va
  let s := r.2
  match r.1 with
  | .fault code => ⟨code, 0, 0, s⟩
  | .leaf e =>
    let pa := fld e.pte 51 16 * 2 ^ 16 + (va - e.base)
    let inside := match locSpace (fld e.pte 9 8) with
      | some sp => decide (pa < spaceBytes (nd s n) sp)
      | none => false
    if !inside then ⟨codeXlate, e.pte, 0, s⟩
    else if !pageGrants e.pte need win then ⟨codePerm, e.pte, 0, tlbCache s n c e⟩
    else
      let s := if bit e.pte 7 then s else
        let s := touch s n none .hbm e.pteAt 8 true
        modNd s n fun d => { d with hbm := smSet d.hbm 0 e.pteAt (smGet d.hbm 0 e.pteAt ||| 0x80) }
      ⟨0, e.pte, pa, tlbCache s n c { e with pte := withA e.pte }⟩

/-- A TLB as an access that faults after its translation leaves it (R196, R197): the translation stays, with the A bit that
it held before, or that memory holds. -/
def tlbAfterFault (d : Node) (old new : List TlbEntry) : List TlbEntry :=
  new.map fun e =>
    match old.find? fun x => x.asid == e.asid && x.base == e.base && x.size == e.size && x.pteAt == e.pteAt with
    | some x => { e with pte := x.pte }
    | none => if (smGet d.hbm 0 e.pteAt).toNat.testBit 7 then e else { e with pte := e.pte &&& ~~~(0x80 : Word) }

/-- What an access that faults after its translation leaves (R10, R196, R197): the translation in the TLBs of its core and
quad, and nothing else. -/
def keepTlb (s0 s1 : State) (n c : Nat) : State :=
  let d := nd s0 n
  let s := { s0 with free := s1.free }
  let s := modCo s n c fun k => { k with tlb := tlbAfterFault d k.tlb (co s1 n c).tlb }
  modQd s n (quadOf c) fun q => { q with tlb := tlbAfterFault d q.tlb (qd s1 n (quadOf c)).tlb }

/-- Where the check of an access, which led from `s0` to `s1`, has set an A bit: its translation stands first in the TLB of
the core. -/
def newABit (s0 s1 : State) (n c : Nat) : Option Nat :=
  match (co s1 n c).tlb.head? with
  | some e =>
    let bit7 (s : State) : Bool := (smGet (nd s n).hbm 0 e.pteAt).toNat.testBit 7
    if !bit7 s0 && bit7 s1 then some e.pteAt else none
  | none => none

/-- Changes the A bit of a page's entry, in memory and where a core's TLBs hold it. -/
def putABit (s : State) (n c a : Nat) (on : Bool) : State :=
  let w (v : Word) : Word := if on then withA v else v &&& ~~~(0x80 : Word)
  let t (l : List TlbEntry) : List TlbEntry := l.map fun e => if e.pteAt == a then { e with pte := w e.pte } else e
  let s := modNd s n fun d =>
    let b := smGet d.hbm 0 a
    { d with hbm := smSet d.hbm 0 a (if on then b ||| 0x80 else b &&& 0x7F) }
  modQd (modCo s n c fun k => { k with tlb := t k.tlb }) n (quadOf c) fun q => { q with tlb := t q.tlb }

/-- The check of an access that has still to be performed: its A bit is not yet set (R196). -/
def withoutABit (s0 s1 : State) (n c : Nat) : State :=
  match newABit s0 s1 n c with
  | some a => putABit s1 n c a false
  | none => s1

/-- Sets the A bit that an access has put off, as it is performed (R196). -/
def setABit (s : State) (n c : Nat) (a : Option Nat) : State :=
  match a with
  | some a => putABit (touch s n none .hbm a 8 true) n c a true
  | none => s

/-- The outcome of checking an access: its target, a fault, or a wait for a trapped gang peer (R390). -/
inductive Chk where
  | ok (t : Target) (s : State)
  | fault (code : Nat) (s : State)
  | wait

/-- The core of gang member `p − 1` of a core's task, if it is a current member (R189, R388). -/
def peerCore (s : State) (n c p : Nat) : Option Nat :=
  match (co s n c).task with
  | none => none
  | some t => match t.gang with
    | none => none
    | some g => match smGet (nd s n).gangs none g.rec_ with
      | none => none
      | some r => if r.formed then (r.members.find? fun x => x.1 == p - 1).map fun x => x.2.2 else none
/-- The gang record of a core's task. -/
def gangOf (s : State) (n c : Nat) : Option Gang :=
  match (co s n c).task with
  | none => none
  | some t => match t.gang with
    | none => none
    | some g => smGet (nd s n).gangs none g.rec_

/-- Whether a gang peer may write scratchpad bytes: they lie in a ring slot of the owner that the peer's task has CLAIMED
(R243). -/
def ringWriteOk (s : State) (n c owner off size : Nat) : Bool :=
  let me := taskId (co s n c)
  (upFrom 0 32).any fun k =>
    let r := smGet (qd s n (quadOf owner)).rings {} k
    r.valid && r.core == owner
    && decide (r.base ≤ off) && decide (off + size ≤ r.base + 2 ^ r.countL2 * 2 ^ r.slotL2)
    && r.slots.any fun e => e.2 == 1 && smGet r.who 0 e.1 == me && e.1 % 2 ^ r.countL2 == (off - r.base) / 2 ^ r.slotL2
       && (off - r.base) / 2 ^ r.slotL2 == (off + size - 1 - r.base) / 2 ^ r.slotL2

/-- Checks an access to the scratchpad aperture (R189, R198, R390). -/
def chkSpad (s : State) (n c va size : Nat) (need : Need) : Chk :=
  let p := bitsOf va 26 19
  let off := bitsOf va 18 0
  if bitsOf va 39 27 ≠ 0 then .fault codeXlate s else
  match (if p = 0 then some c else peerCore s n c p) with
  | none =>
    if p ≠ 0 && (match gangOf s n c with | some g => g.gone.contains (p - 1) | none => false)
    then .fault codePeerGone s else .fault codeXlate s
  | some o =>
    if (co s n o).part * 8192 < off + size then .fault codeXlate s
    else if need = .rx then .fault codePerm s
    else if p ≠ 0 && need != .r && !(need == .w && ringWriteOk s n c o off size) then .fault codePerm s
    else if p ≠ 0 && (match gangOf s n c with
        | some g => g.held.any fun h => h.1 == p - 1
        | none => false) then .wait
    else .ok (.spad o off) s

/-- Checks an access of the local space under a root and an ASID: the aperture for a core's own accesses, the page tables
otherwise (R188, R189); DETERM pages with LOC HOST, or through the window (`win`), fault PERM (R233). An access that
starts at no core of the node has no aperture. -/
def chkLocal (s : State) (n : Nat) (c : Option Nat) (root : Word) (asid va48 size : Nat) (need : Need) (win : Bool) :
    Chk :=
  if bitsOf va48 47 40 = 0xFF then
    match c with
    | some c => chkSpad s n c va48 size need
    | none => .fault codeXlate s
  else
    let x := xlate s n c root asid va48 need win
    if x.code ≠ 0 then .fault x.code x.s
    else
      match locSpace (fld x.pte 9 8) with
      | none => .fault codeXlate x.s
      | some sp => .ok (.mem sp x.pa (kindOf (fld x.pte 2 1)) (bit x.pte 6)) x.s

/-- Checks an access (R188, R190, R198, alignment apart): local, or through the domain window, whose target translates it;
a node that is lost is found out when no reply comes (R215). -/
def chkAs (s : State) (n : Nat) (c : Option Nat) (root : Word) (asid : Nat) (va : Word) (size : Nat) (need : Need) : Chk :=
  let v := va.toNat
  let region := bitsOf v 63 60
  let node := bitsOf v 59 48
  if region = 0 then
    if node ≠ 0 then .fault codeXlate s else chkLocal s n c root asid (v % 2 ^ 48) size need false
  else if region = 8 ∨ region = 9 then
    if !inTorus s node || !sameDomain s n node then .fault codeXlate s
    else .ok (.remote node (region == 9) (v % 2 ^ 48)) s
  else .fault codeXlate s

/-- Checks an access of a core under its PTROOT and ASID. -/
def chk (s : State) (n c : Nat) (va : Word) (size : Nat) (need : Need) : Chk :=
  let k := co s n c
  chkAs s n (some c) k.ptRoot (fld k.asid 5 0) va size need

/-- Checks an access of the device itself in the space of tenant 0, never in the aperture (R408): through the TLBs of the
core on whose behalf it is made, where there is one (log 50). -/
def chkDevice (s : State) (n : Nat) (c : Option Nat) (va : Word) (size : Nat) (need : Need) : Chk :=
  if va.toNat < 2 ^ 48 ∧ bitsOf va.toNat 47 40 ≠ 0xFF then chkLocal s n c (smGet (nd s n).troot 0 0) 0 va.toNat size need false
  else .fault codeXlate s

/-- What a window address names at its target, as the tables stand: space, physical address and kind. -/
def peekWindow (s : State) (m asid off : Nat) : Option (Space × Nat × Kind) :=
  match walk (nd s m) (smGet (nd s m).troot 0 asid) asid off with
  | .leaf e => (locSpace (fld e.pte 9 8)).map fun sp =>
      (sp, fld e.pte 51 16 * 2 ^ 16 + (off - e.base), kindOf (fld e.pte 2 1))
  | .fault _ => none

/-- Adds 1 to a core's POISONZ count (R210, R452: saturating). -/
def addPoisonZ (s : State) (n c : Nat) : State :=
  modNd s n fun d =>
    let v := BitVec.ofNat 64 (satAdd (smGet d.poisonZ 0 c).toNat 1 (2 ^ 64 - 1))
    { d with poisonZ := smPut d.poisonZ c v }

/-- Whether L1 may hold a line (R199). -/
def l1Holds (sp : Space) (k : Kind) : Bool := sp != .host && (k == .release || k == .unordered)

/-- Finds the L1 line of an address and takes it out of its place in the order of use. -/
def l1Take (k : Core) (sp : Space) (pa : Nat) : Option (L1Line × List L1Line) :=
  takeFirst (fun l => l.sp == sp && l.pa == pa / 128 * 128) k.l1

/-- Writes a dirty line back with its poison (R202, R209); the line's class is charged nothing (R459). -/
def writeBack (s : State) (n : Nat) (l : L1Line) : State :=
  if l.dirty = 0 then s else
  let s := touch s n none l.sp l.pa (popCount l.dirty.toNat 128) true
  modNd s n fun d =>
    let d := homeWrite d l.sp l.pa 128 l.dirty.toNat l.data.toNat
    if l.poison then setPoison d l.sp l.pa true else d

/-- The set of an address (R202). -/
def l1Set (pa : Nat) : Nat := bitsOf pa 12 7

/-- Makes room in a set and gives the way for a new line: the invalid way of the highest granule, else that of the least
recently used line, written back (R202, R401); a way that a preload has zeroed takes no fill (R421). -/
def l1Room (s : State) (n c : Nat) (pa : Nat) : Nat × State :=
  let k := co s n c
  let used := k.l1.filter fun l => l1Set l.pa == l1Set pa
  let taken (w : Nat) : Bool := match k.pre with
    | some p => p.2.2.contains w
    | none => false
  match (upFrom 0 (40 - k.part)).find? fun i => !(used.any fun l => l.way == 39 - i) && !taken (39 - i) with
  | some i => (39 - i, s)
  | none =>
    match used.getLast? with
    | none => (39, s)
    | some v =>
      let s := modCo s n c fun k => { k with l1 := k.l1.filter fun l => !(l.sp == v.sp && l.pa == v.pa) }
      (v.way, writeBack s n v)

/-- Reads a line into L1 from its home, or places one that is wholly written (R202). -/
def l1Fill (s : State) (n c : Nat) (cls : Option Nat) (sp : Space) (pa : Nat) (k : Kind) (readIn : Bool) : State :=
  let base := pa / 128 * 128
  let s := if readIn then touch s n cls sp base 128 false else s
  let r := l1Room s n c base
  let d := nd r.2 n
  let x : L1Line := ⟨sp, base, k, if readIn then BitVec.ofNat 1024 (homeRead d sp base 128) else 0, 0,
    readIn && isPoison d sp base, r.1, cls.getD 0⟩
  modCo r.2 n c fun q => { q with l1 := x :: q.l1 }

/-- Brings a line to the front of L1, filling it where it is absent, and gives it. -/
def l1Get (s : State) (n c : Nat) (cls : Option Nat) (sp : Space) (pa : Nat) (k : Kind) (readIn : Bool) : L1Line × State :=
  match l1Take (co s n c) sp pa with
  | some (l, rest) => (l, modCo s n c fun q => { q with l1 := l :: rest })
  | none =>
    let s := l1Fill s n c cls sp pa k readIn
    ((co s n c).l1.headD default, s)

/-- Drops a line from L1, written back first or not. -/
def l1Drop (s : State) (n c : Nat) (sp : Space) (pa : Nat) (wb : Bool) : State :=
  match l1Take (co s n c) sp pa with
  | none => s
  | some (l, rest) =>
    let s := modCo s n c fun q => { q with l1 := rest }
    if wb then writeBack s n l else s

/-- Writes a line back and keeps it, clean (R217, R225). -/
def l1Clean (s : State) (n c : Nat) (l : L1Line) : State :=
  let s := writeBack s n l
  modCo s n c fun q => { q with l1 := q.l1.map fun x => if x.sp == l.sp && x.pa == l.pa then { x with dirty := 0 } else x }

/-- The low `n` bytes of a mask. -/
def fullMask (n : Nat) : Nat := 2 ^ n - 1

/-- The integer of a size that an atomic computes (R238). -/
def atomicNew (aop size old op cmp : Nat) : Nat :=
  let w := 8 * size
  let o := sextN old w
  let p := sextN op w
  let fl (f : Val → Val → Val) : Nat := roundF fmtF32 0 false (f (decodeF fmtF32 old) (decodeF fmtF32 op))
  match aop with
  | 0 => (old + op) % 2 ^ w
  | 1 => old &&& op
  | 2 => old ||| op
  | 3 => old ^^^ op
  | 4 => if o ≤ p then old else op
  | 5 => if o ≤ p then op else old
  | 6 => min old op
  | 7 => max old op
  | 8 => op
  | 9 => fl (vAdd 0)
  | 10 => fl vMin
  | 11 => fl vMax
  | _ => if old = cmp then op else old

/-- A DETERM entry applied to the 128 bytes of its line (R234 to R236). -/
def detApply (e : DetEntry) (line : Nat) : Nat :=
  match e.aop with
  | none => line - (line &&& widen e.mask.toNat 128) + (e.data.toNat &&& widen e.mask.toNat 128)
  | some a =>
    let old := line >>> (8 * e.aoff) % 2 ^ (8 * e.asize)
    let new := atomicNew a e.asize old (e.op.toNat % 2 ^ (8 * e.asize)) (e.cmp.toNat % 2 ^ (8 * e.asize))
    line - (old <<< (8 * e.aoff)) + ((new % 2 ^ (8 * e.asize)) <<< (8 * e.aoff))

/-- A DETERM line as a core reads it: the published bytes with the core's own entries of this epoch (R234). -/
def detLine (s : State) (n c : Nat) (sp : Space) (pa : Nat) : Nat :=
  let base := pa / 128 * 128
  ((co s n c).detMine.filter fun e => e.sp == sp && e.pa == base).foldl (fun l e => detApply e l)
    (homeRead (nd s n) sp base 128)

/-- Whether a DETERM line as a core reads it is poisoned: its home's mark, as the core's own entries have left it. -/
def detPoison (s : State) (n c : Nat) (sp : Space) (pa : Nat) : Bool :=
  let base := pa / 128 * 128
  ((co s n c).detMine.filter fun e => e.sp == sp && e.pa == base).foldl
    (fun p e => if e.aop.isNone && e.mask == BitVec.allOnes 128 then e.poison else p || e.poison) (isPoison (nd s n) sp base)

/-- A load of bytes of one line by a core: value, whether the line is poisoned, and the state after (R199, R202). Where the
page keeps the line out of L1, a copy that another page of the same line has left there goes down first (R222). -/
def loadMem (s : State) (n c : Nat) (cls : Option Nat) (sp : Space) (pa : Nat) (k : Kind) (size : Nat) :
    Nat × Bool × State :=
  if l1Holds sp k then
    let r := l1Get s n c cls sp pa k true
    (r.1.data.toNat >>> (8 * (pa % 128)) % 2 ^ (8 * size), r.1.poison, r.2)
  else
    let s := touch (l1Drop s n c sp pa true) n cls sp (pa / 128 * 128) size false
    let p := if k = .determ then detPoison s n c sp pa else isPoison (nd s n) sp pa
    if k = .determ then (detLine s n c sp pa >>> (8 * (pa % 128)) % 2 ^ (8 * size), p, s)
    else (homeRead (nd s n) sp pa size, p, s)

/-- Takes a DETERM entry (R233). -/
def detPut (s : State) (n c : Nat) (e : DetEntry) : State :=
  modCo s n c fun k =>
    let e := { e with serial := k.detNext }
    { k with detBuf := k.detBuf ++ [e], detMine := k.detMine ++ [e], detNext := k.detNext + 1 }

/-- A store of the bytes of a mask within one line by a core (R202, R211, R214, R233); a copy of the line in L1, left there
by another page of it, goes down first where this page keeps it out (R222). -/
def storeMem (s : State) (n c : Nat) (cls : Option Nat) (sp : Space) (pa : Nat) (k : Kind) (size mask v : Nat) : State :=
  let whole : Bool := size == 128 && mask % 2 ^ 128 == fullMask 128
  let off := pa % 128
  if l1Holds sp k then
    let r := l1Get s n c cls sp pa k (!whole)
    let m := widen mask size <<< (8 * off)
    let old := r.1.data.toNat
    let x := { r.1 with data := BitVec.ofNat 1024 (old - (old &&& m) + ((v <<< (8 * off)) &&& m)),
                        dirty := r.1.dirty ||| BitVec.ofNat 128 (mask <<< off), poison := r.1.poison && !whole }
    modCo r.2 n c fun q => { q with l1 := x :: q.l1.tail }
  else if k = .determ then
    detPut (l1Drop s n c sp pa true) n c ⟨sp, pa / 128 * 128, BitVec.ofNat 128 (mask <<< off), BitVec.ofNat 1024 (v <<< (8 * off)), none, 0, 0, 0, 0,
      c, tenantOf (co s n c), false, cls.getD 0, 0⟩
  else
    let s := touch (l1Drop s n c sp pa true) n cls sp pa (popCount mask size) true
    modNd s n fun d => homeWrite d sp pa size mask v

/-- Whether a scratchpad line is poisoned. -/
def spadPoisoned (k : Core) (off : Nat) : Bool := smGet k.spadPoison false (off / 128)
/-- Reads scratchpad bytes. -/
def spadRead (k : Core) (off size : Nat) : Nat := memRead k.spad off size
/-- Writes scratchpad bytes; a whole line clears its poison (R211). -/
def spadWrite (k : Core) (off size mask v : Nat) : Core :=
  let k := { k with spad := memMasked k.spad off mask v size }
  if size = 128 ∧ mask % 2 ^ 128 = fullMask 128 then { k with spadPoison := smSet k.spadPoison false (off / 128) false } else k

/-- The result of reading a checked local target. -/
structure Got where
  v      : Nat
  poison : Bool
  s      : State

/-- Reads a checked local target; a poisoned line of a ZP page reads zero and counts (R210). -/
def readT (s : State) (n c : Nat) (cls : Option Nat) (t : Target) (size : Nat) : Got :=
  match t with
  | .mem sp pa k zp =>
    let r := loadMem s n c cls sp pa k size
    if r.2.1 && zp then ⟨0, false, addPoisonZ r.2.2 n c⟩ else ⟨r.1, r.2.1, r.2.2⟩
  | .spad o off => ⟨spadRead (co s n o) off size, spadPoisoned (co s n o) off, s⟩
  | .remote .. => ⟨0, false, s⟩

/-- Writes a checked local target. -/
def writeT (s : State) (n c : Nat) (cls : Option Nat) (t : Target) (size mask v : Nat) : State :=
  match t with
  | .mem sp pa k _ => storeMem s n c cls sp pa k size mask v
  | .spad o off => modCo s n o fun k => spadWrite k off size mask v
  | .remote .. => s

/-- Marks a checked local target's line poisoned, as a whole-line transfer with poison leaves it (R209). -/
def poisonT (s : State) (n c : Nat) (t : Target) : State :=
  match t with
  | .mem sp pa k _ =>
    if k = .determ then
      let mark (l : List DetEntry) : List DetEntry := modNth (fun e => { e with poison := true }) l (l.length - 1)
      modCo s n c fun q => { q with detBuf := mark q.detBuf, detMine := mark q.detMine }
    else if l1Holds sp k then
      match l1Take (co s n c) sp pa with
      | some (l, rest) => modCo s n c fun q => { q with l1 := { l with poison := true } :: rest }
      | none => modNd s n fun d => setPoison d sp pa true
    else modNd s n fun d => setPoison d sp pa true
  | .spad o off => modCo s n o fun k => { k with spadPoison := smSet k.spadPoison false (off / 128) true }
  | .remote .. => s

/-- An atomic at the home of its line or in the own scratchpad: the old value, or poison (R238, R239, R242). A line in
the core's L1 is first written back and dropped. -/
def atomicT (s : State) (n c : Nat) (cls : Option Nat) (t : Target) (aop size op cmp : Nat) : Got :=
  match t with
  | .spad o off =>
    let k := co s n o
    if spadPoisoned k off then ⟨0, true, s⟩ else
    let old := spadRead k off size
    ⟨old, false, modCo s n o fun k => spadWrite k off size (fullMask size) (atomicNew aop size old op cmp)⟩
  | .mem sp pa k _ =>
    let s := l1Drop s n c sp pa true
    if k = .determ then
      if detPoison s n c sp pa then ⟨0, true, s⟩ else
      let s := touch s n cls sp (pa / 128 * 128) size false
      let old := detLine s n c sp pa >>> (8 * (pa % 128)) % 2 ^ (8 * size)
      ⟨old, false, detPut s n c ⟨sp, pa / 128 * 128, BitVec.ofNat 128 (fullMask size <<< (pa % 128)), 0, some aop, pa % 128,
        size, BitVec.ofNat 64 op, BitVec.ofNat 64 cmp, c, tenantOf (co s n c), false, cls.getD 0, 0⟩⟩
    else
      let s := touch s n cls sp pa size false
      if isPoison (nd s n) sp pa then ⟨0, true, s⟩ else
      let s := touch s n cls sp pa size true
      let old := homeRead (nd s n) sp pa size
      ⟨old, false, modNd s n fun d => homeWrite d sp pa size (fullMask size) (atomicNew aop size old op cmp)⟩
  | .remote .. => ⟨0, false, s⟩

/-- The DETERM lines among targets: the entries an instruction needs (R233). -/
def detLines (ts : List Target) : Nat :=
  (ts.foldl (fun (acc : List Nat) t => match t with
    | .mem sp pa .determ _ =>
      let key := pa / 128 * 2 + (if sp = .deep then 1 else 0)
      if acc.contains key then acc else key :: acc
    | _ => acc) []).length

/-- Performs a window access at its target node (R190, R215, R238): translated there under the caller's ASID, checked,
and performed at the home of the line; on the caller's own node its core's copy of the line is written back and dropped
first. An access that faults leaves nothing, A included (R196), and a load's poison faults unless it travels with the data. -/
def performWindow (s : State) (n : Nat) (r : WinReq) : State × WinRep :=
  let rep (code : Nat) (data : Nat) (poison : Bool) : WinRep :=
    ⟨r.core, r.seq, r.tag, n, BitVec.ofNat 64 ((if r.relaxed then 9 else 8) * 2 ^ 60 + n * 2 ^ 48 + r.off),
      match r.op with | .store => true | _ => false, code, BitVec.ofNat 1024 data, poison⟩
  let need := match r.op with | .load => Need.r | .store => .w | .atomic .. => .rw
  let cls := some r.cls
  match chkLocal s n none (smGet (nd s n).troot 0 r.asid) r.asid r.off r.size need true with
  | .wait => (s, rep codeXlate 0 false)
  | .fault code _ => (s, rep code 0 false)
  | .ok (.mem sp pa _ zp) s' =>
    let s' := if r.src = n then l1Drop s' n r.core sp pa true else s'
    match r.op with
    | .load =>
      let p := isPoison (nd s' n) sp pa
      if p && !zp && !r.poison then (s, rep 0 0 true) else
      let s' := touch s' n cls sp pa r.size false
      if p && zp then (addPoisonZ s' r.src r.core, rep 0 0 false) else (s', rep 0 (homeRead (nd s' n) sp pa r.size) p)
    | .store =>
      let s' := touch s' n cls sp pa r.size true
      let s' := modNd s' n fun d => homeWrite d sp pa r.size (fullMask r.size) r.data.toNat
      (if r.poison then modNd s' n fun d => setPoison d sp pa true else s', rep 0 0 false)
    | .atomic aop op cmp _ _ =>
      if sp = .host then (s, rep codePerm 0 false)
      else if isPoison (nd s' n) sp pa then (s, rep codePoison 0 true)
      else
        let s' := touch (touch s' n cls sp pa r.size false) n cls sp pa r.size true
        let old := homeRead (nd s' n) sp pa r.size
        (modNd s' n fun d => homeWrite d sp pa r.size (fullMask r.size) (atomicNew aop r.size old op.toNat cmp.toNat), rep 0 old false)
  | .ok _ _ => (s, rep codeXlate 0 false)

/-- A window access performed within the step of its agent (log 7); a node that is lost gives PEERGONE (R215). -/
def windowNow (s : State) (r : WinReq) : State × WinRep :=
  if isLost s r.src r.dst then
    (s, ⟨r.core, r.seq, r.tag, r.dst, BitVec.ofNat 64 ((if r.relaxed then 9 else 8) * 2 ^ 60 + r.dst * 2 ^ 48 + r.off),
      match r.op with | .store => true | _ => false, codePeerGone, 0, false⟩)
  else performWindow s r.dst r

/-- Whether stores of a core to a node are still on their way, for which its window accesses that are performed within one
step (log 7) wait: they keep to the order of R222, R223 and R228. -/
def windowBusy (s : State) (n c m : Nat) : Bool := (co s n c).winOut.any fun w => w.node == m

/-- Whether a target lies on a node for which `windowBusy` holds. -/
def remoteBusy (s : State) (n c : Nat) : Target → Bool
  | .remote m _ _ => windowBusy s n c m
  | _ => false

/-- Whether an access would move bytes at the HBM port of a node where its class's bucket is empty (R33, R459). -/
def portEmpty (d : Node) (cls pa bytes : Nat) (write : Bool) : Bool :=
  (bucketOf d cls).hbm == some 0 && portBytes d .hbm pa bytes write != 0

/-- The same of an access through the window, at its target. -/
def windowEmpty (s : State) (m asid cls off size : Nat) (write : Bool) : Bool :=
  match peekWindow s m asid off with
  | some (.hbm, pa, _) => portEmpty (nd s m) cls pa size write
  | _ => false

/-- Whether an access of `size` bytes by a core must wait for the HBM bucket of a class, here or at the target of the window
(R33, R34): it would move bytes at the port of a node whose bucket is empty (R459). A DETERM store moves none before its
publication. -/
def hbmHold (s : State) (n c cls : Nat) (t : Target) (size : Nat) (write : Bool) : Bool :=
  let empty (d : Node) (pa bytes : Nat) (w : Bool) : Bool := portEmpty d cls pa bytes w
  match t with
  | .mem .hbm pa k _ =>
    if l1Holds .hbm k then
      !((l1Take (co s n c) .hbm pa).isSome || (write && size == 128)) && empty (nd s n) pa 128 false
    else !(k == .determ && write) && empty (nd s n) pa size write
  | .remote m _ off => windowEmpty s m (fld (co s n c).asid 5 0) cls off size write
  | _ => false

/-- A target as an access at the home of its line sees it: the L1 is passed by (R238). -/
def atHome : Target → Target
  | .mem sp pa k zp => .mem sp pa (if k = .determ then .determ else .strong) zp
  | t => t

/-- Reads bytes of the device's own space, or gives the fault code (R408); a read that faults leaves no A bit (R196). -/
def devRead (s : State) (n : Nat) (c : Option Nat) (va : Word) (size : Nat) : Sum Nat Nat × State :=
  match chkDevice s n c va size .r with
  | .ok (.mem sp pa _ zp) s' =>
    if isPoison (nd s' n) sp pa then
      (if zp then (.inr 0, touch s' n none sp pa size false)
       else (.inl codePoison, match c with | some c => keepTlb s s' n c | none => { s with free := s'.free }))
    else (.inr (homeRead (nd s' n) sp pa size), touch s' n none sp pa size false)
  | .ok _ s => (.inl codeXlate, s)
  | .fault code s => (.inl code, s)
  | .wait => (.inl codeXlate, s)

/-- Writes bytes of the device's own space within one page, or gives the fault code; performed at SYSTEM scope. -/
def devWrite (s : State) (n : Nat) (c : Option Nat) (va : Word) (size v : Nat) : Sum Nat Unit × State :=
  match chkDevice s n c va size .w with
  | .ok (.mem sp pa _ _) s =>
    (.inr (), modNd (touch s n none sp pa size true) n fun d => homeWrite d sp pa size (fullMask size) v)
  | .ok _ s => (.inl codeXlate, s)
  | .fault code s => (.inl code, s)
  | .wait => (.inl codeXlate, s)

end Sys2Proof.Machine
end

