-- ==== Sys2Proof/Machine/Operands.lean ====
section
/-! DEFINITION. Scalar registers with s0 hard-wired (R93), constant banks (R54), operand values (R53 to R56, R98), the
scoreboard (R96) and the results in flight (R127, R411). -/

namespace Sys2Proof.Machine

/-- A scalar register: s0 reads 0 (R93). -/
def regRead (k : Sequencer) (r : Reg) : Word := if r = 0 then 0 else smGet k.regs 0 r.toNat
/-- Writes a scalar register: a write to s0 is discarded (R93). -/
def regWrite (k : Sequencer) (r : Reg) (v : Word) : Sequencer :=
  if r = 0 then k else { k with regs := smPut k.regs r.toNat v }
/-- A constant-bank entry of a field: entry (32 × CBB[2:0] + field) mod 256 (R54). -/
def bankRead (k : Sequencer) (f : Nat) : Word := smGet k.bank 0 ((32 * (k.cbb.toNat % 8) + f) % 256)

/-- The value of a scalar operand (R54, R56, R98). -/
def sopVal (k : Sequencer) : SOp → Word
  | .reg r => regRead k r
  | .bank f => bankRead k f.toNat
  | .lit v => v.signExtend 64
  | .ext v => v.signExtend 64
/-- The value of a vector function's scalar operand, all 64 bits (R137, R142, R144). -/
def vopVal (k : Sequencer) : VOp → Word
  | .vec _ => 0
  | .reg f => regRead k (f.setWidth 5)
  | .bank f => bankRead k f.toNat
  | .lit v => v.signExtend 64
  | .ext v => v.signExtend 64

/-- The registers an operand reads. -/
def sopSrcs : SOp → List Reg
  | .reg r => [r]
  | _ => []
/-- The registers a vector operand reads. -/
def vopSrcs : VOp → List Reg
  | .reg f => [f.setWidth 5]
  | _ => []

/-- The units an operand adds to an instruction (R55). -/
def sopLen (a : SOp) : Nat := if a.isExt then 1 else 0

/-- The registers of the moving sequencer as an instruction reads them. -/
def reg (s : State) (r : Reg) : Word := regRead (cs s) r
/-- A scalar operand's value. -/
def opv (s : State) (a : SOp) : Word := sopVal (cs s) a

/-- Whether a result in flight, or one still to land after a resume, goes to a register (R96, R414). -/
def pendingOn (k : Core) (q : Seq) (r : Reg) : Bool :=
  r != 0 && ((k.inflight.any fun x => x.dest == .sreg q r) || (!inHandler k && k.landing.any fun x => x.dest == .sreg q r))
/-- Whether every source register is ready (R95, condition 6). -/
def srcsReady (s : State) (rs : List Reg) : Bool := rs.all fun r => !pendingOn (cc s) s.cur.seq r

/-- Takes the destination from older results of a register, so that writes land in issue order (R96). -/
def supersede (l : List Result) (q : Seq) (r : Reg) : List Result :=
  l.map fun x => if x.dest == .sreg q r then { x with dest := .none } else x
/-- Takes a register from every older result of a core, in flight or in the landing buffer; the handler leaves the landing
buffer of the cut context alone (R96, R414). -/
def supersedeAll (k : Core) (q : Seq) (r : Reg) : Core :=
  { k with inflight := supersede k.inflight q r, landing := if inHandler k then k.landing else supersede k.landing q r }
/-- Writes a scalar register at once. -/
def writeReg (s : State) (r : Reg) (v : Word) : State :=
  if r = 0 then s else
  modCc (modCs s fun k => regWrite k r v) fun k => supersedeAll k s.cur.seq r

/-- The count of results of latency above 1 cc in flight (R411). -/
def inflightRoom (s : State) (more : Nat) : Bool :=
  let k := cc s
  (k.inflight.length + (if inHandler k then 0 else k.landing.length)) + more ≤ 64

/-- Puts a result in flight, due `lat` cycles of the core from now. -/
def fly (s : State) (lat : Nat) (dest : Dest) (val : Row) (en : Mask) (relay tok : Option Nat) (sig : BitVec 16) (vmem : Bool) :
    State :=
  let due := coreCyc s s.cur.node s.cur.core + lat
  modCc s fun k => { k with inflight := k.inflight ++ [⟨due, dest, val, en, relay, tok, sig, vmem, s.cur.seq⟩] }

end Sys2Proof.Machine
end

