-- ==== Sys2Proof/Machine/Flags.lean ====
section
/-! DEFINITION. Event flags (R60, R113, R114), token FIFOs (R109, R110) and queue registers (R111, R112): the tests of an
issue, what it takes, and what its retirement makes visible. -/

namespace Sys2Proof.Machine

/-- Whether every flag of a mask is set (R60). -/
def flagsSet (s : State) (m : BitVec 16) : Bool := (cc s).evt &&& m == m
/-- Clears the flags of a mask at issue (R60). -/
def clearFlags (s : State) (m : BitVec 16) : State :=
  if m = 0 then s else modCc s fun k => { k with evt := k.evt &&& ~~~m }
/-- Sets flags at the end of this cc (R114). -/
def signal (s : State) (m : BitVec 16) : State :=
  if m = 0 then s else later s (.flags s.cur.node s.cur.core m)

/-- A FIFO of a core. -/
def fifo (k : Core) (f : Nat) : Fifo := smGet k.fifos {} f
/-- Changes a FIFO. -/
def putFifo (k : Core) (f : Nat) (x : Fifo) : Core := { k with fifos := smPut k.fifos f x }

/-- The tokens one instruction pops from partner `p` (R109): its TK pop and its own counts. -/
def popCountOf (t : Tok) (extra : List (Nat × Nat)) (p : Nat) : Nat :=
  (if t.pop.toNat = p then 1 else 0) + (extra.foldl (fun acc e => if e.1 = p then acc + e.2 else acc) 0)
/-- The tokens it pushes to partner `p`. -/
def pushCountOf (t : Tok) (extra : List (Nat × Nat)) (p : Nat) : Nat :=
  (if t.push.toNat = p then 1 else 0) + (extra.foldl (fun acc e => if e.1 = p then acc + e.2 else acc) 0)

/-- Whether the FIFOs hold the tokens popped (R95, condition 5). -/
def tokensThere (s : State) (t : Tok) (extra : List (Nat × Nat)) : Bool :=
  [1, 2, 3].all fun p => popCountOf t extra p ≤ (fifo (cc s) (fifoIn s.cur.seq p)).n
/-- Whether the FIFOs have room for the tokens pushed (R95, condition 7); a pop of this cc is not yet seen (R97). -/
def tokensRoom (s : State) (t : Tok) (extra : List (Nat × Nat)) : Bool :=
  [1, 2, 3].all fun p =>
    let f := fifo (cc s) (fifoOut s.cur.seq p)
    f.n + f.popped + f.v + pushCountOf t extra p ≤ 16

/-- Takes `k` tokens from a FIFO; its producer sees the room in the next cc. -/
def popTok (s : State) (f k : Nat) : State :=
  if k = 0 then s else
  later (modCc s fun c => let x := fifo c f; putFifo c f { x with n := x.n - k, popped := x.popped + k })
    (.tokPop s.cur.node s.cur.core f k)
/-- Reserves `k` tokens of a FIFO (R109: added to V at issue). -/
def reserveTok (s : State) (f k : Nat) : State :=
  if k = 0 then s else modCc s fun c => let x := fifo c f; putFifo c f { x with v := x.v + k }
/-- Takes what an issue takes from the token FIFOs: pops, and reservations for its pushes. -/
def takeTokens (s : State) (t : Tok) (pops pushes : List (Nat × Nat)) : State :=
  let s := [1, 2, 3].foldl (fun s p => popTok s (fifoIn s.cur.seq p) (popCountOf t pops p)) s
  [1, 2, 3].foldl (fun s p => reserveTok s (fifoOut s.cur.seq p) (pushCountOf t pushes p)) s

/-- Moves `k` tokens of a FIFO from V to N (R109). -/
def landTok (k : Core) (f n : Nat) : Core :=
  let x := fifo k f
  putFifo k f { x with n := x.n + n, v := x.v - n }
/-- A push that retires in this cc, seen from the next on. -/
def pushLater (s : State) (f k : Nat) : State := if k = 0 then s else later s (.tokPush s.cur.node s.cur.core f k)
/-- The FIFO that the TK push of an instruction names. -/
def pushKey (s : State) (t : Tok) : Option Nat := if t.push = 0 then none else some (fifoOut s.cur.seq t.push.toNat)
/-- Retirement in the issue cc: the TK push and the instruction's own pushes. -/
def retirePushes (s : State) (t : Tok) (pushes : List (Nat × Nat)) : State :=
  [1, 2, 3].foldl (fun s p => pushLater s (fifoOut s.cur.seq p) (pushCountOf t pushes p)) s
/-- Retirement, with a TK push held as a FIFO key, of an agent whose core is given. -/
def retireTok (s : State) (n c : Nat) (f : Option Nat) : State :=
  match f with
  | some f => later s (.tokPush n c f 1)
  | none => s

/-- A queue register of a core. -/
def queueOf (k : Core) (q : Nat) : QReg := smGet k.queues {} q
/-- Changes a queue register. -/
def putQueue (k : Core) (q : Nat) (x : QReg) : Core := { k with queues := smPut k.queues q x }
/-- Whether a queue has room for one more entry (R111); a removal of this cc is not yet seen. -/
def queueRoom (s : State) (q : Nat) : Bool :=
  let x := queueOf (cc s) q
  x.entries.length + x.freed < qDepth q
/-- The head of a queue. -/
def queueHead (s : State) (q : Nat) : Option QEntry := (queueOf (cc s) q).entries.head?
/-- Reserves a tail slot and gives its serial number (R111). -/
def queueReserve (s : State) (q : Nat) : Nat × State :=
  let x := queueOf (cc s) q
  (x.base + x.entries.length, modCc s fun k => putQueue k q { x with entries := x.entries ++ [.reserved] })
/-- Fills the slot of a serial number. -/
def queueFill (k : Core) (q serial : Nat) (e : QEntry) : Core :=
  let x := queueOf k q
  putQueue k q { x with entries := modNth (fun _ => e) x.entries (serial - x.base) }
/-- Removes the head; the producer sees the room in the next cc. -/
def queuePop (s : State) (q : Nat) : State :=
  later (modCc s fun k =>
      let x := queueOf k q
      putQueue k q { x with entries := x.entries.tail, base := x.base + 1, freed := x.freed + 1 })
    (.qFreed s.cur.node s.cur.core q)
/-- The filled entries of a queue. -/
def queueFilled (x : QReg) : Nat := (x.entries.filter fun e => e != .reserved).length

end Sys2Proof.Machine
end

