-- ==== Sys2Proof/Machine/Nest.lean ====
section
/-! DEFINITION. The shape of a matrix nest (R152 to R158): stream descriptors, trip counts, addresses, and the accumulator
rows that queued entries keep busy (R160). -/

namespace Sys2Proof.Machine

/-- Fields of a stream descriptor (R152). -/
def sdSpace (d : StreamDesc) : Nat := fld d.w0 63 62
def sdFmt (d : StreamDesc) : Nat := fld d.w0 61 56
def sdGeom (d : StreamDesc) : Nat := fld d.w0 55 53
def sdPitch (d : StreamDesc) : Nat := fld d.w0 47 32
def sdBase (d : StreamDesc) : Nat := fld d.w0 31 0
def sdScStride (d : StreamDesc) : Nat := fld d.w1 63 32
def sdScBase (d : StreamDesc) : Nat := fld d.w1 31 0
/-- The stride of a level, signed 32 bits (R152). -/
def sdStride (d : StreamDesc) (l : Nat) : Int :=
  let w := if l < 2 then d.w2 else if l < 4 then d.w3 else d.w4
  sextN (if l % 2 = 0 then fld w 31 0 else fld w 63 32) 32

/-- A descriptor of a shadow set. -/
def sdOf (x : Shadow) (k : Nat) : StreamDesc := smGet x.sd {} k
/-- A trip count (R157). -/
def tcOf (x : Shadow) (l : Nat) : Nat := smGet x.tc 1 l
/-- The attribute word's fields (R157). -/
def atZinit (x : Shadow) : Bool := bit x.attr 22
def atMode (x : Shadow) : Nat := fld x.attr 21 20
def atRlev (x : Shadow) : Nat := fld x.attr 19 17
def atIden (x : Shadow) : Bool := bit x.attr 16
def atIdSd (x : Shadow) : StreamDesc := sdOf x (fld x.attr 15 12)
def atT (x : Shadow) : StreamDesc := sdOf x (fld x.attr 11 8)
def atB (x : Shadow) : StreamDesc := sdOf x (fld x.attr 7 4)
def atA (x : Shadow) : StreamDesc := sdOf x (fld x.attr 3 0)

/-- The product of the trip counts from level `lo` up to `hi − 1`. -/
def tcProd (x : Shadow) (lo hi : Nat) : Nat := (upFrom lo (hi - lo)).foldl (fun a l => a * tcOf x l) 1
/-- RED and NRED (R158). -/
def nestRed (x : Shadow) : Nat := tcProd x 0 (atRlev x)
def nestNred (x : Shadow) : Nat := tcProd x (atRlev x) 6

/-- The index of a level at iteration `n` (R158: L0 fastest). -/
def nestIdx (x : Shadow) (n l : Nat) : Nat := n / tcProd x 0 l % tcOf x l
/-- A stream's position at iteration `n`, over the levels from `lo` on (R154, R158). -/
def streamAt (x : Shadow) (d : StreamDesc) (n lo : Nat) : Int :=
  (upFrom lo (6 - lo)).foldl (fun a l => a + sdStride d l * (nestIdx x n l : Int)) (sdBase d : Int)
/-- XA and XB of k-step `kk` of reduction `q`. -/
def nestXA (x : Shadow) (q kk : Nat) : Int := streamAt x (atA x) (q * nestRed x + kk) 0
def nestXB (x : Shadow) (q kk : Nat) : Int := streamAt x (atB x) (q * nestRed x + kk) 0
/-- XT and XI of reduction `q`. -/
def nestXT (x : Shadow) (q : Nat) : Int := streamAt x (atT x) (q * nestRed x) (atRlev x)
def nestXI (x : Shadow) (q : Nat) : Int := streamAt x (atIdSd x) (q * nestRed x) (atRlev x)
/-- The tile that reduction `q` names. -/
def nestTile (x : Shadow) (q : Nat) : Nat := (nestXT x q).toNat / 128

/-- Whether a reduction from number `q` on names a tile (R160). -/
def namesTile (x : Shadow) (q tile : Nat) : Bool := (upFrom q (nestNred x - q)).any fun j => nestTile x j == tile

/-- Whether an entry of the matrix queue keeps a row busy (R160): an MGO the tiles of its reductions that have not
retired, ACOPY and ACLR their destination rows. -/
def entryBusy (e : MEntry) (row : Nat) : Bool :=
  match e.op with
  | .go x start => namesTile x (start + e.retired) (row / 128)
  | .acopy dst _ m => decide (dst ≤ row) && decide (row < dst + m)
  | .aclr first m => decide (first ≤ row) && decide (row < first + m)
  | _ => false

/-- Whether a row is busy (R132, R160): for an entry of the matrix queue, or for one that MABORT has dropped while the engine
is not yet idle (R184). -/
def rowBusy (k : Core) (row : Nat) : Bool := (k.mq ++ k.dropped).any fun e => entryBusy e row

/-- Whether an entry of the matrix queue runs to completion where its queue is emptied: an ACOPY, ACLR or ADINV that has begun
(R176, R184). -/
def runsOn (e : MEntry) : Bool := e.begun && match e.op with
  | .acopy .. => true
  | .aclr .. => true
  | .adinv .. => true
  | _ => false

/-- When what MABORT leaves to the engine is done (R184): the retirement under way and the entries that run on. -/
def engineEnds (k : Core) : List Nat :=
  (match k.ret with | some r => [r.due] | none => []) ++ (k.mq.filter runsOn).map fun e => e.due

/-- Whether a vector result, or a landing-buffer entry, is still due on a row for which `p` holds (R160). -/
def rowDue (k : Core) (p : Nat → Bool) : Bool :=
  (k.inflight ++ k.landing).any fun r => match r.dest with
    | .row i => p i
    | _ => false

end Sys2Proof.Machine
end

