-- ==== Sys2Proof/Machine/Ops.lean ====
section
/-! DEFINITION. The issue of an instruction (R95, R457), its retirement (R97), taking a trap as one shared operation
(R405 to R411) and the return from one (R413, R424). -/

namespace Sys2Proof.Machine

/-- The program counter as R47 writes it. -/
def pcWord (pc : BitVec 28) : Word := pc.setWidth 64
/-- A program counter from a line and a unit. -/
def pcOf (line unit : Nat) : BitVec 28 := BitVec.ofNat 28 (line * 16 + unit)

/-- The cause of a fault of the moving sequencer at an address. -/
def causeAt (s : State) (code : Nat) (addr : Word) : Cause := ⟨code, 0, seqIdx s.cur.seq, false, false, addr, 0⟩
/-- The cause of a fault whose address is the instruction's own program counter (R64). -/
def causeHere (s : State) (code : Nat) : Cause := causeAt s code (pcWord (cs s).pc)

/-- Fields of a link word (R44) of a fetched line. -/
def linkNu (line : BitVec 512) : Nat := bitsOf line.toNat 27 24
def linkEnd (line : BitVec 512) : Bool := line.toNat.testBit 28
def linkQp (line : BitVec 512) : Bool := line.toNat.testBit 29
def linkNext (line : BitVec 512) : Nat := bitsOf line.toNat 23 0
def linkSeq (line : BitVec 512) : Nat := bitsOf line.toNat 31 30
/-- The units of a line from unit `u` to NU (R44, R45). -/
def lineUnits (line : BitVec 512) (u : Nat) : List (BitVec 32) :=
  (upFrom u (linkNu line + 1 - u)).map fun i => BitVec.ofNat 32 (line.toNat >>> (32 * (i + 1)))

/-- The line a sequencer has at its program counter, if it is fetched. -/
def lineAt (k : Sequencer) : Option (BitVec 512) :=
  match k.line with
  | .ready idx bits => if idx = k.pc.toNat / 16 then some bits else none
  | _ => none

/-- Where control stands after an instruction (R105): the program counter, whether a quiet point has been passed (R72), and
whether it stands past the line's last unit, where END stops it or a NEXT that R46 refuses faults. -/
structure Cont where
  pc    : BitVec 28
  quiet : Bool
  past  : Bool
  deriving DecidableEq, Repr

/-- The continuation of an instruction of `len` units (R105). -/
def continuation (s : State) (k : Sequencer) (len : Nat) : Cont :=
  let line := k.pc.toNat / 16
  let unit := k.pc.toNat % 16 + len
  match lineAt k with
  | none => ⟨pcOf line unit, false, false⟩
  | some w =>
    if unit ≤ linkNu w then ⟨pcOf line unit, false, false⟩
    else if linkEnd w || linkNext w == 0 || decide ((imageOf (cc s)).2.1 ≤ linkNext w) then
      ⟨pcOf line (linkNu w), linkQp w, true⟩
    else ⟨pcOf (linkNext w) 0, linkQp w, false⟩

/-- Conditions 1 and 2 of R95 as far as the core and the sequencer decide them: the core runs, it is not being left at a
voluntary pre-emption (R177), no instruction that the sequencer waits for is outstanding, and a transfer's 3 cc have passed (R107). -/
def mayIssue (s : State) : Bool :=
  let k := cc s
  ((k.mode == .run && !k.leaving) || (inHandler k && s.cur.seq == .ctrl)) && decide (k.resumeAt ≤ s.now)
  && (cs s).hold == .none && decide ((cs s).notBefore ≤ coreCyc s s.cur.node s.cur.core)
  && (cs s).status != .stopped && (cs s).status != .idle

/-- The outcome of testing an instruction against R95. -/
inductive Issue where
  | issued (s : State)
  | blocked (s : State)
  | trap (k : Cause) (s : State)

/-- What an instruction's own checks give once conditions 1 to 6 hold (R457): a value to go on with, a wait, a fault. -/
inductive Pre (α : Type) where
  | go (x : α) (s : State)
  | hold (s : State)
  | fault (k : Cause) (s : State)

/-- An instruction as its issue sees it: its length in units, its tokens, who accepts it (R62), whether the trap handler
may run it (R409), its decode faults that depend on the sequencer or the state (R457), the flags it waits for (R60,
R113), tokens it moves beside TK (R110), its source registers (R96), whether its result stays in flight (R411), whether
it retires in its issue cc (R97), its own checks and conditions, room for what it pushes, its effect, and whether what it
has done while it waits stands (R99, R386, R388); otherwise an instruction that does not issue takes nothing (R95). -/
structure Op (α : Type) where
  len     : Nat := 1
  tk      : Tok
  seqs    : List Seq := allSeqs
  handler : Bool := true
  illegal : State → Bool := fun _ => false
  priv    : State → Bool := fun _ => false
  flags   : State → BitVec 16 := fun _ => 0
  pops    : State → List (Nat × Nat) := fun _ => []
  pushes  : State → List (Nat × Nat) := fun _ => []
  srcs    : List Reg := []
  flying  : Nat := 0
  now     : Bool := true
  pre     : State → Pre α
  room    : State → Bool := fun _ => true
  eff     : α → State → State
  keep    : Bool := false

/-- The decode fault of an instruction that the units alone do not show (R457): the lowest code stands (R64). -/
def decodeFault {α : Type} (o : Op α) (s : State) : Option Nat :=
  if o.illegal s || (inHandler (cc s) && !o.handler) then some codeIllegal
  else if !o.seqs.contains s.cur.seq then some codeWrongSeq
  else if o.priv s then some codePriv
  else none

/-- The quiet-span limit (R73). -/
def spanFull (s : State) : Bool := decide (4096 ≤ (cs s).span)

/-- What an issue takes and moves: flags, tokens, the count of issues, the quiet span and the program counter (R73, R95,
R406). The effect that follows sees the continuation as the program counter. -/
def takeIssue {α : Type} (o : Op α) (s : State) : State :=
  let s' := takeTokens (clearFlags s (o.flags s)) o.tk (o.pops s) (o.pushes s)
  let s' := modCs s' fun k =>
    let c := continuation s k o.len
    { k with pc := c.pc, past := c.past, span := if c.quiet then 0 else k.span + 1, quiet := c.quiet,
             issued := k.issued + 1, status := .running }
  if o.now then retirePushes s' o.tk (o.pushes s) else s'

/-- Tests and issues one instruction (R95, R457). -/
def issueOp {α : Type} (o : Op α) (s : State) : Issue :=
  if !mayIssue s then .blocked s
  else match decodeFault o s with
  | some code => .trap (causeHere s code) s
  | none =>
    if spanFull s then .trap (causeHere s codeQuietSpan) s
    else if !(flagsSet s (o.flags s) && tokensThere s o.tk (o.pops s) && srcsReady s o.srcs) then .blocked s
    else match o.pre s with
    | .fault k s' => .trap k s'
    | .hold s' => .blocked (if o.keep then s' else s)
    | .go x s' =>
      if tokensRoom s o.tk (o.pushes s) && inflightRoom s o.flying && o.room s then .issued (o.eff x (takeIssue o s'))
      else .blocked s

/-- Marks the moving sequencer blocked for this cc (R94, R95). -/
def setBlocked (s : State) : State :=
  modCs s fun k => { k with status := if k.status == .running then .blocked else k.status }

/-! Taking a trap. -/

/-- Copies accumulator rows as if all were read before any is written (R185). -/
def accCopy (acc : SMap Row) (dst src n : Nat) : SMap Row :=
  (upFrom 0 n).foldl (fun a i => smSet a 0 (dst + i) (smGet acc 0 (src + i))) acc
/-- Clears accumulator rows (R185). -/
def accClear (acc : SMap Row) (first n : Nat) : SMap Row := (upFrom first n).foldl (fun a i => smSet a 0 i 0) acc

/-- Rows written whole lose the mark of an uncorrectable error. -/
def accClean (m : SMap Bool) (first n : Nat) : SMap Bool := m.filter fun e => decide (e.1 < first) || decide (first + n ≤ e.1)

/-- Writes a reduction's working rows into its tile (R163). -/
def retireRows (acc : SMap Row) (r : Reduction) : SMap Row :=
  (upFrom 0 128).foldl (fun a i => smSet a 0 (128 * r.tile + i) (smGet r.work 0 i)) acc

/-- Completes the head entry of the matrix queue: its flags are set and it leaves (R150); busy marks that MABORT left end
(R184). -/
def mqComplete (s : State) (n c : Nat) (id : Nat) : State :=
  match (co s n c).mq.find? fun e => e.id == id with
  | none => s
  | some e =>
    let s := modCo s n c fun k => { k with mq := k.mq.filter fun x => x.id != id, dropped := [], mDone := k.mDone + 1 }
    if e.sig = 0 then s else later s (.flags n c e.sig)

/-- A retirement is done: rows written, RCNT advanced where it belongs to nest NSEQ, and the entry complete after its last
(R163, R173); busy marks that MABORT left end (R184). -/
def retireDone (s : State) (n c : Nat) : State :=
  match (co s n c).ret with
  | none => s
  | some r =>
    let s := modCo s n c fun k =>
      { k with acc := retireRows k.acc r, accPoison := accClean k.accPoison (128 * r.tile) 128, ret := none, dropped := [],
               mprog := if fld k.mprog 63 32 = r.nseq then putFld k.mprog 31 0 (fld k.mprog 31 0 + 1) else k.mprog,
               mq := k.mq.map fun e => if e.id == r.entry then { e with retired := e.retired + 1 } else e }
    match (co s n c).mq.find? fun e => e.id == r.entry with
    | some e => match e.op with
      | .go nest start =>
        if nestNred nest ≤ start + e.retired then mqComplete s n c e.id else s
      | _ => s
    | none => s

/-- The head of the matrix queue where the engine stops (R176): an ACOPY, ACLR or ADINV that has begun runs to completion, a
begun ADLOAD is abandoned and will start again. -/
def stopHead (s : State) (n c : Nat) : State :=
  match (co s n c).mq.head? with
  | none => s
  | some e =>
    if !e.begun then s else
    match e.op with
    | .acopy dst src m => mqComplete (modCo s n c fun k =>
        { k with acc := accCopy k.acc dst src m, accPoison := accClean k.accPoison dst m }) n c e.id
    | .aclr first m => mqComplete (modCo s n c fun k =>
        { k with acc := accClear k.acc first m, accPoison := accClean k.accPoison first m }) n c e.id
    | .adinv id all =>
      let t := tenantOf (co s n c)
      let keep (l : LensEntry) : Bool := !(l.tenant == t && (all || l.id == id))
      mqComplete (modQd s n (quadOf c) fun q => { q with lens := q.lens.filter keep }) n c e.id
    | .adload .. => modCo s n c fun k =>
        { k with mq := k.mq.map fun x => if x.id == e.id then { x with begun := false } else x }
    | _ => s

/-- The matrix engine at a cut (R174, R176): a retirement under way completes, a reduction in progress is discarded, and the
head entry stops. -/
def stopMatrix (s : State) (n c : Nat) : State :=
  let s := retireDone s n c
  stopHead (modCo s n c fun k => { k with red := none }) n c

/-- Whether a cut must wait: an access of the core is in flight (R405, step 2), a PPARKGET, which has issued (R297), waits for
its answer (log 25), or a message entry has begun and is not locally complete (R313). -/
def outstanding (k : Core) : Bool :=
  (allSeqs.any fun q => match (smGet k.seqs {} (seqIdx q)).hold with
    | .load _ => true
    | .atomic _ => true
    | .parkget .. => true
    | _ => false)
  || !k.loads.isEmpty || !k.blks.isEmpty || k.msgq.any fun e => e.stage == .sent

/-- The TRAPCAUSE word (R406). -/
def causeWord (k : Cause) (nlb : Nat) (saved : Bool) : Word :=
  BitVec.ofNat 64 (k.code + 256 * k.sub + 2 ^ 16 * k.agent + 2 ^ 21 * b2n k.deferred + 2 ^ 22 * b2n k.vol
    + 2 ^ 23 * b2n saved + 2 ^ 24 * nlb)

/-- The word of a sequencer in the cut record (R406). -/
def cutSeqWord (k : Sequencer) : Nat :=
  let st := match k.status with | .idle => 0 | .running => 1 | .blocked => 2 | .stopped => 3
  k.pc.toNat + st * 2 ^ 28 + k.issued.toNat * 2 ^ 32

/-- The cut record's 256 bytes as a number (R406). -/
def cutRecord (s : State) (n c : Nat) (k : Cause) (word : Word) : Nat :=
  let x := co s n c
  let seqW (i : Nat) := cutSeqWord (smGet x.seqs {} i)
  word.toNat + k.addr.toNat * 2 ^ 64 + seqW 0 * 2 ^ 128 + seqW 1 * 2 ^ 192 + seqW 2 * 2 ^ 256 + seqW 3 * 2 ^ 320
    + x.mDone.toNat * 2 ^ 384 + x.cCmp.toNat * 2 ^ 416 + x.pDone.toNat * 2 ^ 448 + x.mgDone.toNat * 2 ^ 480
    + x.cutGsc * 2 ^ 512 + (taskId x).toNat * 2 ^ 576 + k.msgref.toNat * 2 ^ 640

/-- The VA of a core's cut record (R406, R407). -/
def cutVa (d : Node) (c : Nat) : Word := BitVec.ofNat 64 (fld d.trapCut 47 14 * 2 ^ 14 + 256 * c)

/-- The image header fields that a fetch of 64 bytes gives (R41, R42): LINES, CBASE and CLEN, or the code that refuses it.
R42's checks name no bound on CLEN. -/
def parseHeader (h : Nat) : Sum Nat (Nat × Nat × Nat) :=
  let lines := bitsOf h 95 64
  let qoff := bitsOf h 127 96
  let qcount := bitsOf h 159 128
  let clen := bitsOf h 191 160
  if bitsOf h 31 0 ≠ 0x4E485645 ∨ bitsOf h 47 32 ≠ 1 ∨ bitsOf h 63 49 ≠ 0 ∨ bitsOf h 511 192 ≠ 0 ∨ lines < 2
      ∨ 2 ^ 24 < lines ∨ qoff % 64 ≠ 0 ∨ qoff < 64 * lines then .inl codeIllegal
  else if !h.testBit 48 then .inl codeQuietSpan
  else .inr (lines, (qoff + 4 * qcount + 63) / 64 * 64, clen)

/-- Reads an image line of 64 bytes for a core: R and X permission, never in the aperture (R40, R195); through the window
at its target (R190, R215). -/
def readLine (s : State) (n c : Nat) (va : Word) : Sum Nat (BitVec 512) × State :=
  let cls := some (classOf (co s n c))
  match chk s n c va 64 .rx with
  | .fault code s => (.inl code, s)
  | .wait => (.inl codePerm, s)
  | .ok (.mem sp pa _ zp) s' =>
    if isPoison (nd s' n) sp pa then
      (if zp then (.inr 0, addPoisonZ (touch s' n cls sp pa 64 false) n c) else (.inl codePoison, keepTlb s s' n c))
    else (.inr (BitVec.ofNat 512 (homeRead (nd s' n) sp pa 64)), touch s' n cls sp pa 64 false)
  | .ok (.spad ..) s => (.inl codePerm, s)
  | .ok (.remote m _ off) s =>
    let asid := fld (co s n c).asid 5 0
    if isLost s n m then (.inl codePeerGone, s) else
    match chkLocal s m none (smGet (nd s m).troot 0 asid) asid off 64 .rx true with
    | .ok (.mem sp pa _ zp) s' =>
      if isPoison (nd s' m) sp pa then
        (if zp then (.inr 0, addPoisonZ (touch s' m cls sp pa 64 false) n c) else (.inl codePoison, s))
      else (.inr (BitVec.ofNat 512 (homeRead (nd s' m) sp pa 64)), touch s' m cls sp pa 64 false)
    | .ok _ _ => (.inl codeXlate, s)
    | .fault code _ => (.inl code, s)
    | .wait => (.inl codeXlate, s)

/-- Whether a line fetch waits for the HBM bucket (R33, R34). -/
def fetchHold (s : State) (n c : Nat) (va : Word) : Bool :=
  match chk s n c va 64 .rx with
  | .ok t s => hbmHold s n c (classOf (co s n c)) (atHome t) 64 false
  | _ => false

/-- Results of the handler that are still due as it is left: their registers are gone with its bank, their token pushes and
flags stay (R97, R409). -/
def handlerLeft (l : List Result) : List Result := l.map fun r => { r with dest := .none }

/-- Leaves a core halted with its context held, and reports to the host (R407, R409, R450). The handler's state, its program
counter with it, stays to be seen until the host disposes of the context; no register shows that counter (log 51). -/
def holdForHost (s : State) (n c : Nat) (h : Bool) (k : Cause) : State :=
  postAttn (modCo s n c fun x => { x with mode := .hostHeld h k, inflight := handlerLeft x.inflight }) n 1 c k.code (cutVa (nd s n) c)

/-- The VA of the handler's image (R407). -/
def handlerBase (d : Node) : Word := BitVec.ofNat 64 (fld d.trapVec 47 6 * 64)

/-- CTRL enters the handler (R409): cleared scalar registers and return stack, s1 the cut record's VA, line 1 unit 0 of the
image at TRAPVEC; an image that R42 refuses is a fault in the handler. -/
def enterHandler (s : State) (n c : Nat) (k : Cause) : State :=
  let base := handlerBase (nd s n)
  let r := readLine s n c base
  let s := r.2
  let bad (code : Nat) : State := holdForHost (modCo s n c fun x => { x with hseq := { pc := 16 } }) n c true
    { k with code := code, sub := 0, agent := 0, addr := base }
  match r.1 with
  | .inl code => bad code
  | .inr h => match parseHeader h.toNat with
    | .inl code => bad code
    | .inr (lines, cbase, clen) =>
      let q : Sequencer := { status := .running, regs := [(1, cutVa (nd s n) c)], pc := 16 }
      modCo s n c fun x => { x with mode := .handler, hseq := q, himg := (base, lines, cbase, clen) }

/-- CTRL enters the handler unless the read of its header finds the HBM bucket of the task's class empty (R33): it waits. -/
def tryEnter (s : State) (n c : Nat) (k : Cause) : State :=
  if fetchHold s n c (handlerBase (nd s n)) then modCo s n c fun x => { x with mode := .entering k } else enterHandler s n c k

/-- Steps 3 to 5 of R405 once nothing is in flight, and what follows: a cancelled task ends (R391), a cut without handler
or one whose record cannot be written waits for the host, another enters the handler. -/
def finishCut (s : State) (n c : Nat) (k : Cause) : State :=
  let word := causeWord k (co s n c).landing.length false
  let s := modCo s n c fun x => { x with trapCause := word, trapAddr := k.addr, msgref := k.msgref, saved := none }
  let va := cutVa (nd s n) c
  let rec_ := cutRecord s n c k word
  let w1 := devWrite s n (some c) va 128 (rec_ % 2 ^ 1024)
  match w1.1 with
  | .inl _ => holdForHost w1.2 n c false k
  | .inr _ =>
    let w2 := devWrite w1.2 n (some c) (va + 128) 128 (rec_ / 2 ^ 1024)
    match w2.1 with
    | .inl _ => holdForHost w2.2 n c false k
    | .inr _ =>
      let s := w2.2
      if k.code = codeCancelled then modCo s n c fun x => { x with mode := .ending codeCancelled 7 }
      else if k.vol then modCo s n c fun x => { x with mode := .saving }
      else if bit (nd s n).trapVec 0 then tryEnter s n c k
      else holdForHost s n c false k

/-- Results in flight at the cut become landing-buffer entries with their remaining counts (R411, R414). -/
def captureLanding (s : State) (n c : Nat) : State :=
  let now := coreCyc s n c
  modCo s n c fun x =>
    { x with landing := (x.landing ++ x.inflight).map fun r => { r with due := r.due - now }, inflight := [],
             interlock := false }

/-- Marks the members of a core's gang record: peers of a trapped member wait (R390). -/
def gangHold (s : State) (n c : Nat) (on : Bool) : State :=
  match (co s n c).task with
  | none => s
  | some t => match t.gang with
    | none => s
    | some g => modNd s n fun d =>
      match smGet d.gangs none g.rec_ with
      | none => d
      | some r =>
        let held := (r.held.filter fun h => h.1 != g.m) ++ (if on then [(g.m, true)] else [])
        { d with gangs := smPut d.gangs g.rec_ (some { r with held := held }) }

/-- A GANGJOIN that waits while its gang has not formed is withdrawn by a trap (R399). -/
def gangWithdraw (s : State) (n c : Nat) : State :=
  match (co s n c).task with
  | none => s
  | some t => match t.waitGang with
    | none => s
    | some w =>
      match smGet (nd s n).gangs none w.1 with
      | none => s
      | some r =>
        if r.formed then s else
        let left := r.members.filter fun m => m.1 != w.2
        let s := modNd s n fun d =>
          { d with gangs := smPut d.gangs w.1 (if left.isEmpty then none else some { r with members := left }) }
        modCo s n c fun k => { k with task := some { t with waitGang := none } }

/-- A TLBINV that stands at issue is left unissued (R405, step 1; R423): the nodes that it asked have still to answer. -/
def tlbAbandon (k : Core) : Core :=
  match k.tlbWait with
  | none => k
  | some w => { k with tlbWait := none, tlbOwed := k.tlbOwed ++ w.left }

/-- Taking a trap (R405), the one operation that every cause goes through: nothing issues any more, the landing buffer
is captured, the engines stop, and the cut record is written when the accesses in flight are done. A sequencer that was not
tested in the cc of the cut shows the state of the cc before (DESIGN CHOICE, log 45). A fault in the handler stops CTRL and is
reported to the host (R409). -/
def takeTrap (s : State) (n c : Nat) (k : Cause) : State :=
  let s := modCo { s with trap := some (n, c, k) } n c tlbAbandon
  if inHandler (co s n c) then holdForHost s n c true k
  else
    let s := stopMatrix (captureLanding s n c) n c
    let s := if k.vol then s else gangHold (gangWithdraw s n c) n c true
    let s := modCo s n c fun x =>
      { x with cutGsc := gsc s n, mode := .cutting k, leaving := false, ctrWait := none, commWait := none,
               deferred := x.deferred.filter fun d => d.deferred && d != k }
    if outstanding (co s n c) then s else finishCut s n c k

/-- Resuming a context in one cc (R94, R413): a blocked sequencer runs again, every span starts at 0, each landing entry is
due `t0 + c`, and INTERLOCK is set while entries are still to land. -/
def resume (s : State) (n c t0 : Nat) : State :=
  let q := qd s n (quadOf c)
  let cyc := q.cyc + (t0 - sinceOf s q) / divider q
  let again (k : Sequencer) : Sequencer :=
    { k with span := 0, gscHi := none, status := if k.status == .blocked then .running else k.status }
  let s := modCo s n c fun x =>
    { x with mode := .run, resumeAt := t0, ctrWait := none, commWait := none, inflight := handlerLeft x.inflight, himg := (0, 0, 0, 0), hseq := {},
             seqs := x.seqs.map fun e => (e.1, again e.2),
             landing := x.landing.map fun r => { r with due := cyc + r.due }, interlock := !x.landing.isEmpty }
  gangHold s n c false

/-- The end of an issue test as an outcome of the machine: a trap is taken, never a stop. -/
def finish (s : State) : Issue → Host.Outcome State Fault Refusal
  | .issued s' => .next s'
  | .blocked s' => .next (setBlocked s')
  | .trap k s' => .next (takeTrap s' s.cur.node s.cur.core k)

/-- Runs one instruction of a sequencer. -/
def runOp {α : Type} (o : Op α) (s : State) : Host.Outcome State Fault Refusal := finish s (issueOp o s)

/-- Sets the program counter to a target; it issues no earlier than 3 cc after the transfer (R107). -/
def jumpTo (s : State) (t : BitVec 28) : State :=
  let when_ := coreCyc s s.cur.node s.cur.core + 3
  modCs s fun k => { k with pc := t, past := false, notBefore := when_ }

/-- A scalar result of latency above 1 cc (R96): it lands in its due cycle, with the TK push and the flags of an
instruction that retires then (R97). -/
def flyReg (s : State) (d : Reg) (v : Word) (lat : Nat) (tok : Option Nat) (sig : BitVec 16) : State :=
  let s := modCc s fun k => supersedeAll k s.cur.seq d
  fly s lat (if d = 0 then .none else .sreg s.cur.seq d) (v.setWidth 4096) 0 none tok sig false

/-- An instruction with nothing of its own to check. -/
def preOk (s : State) : Pre Unit := .go () s

/-- An instruction that reads registers and writes one result of latency `lat` (R96, R97, R101). -/
def regOp (len : Nat) (tk : Tok) (srcs : List Reg) (d : Reg) (lat : Nat) (f : State → Word) : Op Unit :=
  { len := len, tk := tk, srcs := srcs, flying := if lat ≤ 1 then 0 else 1, now := decide (lat ≤ 1), pre := preOk,
    eff := fun _ s => if lat ≤ 1 then writeReg s d (f s) else flyReg s d (f s) lat (pushKey s tk) 0 }

/-- An instruction without a result that acts in its issue cc. -/
def actOp (len : Nat) (tk : Tok) (srcs : List Reg) (f : State → State) : Op Unit :=
  { len := len, tk := tk, srcs := srcs, pre := preOk, eff := fun _ s => f s }

/-- An F-E instruction of CTRL (R60, R62): two units, WAITMASK, SIGMASK set at retirement. -/
def feFlags (f : FE) : State → BitVec 16 := fun _ => f.wait

end Sys2Proof.Machine
end

