-- ==== Sys2Proof/Machine/Control.lean ====
section
/-! DEFINITION. Branches, calls and traps (R104 to R108), and the SEQ, QUE and token instructions (R110 to R117). -/

namespace Sys2Proof.Machine

/-- Whether a branch target's line lies in the image (R104). -/
def lineOk (s : State) (line : Nat) : Bool := line != 0 && decide (line < (imageOf (cc s)).2.1)

/-- A conditional branch (R104): the target is checked only when it is taken, before anything is taken. -/
def branchOp (t : Tok) (srcs : List Reg) (line : BitVec 24) (unit : BitVec 4) (taken : State → Bool) : Op Bool :=
  { len := 2, tk := t, srcs := srcs,
    pre := fun s => if taken s && !lineOk s line.toNat then .fault (causeHere s codeIllegal) s else .go (taken s) s,
    eff := fun b s => if b then jumpTo s (pcOf line.toNat unit.toNat) else s }

/-- B (R104). -/
def execB (t : Tok) (line : BitVec 24) (unit : BitVec 4) (s : State) : Host.Outcome State Fault Refusal :=
  runOp (branchOp t [] line unit fun _ => true) s

/-- BEQZ (R104). -/
def execBeqz (t : Tok) (a : BitVec 5) (line : BitVec 24) (unit : BitVec 4) (s : State) : Host.Outcome State Fault Refusal :=
  runOp (branchOp t [a] line unit fun s => decide (reg s a = 0)) s

/-- BNEZ (R104). -/
def execBnez (t : Tok) (a : BitVec 5) (line : BitVec 24) (unit : BitVec 4) (s : State) : Host.Outcome State Fault Refusal :=
  runOp (branchOp t [a] line unit fun s => decide (reg s a ≠ 0)) s

/-- BLTZ (R104). -/
def execBltz (t : Tok) (a : BitVec 5) (line : BitVec 24) (unit : BitVec 4) (s : State) : Host.Outcome State Fault Refusal :=
  runOp (branchOp t [a] line unit fun s => decide ((reg s a).toInt < 0)) s

/-- BGEZ (R104). -/
def execBgez (t : Tok) (a : BitVec 5) (line : BitVec 24) (unit : BitVec 4) (s : State) : Host.Outcome State Fault Refusal :=
  runOp (branchOp t [a] line unit fun s => decide (0 ≤ (reg s a).toInt)) s

/-- BGTZ (R104). -/
def execBgtz (t : Tok) (a : BitVec 5) (line : BitVec 24) (unit : BitVec 4) (s : State) : Host.Outcome State Fault Refusal :=
  runOp (branchOp t [a] line unit fun s => decide (0 < (reg s a).toInt)) s

/-- BLEZ (R104). -/
def execBlez (t : Tok) (a : BitVec 5) (line : BitVec 24) (unit : BitVec 4) (s : State) : Host.Outcome State Fault Refusal :=
  runOp (branchOp t [a] line unit fun s => decide ((reg s a).toInt ≤ 0)) s

/-- BLOOP (R104): counts down and is taken until the count is 0; a target that faults leaves the register unchanged. -/
def execBloop (t : Tok) (a : BitVec 5) (line : BitVec 24) (unit : BitVec 4) (s : State) : Host.Outcome State Fault Refusal :=
  let o := branchOp t [a] line unit fun s => decide (reg s a - 1 ≠ 0)
  runOp { o with eff := fun b s => o.eff b (writeReg s a (reg s a - 1)) } s

/-- An instruction that ends at unit NU of a line with END set (R105). -/
def endsLine (s : State) (len : Nat) : Bool :=
  match lineAt (cs s) with
  | none => false
  | some w => linkEnd w && (cs s).pc.toNat % 16 + len == linkNu w + 1

/-- Where a call returns to (R105): the continuation, at which the program counter already stands, or past the line's last
unit the NEXT that R46 refuses once it is reached (DEDUCED, log 46). -/
def returnPc (k : Sequencer) : BitVec 28 :=
  match k.past, lineAt k with
  | true, some w => pcOf (linkNext w) 0
  | _, _ => k.pc

/-- Pushes the continuation and transfers (R106). -/
def callTo (s : State) (target : BitVec 28) : State :=
  jumpTo (modCs s fun k => { k with rstack := returnPc k :: k.rstack }) target

/-- CALL (R105, R106). -/
def execCall (t : Tok) (line : BitVec 24) (unit : BitVec 4) (s : State) : Host.Outcome State Fault Refusal :=
  runOp ({ len := 2, tk := t, illegal := fun s => endsLine s 2,
           pre := fun s =>
             if !lineOk s line.toNat then .fault (causeHere s codeIllegal) s
             else if 16 ≤ (cs s).rstack.length then .fault (causeHere s codeRstack) s else .go () s,
           eff := fun _ s => callTo s (pcOf line.toNat unit.toNat) } : Op Unit) s

/-- RET (R106). -/
def execRet (t : Tok) (s : State) : Host.Outcome State Fault Refusal :=
  runOp ({ tk := t,
           pre := fun s => match (cs s).rstack with
             | [] => .fault (causeHere s codeRstack) s
             | x :: _ => .go x s,
           eff := fun x s => jumpTo (modCs s fun k => { k with rstack := k.rstack.tail }) x } : Op (BitVec 28)) s

/-- Whether a register value is a program counter that JMPR and CALLR accept (R106). -/
def targetOk (s : State) (v : Word) : Bool :=
  decide (v.toNat < 2 ^ 28) && v.toNat % 16 != 15 && lineOk s (v.toNat / 16)

/-- JMPR (R106). -/
def execJmpr (t : Tok) (a : SOp) (s : State) : Host.Outcome State Fault Refusal :=
  runOp ({ len := 1 + sopLen a, tk := t, srcs := sopSrcs a,
           pre := fun s => if targetOk s (opv s a) then .go (opv s a) s else .fault (causeHere s codeIllegal) s,
           eff := fun v s => jumpTo s (v.setWidth 28) } : Op Word) s

/-- CALLR (R105, R106). -/
def execCallr (t : Tok) (a : SOp) (s : State) : Host.Outcome State Fault Refusal :=
  runOp ({ len := 1 + sopLen a, tk := t, srcs := sopSrcs a, illegal := fun s => endsLine s (1 + sopLen a),
           pre := fun s =>
             if !targetOk s (opv s a) then .fault (causeHere s codeIllegal) s
             else if 16 ≤ (cs s).rstack.length then .fault (causeHere s codeRstack) s else .go (opv s a) s,
           eff := fun v s => callTo s (v.setWidth 28) } : Op Word) s

/-- TRAP (R108): cause 0xC0 + v; the next program counter is the continuation. -/
def execTrap (t : Tok) (a : SOp) (s : State) : Host.Outcome State Fault Refusal :=
  runOp ({ len := 1 + sopLen a, tk := t, srcs := sopSrcs a,
           pre := fun s =>
             if 31 < (opv s a).toNat then .fault (causeHere s codeIllegal) s
             else .go (causeHere s (0xC0 + (opv s a).toNat)) s,
           eff := fun k s => takeTrap s s.cur.node s.cur.core k } : Op Cause) s

/-- BREAK (R108): cause 0xFF, as TRAP. -/
def execBrk (t : Tok) (s : State) : Host.Outcome State Fault Refusal :=
  runOp ({ tk := t, pre := fun s => .go (causeHere s 0xFF) s,
           eff := fun k s => takeTrap s s.cur.node s.cur.core k } : Op Cause) s

/-- NOP (R117). -/
def execNop (t : Tok) (s : State) : Host.Outcome State Fault Refusal := runOp (actOp 1 t [] id) s

/-- Whether every earlier instruction of the moving sequencer has retired (R117): no result of it is in flight, no LDQ,
BLK or block of its own is outstanding, and none of its pushes is still reserved. -/
def allRetired (s : State) : Bool :=
  let k := cc s
  let q := s.cur.seq
  !(k.inflight.any fun r => r.seq == q) && (inHandler k || !(k.landing.any fun r => r.seq == q))
  && !(k.loads.any fun p => match p.queue with | some (j, _) => qProducer j == q | none => false)
  && !(k.blks.any fun b => b.seq == q)
  && ([1, 2, 3].all fun p => (fifo k (fifoOut q p)).v == 0)

/-- Stops the moving sequencer (R94). -/
def stopSeq (s : State) : State := modCs s fun k => { k with status := .stopped, quiet := true }

/-- SQSTOP (R117). -/
def execSqstop (t : Tok) (s : State) : Host.Outcome State Fault Refusal :=
  runOp { actOp 1 t [] stopSeq with room := allRetired } s

/-- SQWAIT (R113): waits for the flags of opA[15:0] and clears them. -/
def execSqwait (t : Tok) (a : SOp) (s : State) : Host.Outcome State Fault Refusal :=
  runOp { actOp (1 + sopLen a) t (sopSrcs a) id with
          flags := fun s => if srcsReady s (sopSrcs a) then (opv s a).setWidth 16 else 0 } s

/-- SQSIG (R113). -/
def execSqsig (t : Tok) (a : SOp) (s : State) : Host.Outcome State Fault Refusal :=
  runOp (actOp (1 + sopLen a) t (sopSrcs a) fun s => signal s ((opv s a).setWidth 16)) s

/-- RDSTEP (R115). -/
def execRdstep (t : Tok) (d : BitVec 5) (s : State) : Host.Outcome State Fault Refusal :=
  runOp (regOp 1 t [] d 2 fun s => BitVec.ofNat 64 (gsc s s.cur.node)) s

/-- RDCYC (R115). -/
def execRdcyc (t : Tok) (d : BitVec 5) (s : State) : Host.Outcome State Fault Refusal :=
  runOp (regOp 1 t [] d 2 fun s => BitVec.ofNat 64 (coreCyc s s.cur.node s.cur.core)) s

/-- WAITSTEP (R116). -/
def execWaitstep (t : Tok) (a : SOp) (s : State) : Host.Outcome State Fault Refusal :=
  runOp { actOp (1 + sopLen a) t (sopSrcs a) id with room := fun s => decide ((opv s a).toNat ≤ gsc s s.cur.node) } s

/-- The SQID register (R118). -/
def sqidWord (s : State) : Word := BitVec.ofNat 64 (s.cur.node * 2 ^ 10 + s.cur.core * 4 + seqIdx s.cur.seq)

/-- SQID (R117). -/
def execSqid (t : Tok) (d : BitVec 5) (s : State) : Host.Outcome State Fault Refusal := runOp (regOp 1 t [] d 1 sqidWord) s

/-- QPUT (R112): appends opA; its slot is filled at retirement. -/
def execQput (t : Tok) (a : SOp) (b : BitVec 5) (s : State) : Host.Outcome State Fault Refusal :=
  runOp { actOp (1 + sopLen a) t (sopSrcs a) (fun s =>
            let r := queueReserve s b.toNat
            later r.2 (.qFill s.cur.node s.cur.core b.toNat r.1 (opv s a))) with
          illegal := fun s => qProducer b.toNat != s.cur.seq, room := fun s => queueRoom s b.toNat } s

/-- The head of a queue as its consumer reads it (R111, R216): a value, a wait, or the fault the entry carries. -/
def headPre (s : State) (q : Nat) : Pre Word :=
  match queueHead s q with
  | some (.filled v) => .go v s
  | some (.bad code a) => .fault (causeAt s code a) s
  | _ => .hold s

/-- QGET (R112). -/
def execQget (t : Tok) (d b : BitVec 5) (s : State) : Host.Outcome State Fault Refusal :=
  runOp ({ tk := t, illegal := fun s => qConsumer b.toNat != s.cur.seq, pre := fun s => headPre s b.toNat,
           eff := fun v s => writeReg (queuePop s b.toNat) d v } : Op Word) s

/-- QPEEK (R112). -/
def execQpeek (t : Tok) (d b : BitVec 5) (s : State) : Host.Outcome State Fault Refusal :=
  runOp ({ tk := t, illegal := fun s => qConsumer b.toNat != s.cur.seq, pre := fun s => headPre s b.toNat,
           eff := fun v s => writeReg s d v } : Op Word) s

/-- QCNT (R112): a producer does not yet see the removals of this cc (R111). -/
def execQcnt (t : Tok) (d b : BitVec 5) (s : State) : Host.Outcome State Fault Refusal :=
  runOp { regOp 1 t [] d 1 (fun s =>
            let x := queueOf (cc s) b.toNat
            let f := queueFilled x + (if qProducer b.toNat = s.cur.seq then x.freed else 0)
            BitVec.ofNat 64 (f + 256 * (x.entries.length - queueFilled x))) with
          illegal := fun s => qProducer b.toNat != s.cur.seq && qConsumer b.toNat != s.cur.seq } s

/-- A count of TOKGIVE and TOKTAKE that could never issue (R110): over 16, alone or with the TK field's own token. -/
def countBad (n : Nat) (own : BitVec 2) (b : BitVec 5) : Bool := decide (16 < n + (if own.toNat = b.toNat then 1 else 0))

/-- TOKGIVE (R110). -/
def execTokgive (t : Tok) (a : SOp) (b : BitVec 5) (s : State) : Host.Outcome State Fault Refusal :=
  runOp { actOp (1 + sopLen a) t (sopSrcs a) id with
          pushes := fun s => [(b.toNat, (opv s a).toNat)],
          pre := fun s => if countBad (opv s a).toNat t.push b then .fault (causeHere s codeIllegal) s else .go () s } s

/-- TOKTAKE (R110): a count that could never issue faults although the tokens are not there. -/
def execToktake (t : Tok) (a : SOp) (b : BitVec 5) (s : State) : Host.Outcome State Fault Refusal :=
  let n (s : State) : Nat := (opv s a).toNat
  runOp { actOp (1 + sopLen a) t (sopSrcs a) id with
          pops := fun s => if srcsReady s (sopSrcs a) && !countBad (n s) t.pop b then [(b.toNat, n s)] else [],
          pre := fun s => if countBad (n s) t.pop b then .fault (causeHere s codeIllegal) s else .go () s } s

/-- TOKCNT.IN (R110): N of the FIFO from the partner. -/
def execTokcntIn (t : Tok) (d b : BitVec 5) (s : State) : Host.Outcome State Fault Refusal :=
  runOp (regOp 1 t [] d 1 fun s =>
    BitVec.ofNat 64 ((fifo (cc s) (fifoIn s.cur.seq b.toNat)).n + popCountOf t [] b.toNat)) s

/-- TOKCNT.OUT (R110): N + V of the FIFO to the partner, as of the start of the cc. -/
def execTokcntOut (t : Tok) (d b : BitVec 5) (s : State) : Host.Outcome State Fault Refusal :=
  runOp (regOp 1 t [] d 1 fun s =>
    let f := fifo (cc s) (fifoOut s.cur.seq b.toNat)
    BitVec.ofNat 64 (f.n + f.popped + f.v - pushCountOf t [] b.toNat)) s

end Sys2Proof.Machine
end

