-- ==== Sys2Proof/Machine/Special.lean ====
section
/-! DEFINITION. The special registers (R118, R119, R123, R124, R403, R404) and CBLD (R99). -/

namespace Sys2Proof.Machine

/-- CSTAT (R403). -/
def cstatWord (k : Core) : Word :=
  BitVec.ofNat 64 (128 * b2n k.interlock + 16 * k.rmode + 8 * b2n (inHandler k) + 2 * b2n k.det + b2n (privileged k))

/-- Whether a value may be written to VTYPE (R123). -/
def vtypeOk (v : Word) : Bool := fld v 2 0 != 0 && fld v 12 10 != 0
/-- The bits VTYPE keeps (R123). -/
def vtypeKeep (v : Word) : Word := v &&& 0x1F07

/-- The special registers that fault PRIV on a read in unprivileged state (R404). -/
def sregReadPriv (r : Nat) : Bool := decide (0x20 ≤ r) && decide (r ≤ 0x25)
/-- The special registers that fault PRIV on a write in unprivileged state (R404); a write of TRAPCAUSE or TRAPADDR is
ignored in every state (R5, R404). -/
def sregWritePriv (r : Nat) : Bool :=
  (decide (0x10 ≤ r) && decide (r ≤ 0x1F)) || r == 0x20 || (decide (0x23 ≤ r) && decide (r ≤ 0x26)) || r == 0x30 || r == 0x31 || r == 0x40

/-- The value of a special register as the moving sequencer reads it (R118, R404). -/
def sregRead (s : State) (r : Nat) : Word :=
  let k := cc s
  let d := cn s
  let g := gsc s s.cur.node
  match r with
  | 0x000 => sqidWord s
  | 0x001 => cstatWord k
  | 0x002 => k.vtype
  | 0x003 => k.vwb
  | 0x004 => (cs s).cbb
  | 0x005 => k.evt.setWidth 64
  | 0x006 => taskId k
  | 0x007 => (ginOf k).setWidth 64
  | 0x008 => BitVec.ofNat 64 (tenantOf k)
  | 0x009 => BitVec.ofNat 64 s.cur.node
  | 0x00A => BitVec.ofNat 64 (g % 2 ^ 32)
  | 0x00B => match (cs s).gscHi with
    | some h => h.setWidth 64
    | none => BitVec.ofNat 64 (g / 2 ^ 32)
  | 0x00C => k.mprog
  | 0x020 => d.trapVec
  | 0x021 => k.trapCause
  | 0x022 => k.trapAddr
  | 0x023 => d.trapCut
  | 0x024 => d.saveArea
  | 0x025 => d.saveLen
  | 0x026 => k.redLimit
  | 0x030 => k.ptRoot
  | 0x031 => k.asid
  | 0x040 => d.thermTab
  | n => if 0x10 ≤ n ∧ n ≤ 0x1F then budgetWord d (n - 0x10) else 0

/-- The read latches the upper half of the counter (R118: GSCLO). -/
def sregLatch (s : State) (r : Nat) : State :=
  if r = 0x00A then
    let hi := BitVec.ofNat 32 (gsc s s.cur.node / 2 ^ 32)
    modCs s fun k => { k with gscHi := some hi }
  else s

/-- MFSR (R118): a number that is no register is ILLEGAL in every state. -/
def execMfsr (t : Tok) (d : BitVec 5) (i : BitVec 12) (s : State) : Host.Outcome State Fault Refusal :=
  let o := regOp 1 t [] d 2 fun s => sregRead s i.toNat
  runOp { o with illegal := fun _ => !okSreg i,
                 priv := fun s => sregReadPriv i.toNat && !privileged (cc s),
                 eff := fun u s => sregLatch (o.eff u s) i.toNat } s

/-- The effect of MTSR (R118, R119, R404): reserved bits are ignored (R6), read-only registers too. -/
def sregWrite (s : State) (r : Nat) (v : Word) : State :=
  let n := s.cur.node
  let c := s.cur.core
  match r with
  | 0x001 =>
    let s' := later s (.rmode n c (fld v 6 4))
    if privileged (cc s) then later s' (.det n c (bit v 1)) else s'
  | 0x002 => later s (.vtype n c (vtypeKeep v))
  | 0x003 => later s (.vwb n c (v &&& 0x1C0))
  | 0x004 => modCs s fun k => { k with cbb := v &&& 7 }
  | 0x005 => later s (.evt n c (v.setWidth 16))
  | 0x020 => later s (.nodeReg n r (v &&& 0x0000FFFFFFFFFFC1))
  | 0x023 => later s (.nodeReg n r (v &&& 0x0000FFFFFFFFC000))
  | 0x024 => later s (.nodeReg n r v)
  | 0x025 => later s (.nodeReg n r (v &&& 0xFFFFF))
  | 0x026 => later s (.redLimit n c (v &&& 0xFFFFFF))
  | 0x030 => later s (.ptRoot n c (v &&& 0x000FFFFFFFFFF000))
  | 0x031 => later s (.asid n c (v &&& 0x3F))
  | 0x040 => later s (.nodeReg n r (v &&& 0x000FFFFFFFFFFFC1))
  | k => if 0x10 ≤ k ∧ k ≤ 0x1F then later s (.nodeReg n r (v &&& 0xFFFFFFFFFFFFFFF0)) else s

/-- The values MTSR refuses (R123, R403). -/
def sregBad (r : Nat) (v : Word) : Bool :=
  match r with
  | 0x001 => decide (5 ≤ fld v 6 4)
  | 0x002 => !vtypeOk v
  | _ => false

/-- MTSR (R118, R119): a number that is no register is ILLEGAL in every state. -/
def execMtsr (t : Tok) (a : BitVec 5) (i : BitVec 12) (s : State) : Host.Outcome State Fault Refusal :=
  runOp { actOp 1 t [a] fun s => sregWrite s i.toNat (reg s a) with
          illegal := fun _ => !okSreg i,
          priv := fun s => sregWritePriv i.toNat && !privileged (cc s),
          pre := fun s => if sregBad i.toNat (reg s a) then .fault (causeHere s codeIllegal) s else .go () s } s

/-- The address of a constant (R99). -/
def constAddr (s : State) (index : Word) : Word :=
  let img := imageOf (cc s)
  img.1 + BitVec.ofNat 64 img.2.2.1 + 8 * index

/-- One entry of CBLD: the bank entry, the constant's address; PERM beyond CLEN, then the faults of a load, and its waits
(R33, R99, R390). It is no scalar load, so no footprint check of R264 covers it (DEDUCED, log 45). -/
def cbldOne (s : State) (entry : Nat) (index : Word) : Pre Unit :=
  let addr := constAddr s index
  let n := s.cur.node
  let c := s.cur.core
  let cls := classOf (cc s)
  let put (s : State) (v : Word) : Pre Unit := .go () (modCs s fun k => { k with bank := smPut k.bank (entry % 256) v })
  if (imageOf (cc s)).2.2.2 / 8 ≤ index.toNat then .fault (causeAt s codePerm addr) s
  else if addr.toNat % 8 ≠ 0 then .fault (causeAt s codeAlign addr) s
  else match chk s n c addr 8 .r with
  | .wait => .hold s
  | .fault code s => .fault (causeAt s code addr) s
  | .ok t s' =>
    if hbmHold s' n c cls t 8 false || remoteBusy s' n c t then .hold s else
    match t with
    | .remote m rl off =>
      let r := windowNow s' ⟨n, c, s.cur.seq, 0, m, rl, fld (cc s).asid 5 0, off, 8, .load, 0, false, cls⟩
      if r.2.code ≠ 0 then .fault (causeAt s r.2.code addr) r.1
      else if r.2.poison then .fault (causeAt s codePoison addr) r.1
      else put r.1 (r.2.data.setWidth 64)
    | t =>
      let g := readT s' n c (some cls) t 8
      if g.poison then .fault (causeAt s codePoison addr) (keepTlb s s' n c) else put g.s (BitVec.ofNat 64 g.v)

/-- The entries of CBLD in turn: those before a fault stay loaded (R99). -/
def cbldFrom (index : Word) (entry : Nat) : Nat → State → Pre Unit
  | 0, s => .go () s
  | k + 1, s =>
    match cbldOne s entry index with
    | .go _ s => cbldFrom (index + 1) (entry + 1) k s
    | r => r

/-- CBLD (R99): performed within its issue cc (log 7); a fault leaves the entries before it in place, a wait none. -/
def execCbld (t : Tok) (a : BitVec 5) (n : BitVec 4) (e : BitVec 8) (s : State) : Host.Outcome State Fault Refusal :=
  runOp { actOp 1 t [a] id with pre := fun s => cbldFrom (reg s a) e.toNat (n.toNat + 1) s } s

end Sys2Proof.Machine
end

