-- ==== Sys2Proof/Machine/Fetch.lean ====
section
/-! DEFINITION. Line fetch (R46, R48), the landing of results (R96, R97, R128 to R133, R411, R413) and the cut of a trap
as a step (R405). -/

namespace Sys2Proof.Machine

/-- The line buffer after the fetch of a line (R46): the fetch's own fault at the line's address, or a link-word fault at
the point the sequencer was about to execute. R46 gives no order of its two faults: of a link word that breaks both, the
model reports the SEQ (DESIGN CHOICE, log 45). -/
def fetchedLine (idx : Nat) (q : Seq) (va : Word) (pc : BitVec 28) : Sum Nat (BitVec 512) → LineBuf
  | .inl code => .bad idx code va
  | .inr bits =>
    if linkSeq bits ≠ seqIdx q then .bad idx codeWrongSeq (pcWord pc)
    else if linkNu bits = 15 then .bad idx codeIllegal (pcWord pc)
    else .ready idx bits

/-- The address of a line of an image (R40). -/
def lineVa (base : Word) (idx : Nat) : Word := base + BitVec.ofNat 64 (64 * idx)

/-- The line that a sequencer needs as a cc begins (R48, R107): that of its program counter, where it is alive and its
buffer holds another. It is there in the same cc, as a line fetched ahead is (log 7). -/
def lineWanted (s : State) (n c : Nat) (q : Seq) : Option Nat :=
  let k := co s n c
  let x := sq s n c q
  let idx := x.pc.toNat / 16
  let held := match x.line with
    | .none => false
    | .ready i _ => i == idx
    | .bad i _ _ => i == idx
  if (k.mode == .run || (inHandler k && q == .ctrl)) && decide (k.resumeAt ≤ s.now)
      && x.status != .stopped && x.status != .idle && !held then some idx else none

/-- LINE_FETCH (R46, R48): the line that a sequencer needs is read whole and its link word checked; it waits for the HBM
bucket (R33). A line that the image does not have, to which only a RET past a bad NEXT leads, is ILLEGAL (DEDUCED, log 46). -/
def execLineFetch (n c : Nat) (q : Seq) (s : State) : Host.Outcome State Fault Refusal :=
  match lineWanted s n c q with
  | some idx =>
    let img := imageOf (co s n c)
    let va := lineVa img.1 idx
    let here := pcWord (sq s n c q).pc
    if idx = 0 ∨ img.2.1 ≤ idx then .next (modSq s n c q fun k => { k with line := .bad idx codeIllegal here })
    else if fetchHold s n c va then .next s
    else
      let r := readLine s n c va
      let buf := fetchedLine idx q va (sq s n c q).pc r.1
      .next (modSq r.2 n c q fun k => { k with line := buf })
  | none => .next s

/-- Whether a result belongs to the vector unit, whose instructions retire in the due cycle itself (R133). -/
def isVecResult (r : Result) : Bool :=
  r.en != 0 || r.relay.isSome || r.vmem || match r.dest with
    | .row _ => true
    | .mask _ => true
    | _ => false

/-- The bytes of a row under an enable mask (R129). -/
def mergeRow (old new : Row) (en : Mask) : Row :=
  let m : Row := BitVec.ofNat 4096 (widen en.toNat 512)
  (old &&& ~~~m) ||| (new &&& m)

/-- A relay pushed at depth 0 (R130). -/
def relayPush (rel : SMap Row) (slot : Nat) (v : Row) : SMap Row :=
  let shifted := [6, 5, 4, 3, 2, 1, 0].foldl (fun m d => smSet m 0 (8 * slot + d + 1) (smGet m 0 (8 * slot + d))) rel
  smSet shifted 0 (8 * slot) v

/-- A result written to its destination and its relay (R129, R130). -/
def landValue (k : Core) (r : Result) : Core :=
  let k := match r.dest with
    | .sreg q d => putSeq k q (regWrite (seqIn k q) d (r.val.setWidth 64))
    | .row i => { k with acc := smSet k.acc 0 i (mergeRow (smGet k.acc 0 i) r.val r.en),
                         accPoison := if r.en = BitVec.allOnes 512 then accClean k.accPoison i 1 else k.accPoison }
    | .mask m => { k with masks := smSet k.masks 0 m (r.val.setWidth 512) }
    | .none => k
  match r.relay with
  | some slot => { k with relay := relayPush k.relay slot r.val }
  | none => k

/-- Retirement at a landing: a vector instruction's token is seen in the next cc, another's in this one (R97, R133); its
flags were set as the last cc ended (`retireSigs`). -/
def landRetire (s : State) (n c : Nat) (r : Result) : State :=
  match r.tok with
  | some f => if isVecResult r then later s (.tokPush n c f 1) else modCo s n c fun k => landTok k f 1
  | none => s

/-- One landing. -/
def landOne (n c : Nat) (s : State) (r : Result) : State := landRetire (modCo s n c fun k => landValue k r) n c r

/-- The results in flight of a core that are due and of one kind. -/
def dueResults (s : State) (n c : Nat) (vec : Bool) : List Result :=
  (co s n c).inflight.filter fun r => decide (r.due ≤ coreCyc s n c) && (isVecResult r == vec)
/-- The landing-buffer entries that are due. -/
def dueLanding (s : State) (n c : Nat) : List Result :=
  (co s n c).landing.filter fun r => decide (r.due ≤ coreCyc s n c)

/-- Lands the due results of one kind in issue order (R129). -/
def landInflight (s : State) (n c : Nat) (vec : Bool) : State :=
  let l := dueResults s n c vec
  let now := coreCyc s n c
  let s := modCo s n c fun k => { k with inflight := k.inflight.filter fun r => !(decide (r.due ≤ now) && (isVecResult r == vec)) }
  l.foldl (landOne n c) s

/-- SCALAR_RESULT_WRITE (R96, R97). -/
def execScalarResultWrite (n c : Nat) (s : State) : Host.Outcome State Fault Refusal := .next (landInflight s n c false)

/-- VECTOR_RESULT_LANDING (R129, R130, R133). -/
def execVectorResultLanding (n c : Nat) (s : State) : Host.Outcome State Fault Refusal := .next (landInflight s n c true)

/-- LANDING_BUFFER_LAND (R413, R414): the entries due land; INTERLOCK is cleared at the end of the cc of the last. -/
def execLandingBufferLand (n c : Nat) (s : State) : Host.Outcome State Fault Refusal :=
  if (co s n c).mode ≠ .run then .next s else
  let l := dueLanding s n c
  let now := coreCyc s n c
  let s := modCo s n c fun k => { k with landing := k.landing.filter fun r => !decide (r.due ≤ now) }
  .next (later (l.foldl (landOne n c) s) (.interlock n c))

/-- TRAP_CUT (R405): a cause taken on a core that runs a task. -/
def execTrapCut (n c : Nat) (k : Cause) (s : State) : Host.Outcome State Fault Refusal :=
  match (co s n c).mode with
  | .run | .handler | .ending 0 _ => .next (takeTrap s n c k)
  | _ => .next s

end Sys2Proof.Machine
end

