-- ==== Sys2Proof/Machine/Order.lean ====
section
/-! DEFINITION. Releases and acquires at a scope (R224, R225), the DETERM buffer's hand-over to staging and its
publication (R233 to R237), and the copy footprints that deterministic mode checks (R254, R264). -/

namespace Sys2Proof.Machine

/-- The scope of a location (R224): 0 CORE, 2 STACK, 3 DIE, 4 DOMAIN, 5 SYSTEM. -/
def scopeOf (c : Nat) : Target → Nat
  | .spad o _ => if o = c then 0 else 3
  | .mem sp _ _ _ => match sp with | .hbm => 3 | .deep => 2 | .host => 5
  | .remote .. => 4

/-- Whether a release or acquire covers a line's kind: UNORDERED lines only by a fence (R224, R227). -/
def coversKind (all : Bool) : Kind → Bool
  | .unordered => all
  | _ => true

/-- The write-backs of a release (R225): at QUAD or wider the dirty L1 lines of the kinds covered, at STACK only those of
DEEP pages. -/
def releaseL1 (s : State) (n c scope : Nat) (all : Bool) : State :=
  if scope = 0 then s else
  ((co s n c).l1.filter fun l => l.dirty != 0 && coversKind all l.kind && (scope != 2 || l.sp == .deep)).foldl
    (fun s l => l1Clean s n c l) s

/-- The invalidations of an acquire (R225): at QUAD or wider the clean L1 lines of the kinds covered. -/
def acquireL1 (s : State) (n c scope : Nat) (all : Bool) : State :=
  if scope = 0 then s else
  modCo s n c fun k => { k with l1 := k.l1.filter fun l => l.dirty != 0 || !coversKind all l.kind }

/-- Whether the earlier window stores of a sequencer are acknowledged (R225: awaited at DOMAIN and SYSTEM). -/
def acked (s : State) (n c : Nat) (q : Seq) (scope : Nat) : Bool :=
  decide (scope < 4) || !((co s n c).winOut.any fun w => w.seq == q)
    && !((co s n c).blks.any fun b => b.seq == q && b.store)

/-- Whether a sequencer's BLK stores are all handed over, which a release of any scope waits for (R225). -/
def blksDone (s : State) (n c : Nat) (q : Seq) : Bool := !((co s n c).blks.any fun b => b.seq == q && b.store)

/-- How many DETERM entries the spill region holds (R237). -/
def spillCap (d : Node) : Nat := if fld d.dspill 19 0 = 0 then 0 else Config.spillEntries (fld d.dspill 19 0)

/-- The staged entries beyond the 2,048 of each slice, which lie in the spill region (R237). -/
def spilled (l : List DetEntry) : Nat :=
  let slices := l.foldl (fun (m : SMap Nat) e => let k := sliceOf e.pa; smPut m k (smGet m 0 k + 1)) []
  slices.foldl (fun acc e => acc + (e.2 - 2048)) 0

/-- Whether one more entry finds room in staging or spill (R237). -/
def stageRoom (d : Node) (e : DetEntry) : Bool :=
  decide (((d.staged.filter fun x => sliceOf x.pa == sliceOf e.pa).length) < 2048)
  || decide (spilled d.staged < spillCap d)

/-- Hands entries to staging in order; an entry that finds no room in its slice nor in spill stays (R235, R237). -/
def stageEntries (d : Node) : List DetEntry → List DetEntry × Node
  | [] => ([], d)
  | e :: r =>
    if stageRoom d e then stageEntries { d with staged := d.staged ++ [e] } r
    else
      let x := stageEntries d r
      (e :: x.1, x.2)

/-- Hands a core's buffered DETERM entries to staging (R235, R237). -/
def drainDet (s : State) (n c : Nat) : State :=
  let buf := (co s n c).detBuf
  if buf.isEmpty then s else
  let r := stageEntries (nd s n) buf
  modCo (modNd s n fun _ => r.2) n c fun k => { k with detBuf := r.1 }

/-- Every core's entries handed over, in ascending core index (R235). -/
def drainAll (s : State) (n : Nat) : State := (upFrom 0 256).foldl (fun s c => drainDet s n c) s

/-- A quantum end (R235); of each core it is noted whether entries were buffered and none could be handed over (R237). -/
def quantumEnd (s : State) (n : Nat) : State :=
  let t := drainAll s n
  (nd t n).cores.foldl (fun t x =>
    let b := decide (0 < x.2.detBuf.length) && x.2.detBuf.length == (co s n x.1).detBuf.length
    if x.2.detFull == b then t else modCo t n x.1 fun k => { k with detFull := b }) t

/-- One entry applied to memory (R235, R236): its writing is charged to its class (R459); an atomic on a poisoned line
changes nothing (R242), and poison that the bytes of an entry carry stays with its line (R209, R259). -/
def publishEntry (s : State) (n : Nat) (e : DetEntry) : State :=
  let was := isPoison (nd s n) e.sp e.pa
  if e.aop.isSome && was then touch s n (some e.cls) e.sp e.pa e.asize false else
  let s := if e.aop.isSome then touch s n (some e.cls) e.sp e.pa e.asize false else s
  let bytes := if e.aop.isSome then e.asize else popCount e.mask.toNat 128
  let s := touch s n (some e.cls) e.sp e.pa bytes true
  modNd s n fun d =>
    let line := detApply e (homeRead d e.sp e.pa 128)
    let mask := match e.aop with | some _ => fullMask 128 | none => e.mask.toNat
    let d := setHomeMem d e.sp (memMasked (homeMem d e.sp) (homeAddr d e.sp e.pa) mask line 128)
    let whole := e.aop.isNone && e.mask == BitVec.allOnes 128
    setPoison d e.sp e.pa (e.poison || (was && !whole))

/-- Publishes the staged entries of a tenant (R235): ascending core index, each core's in order; an entry still buffered
for want of room stays buffered. -/
def publish (s : State) (n t : Nat) : State :=
  let mine := (nd s n).staged.filter fun e => e.tenant == t
  let s := modNd s n fun d => { d with staged := d.staged.filter fun e => e.tenant != t }
  let s := (sortBy (fun e => e.core) mine).foldl (fun s e => publishEntry s n e) s
  (upFrom 0 256).foldl (fun s c => modCo s n c fun k =>
    if k.detMine.isEmpty then k else
    { k with detMine := k.detMine.filter fun e => e.tenant != t || k.detBuf.any fun x => x.serial == e.serial }) s

/-- What a DETERM access of `need` entries finds in the buffer (R233, R237). -/
inductive DetRoom where
  | ok | wait | conflict
  deriving DecidableEq, Repr

/-- The DETERM buffer's answer to an instruction that needs `need` entries (R233, R237). -/
def detRoom (k : Core) (need : Nat) : DetRoom :=
  if need = 0 then .ok
  else if 256 < need then .conflict
  else if k.detBuf.length + need ≤ 256 then .ok
  else if k.detFull && decide (256 ≤ k.detBuf.length) then .conflict
  else .wait

/-- DETERM entries of one instruction to one line are one entry (R233); the bytes of a later one stand, and a whole line sheds
the poison of what was there before (R211). -/
def mergeEntries : List DetEntry → List DetEntry → List DetEntry
  | [], acc => acc
  | e :: r, acc =>
    match takeFirst (fun x => x.sp == e.sp && x.pa == e.pa) acc with
    | none => mergeEntries r (acc ++ [e])
    | some (x, _) =>
      let m : BitVec 1024 := BitVec.ofNat 1024 (widen e.mask.toNat 128)
      let p := e.poison || (x.poison && e.mask != BitVec.allOnes 128)
      let y := { x with mask := x.mask ||| e.mask, data := (x.data &&& ~~~m) ||| (e.data &&& m), poison := p }
      mergeEntries r (acc.map fun z => if z.sp == e.sp && z.pa == e.pa then y else z)

/-- Merges the entries that an instruction has put behind the first `b0` of the buffer and the first `m0` of the epoch. -/
def mergeNew (b0 m0 : Nat) (k : Core) : Core :=
  if k.detMine.length = m0 then k else
  { k with detBuf := k.detBuf.take b0 ++ mergeEntries (k.detBuf.drop b0) [],
           detMine := k.detMine.take m0 ++ mergeEntries (k.detMine.drop m0) [] }

/-- A byte interval: its lowest byte and one less than its length, modulo 2⁶⁴ (R254, R264). -/
structure Ival where
  lo   : Nat
  span : Nat
  deriving DecidableEq, Repr

/-- Whether two intervals meet. -/
def Ival.meets (a b : Ival) : Bool :=
  decide ((b.lo + 2 ^ 64 - a.lo) % 2 ^ 64 ≤ a.span) || decide ((a.lo + 2 ^ 64 - b.lo) % 2 ^ 64 ≤ b.span)

/-- The interval that the runs of one side touch (R254). -/
def runsIval (base : Word) (len n1 n2 n3 : Nat) (s1 s2 s3 : Word) : Ival :=
  let ext (n : Nat) (st : Word) : Int := st.toInt * ((n - 1 : Nat) : Int)
  let lo := min 0 (ext n1 s1) + min 0 (ext n2 s2) + min 0 (ext n3 s3)
  let hi := max 0 (ext n1 s1) + max 0 (ext n2 s2) + max 0 (ext n3 s3) + ((len - 1 : Nat) : Int)
  ⟨wrapN 64 ((base.toNat : Int) + lo), (hi - lo).toNat⟩

/-- The source interval of a copy command; FILL reads nothing. -/
def copySrc (x : CopyCmd) : Option Ival :=
  if x.fill then none else some (runsIval x.src x.len0 x.n1 x.n2 x.n3 x.ss1 x.ss2 x.ss3)
/-- The destination interval of a copy command. -/
def copyDst (x : CopyCmd) : Ival := runsIval x.dst x.len0 x.n1 x.n2 x.n3 x.ds1 x.ds2 x.ds3

/-- Whether an access in deterministic mode meets the footprint of an uncompleted copy entry (R264). -/
def detClash (k : Core) (va : Word) (size : Nat) (write : Bool) : Bool :=
  k.det && k.cq.any fun e => e.joinId.isNone &&
    ((copyDst e.cmd).meets ⟨va.toNat, size - 1⟩
     || (write && match copySrc e.cmd with | some i => i.meets ⟨va.toNat, size - 1⟩ | none => false))

/-- Cycles from issue to data of an access (R213, log 7), with the wait for its slice (R208). -/
def accLat (s : State) (n c : Nat) (t : Target) : Nat :=
  match t with
  | .spad .. => Config.latSpad
  | .remote m _ _ => if m = n then Config.latNear else Config.latFabric
  | .mem sp pa k _ =>
    if l1Holds sp k && (l1Take (co s n c) sp pa).isSome then Config.latL1
    else sliceDelay s n sp pa + match sp with
      | .deep => Config.latNear
      | .host => Config.latHost
      | .hbm => if portBytes (nd s n) .hbm pa 128 false = 0 then Config.latNear else Config.latHbm

end Sys2Proof.Machine
end

