-- ==== Sys2Proof/Machine/Path.lean ====
section
/-! DEFINITION. The fabric between nodes: directions (R25, R26), the links and circuits that carry packets (R318), the packets
that wait for their wavelengths (R277), and how a packet sets out (R314, R318, R332). -/

namespace Sys2Proof.Machine

/-! Directions. -/

/-- The extent of a dimension (R26). -/
def extent (s : State) (dim : Nat) : Nat := match dim with | 0 => s.torus.1 | 1 => s.torus.2.1 | _ => s.torus.2.2
/-- A coordinate of a node (R25). -/
def coordOf (n dim : Nat) : Nat := n / 16 ^ dim % 16
/-- A node with one coordinate changed. -/
def withCoord (n dim x : Nat) : Nat := n - coordOf n dim * 16 ^ dim + x * 16 ^ dim
/-- Whether a direction has a link (R26). -/
def hasLink (s : State) (d : Nat) : Bool := decide (d < 6) && decide (2 ≤ extent s (d / 2))
/-- The neighbour in a direction (R26). -/
def neighbour (s : State) (n d : Nat) : Nat :=
  let e := extent s (d / 2)
  withCoord n (d / 2) ((coordOf n (d / 2) + (if d % 2 = 0 then 1 else e - 1)) % e)
/-- The direction from which a packet sent toward `d` arrives. -/
def opposite (d : Nat) : Nat := if d % 2 = 0 then d + 1 else d - 1
/-- The direction of the shorter way in a dimension, + of two equal ones, if the nodes differ there (R280). -/
def dirIn (s : State) (n t k : Nat) : Option Nat :=
  if coordOf t k = coordOf n k then none
  else
    let e := extent s k
    some (if (coordOf t k + e - coordOf n k) % e ≤ e / 2 then 2 * k else 2 * k + 1)
/-- The direction of DIRTO toward a node (R280). -/
def dirTo (s : State) (n t : Nat) : Nat :=
  if [0, 1, 2].any fun k => decide (extent s k ≤ coordOf t k) then 7
  else (([0, 1, 2].filterMap (dirIn s n t)).head?).getD 6
/-- The segments between two nodes in a dimension. -/
def stretch (s : State) (a b k : Nat) : Nat := let e := extent s k; let d := (coordOf b k + e - coordOf a k) % e; min d (e - d)
/-- Hops of a route in X, Y, Z order. -/
def routeLen (s : State) (a b : Nat) : Nat := [0, 1, 2].foldl (fun acc k => acc + stretch s a b k) 0

/-! Links and circuits. Those of a node are numbered: 0 to 5 is the link of a direction; 8 + m the circuit between the node and
node m of one of its lines, over however many segments (R316, R318). -/

/-- A link's or circuit's flit state. -/
def linkOf (d : Node) (key : Nat) : Link := smGet d.links {} key
/-- Changes it. -/
def modLink (s : State) (n key : Nat) (f : Link → Link) : State :=
  modNd s n fun d => { d with links := smPut d.links key (f (linkOf d key)) }
/-- The node at the other end. -/
def peerOf (s : State) (n key : Nat) : Nat := if key < 8 then neighbour s n key else key - 8
/-- The number that the other end gives the link or circuit. -/
def backKey (n key : Nat) : Nat := if key < 8 then opposite key else 8 + n
/-- Whether there is such a link; a circuit stands by the plan of R317. -/
def linkUp (s : State) (key : Nat) : Bool := decide (8 ≤ key) || hasLink s key
/-- The direction of its first segment. -/
def physDir (s : State) (n key : Nat) : Nat := if key < 8 then key else dirTo s n (key - 8)
/-- The time of a flit over it: a turn of 12 ns, and more for each further segment (R28, log 7). -/
def flightCc (s : State) (n key : Nat) : Nat :=
  if key < 8 then Config.latHop else Config.latHop + Config.latSeg * (routeLen s n (key - 8) - 1)
/-- A flit takes its wavelength for 160 bytes at 112 Gb/s, 50/7 of a step (R328). -/
def flitCc : Nat := 29
/-- The 128-byte units of so many bytes (R277). -/
def unitsOf (bytes : Nat) : Nat := ceilDiv bytes 128

/-- The load of a direction (R277): of a link, the units that wait here for launch on its free-pool wavelengths; of LOCAL the
deliveries waiting at the node; of NONE 0. -/
def loadOf (s : State) (n d : Nat) : Nat :=
  if d < 6 then min ((linkOf (nd s n) d).txq.foldl (fun a e => a + e.1) 0) 65535
  else if d = 6 then
    ((nd s n).hops.filter fun e => match e.2 with | some h => h.stage != 0 | none => false).length + (nd s n).dataDel.length
  else 0
/-- The loads of a node as every DIRMIN of a cc sees them (R280): those that the cc began with. -/
def loadSeen (s : State) (n d : Nat) : Nat :=
  match (nd s n).loads with
  | some (t, l) => if t = s.now then nth l d 0 else loadOf s n d
  | none => loadOf s n d

/-! The kinds of packets (R265). -/

/-- The TYPE of the packet that brings an event to its node (R265): 0 DATA, 1 PROG, 2 LDST, 3 MSG, 4 COLL, 5 CTL; none of what
happens on the node itself. -/
def fabricType : Instr → Option Nat
  | .dataDelivery .. => some 0
  | .progArrival .. => some 1
  | .windowAccess .. => some 2
  | .windowReply .. => some 2
  | .messageArrival .. => some 3
  | .remoteWriteArrival .. => some 3
  | .remoteReadRequest .. => some 3
  | .readReplyArrival .. => some 3
  | .receiverNotReady .. => some 3
  | .messageAck .. => some 3
  | .messageRefused .. => some 3
  | .chunkArrival .. => some 4
  | .chunkGrant .. => some 5
  | .collectiveAbort .. => some 5
  | .notice .. => some 5
  | .cancelToken .. => some 5
  | .leaseCtlArrival .. => some 5
  | .leaseDecisionArrival .. => some 5
  | .parkgetRequest .. => some 5
  | .parkgetReply .. => some 5
  | .remoteTlbinv .. => some 5
  | .tlbinvAnswer .. => some 5
  | .alignFlit .. => some 5
  | _ => none

/-- Whether a packet waits in a send queue while its destination is named there: MSG, DATA and COLL do (R329). -/
def queuedType (i : Instr) : Bool := match fabricType i with | some t => t == 0 || t == 3 || t == 4 | none => false
/-- The most payload of one packet: 4 KiB of a message, a whole chunk with its header (R328, R352). -/
def packetCap (i : Instr) : Nat := if fabricType i = some 4 then 4112 else 4096
/-- The packets that carry so many bytes of payload. -/
def packetsOf (i : Instr) (bytes : Nat) : Nat := max 1 (ceilDiv bytes (packetCap i))
/-- The bytes of the next of them, its header included. -/
def nextPacket (i : Instr) (bytes : Nat) : Nat := 32 + min bytes (packetCap i)

/-! Setting out. -/

/-- A packet waits for the wavelengths of a link or circuit (R277, R318). -/
def awaitLink (s : State) (n key : Nat) (p : Parcel) : State :=
  modLink s n key fun l => { l with txq := l.txq ++ [(unitsOf p.bytes, unitsOf p.bytes, p)] }

/-- The node that ends the next leg of an ordered packet: X, then Y, then Z, legs that are not needed skipped (R318). -/
def legEnd (n t : Nat) : Nat :=
  match [0, 1, 2].find? fun k => coordOf t k != coordOf n k with
  | some k => withCoord n k (coordOf t k)
  | none => n
/-- The directions that bring a relaxed packet nearer to a node, one in each dimension (R332). -/
def nearer (s : State) (n t : Nat) : List Nat := [0, 1, 2].filterMap (dirIn s n t)
/-- The one of least load, the lowest of equals. -/
def leastLoad (s : State) (n : Nat) : List Nat → Nat
  | [] => 7
  | d :: r => r.foldl (fun b d => if loadOf s n d < loadOf s n b then d else b) d
/-- The link or circuit that a packet takes next: on the ordered channel its leg's circuit (R318), on the others the nearer
direction of least load, hop by hop (R332). -/
def nextKey (s : State) (n ch dst : Nat) : Nat := if ch = 0 then 8 + legEnd n dst else leastLoad s n (nearer s n dst)
/-- A packet goes on from a node, where there is a way. -/
def routeOn (s : State) (n : Nat) (p : Parcel) : State :=
  let key := nextKey s n p.ch p.dst
  if linkUp s key then awaitLink s n key p else s

/-- The packets of a transfer, but for the stamp that each takes as it is injected (R328, R332). -/
def parcelOf (s : State) (n m ch tenant bytes : Nat) (i : Instr) : Parcel :=
  { src := n, seq := (nd s n).netSeq + 1, stamp := gsc s n, dst := m, ch := ch, tenant := tenant, bytes := 32 + bytes,
    parts := packetsOf i bytes, what := i }
/-- A packet is injected with its stamp. -/
def inject (s : State) (n size : Nat) (p : Parcel) : State := routeOn s n { p with stamp := gsc s n, bytes := size }
/-- All packets of a transfer of `left` bytes are injected in order. -/
def injectAll (n : Nat) (p : Parcel) : Nat → Nat → State → State
  | 0, _, s => s
  | fuel + 1, left, s =>
    let s := inject s n (nextPacket p.what left) p
    if left ≤ packetCap p.what then s else injectAll n p fuel (left - packetCap p.what) s

/-- The last `left` bytes of a transfer set out (R318): on the ordered channel at once, on the others when the congestion window
lets its packets go (R314). -/
def netPut (s : State) (n left : Nat) (p : Parcel) : State :=
  if p.ch = 0 then injectAll n p p.parts left s else modNd s n fun d => { d with paceq := d.paceq ++ [(left, p)] }

/-- A transfer of so many bytes of payload sets out from node `n` for another, where `i` happens once it is all there (R318).
What is for the node itself is not on the fabric. -/
def netSend (s : State) (n m ch tenant bytes : Nat) (i : Instr) : State :=
  if n = m then schedule s 0 i
  else
    let p := parcelOf s n m ch tenant bytes i
    netPut (modNd s n fun d => { d with netSeq := p.seq }) n bytes p

/-- A CTL packet of so many bytes, its header among them, sets out for another node (R265, R318). -/
def travel (s : State) (n m bytes : Nat) (i : Instr) : State := netSend s n m 2 0 (bytes - 32) i

/-- Whether a transfer is under way from a node: paced, or waiting for a wavelength there, or due at once at the node itself. -/
def underWay (s : State) (n m : Nat) (i : Instr) : Bool :=
  if n = m then s.timers.any fun t => t.1 == s.now && t.2 == i
  else ((nd s n).paceq.any fun e => e.2.dst == m && e.2.what == i)
    || (nd s n).links.any fun l => l.2.txq.any fun e => e.2.2.dst == m && e.2.2.what == i

/-- The round trip over the pool of a packet that meets no load (R314, log 7). -/
def roundTrip (s : State) (a b : Nat) : Nat := 2 * (routeLen s a b * (Config.latHop + flitCc))

end Sys2Proof.Machine
end

