-- ==== Sys2Proof/Machine/Memory.lean ====
section
/-! DEFINITION. Scalar loads and stores, LDQ, cache operations and block transfers (R212 to R220) with the steps that
complete them, and window accesses (R190, R215). -/

namespace Sys2Proof.Machine

/-- The address of an F-M instruction (R212). -/
def memAddr (s : State) (a : Reg) (o : BitVec 9) (size : Nat) : Word := reg s a + toWord (sextN o.toNat 9 * (size : Int))

/-- An access that passed its checks: its target and address. -/
structure Access where
  t  : Target
  va : Word
  deriving DecidableEq, Repr

/-- Whether a BLK has scratchpad bytes of a range: its own range, or a memory line in the own scratchpad (R219). -/
def blkCovers (b : BlkOp) (off size : Nat) : Bool :=
  (decide (off < b.off + b.len) && decide (b.off < off + size))
  || b.own.any fun o => decide (off < o + 128) && decide (o < off + size)

/-- Whether a scratchpad access meets the bytes of an unfinished BLK of the moving sequencer (R219). -/
def blkMeets (s : State) (t : Target) (size : Nat) : Bool :=
  match t with
  | .spad o off => o == s.cur.core && (cc s).blks.any fun b => b.seq == s.cur.seq && blkCovers b off size
  | _ => false

/-- Whether a target lies on a STRONG page, of this node or as its target's tables have it. -/
def isStrong (s : State) : Target → Bool
  | .mem _ _ k _ => k == .strong
  | .spad .. => false
  | .remote m _ off => match peekWindow s m (fld (cc s).asid 5 0) off with
    | some (_, _, k) => k == .strong
    | none => false

/-- Whether no STRONG access of the moving sequencer is still to be performed (R226): those of this node are as they issue,
those through the window when their reply comes. -/
def strongIdle (s : State) : Bool :=
  let k := cc s
  let q := s.cur.seq
  !(k.winOut.any fun w => w.seq == q && w.strong)
  && !(k.loads.any fun p => (match p.queue with | some (j, _) => qProducer j == q | none => false) && p.data.isNone && isStrong s p.tgt)
  && !(k.blks.any fun b => b.seq == q && b.lines.any fun l => isStrong s l.1)

/-- Whether an access of a kind must wait for the HBM bucket (R33): an atomic goes to the home of its line. -/
def bucketHold (s : State) (t : Target) (size : Nat) (need : Need) : Bool :=
  let n := s.cur.node
  let c := s.cur.core
  let cls := classOf (cc s)
  if need = .rw then hbmHold s n c cls (match atHome t with | .mem sp pa .determ zp => .mem sp pa .strong zp | t => t) size false
  else hbmHold s n c cls t size (need == .w)

/-- The checks of one scalar access (R198, R212, R233, R264): ALIGN, XLATE, PERM, the deterministic-mode footprint, then
the waits for a BLK of the sequencer, for the DETERM buffer and for the HBM bucket. -/
def accessPre (s : State) (va : Word) (size align : Nat) (need : Need) (write : Bool) : Pre Access :=
  if va.toNat % align ≠ 0 then .fault (causeAt s codeAlign va) s else
  let n := s.cur.node
  let c := s.cur.core
  match chk s n c va size need with
  | .wait => .hold s
  | .fault code s => .fault (causeAt s code va) s
  | .ok t s' =>
    if detClash (cc s) va size write then .fault (causeAt s codeDetConflict va) (keepTlb s s' n c)
    else if blkMeets s' t size then .hold s'
    else if bucketHold s' t size need then .hold s'
    else match (if write then detRoom (cc s) (detLines [t]) else .ok) with
      | .conflict => .fault (causeAt s codeDetConflict va) (keepTlb s s' n c)
      | .wait => .hold s'
      | .ok => .go ⟨t, va⟩ s'

/-- What a STRONG store or atomic waits for (R226): the sequencer's last STRONG access, and the acknowledgements that the
scope of its location includes. -/
def strongReady (s : State) (t : Target) : Bool :=
  !isStrong s t || (strongIdle s && blksDone s s.cur.node s.cur.core s.cur.seq
    && acked s s.cur.node s.cur.core s.cur.seq (scopeOf s.cur.core t))
/-- The release of a STRONG store. -/
def strongRelease (s : State) (t : Target) : State :=
  if isStrong s t then releaseL1 s s.cur.node s.cur.core (scopeOf s.cur.core t) false else s
/-- The acquire of a STRONG load of this node, which is performed as it issues. -/
def strongAcquire (s : State) (t : Target) : State :=
  match t with
  | .mem .. => if isStrong s t then acquireL1 s s.cur.node s.cur.core (scopeOf s.cur.core t) false else s
  | _ => s

/-- Takes a tag for an outstanding access. -/
def newTag (s : State) : Nat × State := ((cc s).nextTag, modCc s fun k => { k with nextTag := k.nextTag + 1 })

/-- The time after which a window access faults PEERGONE: 10 frames (R215). -/
def peerTime : Nat := 10 * Config.frameCc

/-- The bytes of a window packet (R190, R265): its header, and the bytes it stores or the two operands of an atomic. -/
def winBytes (op : WinOp) (size : Nat) : Nat := match op with | .load => 32 | .store => 32 + size | .atomic .. => 48
/-- The bytes of its answer: the header, and the bytes that a load or an atomic returns. -/
def winReplyBytes (op : WinOp) (size : Nat) : Nat := match op with | .store => 32 | _ => 32 + size
/-- Sends a window access and starts its clock (R190, R215). On the caller's own node it is performed as it issues, which
keeps its sequencer's order to each byte (R222), and answered as a near access; to a node that is lost none goes out. On the
ordered channel accesses arrive in issue order; on the relaxed one only those to the same bytes do (R222, R228). -/
def sendWindow (s : State) (m : Nat) (relaxed : Bool) (tag off size : Nat) (op : WinOp) (data : BitVec 1024) (p : Bool) : State :=
  let n := s.cur.node
  let c := s.cur.core
  let r : WinReq := ⟨n, c, s.cur.seq, tag, m, relaxed, fld (cc s).asid 5 0, off, size, op, data, p, classOf (cc s)⟩
  if isLost s n m then schedule s 0 (.windowPeergone n c tag)
  else if m = n then
    let x := performWindow s n r
    schedule x.1 Config.latNear (.windowReply n x.2)
  else
    schedule (netSend s n m (b2n relaxed) r.asid (winBytes op size - 32) (.windowAccess m r)) peerTime (.windowPeergone n c tag)

/-- Sends a window store and notes it until its acknowledgement (R215). -/
def sendStore (s : State) (m : Nat) (relaxed : Bool) (off size : Nat) (va : Word) (data : BitVec 1024) (p : Bool) : State :=
  let r := newTag s
  let w : WinOut := ⟨r.1, s.cur.seq, m, va, s.now, isStrong s (.remote m relaxed off)⟩
  sendWindow (modCc r.2 fun k => { k with winOut := k.winOut ++ [w] }) m relaxed r.1 off size .store data p

/-- A loaded value in a register (R213). -/
def extend (signed : Bool) (size v : Nat) : Word :=
  if signed then toWord (sextN v (8 * size)) else BitVec.ofNat 64 (v % 2 ^ (8 * size))

/-- What a load has found at issue: its access and, for a local one, its bytes, or that they are poisoned, and its time. -/
structure Found where
  x   : Access
  v   : Option Nat
  bad : Bool
  lat : Nat
  deriving DecidableEq, Repr

/-- The local read of a load (R210, R213, R226); one that finds poison leaves nothing but its translation (R196). -/
def loadFound (s : State) (va : Word) (size : Nat) : Pre Found :=
  match accessPre s va size size .r false with
  | .fault k s => .fault k s
  | .hold s => .hold s
  | .go x s' =>
    let n := s.cur.node
    let c := s.cur.core
    if isStrong s' x.t && !strongIdle s' then .hold s' else
    match x.t with
    | .remote .. => .go ⟨x, none, false, 0⟩ s'
    | t =>
      let g := readT (strongAcquire s' t) n c (some (classOf (cc s))) t size
      if g.poison then .go ⟨x, none, true, accLat s' n c t⟩ (keepTlb s s' n c) else .go ⟨x, some g.v, false, accLat s' n c t⟩ g.s

/-- The read of a load whose faults are precise at the instruction (R213). -/
def loadPre (s : State) (va : Word) (size : Nat) : Pre Found :=
  match loadFound s va size with
  | .go x s => if x.bad then .fault (causeAt s codePoison va) s else .go x s
  | r => r

/-- The record of an outstanding load. -/
def pendLoad (s : State) (tag : Nat) (x : Access) (size : Nat) (signed : Bool) (d : Option Reg) (q : Option (Nat × Nat))
    (v : Option Nat) (t : Tok) (pc : BitVec 28) : PendAcc :=
  ⟨tag, x.va, x.t, size, signed, none, 0, 0, false, false, d, q, v.map (BitVec.ofNat 64), 0, pushKey s t,
    if t.pop = 0 then 16 else fifoIn s.cur.seq t.pop.toNat, pc, s.now, none⟩

/-- LD (R213): the sequencer issues nothing more until the data returns. -/
def loadOp (t : Tok) (d a : Reg) (o : BitVec 9) (size : Nat) (signed : Bool) : Op (Found × BitVec 28) :=
  { tk := t, seqs := [.ctrl, .load, .store], srcs := [a], now := false,
    pre := fun s => match loadPre s (memAddr s a o size) size with
      | .fault k s => .fault k s
      | .hold s => .hold s
      | .go x s => .go (x, (cs s).pc) s,
    eff := fun y s =>
      let r := newTag s
      let p := pendLoad s r.1 y.1.x size signed (some d) none y.1.v t y.2
      let s := modCs r.2 fun k => { k with hold := .load p }
      match y.1.x.t with
      | .remote m rl off => sendWindow s m rl r.1 off size .load 0 false
      | _ => schedule s y.1.lat (.loadDataReturn s.cur.node s.cur.core s.cur.seq) }

/-- ST (R214): performed at issue; a window store retires when the fabric accepts it (R215). -/
def storeOp (t : Tok) (d a : Reg) (o : BitVec 9) (size : Nat) : Op Access :=
  { tk := t, seqs := [.ctrl, .load, .store], srcs := [d, a],
    pre := fun s => match accessPre s (memAddr s a o size) size size .w true with
      | .go x s => if strongReady s x.t then .go x s else .hold s
      | r => r,
    eff := fun x s =>
      let v := (reg s d).toNat
      match x.t with
      | .remote m rl off =>
        sendStore (strongRelease s x.t) m rl off size x.va (BitVec.ofNat 1024 (v % 2 ^ (8 * size))) false
      | tg => writeT (strongRelease s tg) s.cur.node s.cur.core (some (classOf (cc s))) tg size (fullMask size) v }

/-- LDQ (R216): reserves its slot and goes on; what the access finds goes into the slot. -/
def loadQueueOp (t : Tok) (d a : Reg) (o : BitVec 9) (size : Nat) (signed : Bool) : Op Found :=
  { tk := t, seqs := [.ctrl, .load], srcs := [a], now := false,
    illegal := fun s => qProducer d.toNat != s.cur.seq,
    pre := fun s => loadFound s (memAddr s a o size) size,
    room := fun s => queueRoom s d.toNat
      && decide (((cc s).loads.filter fun p => match p.queue with | some (j, _) => qProducer j == s.cur.seq | none => false).length < 32),
    eff := fun y s =>
      let r := newTag s
      let q := queueReserve r.2 d.toNat
      let p := pendLoad s r.1 y.x size signed none (some (d.toNat, q.1)) y.v t (cs s).pc
      let p := if y.bad then { p with data := some 0, code := codePoison } else p
      let s := modCc q.2 fun k => { k with loads := k.loads ++ [p] }
      match y.x.t with
      | .remote m rl off => sendWindow s m rl r.1 off size .load 0 false
      | _ => schedule s y.lat (.ldqFill s.cur.node s.cur.core r.1) }

/-- LDB (R213). -/
def execLdb (t : Tok) (d a : BitVec 5) (o : BitVec 9) (s : State) : Host.Outcome State Fault Refusal :=
  runOp (loadOp t d a o 1 true) s

/-- LDBU (R213). -/
def execLdbu (t : Tok) (d a : BitVec 5) (o : BitVec 9) (s : State) : Host.Outcome State Fault Refusal :=
  runOp (loadOp t d a o 1 false) s

/-- LDH (R213). -/
def execLdh (t : Tok) (d a : BitVec 5) (o : BitVec 9) (s : State) : Host.Outcome State Fault Refusal :=
  runOp (loadOp t d a o 2 true) s

/-- LDHU (R213). -/
def execLdhu (t : Tok) (d a : BitVec 5) (o : BitVec 9) (s : State) : Host.Outcome State Fault Refusal :=
  runOp (loadOp t d a o 2 false) s

/-- LDW (R213). -/
def execLdw (t : Tok) (d a : BitVec 5) (o : BitVec 9) (s : State) : Host.Outcome State Fault Refusal :=
  runOp (loadOp t d a o 4 true) s

/-- LDWU (R213). -/
def execLdwu (t : Tok) (d a : BitVec 5) (o : BitVec 9) (s : State) : Host.Outcome State Fault Refusal :=
  runOp (loadOp t d a o 4 false) s

/-- LDD (R213). -/
def execLdd (t : Tok) (d a : BitVec 5) (o : BitVec 9) (s : State) : Host.Outcome State Fault Refusal :=
  runOp (loadOp t d a o 8 false) s

/-- STB (R214). -/
def execStb (t : Tok) (d a : BitVec 5) (o : BitVec 9) (s : State) : Host.Outcome State Fault Refusal :=
  runOp (storeOp t d a o 1) s

/-- STH (R214). -/
def execSth (t : Tok) (d a : BitVec 5) (o : BitVec 9) (s : State) : Host.Outcome State Fault Refusal :=
  runOp (storeOp t d a o 2) s

/-- STW (R214). -/
def execStw (t : Tok) (d a : BitVec 5) (o : BitVec 9) (s : State) : Host.Outcome State Fault Refusal :=
  runOp (storeOp t d a o 4) s

/-- STD (R214). -/
def execStd (t : Tok) (d a : BitVec 5) (o : BitVec 9) (s : State) : Host.Outcome State Fault Refusal :=
  runOp (storeOp t d a o 8) s

/-- LDQ.B (R216). -/
def execLdqB (t : Tok) (d a : BitVec 5) (o : BitVec 9) (s : State) : Host.Outcome State Fault Refusal :=
  runOp (loadQueueOp t d a o 1 true) s

/-- LDQ.BU (R216). -/
def execLdqBu (t : Tok) (d a : BitVec 5) (o : BitVec 9) (s : State) : Host.Outcome State Fault Refusal :=
  runOp (loadQueueOp t d a o 1 false) s

/-- LDQ.H (R216). -/
def execLdqH (t : Tok) (d a : BitVec 5) (o : BitVec 9) (s : State) : Host.Outcome State Fault Refusal :=
  runOp (loadQueueOp t d a o 2 true) s

/-- LDQ.HU (R216). -/
def execLdqHu (t : Tok) (d a : BitVec 5) (o : BitVec 9) (s : State) : Host.Outcome State Fault Refusal :=
  runOp (loadQueueOp t d a o 2 false) s

/-- LDQ.W (R216). -/
def execLdqW (t : Tok) (d a : BitVec 5) (o : BitVec 9) (s : State) : Host.Outcome State Fault Refusal :=
  runOp (loadQueueOp t d a o 4 true) s

/-- LDQ.WU (R216). -/
def execLdqWu (t : Tok) (d a : BitVec 5) (o : BitVec 9) (s : State) : Host.Outcome State Fault Refusal :=
  runOp (loadQueueOp t d a o 4 false) s

/-- LDQ.D (R216). -/
def execLdqD (t : Tok) (d a : BitVec 5) (o : BitVec 9) (s : State) : Host.Outcome State Fault Refusal :=
  runOp (loadQueueOp t d a o 8 false) s

/-- The line address of a cache operation (R217). -/
def lineAddr (s : State) (a : Reg) (o : BitVec 9) : Word := memAddr s a o 128 &&& ~~~(127 : Word)

/-- Whether an address lies in the scratchpad aperture (R189). -/
def inAperture (va : Word) : Bool := fld va 63 48 == 0 && fld va 47 40 == 0xFF

/-- A cache operation of L1 (R217): checked, then `act` on the line of a local page; nothing on the scratchpad or through
the window. -/
def cacheOp (t : Tok) (a : Reg) (o : BitVec 9) (need : Need) (act : State → Space → Nat → State) : Op Access :=
  { tk := t, seqs := [.ctrl, .load, .store], srcs := [a],
    pre := fun s =>
      let va := lineAddr s a o
      match chk s s.cur.node s.cur.core va 128 (if inAperture va then .r else need) with
      | .wait => .hold s
      | .fault code s => .fault (causeAt s code va) s
      | .ok t s => .go ⟨t, va⟩ s,
    eff := fun x s => match x.t with
      | .mem sp pa _ _ => act s sp pa
      | _ => s }

/-- CWB (R217). -/
def cwbLine (s : State) (sp : Space) (pa : Nat) : State :=
  match l1Take (cc s) sp pa with
  | some (l, _) => if l.dirty = 0 then s else l1Clean s s.cur.node s.cur.core l
  | none => s

/-- PREF (R217): reads the line into L1, or into L2 where L1 may not hold it; a failing check drops it. -/
def execPref (t : Tok) (a : BitVec 5) (o : BitVec 9) (s : State) : Host.Outcome State Fault Refusal :=
  runOp ({ tk := t, seqs := [.ctrl, .load, .store], srcs := [a],
           pre := fun s => match chk s s.cur.node s.cur.core (lineAddr s a o) 128 .r with
             | .ok (.remote ..) s => .go none s
             | .ok t s => if bucketHold s t 128 .r then .hold s else .go (some t) s
             | .fault _ s => .go none s
             | .wait => .go none s,
           eff := fun x s => match x with
             | some (.mem sp pa k _) =>
               let n := s.cur.node
               let c := s.cur.core
               let cls := some (classOf (cc s))
               if l1Holds sp k then
                 match l1Take (cc s) sp pa with
                 | some _ => s
                 | none => l1Fill s n c cls sp pa k true
               else touch s n cls sp (pa / 128 * 128) 128 false
             | _ => s } : Op (Option Target)) s

/-- CWB (R217): performed when the slice accepts the line, in the issue cc (log 7). -/
def execCwb (t : Tok) (a : BitVec 5) (o : BitVec 9) (s : State) : Host.Outcome State Fault Refusal :=
  runOp (cacheOp t a o .r cwbLine) s

/-- CINV (R217): dirty data is discarded. -/
def execCinv (t : Tok) (a : BitVec 5) (o : BitVec 9) (s : State) : Host.Outcome State Fault Refusal :=
  runOp (cacheOp t a o .w fun s sp pa => l1Drop s s.cur.node s.cur.core sp pa false) s

/-- CFLUSH (R217). -/
def execCflush (t : Tok) (a : BitVec 5) (o : BitVec 9) (s : State) : Host.Outcome State Fault Refusal :=
  runOp (cacheOp t a o .r fun s sp pa => l1Drop s s.cur.node s.cur.core sp pa true) s

/-- ZERO (R217): one full-line store of zeros; a remote store through the window. -/
def execZero (t : Tok) (a : BitVec 5) (o : BitVec 9) (s : State) : Host.Outcome State Fault Refusal :=
  runOp ({ tk := t, seqs := [.ctrl, .load, .store], srcs := [a],
           pre := fun s => match accessPre s (lineAddr s a o) 128 1 .w true with
             | .go x s => if strongReady s x.t then .go x s else .hold s
             | r => r,
           eff := fun x s => match x.t with
             | .remote m rl off => sendStore (strongRelease s x.t) m rl off 128 x.va 0 false
             | tg => writeT (strongRelease s tg) s.cur.node s.cur.core (some (classOf (cc s))) tg 128 (fullMask 128) 0 } : Op Access) s

/-- What opB of a block transfer says (R218). -/
structure BlkShape where
  store  : Bool
  rowLen : Nat
  n      : Nat
  stride : Word
  off    : Nat
  deriving DecidableEq, Repr

/-- The layout of BLKLD and BLKST (R218). -/
def blkLine (store : Bool) (b : Word) : Option BlkShape :=
  if fld b 63 28 ≠ 0 ∨ fld b 19 19 ≠ 0 ∨ fld b 18 0 % 128 ≠ 0 then none
  else some ⟨store, 1, fld b 27 20 + 1, 128, fld b 18 0⟩

/-- The layout of BLKROW (R218). -/
def blkRowShape (b : Word) : Option BlkShape :=
  if fld b 19 19 ≠ 0 ∨ fld b 18 0 % 128 ≠ 0 ∨ fld b 39 32 % 128 ≠ 0 then none
  else some ⟨bit b 31, fld b 30 28 + 1, fld b 27 20 + 1, toWord (sextN (fld b 63 32) 32), fld b 18 0⟩

/-- The memory lines of a transfer, ascending in i and then in address, with the scratchpad offset of each (R219). -/
def blkPairs (x : BlkShape) (a : Word) : List (Word × Nat) :=
  (upFrom 0 x.n).flatMap fun i => (upFrom 0 x.rowLen).map fun j =>
    (a + BitVec.ofNat 64 i * x.stride + BitVec.ofNat 64 (128 * j), x.off + 128 * (x.rowLen * i + j))

/-- The lines of a transfer checked one by one (R219); none of it moves before all have passed. -/
def blkChecks (need : Need) : List (Word × Nat) → State → Sum Cause (List (Target × Nat)) × Bool × State
  | [], s => (.inr [], false, s)
  | (va, off) :: r, s =>
    match chk s s.cur.node s.cur.core va 128 need with
    | .wait => (.inr [], true, s)
    | .fault code s => (.inl (causeAt s code va), false, s)
    | .ok t s =>
      match blkChecks need r s with
      | (.inr l, w, s) => (.inr ((t, off) :: l), w, s)
      | x => x

/-- A block transfer about to issue: its lines with their addresses. -/
structure BlkPlan where
  x     : BlkShape
  lines : List (Target × Nat)
  vas   : List Nat
  next  : Word
  deriving DecidableEq, Repr

/-- One line of a BLK as it issues (R209, R219): on this node it moves, with its poison or as zeros of a ZP page, a STRONG
line with its order (R226); a line of another node is sent, or asked for under the BLK's tag. -/
def blkMove (store : Bool) (tag : Nat) (s : State) (l : (Target × Nat) × Nat) : State :=
  let n := s.cur.node
  let c := s.cur.core
  let cls := some (classOf (cc s))
  if store then
    let v := spadRead (cc s) l.1.2 128
    let p := spadPoisoned (cc s) l.1.2
    match l.1.1 with
    | .remote m rl off => sendStore (strongRelease s l.1.1) m rl off 128 (BitVec.ofNat 64 l.2) (BitVec.ofNat 1024 v) p
    | t =>
      let s := writeT (strongRelease s t) n c cls t 128 (fullMask 128) v
      if p then poisonT s n c t else s
  else
    match l.1.1 with
    | .remote m rl off => sendWindow s m rl tag off 128 .load 0 true
    | t =>
      let g := readT (strongAcquire s t) n c cls t 128
      let s := modCo g.s n c fun k => spadWrite k l.1.2 128 (fullMask 128) g.v
      if g.poison then poisonT s n c (.spad c l.1.2) else s

/-- Whether a line is one that a load brings from elsewhere. -/
def blkFar (store : Bool) (l : (Target × Nat) × Nat) : Bool := !store && match l.1.1 with | .remote .. => true | _ => false
/-- The offsets of the lines that lie in the own scratchpad. -/
def blkOwn (c : Nat) (ls : List (Target × Nat)) : List Nat :=
  ls.filterMap fun l => match l.1 with | .spad o off => if o = c then some off else none | _ => none

/-- What a BLK that touches `need` lines of DETERM pages finds in the buffer (R233): a load takes no entry, and more than 256
lines are a conflict for it too. -/
def blkDet (k : Core) (store : Bool) (need : Nat) : DetRoom :=
  if store then detRoom k need else if 256 < need then .conflict else .ok

/-- BLK (R218, R219): its lines move in order as it issues, but those that another node must send. -/
def blkOp (t : Tok) (d : Reg) (a b : SOp) (shape : Word → Option BlkShape) : Op BlkPlan :=
  { len := 1 + sopLen a + sopLen b, tk := t, seqs := [.load, .store], srcs := sopSrcs a ++ sopSrcs b, now := false,
    pre := fun s =>
      let va := opv s a
      match shape (opv s b) with
      | none => .fault (causeHere s codeIllegal) s
      | some x =>
        if va.toNat % 128 ≠ 0 then .fault (causeAt s codeAlign va) s
        else if (cc s).part * 8192 < x.off + 128 * x.rowLen * x.n then .fault (causeAt s codeXlate (BitVec.ofNat 64 x.off)) s
        else
          let prs := blkPairs x va
          let need := if x.store then Need.w else .r
          let bad (s' : State) : Pre BlkPlan := .fault (causeAt s codeDetConflict va) (keepTlb s s' s.cur.node s.cur.core)
          match blkChecks need prs s with
          | (.inl k, _, s') => .fault k (keepTlb s s' s.cur.node s.cur.core)
          | (.inr _, true, s) => .hold s
          | (.inr ls, false, s') =>
            let clash := prs.any fun p => detClash (cc s) p.1 128 x.store
              || detClash (cc s) (BitVec.ofNat 64 (0xFF * 2 ^ 40 + p.2)) 128 (!x.store)
            if clash then bad s'
            else if blkMeets s' (.spad s.cur.core x.off) (128 * x.rowLen * x.n) || ls.any fun l => blkMeets s' l.1 128 then .hold s'
            else if ls.any fun l => bucketHold s' l.1 128 need then .hold s'
            else if ls.any fun l => if x.store then !strongReady s' l.1 else isStrong s' l.1 && !strongIdle s' then .hold s'
            else match blkDet (cc s) x.store (detLines (ls.map fun l => l.1)) with
              | .conflict => bad s'
              | .wait => .hold s'
              | .ok => .go ⟨x, ls, prs.map fun p => p.1.toNat, va + BitVec.ofNat 64 x.n * x.stride⟩ s',
    room := fun s => decide (((cc s).blks.filter fun y => y.seq == s.cur.seq).length < 4),
    eff := fun y s =>
      let n := s.cur.node
      let c := s.cur.core
      let r := newTag s
      let all := y.lines.zip y.vas
      let lat := (y.lines.foldl (fun m l => max m (accLat s n c l.1)) 0) + y.lines.length
      let far := all.filter (blkFar y.x.store)
      let op : BlkOp := ⟨r.1, s.cur.seq, y.x.store, far.map fun l => l.1, far.map fun l => l.2, y.x.off,
        128 * y.x.rowLen * y.x.n, blkOwn c y.lines, pushKey s t, s.now + lat⟩
      let s := all.foldl (blkMove y.x.store r.1) r.2
      let s := modCc s (mergeNew (cc r.2).detBuf.length (cc r.2).detMine.length)
      schedule (writeReg (modCc s fun k => { k with blks := k.blks ++ [op] }) d y.next) lat (.blkRetire n c r.1) }

/-- BLKLD (R218). -/
def execBlkld (t : Tok) (d : BitVec 5) (a b : SOp) (s : State) : Host.Outcome State Fault Refusal :=
  runOp (blkOp t d a b (blkLine false)) s
/-- BLKST (R218). -/
def execBlkst (t : Tok) (d : BitVec 5) (a b : SOp) (s : State) : Host.Outcome State Fault Refusal :=
  runOp (blkOp t d a b (blkLine true)) s
/-- BLKROW (R218). -/
def execBlkrow (t : Tok) (d : BitVec 5) (a b : SOp) (s : State) : Host.Outcome State Fault Refusal :=
  runOp (blkOp t d a b blkRowShape) s

/-! The steps that complete what issued. -/

/-- What becomes possible when the accesses that a cut waits for are done (R405, step 2). -/
def cutProgress (s : State) (n c : Nat) : State :=
  match (co s n c).mode with
  | .cutting k => if outstanding (co s n c) then s else finishCut s n c k
  | _ => s

/-- A precise fault that something other than an issue raises: in the handler, where nothing else moves, it is taken at once;
otherwise it stands among the faults of the cc (R410). A core whose cut is being taken goes on with that. -/
def faultNow (s : State) (n c : Nat) (k : Cause) : State :=
  match (co s n c).mode with
  | .run => modCo s n c fun x => { x with deferred := x.deferred ++ [k] }
  | .handler => takeTrap s n c k
  | _ => cutProgress s n c

/-- Writes a register of a sequencer, in or out of the handler. -/
def writeRegAt (s : State) (n c : Nat) (q : Seq) (r : Reg) (v : Word) : State :=
  modCo (modSq s n c q fun k => regWrite k r v) n c fun k => supersedeAll k q r

/-- Takes back the issue of an instruction whose fault comes with its reply (R213, R238): the program counter stands at
it again, and its tokens are as before, where its FIFO has been refilled too (DESIGN CHOICE, log 45). -/
def unissue (s : State) (n c : Nat) (q : Seq) (p : PendAcc) : State :=
  let s := modSq s n c q fun k =>
    { k with pc := p.pc, past := false, hold := .none, issued := k.issued - 1, span := k.span - 1, status := .blocked }
  modCo s n c fun k =>
    let k := if p.pop < 16 then (let f := fifo k p.pop; putFifo k p.pop { f with n := f.n + 1 }) else k
    match p.tok with
    | some f => let x := fifo k f; putFifo k f { x with v := x.v - 1 }
    | none => k

/-- A precise fault that arrives with a reply: the issue is taken back, and the core takes the fault among those of the cc
(R410). -/
def replyFault (s : State) (n c : Nat) (q : Seq) (p : PendAcc) (code : Nat) : State :=
  faultNow (unissue s n c q p) n c ⟨code, 0, seqIdx q, false, false, p.va, 0⟩

/-- Retirement of an access that held its sequencer: the register, the token, and the sequencer goes on. -/
def holdDone (s : State) (n c : Nat) (q : Seq) (p : PendAcc) (v : Word) : State :=
  let s := modSq s n c q fun k => { k with hold := .none }
  let s := match p.reg with
    | some d => writeRegAt s n c q d v
    | none => s
  let s := match p.tok with
    | some f => modCo s n c fun k => landTok k f 1
    | none => s
  cutProgress s n c

/-- LOAD_DATA_RETURN (R213): the data of LD is written and the sequencer goes on. -/
def execLoadDataReturn (n c : Nat) (q : Seq) (s : State) : Host.Outcome State Fault Refusal :=
  match (sq s n c q).hold with
  | .load p => match p.data with
    | some v => .next (if p.code ≠ 0 then replyFault s n c q p p.code
                       else holdDone s n c q p (extend p.signed p.size v.toNat))
    | none => .next s
  | _ => .next s

/-- LDQ_FILL (R216): the slot of an LDQ whose data, or whose fault, has come is filled. -/
def execLdqFill (n c tag : Nat) (s : State) : Host.Outcome State Fault Refusal :=
  match takeFirst (fun p => p.tag == tag) (co s n c).loads with
  | some (p, rest) =>
    match p.queue, p.data with
    | some (q, i), some v =>
      let e : QEntry := if p.code ≠ 0 then .bad p.code p.va else .filled (extend p.signed p.size v.toNat)
      let s := modCo s n c fun k => queueFill { k with loads := rest } q i e
      let s := match p.tok with
        | some f => modCo s n c fun k => landTok k f 1
        | none => s
      .next (cutProgress s n c)
    | _, _ => .next s
  | none => .next s

/-- A BLK whose lines are all in place retires: its token is pushed (R219). -/
def blkFinish (s : State) (n c tag : Nat) : State :=
  match takeFirst (fun b => b.tag == tag) (co s n c).blks with
  | some (b, rest) =>
    if b.lines.isEmpty && decide (b.due ≤ s.now) then
      let s := modCo s n c fun k => { k with blks := rest }
      let s := match b.tok with
        | some f => modCo s n c fun k => landTok k f 1
        | none => s
      cutProgress s n c
    else s
  | none => s

/-- BLK_RETIRE (R219): the BLK retires unless lines of other nodes are still to arrive. -/
def execBlkRetire (n c tag : Nat) (s : State) : Host.Outcome State Fault Refusal := .next (blkFinish s n c tag)

/-- The lines of a BLK that match no longer wait. -/
def blkTake (s : State) (n c tag : Nat) (p : (Target × Nat) × Nat → Bool) : State :=
  modCo s n c fun k => { k with blks := k.blks.map fun x =>
    if x.tag != tag then x else
    let left := (x.lines.zip x.vas).filter fun l => !p l
    { x with lines := left.map fun l => l.1, vas := left.map fun l => l.2 } }

/-- The acquire of a STRONG load through the window, as its value comes (R224, R226). -/
def winAcquire (s : State) (n c m off : Nat) : State :=
  match peekWindow s m (fld (co s n c).asid 5 0) off with
  | some (_, _, .strong) => acquireL1 s n c 4 false
  | _ => s

/-- A line of a BLKLD that a window reply brings, or a fault that is taken deferred (R215). -/
def blkReply (s : State) (n c tag : Nat) (r : WinRep) : State :=
  match (co s n c).blks.find? fun b => b.tag == tag with
  | none => s
  | some b =>
    let here (l : (Target × Nat) × Nat) : Bool := l.2 == r.addr.toNat
    let s := if r.code ≠ 0 then s else ((b.lines.zip b.vas).filter here).foldl (fun s l =>
      let s := modCo s n c fun k => spadWrite k l.1.2 128 (fullMask 128) r.data.toNat
      if r.poison then poisonT s n c (.spad c l.1.2) else s) s
    let s := if r.code = 0 then s else
      modCo s n c fun k => { k with deferred := k.deferred ++ [⟨r.code, 0, seqIdx b.seq, true, false, r.addr, 0⟩] }
    blkFinish (blkTake s n c tag here) n c tag

/-- WINDOW_ACCESS (R190): performed at the target, whose reply travels back. -/
def execWindowAccess (n : Nat) (r : WinReq) (s : State) : Host.Outcome State Fault Refusal :=
  let x := performWindow s n r
  .next (netSend x.1 n r.src (b2n r.relaxed) r.asid (winReplyBytes r.op r.size - 32) (.windowReply r.src x.2))

/-- WINDOW_REPLY (R215): a store's acknowledgement, with a deferred fault where it was dropped; the data of an LD, an
atomic, an LDQ or a BLKLD line, or the fault found at the target. -/
def execWindowReply (n : Nat) (r : WinRep) (s : State) : Host.Outcome State Fault Refusal :=
  let c := r.core
  let k := co s n c
  if r.isStore then
    match takeFirst (fun w => w.tag == r.tag) k.winOut with
    | none => .next s
    | some (w, rest) =>
      let f : List Cause := if r.code ≠ 0 then [⟨r.code, 0, seqIdx w.seq, true, false, w.addr, 0⟩] else []
      .next (modCo s n c fun k => { k with winOut := rest, deferred := k.deferred ++ f })
  else
    let v : BitVec 64 := r.data.setWidth 64
    let code := if r.code ≠ 0 then r.code else if r.poison then codePoison else 0
    let s := if r.code = 0 then winAcquire s n c r.node (r.addr.toNat % 2 ^ 48) else s
    let slot (_ : Unit) : Host.Outcome State Fault Refusal :=
      if k.loads.any fun p => p.tag == r.tag then
        .next (schedule (modCo s n c fun k => { k with loads := k.loads.map fun p =>
          if p.tag == r.tag then { p with data := some v, code := code } else p }) 0 (.ldqFill n c r.tag))
      else .next (blkReply s n c r.tag r)
    match (sq s n c r.seq).hold with
    | .load p =>
      if p.tag = r.tag then
        .next (schedule (modSq s n c r.seq fun q => { q with hold := .load { p with data := some v, code := code } }) 0
          (.loadDataReturn n c r.seq))
      else slot ()
    | .atomic p =>
      if p.tag = r.tag then
        .next (schedule (modSq s n c r.seq fun q => { q with hold := .atomic { p with data := some v, code := code } }) 0
          (.atomicReturn n c r.seq))
      else slot ()
    | _ => slot ()

/-- The deferred fault that a core takes first (R410): the lowest code, then the lowest agent. -/
def firstCause : List Cause → Option Cause
  | [] => none
  | k :: r => match firstCause r with
    | none => some k
    | some x => if k.code < x.code || (k.code == x.code && k.agent ≤ x.agent) then some k else some x

/-- On a core whose task a fault or a cancellation has ended, a fault of the matrix or copy engine drops its entry: nothing
is left that could take a trap (R372; log 28). -/
def dropFaulted (s : State) (n c : Nat) (k : Cause) : State :=
  match k.agent with
  | 4 => match (co s n c).mq.head? with
    | some e => mqComplete s n c e.id
    | none => s
  | 5 => modCo s n c fun x => { x with cq := x.cq.tail, cCmp := x.cCmp + 1 }
  | _ => s

/-- DEFERRED_FAULT (R215, R405): a core that runs, or that is ending its task, takes a fault recorded for it. -/
def execDeferredFault (n c : Nat) (s : State) : Host.Outcome State Fault Refusal :=
  match (co s n c).mode, firstCause (co s n c).deferred with
  | .run, some k | .ending 0 _, some k =>
    .next (takeTrap (modCo s n c fun x => { x with deferred := x.deferred.erase k }) n c k)
  | .ending _ _, some k =>
    .next (dropFaulted (modCo s n c fun x => { x with deferred := x.deferred.erase k }) n c k)
  | _, _ => .next s

/-- WINDOW_PEERGONE (R215): 10 frames without a reply. -/
def execWindowPeergone (n c tag : Nat) (s : State) : Host.Outcome State Fault Refusal :=
  let k := co s n c
  let held := allSeqs.find? fun q => match (sq s n c q).hold with
    | .load p => p.tag == tag && p.data.isNone
    | .atomic p => p.tag == tag && p.data.isNone
    | _ => false
  match held with
  | some q => match (sq s n c q).hold with
    | .load p => .next (replyFault s n c q p codePeerGone)
    | .atomic p => .next (replyFault s n c q p codePeerGone)
    | _ => .next s
  | none =>
    match takeFirst (fun w => w.tag == tag) k.winOut with
    | some (w, rest) =>
      let f : Cause := ⟨codePeerGone, 0, seqIdx w.seq, true, false, w.addr, 0⟩
      .next (modCo s n c fun k => { k with winOut := rest, deferred := k.deferred ++ [f] })
    | none =>
      if k.loads.any fun p => p.tag == tag && p.data.isNone then
        .next (schedule (modCo s n c fun k => { k with loads := k.loads.map fun p =>
          if p.tag == tag then { p with data := some 0, code := codePeerGone } else p }) 0 (.ldqFill n c tag))
      else match k.blks.find? fun b => b.tag == tag && !b.lines.isEmpty with
        | none => .next s
        | some b =>
          let toLost (l : (Target × Nat) × Nat) : Bool := match l.1.1 with | .remote m _ _ => isLost s n m | _ => false
          let all := b.lines.zip b.vas
          let gone := if all.any toLost then all.filter toLost else all
          let at_ : Word := BitVec.ofNat 64 ((gone.map fun l => l.2).headD 0)
          let s := modCo (blkTake s n c tag fun l => gone.contains l) n c fun k =>
            { k with deferred := k.deferred ++ [⟨codePeerGone, 0, seqIdx b.seq, true, false, at_, 0⟩] }
          .next (blkFinish s n c tag)

end Sys2Proof.Machine
end

