-- ==== Sys2Proof/Machine/Sync.lean ====
section
/-! DEFINITION. Fences, joins, atomics, rings and barriers (R229 to R251) and the steps that complete them. -/

namespace Sys2Proof.Machine

/-! Fences. -/

/-- FENCE (R229, R237): scope `a`, type `y`: 1 ACQ, 2 REL, 3 AR. -/
def execFence (t : Tok) (a y : BitVec 5) (s : State) : Host.Outcome State Fault Refusal :=
  let scope := a.toNat
  let rel := y.toNat / 2 = 1
  let acq := y.toNat % 2 = 1
  runOp { actOp 1 t [] (fun s =>
            let n := s.cur.node
            let c := s.cur.core
            let s := if rel then drainDet (releaseL1 s n c scope true) n c else s
            if acq then acquireL1 s n c scope true else s) with
          room := fun s => !rel || (blksDone s s.cur.node s.cur.core s.cur.seq && acked s s.cur.node s.cur.core s.cur.seq scope) } s

/-- The free slots of a core's engine queues: 32 copy, 4 matrix, 16 packet, 32 message and 64 collective entries (R150,
R255, R313, R359), joins and fired operations on their way counted. -/
def cqRoom (k : Core) : Bool := decide (k.cq.length < 32)
/-- The matrix queue has a free entry. -/
def mqRoom (k : Core) : Bool := decide (k.mq.length < 4)
/-- The packet queue has a free entry. -/
def pqRoom (k : Core) : Bool := decide (k.pq.length < 16)
/-- The message queue has a free entry. -/
def msgRoom (k : Core) : Bool := decide (k.msgq.length < 32)
/-- The collective queue has a free entry. -/
def collRoom (k : Core) : Bool := decide ((k.collq.filter fun e => !e.ghost).length < 64)

/-- Whether every queue that a QFENCE mask names has a free slot (R230). -/
def joinRoom (k : Core) (m : Nat) : Bool :=
  (!m.testBit 1 || cqRoom k) && (!m.testBit 2 || mqRoom k) && (!m.testBit 3 || pqRoom k) && (!m.testBit 4 || msgRoom k)
  && (!m.testBit 5 || collRoom k)

/-- An empty copy command, for a join entry. -/
def noCopy : CopyCmd := ⟨0, 0, 0, 1, 1, 1, 0, 0, 0, 0, 0, 0, false, 0, false, 0, 0, 0, 0⟩

/-- Places a join in the queues of a mask (R230). -/
def placeJoin (k : Core) (id m scope : Nat) (q : Option Seq) : Core :=
  let k := { k with joins := k.joins ++ [⟨id, m, scope, q, false⟩] }
  let k := if m.testBit 1 then { k with cq := k.cq ++ [⟨noCopy, some id, 0, 0, false, 0, 0, 0, 0, false, false, 0⟩] } else k
  let k := if m.testBit 2 then { k with mq := k.mq ++ [⟨.join id, 0, id, false, 0, 0, 0⟩] } else k
  let k := if m.testBit 3 then { k with pq := k.pq ++ [⟨0, none, none, some id, 0, 0, 0⟩] } else k
  let k := if m.testBit 4 then
    { k with msgq := k.msgq ++ [⟨.send, 0, 0, 0, 0, 0, 0, 0, 0, 0, 0, some id, .queued⟩] } else k
  if m.testBit 5 then { k with collq := k.collq ++ [⟨0, some id, false, false, false, []⟩] } else k

/-- Whether a collective-queue entry holds back a join that it stands ahead of: one that has not completed, unless it stood behind
that join when the join's context was saved; or another join (R230, R359). -/
def collAhead (j : Join) (e : CollQ) : Bool := !e.done && !e.behind.contains j.id

/-- Whether a join heads every queue it was placed in: every entry ahead of it has completed (R230, point 1). -/
def joinAtHead (k : Core) (j : Join) : Bool :=
  (!j.mask.testBit 1 || (match k.cq.head? with | some e => e.joinId == some j.id | none => false))
  && (!j.mask.testBit 2 || (match k.mq.head? with | some e => e.op == .join j.id | none => false))
  && (!j.mask.testBit 3 || (match k.pq.head? with | some e => e.joinId == some j.id | none => false))
  && (!j.mask.testBit 4 || (match k.msgq.head? with | some e => e.joinId == some j.id | none => false))
  && (!j.mask.testBit 5 || (match (k.collq.filter (collAhead j)).head? with | some e => e.joinId == some j.id | none => false))

/-- The leading collective-queue entries that are complete. -/
def collLead (l : List CollQ) : List CollQ := l.takeWhile fun e => e.joinId.isNone && e.done
/-- They leave and are counted (R359). -/
def collTrim (k : Core) : Core :=
  { k with collq := k.collq.drop (collLead k.collq).length,
           collDone := k.collDone + BitVec.ofNat 32 ((collLead k.collq).filter fun e => !e.ghost).length }

/-- Takes a join out of its queues. -/
def removeJoin (k : Core) (j : Join) : Core :=
  let k :=
  { k with joins := k.joins.filter fun x => x.id != j.id,
           cq := k.cq.filter fun e => e.joinId != some j.id,
           mq := k.mq.filter fun e => e.op != .join j.id,
           pq := k.pq.filter fun e => e.joinId != some j.id,
           msgq := k.msgq.filter fun e => e.joinId != some j.id,
           collq := k.collq.filter fun e => e.joinId != some j.id }
  collTrim k

/-- Whether the stores of the sequencer that SEQ names are performed within the scope of a join (R230). -/
def joinOwnDone (s : State) (n c : Nat) (j : Join) : Bool :=
  match j.seq with
  | some q => acked s n c q j.scope && blksDone s n c q
  | none => true

/-- Whether some join of a core may leave: point 1 of R230 holds. The writes of the entries ahead, which are performed at
the home of their lines as the entries go on (log 7), are then performed within every scope (point 2). -/
def joinDue (s : State) (n c : Nat) : Bool := (co s n c).joins.any fun j => joinAtHead (co s n c) j && joinOwnDone s n c j

/-- Joins are no more ahead of the entries that stayed behind when their context was saved (R359). -/
def forgetJoins (s : State) (n : Nat) (ids : List Nat) : State :=
  let fix (e : CollQ) : CollQ := { e with behind := e.behind.filter fun i => !ids.contains i }
  let fixCore (k : Core) : Core := { k with collq := k.collq.map fix }
  if ids.isEmpty then s else
  modNd s n fun d => { d with cores := d.cores.map (fun x => (x.1, fixCore x.2)),
                              areas := d.areas.map fun a => (a.1, fixCore a.2.1, a.2.2) }

/-- The joins whose point 1 holds leave their queues. -/
def clearJoins (s : State) (n c : Nat) : State :=
  let old := (co s n c).joins
  let s := modCo s n c fun k => k.joins.foldl (fun k j => if joinAtHead k j && joinOwnDone s n c j then removeJoin k j else k) k
  let left := (co s n c).joins
  forgetJoins s n ((old.filter fun j => !left.contains j).map fun j => j.id)

/-- QFENCE (R230). -/
def execQfence (t : Tok) (a : SOp) (sc : BitVec 5) (s : State) : Host.Outcome State Fault Refusal :=
  runOp ({ len := 1 + sopLen a, tk := t, srcs := sopSrcs a, now := false,
           pre := fun s =>
             let m := (opv s a).toNat
             if 64 ≤ m ∨ m = 0 then .fault (causeHere s codeIllegal) s else .go m s,
           room := fun s => joinRoom (cc s) ((opv s a).toNat),
           eff := fun m s =>
             let r := newTag s
             let scope := sc.toNat
             let id := 256 * r.1 + s.cur.core
             let s := if 1 < m then modCc r.2 fun k => placeJoin k id (m / 2 * 2) scope (if m % 2 = 1 then some s.cur.seq else none) else r.2
             if m % 2 = 1 then
               let s := drainDet (releaseL1 s s.cur.node s.cur.core scope true) s.cur.node s.cur.core
               modCs s fun k => { k with hold := .join id scope (pushKey s t) }
             else retirePushes s t [] } : Op Nat) s

/-- A QFENCE with SEQ lets its sequencer go on once its join has left and its own stores are performed (R230). -/
def joinRelease (s : State) (n c : Nat) (q : Seq) : State :=
  match (sq s n c q).hold with
  | .join id scope tok =>
    if (co s n c).joins.any (fun j => j.id == id) || !(acked s n c q scope && blksDone s n c q) then s
    else retireTok (modSq s n c q fun k => { k with hold := .none }) n c tok
  | _ => s

/-! Atomics. -/

/-- What an atomic has found at issue, and the A bit that it sets as it is performed (R196). -/
structure AmoPlan where
  x  : Access
  pc : BitVec 28
  aBit : Option Nat
  deriving DecidableEq, Repr

/-- Whether ORD or the page kind makes an atomic a release, or an acquire (R224, R226). -/
def amoRel (s : State) (t : Target) (o : BitVec 2) : Bool := o.toNat / 2 == 1 || isStrong s t
/-- Whether an atomic is an acquire. -/
def amoAcq (s : State) (t : Target) (o : BitVec 2) : Bool := o.toNat % 2 == 1 || isStrong s t

/-- Whether a target is a DETERM page. -/
def isDeterm : Target → Bool
  | .mem _ _ .determ _ => true
  | _ => false

/-- AMO (R238, R239). On a DETERM page the entry is taken and the value found at issue (R236); elsewhere the access is
performed at its port. -/
def amoOp (t : Tok) (d a b : Reg) (aop size : Nat) (o : BitVec 2) : Op AmoPlan :=
  { tk := t, seqs := [.ctrl, .load, .store], srcs := if aop = 12 then [a, b, d] else [a, b], now := false,
    pre := fun s =>
      let va := reg s a
      match accessPre s va size size .rw true with
      | .fault k s => .fault k s
      | .hold s => .hold s
      | .go x s' =>
        let n := s.cur.node
        let c := s.cur.core
        match x.t with
        | .mem .host _ _ _ => .fault (causeAt s codePerm va) (keepTlb s s' n c)
        | tg =>
          if isDeterm tg && (atomicT s' n c none tg aop size 0 0).poison then .fault (causeAt s codePoison va) (keepTlb s s' n c)
          else if isStrong s' tg && !strongIdle s' then .hold s'
          else if amoRel s' tg o && !(blksDone s' n c s.cur.seq && acked s' n c s.cur.seq (scopeOf c tg)) then .hold s'
          else match tg with
            | .mem _ _ k _ => if k = .determ then .go ⟨x, (cs s).pc, none⟩ s'
                              else .go ⟨x, (cs s).pc, newABit s s' n c⟩ (withoutABit s s' n c)
            | _ => .go ⟨x, (cs s).pc, none⟩ s',
    eff := fun y s =>
      let n := s.cur.node
      let c := s.cur.core
      let r := newTag s
      let tg := y.x.t
      let opnd : Word := BitVec.ofNat 64 ((reg s b).toNat % 2 ^ (8 * size))
      let cmp : Word := BitVec.ofNat 64 ((reg s d).toNat % 2 ^ (8 * size))
      let p : PendAcc := { pendLoad s r.1 y.x size (aop < 9 || aop == 12) (some d) none none t y.pc with
        aop := some aop, op := opnd, cmp := cmp, rel := amoRel s tg o, acq := amoAcq s tg o,
        aBit := y.aBit }
      let lat := accLat s n c tg
      let s := if amoRel s tg o then releaseL1 r.2 n c (scopeOf c tg) false else r.2
      match tg with
      | .remote m rl off =>
        sendWindow (modCs s fun k => { k with hold := .atomic p }) m rl r.1 off size (.atomic aop opnd cmp p.rel p.acq) 0 false
      | _ =>
        if isDeterm tg then
          let g := atomicT s n c (some (classOf (cc s))) tg aop size opnd.toNat cmp.toNat
          schedule (modCs g.s fun k => { k with hold := .atomic { p with data := some (BitVec.ofNat 64 g.v) } }) lat
            (.atomicReturn n c s.cur.seq)
        else schedule (modCs s fun k => { k with hold := .atomic p }) lat (.atomicPerform n c s.cur.seq) }

/-- AMOADD (R238). -/
def execAmoadd (t : Tok) (d a b : BitVec 5) (z : BitVec 1) (o : BitVec 2) (s : State) : Host.Outcome State Fault Refusal :=
  runOp (amoOp t d a b 0 (if z = 0 then 4 else 8) o) s

/-- AMOAND (R238). -/
def execAmoand (t : Tok) (d a b : BitVec 5) (z : BitVec 1) (o : BitVec 2) (s : State) : Host.Outcome State Fault Refusal :=
  runOp (amoOp t d a b 1 (if z = 0 then 4 else 8) o) s

/-- AMOOR (R238). -/
def execAmoor (t : Tok) (d a b : BitVec 5) (z : BitVec 1) (o : BitVec 2) (s : State) : Host.Outcome State Fault Refusal :=
  runOp (amoOp t d a b 2 (if z = 0 then 4 else 8) o) s

/-- AMOXOR (R238). -/
def execAmoxor (t : Tok) (d a b : BitVec 5) (z : BitVec 1) (o : BitVec 2) (s : State) : Host.Outcome State Fault Refusal :=
  runOp (amoOp t d a b 3 (if z = 0 then 4 else 8) o) s

/-- AMOMIN (R238). -/
def execAmomin (t : Tok) (d a b : BitVec 5) (z : BitVec 1) (o : BitVec 2) (s : State) : Host.Outcome State Fault Refusal :=
  runOp (amoOp t d a b 4 (if z = 0 then 4 else 8) o) s

/-- AMOMAX (R238). -/
def execAmomax (t : Tok) (d a b : BitVec 5) (z : BitVec 1) (o : BitVec 2) (s : State) : Host.Outcome State Fault Refusal :=
  runOp (amoOp t d a b 5 (if z = 0 then 4 else 8) o) s

/-- AMOMINU (R238). -/
def execAmominu (t : Tok) (d a b : BitVec 5) (z : BitVec 1) (o : BitVec 2) (s : State) : Host.Outcome State Fault Refusal :=
  runOp (amoOp t d a b 6 (if z = 0 then 4 else 8) o) s

/-- AMOMAXU (R238). -/
def execAmomaxu (t : Tok) (d a b : BitVec 5) (z : BitVec 1) (o : BitVec 2) (s : State) : Host.Outcome State Fault Refusal :=
  runOp (amoOp t d a b 7 (if z = 0 then 4 else 8) o) s

/-- AMOSWAP (R238). -/
def execAmoswap (t : Tok) (d a b : BitVec 5) (z : BitVec 1) (o : BitVec 2) (s : State) : Host.Outcome State Fault Refusal :=
  runOp (amoOp t d a b 8 (if z = 0 then 4 else 8) o) s

/-- AMOFADD (R238). -/
def execAmofadd (t : Tok) (d a b : BitVec 5) (o : BitVec 2) (s : State) : Host.Outcome State Fault Refusal :=
  runOp (amoOp t d a b 9 4 o) s

/-- AMOFMIN (R238). -/
def execAmofmin (t : Tok) (d a b : BitVec 5) (o : BitVec 2) (s : State) : Host.Outcome State Fault Refusal :=
  runOp (amoOp t d a b 10 4 o) s

/-- AMOFMAX (R238). -/
def execAmofmax (t : Tok) (d a b : BitVec 5) (o : BitVec 2) (s : State) : Host.Outcome State Fault Refusal :=
  runOp (amoOp t d a b 11 4 o) s

/-- AMOCAS (R238). -/
def execAmocas (t : Tok) (d a b : BitVec 5) (z : BitVec 1) (o : BitVec 2) (s : State) : Host.Outcome State Fault Refusal :=
  runOp (amoOp t d a b 12 (if z = 0 then 4 else 8) o) s

/-- ATOMIC_PERFORM (R196, R239, R242): the atomic is applied at the memory port, with the A bit of its page; a poisoned line
leaves everything as it was. -/
def execAtomicPerform (n c : Nat) (q : Seq) (s : State) : Host.Outcome State Fault Refusal :=
  match (sq s n c q).hold with
  | .atomic p =>
    match p.aop, p.data with
    | some aop, none =>
      let g := atomicT s n c (some (classOf (co s n c))) p.tgt aop p.size p.op.toNat p.cmp.toNat
      let p := { p with data := some (BitVec.ofNat 64 g.v), code := if g.poison then codePoison else 0 }
      let s := if g.poison then g.s else setABit g.s n c p.aBit
      .next (schedule (modSq s n c q fun k => { k with hold := .atomic p }) 0 (.atomicReturn n c q))
    | _, _ => .next s
  | _ => .next s

/-- ATOMIC_RETURN (R238): the old value is written and the sequencer goes on; an acquire takes effect. -/
def execAtomicReturn (n c : Nat) (q : Seq) (s : State) : Host.Outcome State Fault Refusal :=
  match (sq s n c q).hold with
  | .atomic p => match p.data with
    | some v =>
      if p.code ≠ 0 then .next (replyFault s n c q p p.code)
      else
        let s := if p.acq then acquireL1 s n c (scopeOf c p.tgt) false else s
        .next (holdDone s n c q p (extend p.signed p.size v.toNat))
    | none => .next s
  | _ => .next s

/-! Rings. -/

/-- Distances of ring counts (R244). -/
def dist (a b : BitVec 16) : Nat := (a - b).toNat

/-- A ring operand (R246): the quad that holds the ring and its number, or the fault it raises. -/
def ringAt (s : State) (v : Word) : Sum Nat (Nat × Nat) :=
  if 2 ^ 13 ≤ v.toNat then .inl codeIllegal
  else
    let rq := fld v 12 5
    if rq = 0 then .inr (quadOf s.cur.core, fld v 4 0)
    else match peerCore s s.cur.node s.cur.core rq with
      | some p => .inr (quadOf p, fld v 4 0)
      | none => .inl codeRingMisuse

/-- A ring of a quad. -/
def ringOf (s : State) (n q r : Nat) : Ring := smGet (qd s n q).rings {} r
/-- Whether the moving core's task may operate on a ring: its owner, or a member of the owner's gang (R243). -/
def ringMine (s : State) (x : Ring) : Bool :=
  x.valid && ((x.core == s.cur.core && x.owner == taskId (cc s))
    || match gangOf s s.cur.node s.cur.core with
       | some g => g.formed && g.members.any fun m => m.2.1 == x.owner && m.2.2 == x.core
       | none => false)

/-- Slots of a ring. -/
def Ring.count (r : Ring) : Nat := 2 ^ r.countL2
/-- The free count (R244). -/
def freeCount (r : Ring) : Nat := r.count - dist r.claimed r.head
/-- Whether a slot index is live (R244). -/
def slotLive (r : Ring) (i : BitVec 16) : Bool := decide (dist i r.head < dist r.claimed r.head)

/-- TAIL moves over published and released slots (R244). -/
def advTail : Nat → Ring → Ring
  | 0, r => r
  | k + 1, r => if slotLive r r.tail && decide (2 ≤ smGet r.slots 0 r.tail.toNat) then advTail k { r with tail := r.tail + 1 } else r
/-- HEAD moves over released slots, which leave the live set (R244). -/
def advHead : Nat → Ring → Ring
  | 0, r => r
  | k + 1, r =>
    if slotLive r r.head && smGet r.slots 0 r.head.toNat == 3 then
      advHead k { r with head := r.head + 1, slots := smDel r.slots r.head.toNat, who := smDel r.who r.head.toNat }
    else r
/-- Both advances after a slot has changed. -/
def ringSettle (r : Ring) : Ring := let r := advTail r.count r; advHead r.count r

/-- The cycles after which a core sees a change made by another (R246). -/
def ringDelay (watcher maker quad : Nat) : Nat := if watcher = maker then 1 else if quadOf watcher = quad then 4 else 16

/-- The latest of a prefix of changes that a core sees (R246). -/
def seenPrefix (now watcher quad : Nat) : List RingLog → Option RingLog → Option RingLog
  | [], best => best
  | l :: r, best => if l.cc + ringDelay watcher l.core quad ≤ now then seenPrefix now watcher quad r (some l) else best

/-- A ring's counts as the moving core sees them (R246). -/
def ringSeen (s : State) (q r : Nat) : Ring :=
  let x := ringOf s s.cur.node q r
  match (qd s s.cur.node q).rlog.filter fun l => l.ring == r with
  | [] => x
  | l => match seenPrefix s.now s.cur.core q l none with
    | some y => { x with head := y.head, tail := y.tail, claimed := y.claimed }
    | none => { x with head := 0, tail := 0, claimed := 0 }

/-- Drops the changes of a ring that every core sees and that a later one follows. -/
def pruneLog (now ring : Nat) : List RingLog → List RingLog
  | [] => []
  | l :: r =>
    if l.ring = ring && (r.any fun x => x.ring == ring && decide (x.cc + 16 ≤ now)) then pruneLog now ring r
    else l :: pruneLog now ring r

/-- Puts a ring back at its descriptor and notes the change (R246), after the counts that every core saw before the first
change noted, such as those of a ring just restored. -/
def putRing (s : State) (q r : Nat) (x : Ring) : State :=
  let l : RingLog := ⟨r, s.now, s.cur.core, x.head, x.tail, x.claimed⟩
  modQd s s.cur.node q fun y =>
    let o := smGet y.rings {} r
    let before := if y.rlog.any fun l => l.ring == r then [] else [⟨r, s.now - 16, s.cur.core, o.head, o.tail, o.claimed⟩]
    { y with rings := smPut y.rings r x, rlog := pruneLog s.now r (y.rlog ++ before) ++ [l] }

/-- The scope of a ring operation: QUAD for a core of the ring's quad, else DIE (R246). -/
def ringScope (s : State) (q : Nat) : Nat := if quadOf s.cur.core = q then 1 else 3

/-- A ring instruction's own test: its quad, number and ring, after the tests of R243 and R246. -/
structure RingPlan where
  q : Nat
  r : Nat
  x : Ring
  v : Word
  deriving DecidableEq, Repr

/-- The shared test of the ring instructions: operands, ownership, then the instruction's own misuse test and wait. R246
gives no order of its execution faults: a ring operand that names no current member is tested before the bits of operand b
(DESIGN CHOICE, log 45). -/
def ringPre (a : SOp) (idx : Option SOp) (bad : Ring → BitVec 16 → Bool) (wait : Ring → BitVec 16 → Bool)
    (val : State → Nat → Nat → Ring → BitVec 16 → Word) (s : State) : Pre RingPlan :=
  let b : Word := match idx with | some b => opv s b | none => 0
  match ringAt s (opv s a) with
  | .inl code => .fault (causeHere s code) s
  | .inr (q, r) =>
    if 2 ^ 16 ≤ b.toNat then .fault (causeHere s codeIllegal) s else
    let x := ringOf s s.cur.node q r
    let i : BitVec 16 := b.setWidth 16
    if !ringMine s x || bad x i then .fault (causeHere s codeRingMisuse) s
    else if !(wait x i && wait (ringSeen s q r) i) then .hold s
    else .go ⟨q, r, x, val s q r x i⟩ s

/-- A ring instruction with a result of latency 4 (R246). -/
def ringResult (t : Tok) (d : Reg) (a : SOp) (idx : Option SOp) (bad wait : Ring → BitVec 16 → Bool)
    (val : State → Nat → Nat → Ring → BitVec 16 → Word) (act : State → RingPlan → State) : Op RingPlan :=
  { len := 1 + sopLen a + (match idx with | some b => sopLen b | none => 0), tk := t,
    srcs := sopSrcs a ++ (match idx with | some b => sopSrcs b | none => []), flying := 1, now := false,
    pre := ringPre a idx bad wait val,
    eff := fun p s => flyReg (act s p) d p.v 4 (pushKey s t) 0 }

/-- The acquire of a ring wait (R224, R246). -/
def ringAcquire (s : State) (p : RingPlan) : State := acquireL1 s s.cur.node s.cur.core (ringScope s p.q) false

/-- RNGCLAIM (R246). -/
def execRngclaim (t : Tok) (d : BitVec 5) (a : SOp) (s : State) : Host.Outcome State Fault Refusal :=
  runOp (ringResult t d a none (fun _ _ => false) (fun x _ => decide (1 ≤ freeCount x))
    (fun _ _ _ x _ => x.claimed.setWidth 64)
    (fun s p => ringAcquire (putRing s p.q p.r
      { p.x with slots := smPut p.x.slots p.x.claimed.toNat 1, who := smPut p.x.who p.x.claimed.toNat (taskId (cc s)),
                 claimed := p.x.claimed + 1 }) p)) s

/-- RNGWFILL (R246). -/
def execRngwfill (t : Tok) (d : BitVec 5) (a b : SOp) (s : State) : Host.Outcome State Fault Refusal :=
  runOp (ringResult t d a (some b) (fun x i => decide (1 ≤ dist x.head i) && decide (dist x.head i ≤ 32767))
    (fun x i => decide (dist i x.head < dist x.tail x.head)) (fun _ _ _ x i => BitVec.ofNat 64 (dist x.tail i)) ringAcquire) s

/-- RNGWFREE (R246). -/
def execRngwfree (t : Tok) (d : BitVec 5) (a b : SOp) (s : State) : Host.Outcome State Fault Refusal :=
  runOp (ringResult t d a (some b) (fun x i => i == 0 || decide (x.count < i.toNat))
    (fun x i => decide (i.toNat ≤ freeCount x)) (fun _ _ _ x _ => BitVec.ofNat 64 (freeCount x)) ringAcquire) s

/-- RNGSTAT (R246): the state the issuing core sees. -/
def execRngstat (t : Tok) (d : BitVec 5) (a : SOp) (s : State) : Host.Outcome State Fault Refusal :=
  runOp (ringResult t d a none (fun _ _ => false) (fun _ _ => true)
    (fun s q r x _ =>
      let y := ringSeen s q r
      BitVec.ofNat 64 (x.count * 2 ^ 48 + y.claimed.toNat * 2 ^ 32 + y.tail.toNat * 2 ^ 16 + y.head.toNat)) (fun s _ => s)) s

/-- The gang number of a core among its gang's members. -/
def memberOf (s : State) (n c owner : Nat) : Nat :=
  match gangOf s n c with
  | some g => match g.members.find? fun m => m.2.2 == owner with
    | some m => m.1 + 1
    | none => 0
  | none => 0

/-- RNGPEEK (R246): PEER is 0 for the owner and the owner's gang number plus 1 for a peer. -/
def execRngpeek (t : Tok) (d : BitVec 5) (a b : SOp) (s : State) : Host.Outcome State Fault Refusal :=
  runOp (ringResult t d a (some b) (fun _ _ => false) (fun _ _ => true)
    (fun s _ _ x i =>
      let peer := if x.core = s.cur.core then 0 else memberOf s s.cur.node s.cur.core x.core
      BitVec.ofNat 64 (0xFF * 2 ^ 40 + peer * 2 ^ 19 + x.base + (i.toNat % x.count) * 2 ^ x.slotL2)) (fun s _ => s)) s

/-- A ring instruction that releases (R246): earlier stores are handed over first. -/
def ringRelease (t : Tok) (a b : SOp) (bad : Ring → BitVec 16 → Bool) (new : Nat) : Op RingPlan :=
  { len := 1 + sopLen a + sopLen b, tk := t, srcs := sopSrcs a ++ sopSrcs b,
    pre := ringPre a (some b) bad (fun _ _ => true) (fun _ _ _ _ i => i.setWidth 64),
    room := fun s => blksDone s s.cur.node s.cur.core s.cur.seq,
    eff := fun p s =>
      let s := releaseL1 s s.cur.node s.cur.core (ringScope s p.q) false
      putRing s p.q p.r (ringSettle { p.x with slots := smPut p.x.slots (p.v.toNat % 2 ^ 16) new }) }

/-- RNGPUB (R246). -/
def execRngpub (t : Tok) (a b : SOp) (s : State) : Host.Outcome State Fault Refusal :=
  runOp (ringRelease t a b (fun x i => !(slotLive x i && smGet x.slots 0 i.toNat == 1)) 2) s

/-- RNGREL (R246). -/
def execRngrel (t : Tok) (a b : SOp) (s : State) : Host.Outcome State Fault Refusal :=
  runOp (ringRelease t a b (fun x i => decide (dist x.tail x.head ≤ dist i x.head) || smGet x.slots 0 i.toNat == 3) 3) s

/-- RNGINIT (R245, R246). R245 gives no order of RINGMISUSE and XLATE: the model tests RINGMISUSE first (DESIGN CHOICE,
log 45). -/
def execRnginit (t : Tok) (a b : SOp) (s : State) : Host.Outcome State Fault Refusal :=
  runOp ({ len := 1 + sopLen a + sopLen b, tk := t, srcs := sopSrcs a ++ sopSrcs b,
           pre := fun s =>
             let v := opv s a
             let l := opv s b
             let r := fld v 4 0
             let x := ringOf s s.cur.node (quadOf s.cur.core) r
             let own := x.owner == taskId (cc s) && x.core == s.cur.core
             if 32 ≤ v.toNat || decide (10 < fld l 27 24) || decide (fld l 23 20 < 6) || decide (13 < fld l 23 20)
                || fld l 18 0 % 64 != 0 then .fault (causeHere s codeIllegal) s
             else if x.valid && (!own || x.claimed != x.head) then .fault (causeHere s codeRingMisuse) s
             else if (cc s).part * 8192 < fld l 18 0 + 2 ^ fld l 27 24 * 2 ^ fld l 23 20 then
               .fault (causeAt s codeXlate (BitVec.ofNat 64 (fld l 18 0))) s
             else .go (r, l) s,
           eff := fun p s =>
             putRing s (quadOf s.cur.core) p.1
               ⟨true, taskId (cc s), s.cur.core, 0, 0, 0, fld p.2 27 24, fld p.2 23 20, fld p.2 18 0, [], []⟩ } : Op (Nat × Word)) s

/-! Barriers. -/

/-- The owner number of a barrier level for a core: the core, its quad, or its tenant (R247). -/
def barOwner (s : State) (n c lvl : Nat) : Nat :=
  if lvl = 1 then c else if lvl = 2 then quadOf c else tenantOf (co s n c)
/-- A barrier (R247). -/
def barOf (s : State) (n lvl own id : Nat) : Barrier :=
  match lvl with
  | 1 => smGet (co s n own).bars {} id
  | 2 => smGet (qd s n own).bars {} id
  | _ => smGet (nd s n).tbars {} ((lvl - 3) * 1024 + own * 16 + id)
/-- Changes a barrier. -/
def putBar (s : State) (n lvl own id : Nat) (b : Barrier) : State :=
  match lvl with
  | 1 => modCo s n own fun k => { k with bars := smPut k.bars id b }
  | 2 => modQd s n own fun q => { q with bars := smPut q.bars id b }
  | _ => modNd s n fun d => { d with tbars := smPut d.tbars ((lvl - 3) * 1024 + own * 16 + id) b }
/-- Cycles from the last arrival to completion, unloaded (R247; log 7). -/
def barLat : Nat → Nat
  | 1 => 2
  | 2 => 8
  | 3 => Config.latDie
  | _ => Config.latDomain
/-- Whether the arrivals of a node's participants are all in. -/
def barFull (b : Barrier) : Bool := b.part != 0 && decide (b.part ≤ b.arr)
/-- The nodes that take part in a DOMAIN barrier (R249). -/
def barNodes (s : State) (n own id : Nat) : List Nat := (domainNodes s n).filter fun m => (barOf s m 4 own id).part != 0

/-- Whether every participant of a barrier has arrived: for a DOMAIN barrier, on every node that takes part (R248, R249). -/
def barAllIn (s : State) (n lvl own id : Nat) : Bool :=
  barFull (barOf s n lvl own id) && (lvl != 4 || (barNodes s n own id).all fun m => barFull (barOf s m 4 own id))

/-- Schedules the completion of a barrier whose arrivals are all in (R248, R249). -/
def barSettle (s : State) (n lvl own id : Nat) : State :=
  if barAllIn s n lvl own id then schedule s (barLat lvl) (.barrierComplete n lvl own id) else s

/-- The phase that the next arrival belongs to: arrivals beyond the participant count are the next phase's (R248). -/
def arrivePhase (b : Barrier) : BitVec 32 := b.phase + BitVec.ofNat 32 (b.arr / b.part)

/-- An arrival (R248): it is counted, and the phase is recorded for the sequencer. -/
def arrive (s : State) (n c lvl id : Nat) (q : Seq) : BitVec 32 × State :=
  let own := barOwner s n c lvl
  let b := barOf s n lvl own id
  let ph := arrivePhase b
  let s := putBar s n lvl own id { b with arr := b.arr + 1 }
  let s := modSq s n c q fun k =>
    { k with phases := smPut k.phases (16 * lvl + id) (some ph),
             doneQ := if lvl = 2 then smPut k.doneQ id false else k.doneQ }
  (ph, if b.arr + 1 = b.part then barSettle s n lvl own id else s)

/-- Whether a recorded phase has completed (R248, R251). -/
def phaseDone (s : State) (n c lvl id : Nat) (q : Seq) (ph : BitVec 32) : Bool :=
  (lvl == 2 && smGet (sq s n c q).doneQ false id)
  || (let e := ((barOf s n lvl (barOwner s n c lvl) id).phase - ph).toNat
      decide (0 < e) && decide (e < 2 ^ 31))

/-- Whether a participant of a DOMAIN barrier is lost (R249). -/
def barLost (s : State) (n own id : Nat) : Bool := (barNodes s n own id).any fun m => isLost s n m

/-- The scope of a barrier level (R224). -/
def barScope (lvl : Nat) : Nat := if lvl = 1 then 0 else if lvl = 2 then 1 else lvl

/-- The operand of a barrier instruction but BARINIT (R248): the ID, or an illegal value. -/
def barId (v : Word) : Option Nat := if v.toNat < 16 then some v.toNat else none

/-- BARARR's test (R248): a QUAD, DIE or DOMAIN barrier without participants faults RINGMISUSE. -/
def arrivePre (a : SOp) (lvl : Nat) (s : State) : Pre Nat :=
  match barId (opv s a) with
  | none => .fault (causeHere s codeIllegal) s
  | some id =>
    let n := s.cur.node
    let c := s.cur.core
    if 2 ≤ lvl && (barOf s n lvl (barOwner s n c lvl) id).part == 0 then .fault (causeHere s codeRingMisuse) s
    else if lvl = 0 || (blksDone s n c s.cur.seq && acked s n c s.cur.seq (barScope lvl)) then .go id s
    else .hold s

/-- A LANE barrier completes at issue, orders nothing, and its phase is a value the spec does not state (log 5). -/
def lanePhase (s : State) : Word × State := let f := fresh s; (Config.freeWord f.1, f.2)

/-- BARARR (R248). -/
def execBararr (t : Tok) (d : BitVec 5) (a : SOp) (l : BitVec 5) (s : State) : Host.Outcome State Fault Refusal :=
  let lvl := l.toNat
  runOp ({ len := 1 + sopLen a, tk := t, srcs := sopSrcs a, flying := 1, now := false, pre := arrivePre a lvl,
           eff := fun id s =>
             if lvl = 0 then
               let p := lanePhase s
               flyReg p.2 d p.1 2 (pushKey s t) 0
             else
               let r := arrive (releaseL1 s s.cur.node s.cur.core (barScope lvl) false) s.cur.node s.cur.core lvl id s.cur.seq
               flyReg r.2 d (r.1.setWidth 64) 2 (pushKey s t) 0 } : Op Nat) s

/-- The completion of a wait (R248): acquire, and the phase count as the result. -/
def waitDone (s : State) (n c lvl id : Nat) : Word × State :=
  ((barOf s n lvl (barOwner s n c lvl) id).phase.setWidth 64, acquireL1 s n c (barScope lvl) false)

/-- BARWAIT (R248, R249). -/
def execBarwait (t : Tok) (d : BitVec 5) (a : SOp) (l : BitVec 5) (s : State) : Host.Outcome State Fault Refusal :=
  let lvl := l.toNat
  runOp ({ len := 1 + sopLen a, tk := t, srcs := sopSrcs a, flying := 1, now := false,
           pre := fun s => match barId (opv s a) with
             | none => .fault (causeHere s codeIllegal) s
             | some id =>
               if lvl = 0 then .go id s else
               match smGet (cs s).phases none (16 * lvl + id) with
               | none => .fault (causeHere s codeRingMisuse) s
               | some ph =>
                 if phaseDone s s.cur.node s.cur.core lvl id s.cur.seq ph then .go id s
                 else if lvl = 4 && barLost s s.cur.node (tenantOf (cc s)) id then .fault (causeAt s codePeerGone 0) s
                 else .hold s,
           eff := fun id s =>
             let p := if lvl = 0 then lanePhase s else waitDone s s.cur.node s.cur.core lvl id
             flyReg p.2 d p.1 2 (pushKey s t) 0 } : Op Nat) s

/-- BARSYNC (R248): arrives at issue and then waits for the phase it arrived in. -/
def execBarsync (t : Tok) (d : BitVec 5) (a : SOp) (l : BitVec 5) (s : State) : Host.Outcome State Fault Refusal :=
  let lvl := l.toNat
  runOp ({ len := 1 + sopLen a, tk := t, srcs := sopSrcs a, flying := 1, now := false,
           pre := fun s => match arrivePre a lvl s with
             | .go id s =>
               if lvl = 4 && barLost s s.cur.node (tenantOf (cc s)) id then .fault (causeAt s codePeerGone 0) s else .go id s
             | r => r,
           eff := fun id s =>
             if lvl = 0 then
               let p := lanePhase s
               flyReg p.2 d p.1 2 (pushKey s t) 0
             else
               let n := s.cur.node
               let c := s.cur.core
               let r := arrive (releaseL1 s n c (barScope lvl) false) n c lvl id s.cur.seq
               modCs r.2 fun k => { k with hold := .barrier lvl (barOwner s n c lvl) id r.1 d (pushKey s t) } } : Op Nat) s

/-- A BARSYNC whose phase has completed lets its sequencer go on (R248). -/
def barrierRelease (s : State) (n c : Nat) (q : Seq) : State :=
  match (sq s n c q).hold with
  | .barrier lvl _ id ph d tok =>
    if phaseDone s n c lvl id q ph then
      let r := waitDone s n c lvl id
      let s' := { r.2 with cur := { s.cur with node := n, core := c, seq := q } }
      { flyReg (modCs s' fun k => { k with hold := .none }) d r.1 2 tok 0 with cur := s.cur }
    else s
  | _ => s

/-- The most participants of a level (R247), and the least. -/
def barMax : Nat → Nat
  | 1 => 4
  | 2 => 16
  | _ => 1024

/-- BARINIT (R248). -/
def execBarinit (t : Tok) (a : SOp) (l : BitVec 5) (s : State) : Host.Outcome State Fault Refusal :=
  let lvl := l.toNat
  runOp ({ len := 1 + sopLen a, tk := t, srcs := sopSrcs a,
           pre := fun s =>
             let v := opv s a
             let k := fld v 18 8
             let id := fld v 3 0
             if lvl = 0 || fld v 63 19 != 0 || fld v 7 4 != 0 || decide (barMax lvl < k) || (k == 0 && lvl != 4) then
               .fault (causeHere s codeIllegal) s
             else if (barOf s s.cur.node lvl (barOwner s s.cur.node s.cur.core lvl) id).arr ≠ 0 then
               .fault (causeHere s codeRingMisuse) s
             else .go (id, k) s,
           eff := fun p s =>
             let own := barOwner s s.cur.node s.cur.core lvl
             putBar s s.cur.node lvl own p.1 { barOf s s.cur.node lvl own p.1 with part := p.2 } } : Op (Nat × Nat)) s

/-- One phase of a node's barrier completes (R248). -/
def barNext (s : State) (n lvl own id : Nat) : State :=
  let b := barOf s n lvl own id
  putBar s n lvl own id { b with phase := b.phase + 1, arr := b.arr - b.part }

/-- Whether a node's step is one of a frame boundary (R32). -/
def boundaryStep (s : State) (n : Nat) : Bool := (nd s n).gscOn && gsc s n % Config.frameSteps == 0

/-- The hand-over and publication of a DIE barrier's completion (R235, R250): in a boundary step one quantum ends, which the
boundary has counted already. -/
def diePublish (s : State) (n own : Nat) : State :=
  publish (if boundaryStep s n && (nd s n).frame == frameOf s n then drainAll s n else quantumEnd s n) n own

/-- BARRIER_COMPLETE (R248 to R250): the phase count rises and the arrivals of the phase leave, of a DOMAIN barrier on every
node that takes part at once; at DIE the quantum ends and the tenant's DETERM entries are published first. -/
def execBarrierComplete (n lvl own id : Nat) (s : State) : Host.Outcome State Fault Refusal :=
  if !barAllIn s n lvl own id then .next s else
  let s := if lvl = 3 then diePublish s n own else s
  let s := if lvl = 4 then (barNodes s n own id).foldl (fun s m => barNext s m lvl own id) s else barNext s n lvl own id
  .next (barSettle s n lvl own id)

end Sys2Proof.Machine
end

