-- ==== Sys2Proof/Machine/Lanes.lean ====
section
/-! DEFINITION. Lanes, masks and operands of the vector unit (R122 to R126), and the lane functions (R135 to R143). -/

namespace Sys2Proof.Machine

/-- The first `n` fields of `b` bits of a number, lowest first. -/
def chunks (b : Nat) : Nat → Nat → List Nat
  | 0, _ => []
  | n + 1, v => v % 2 ^ b :: chunks b n (v >>> b)
/-- The number whose fields of `b` bits are a list. -/
def unchunk (b : Nat) : List Nat → Nat
  | [] => 0
  | x :: r => x % 2 ^ b + (unchunk b r) <<< b

/-- The lanes of a row under a width in bytes (R122). -/
def rowLanes (w : Nat) (r : Row) : List Nat := chunks (8 * w) (512 / w) r.toNat
/-- A row from its lanes. -/
def lanesRow (w : Nat) (l : List Nat) : Row := BitVec.ofNat 4096 (unchunk (8 * w) l)

/-- What a vector instruction sees at issue: its fields, the sequencer and core, T and S as resolved, its rounding mode. -/
structure VCtx where
  f   : FV
  seq : Sequencer
  k   : Core
  t   : Nat
  src : Nat
  rm  : Nat

/-- The width and lane count of a type. -/
def VCtx.w (x : VCtx) : Nat := tyWidth x.t
def VCtx.n (x : VCtx) : Nat := 512 / tyWidth x.t

/-- The format of a float type (R122, R123). -/
def fmtOf (k : Core) (t : Nat) : Fmt :=
  match t with
  | 1 => fmtF32
  | 2 => fmtF16
  | 3 => fmtBF16
  | _ => fmtB8 (fld k.vtype 12 8)

/-- A mask register: m0 reads all ones (R125). -/
def maskOf (k : Core) (m : Nat) : Mask := if m = 0 then BitVec.allOnes 512 else smGet k.masks 0 m
/-- The mask operand of a field (R134). -/
def maskOp (k : Core) : VOp → Mask
  | .lit v => maskOf k v.toNat
  | _ => 0
/-- The predicate's bits for `n` lanes. -/
def predBits (x : VCtx) (n : Nat) : List Bool := (chunks 1 n (maskOf x.k x.f.msk.toNat).toNat).map fun b => b == 1

/-- The accumulator row that a vector register names (R122, R124). -/
def rowOf (k : Core) (v : Nat) : Nat := 64 * fld k.vwb 8 6 + v
/-- A vector operand's row: a register or a relay entry (R131). -/
def vecRow (k : Core) (v : Nat) : Row := if v < 64 then smGet k.acc 0 (rowOf k v) else smGet k.relay 0 (v - 64)

/-- A scalar operand as one lane of a type (R54, R56, R126). -/
def scalarLane (x : VCtx) (t : Nat) (o : VOp) : Nat :=
  let w := 8 * tyWidth t
  let conv (v : Val) : Nat := roundF (fmtOf x.k t) x.rm x.f.sat v
  if isIntTy t then (vopVal x.seq o).toNat % 2 ^ w
  else match o with
    | .bank f => conv (decodeF fmtF32 ((bankRead x.seq f.toNat).toNat % 2 ^ 32))
    | .lit v => conv (vInt v.toInt)
    | .ext v => conv (decodeF fmtF32 v.toNat)
    | _ => (vopVal x.seq o).toNat % 2 ^ w

/-- The lanes of an operand under a type (R126). -/
def laneVals (x : VCtx) (t : Nat) (o : VOp) : List Nat :=
  match o with
  | .vec v => rowLanes (tyWidth t) (vecRow x.k v.toNat)
  | _ => List.replicate (512 / tyWidth t) (scalarLane x t o)

/-- What a vector instruction gives when its result lands. -/
inductive VVal where
  | row (v : Row) (en : Mask)
  | mask (v : Mask)
  | scal (v : Word)
  | sett (v : Word)
  | none
  deriving DecidableEq, Repr

/-- The byte enables of lanes of a width. -/
def laneEn (w : Nat) (l : List Bool) : Mask := BitVec.ofNat 512 (unchunk w (l.map fun b => if b then 2 ^ w - 1 else 0))

/-- A predicated row (R129, R130): masked lanes hold 0 for the relay and are not enabled. -/
def predRow (w : Nat) (p : List Bool) (l : List Nat) : VVal :=
  .row (lanesRow w ((l.zip p).map fun e => if e.2 then e.1 else 0)) (laneEn w p)
/-- A row that every lane is written of. -/
def fullRow (w : Nat) (l : List Nat) : VVal := .row (lanesRow w l) (BitVec.allOnes 512)
/-- A mask result (R125): bits beyond the lanes are cleared. -/
def maskRes (l : List Bool) : VVal := .mask (BitVec.ofNat 512 (unchunk 1 (l.map fun b => if b then 1 else 0)))

/-- A one-operand lane function under the predicate. -/
def lane1 (f : VCtx → Nat → Nat) (x : VCtx) : VVal :=
  predRow x.w (predBits x x.n) ((laneVals x x.t x.f.a).map (f x))
/-- A two-operand lane function. -/
def lane2 (f : VCtx → Nat → Nat → Nat) (x : VCtx) : VVal :=
  predRow x.w (predBits x x.n) (((laneVals x x.t x.f.a).zip (laneVals x x.t x.f.b)).map fun e => f x e.1 e.2)
/-- A three-operand lane function. -/
def lane3 (f : VCtx → Nat → Nat → Nat → Nat) (x : VCtx) : VVal :=
  predRow x.w (predBits x x.n)
    (((laneVals x x.t x.f.a).zip ((laneVals x x.t x.f.b).zip (laneVals x x.t x.f.c))).map fun e => f x e.1 e.2.1 e.2.2)

/-- A float function of one value (R135, R139): exact, rounded once. -/
def float1 (g : VCtx → Val → Val) (x : VCtx) (a : Nat) : Nat :=
  let m := fmtOf x.k x.t
  roundF m x.rm x.f.sat (g x (decodeF m a))
/-- A float function of two values. -/
def float2 (g : VCtx → Val → Val → Val) (x : VCtx) (a b : Nat) : Nat :=
  let m := fmtOf x.k x.t
  roundF m x.rm x.f.sat (g x (decodeF m a) (decodeF m b))
/-- A float function of three values. -/
def float3 (g : VCtx → Val → Val → Val → Val) (x : VCtx) (a b c : Nat) : Nat :=
  let m := fmtOf x.k x.t
  roundF m x.rm x.f.sat (g x (decodeF m a) (decodeF m b) (decodeF m c))

/-- |a| with the sign of b (R135); a NaN operand gives NaN (R85). -/
def vCopySign (a b : Val) : Val :=
  if vIsNan b then .nan else if vIsNeg b then vNeg (vAbs a) else vAbs a

/-- A lane as an integer, signed or unsigned. -/
def laneInt (w : Nat) (uns : Bool) (a : Nat) : Int := if uns then (a : Int) else sextN a (8 * w)
/-- The range of an integer type. -/
def intLo (w : Nat) (uns : Bool) : Int := if uns then 0 else -((2 ^ (8 * w - 1) : Nat) : Int)
/-- The top of that range. -/
def intHi (w : Nat) (uns : Bool) : Int := if uns then ((2 ^ (8 * w) : Nat) : Int) - 1 else ((2 ^ (8 * w - 1) : Nat) : Int) - 1
/-- An exact integer wrapped to a width, or clamped under SAT (R80, R136). -/
def intFit (w : Nat) (uns sat : Bool) (v : Int) : Nat :=
  wrapN (8 * w) (if sat then max (intLo w uns) (min v (intHi w uns)) else v)
/-- An integer function of two lanes with saturation (R136). -/
def int2 (g : Int → Int → Int) (x : VCtx) (a b : Nat) : Nat :=
  let u := x.f.aux.getLsbD 0
  intFit x.w u x.f.sat (g (laneInt x.w u a) (laneInt x.w u b))
/-- VIABS (R136). -/
def intAbs (x : VCtx) (a : Nat) : Nat := intFit x.w false x.f.sat ((laneInt x.w false a).natAbs : Int)

/-- The shift amounts of a vector shift (R137): a lane zero-extended, or the full scalar. -/
def shiftVals (x : VCtx) : List Nat :=
  match x.f.b with
  | .vec v => rowLanes x.w (vecRow x.k v.toNat)
  | o => List.replicate x.n (vopVal x.seq o).toNat
/-- A shift (R137). -/
def laneShift (g : Nat → Nat → Nat → Nat) (x : VCtx) : VVal :=
  predRow x.w (predBits x x.n) (((laneVals x x.t x.f.a).zip (shiftVals x)).map fun e => g (8 * x.w) e.1 e.2)
/-- VSHL. -/
def shlLane (b a k : Nat) : Nat := if b ≤ k then 0 else (a <<< k) % 2 ^ b
/-- VSHR. -/
def shrLane (b a k : Nat) : Nat := if b ≤ k then 0 else a >>> k
/-- VSAR. -/
def sarLane (b a k : Nat) : Nat := wrapN b (sextN a b / ((2 ^ (min k b) : Nat) : Int))
/-- VROTL. -/
def rotlLane (b a k : Nat) : Nat := ((a <<< (k % b)) ||| (a >>> (b - k % b))) % 2 ^ b

/-- A comparison (R138): values of a float type, signed integers, or unsigned ones. -/
def compare2 (fl : Val → Val → Bool) (it : Int → Int → Bool) (uns : Bool) (x : VCtx) : VVal :=
  let m := fmtOf x.k x.t
  let one (a b : Nat) : Bool :=
    if isIntTy x.t then it (laneInt x.w uns a) (laneInt x.w uns b) else fl (decodeF m a) (decodeF m b)
  maskRes ((((laneVals x x.t x.f.a).zip (laneVals x x.t x.f.b)).zip (predBits x x.n)).map fun e => e.2 && one e.1.1 e.1.2)

/-- The class code of VFCLASS (R138). -/
def classCode (m : Fmt) (a : Nat) : Nat :=
  match decodeF m a with
  | .nan => 0
  | .inf neg => if neg then 1 else 8
  | .fin neg k _ _ =>
    if k = 0 then (if neg then 4 else 5)
    else
      let sub := (if m.sgn then a % 2 ^ (m.bits - 1) else a) < 2 ^ (m.p - 1)
      if neg then (if sub then 3 else 2) else (if sub then 6 else 7)

/-- VSEL (R138). -/
def selectRow (x : VCtx) : VVal :=
  fullRow x.w ((((laneVals x x.t x.f.a).zip (laneVals x x.t x.f.b)).zip (predBits x x.n)).map
    fun e => if e.2 then e.1.1 else e.1.2)

/-- VMAND and VMOR (R138). -/
def maskLogic (isOr : Bool) (x : VCtx) : VVal :=
  let a := maskOp x.k x.f.a
  let b := maskOp x.k x.f.b
  let b := if x.f.aux.getLsbD 0 then ~~~b else b
  .mask ((if isOr then a ||| b else a &&& b) &&& maskOf x.k x.f.msk.toNat)
/-- VMCNT (R138). -/
def maskCount (x : VCtx) : VVal :=
  .scal (BitVec.ofNat 64 (popCount ((maskOp x.k x.f.a).toNat &&& (maskOf x.k x.f.msk.toNat).toNat) x.n))

/-- The add of VREDADD and VSCAN (R140). -/
def redAdd (x : VCtx) (a b : Nat) : Nat :=
  if isIntTy x.t then intFit x.w false x.f.sat (laneInt x.w false a + laneInt x.w false b)
  else float2 (fun x u v => vAdd x.rm u v) x a b
/-- The comparison of VREDMAX and VREDMIN (R140). -/
def redPick (mx : Bool) (x : VCtx) (a b : Nat) : Nat :=
  if isIntTy x.t then
    let u := x.f.aux.getLsbD 0
    let p := laneInt x.w u a
    let q := laneInt x.w u b
    if mx then (if q ≤ p then a else b) else (if p ≤ q then a else b)
  else float2 (fun _ u v => if mx then vMax u v else vMin u v) x a b

/-- One level of the reduction tree (R140). -/
def redPairs (op : Nat → Nat → Nat) : List (Option Nat) → List (Option Nat)
  | a :: b :: r =>
    (match a, b with
     | none, y => y
     | y, none => y
     | some p, some q => some (op p q)) :: redPairs op r
  | l => l
/-- The tree of `2^k` lanes. -/
def redTree (op : Nat → Nat → Nat) : Nat → List (Option Nat) → List (Option Nat)
  | 0, l => l
  | k + 1, l => redTree op k (redPairs op l)
/-- The lanes with absent ones where the predicate is 0. -/
def presentLanes (x : VCtx) : List (Option Nat) :=
  ((laneVals x x.t x.f.a).zip (predBits x x.n)).map fun e => if e.2 then some e.1 else none
/-- A lane that no arithmetic has touched, as a result: a NaN is the canonical one (R75). -/
def canonLane (x : VCtx) (a : Nat) : Nat :=
  if !isIntTy x.t && vIsNan (decodeF (fmtOf x.k x.t) a) then roundF (fmtOf x.k x.t) x.rm false .nan else a
/-- A reduction (R140). -/
def reduceRow (op : VCtx → Nat → Nat → Nat) (x : VCtx) : VVal :=
  let r := canonLane x (((redTree (op x) 9 (presentLanes x)).headD none).getD 0)
  fullRow x.w (r :: List.replicate (x.n - 1) 0)
/-- Inclusive prefix sums (R141). -/
def scanLanes (op : Nat → Nat → Nat) : List (Option Nat) → Option Nat → List Nat
  | [], _ => []
  | none :: r, acc => 0 :: scanLanes op r acc
  | some a :: r, acc =>
    let v := match acc with | none => a | some p => op p a
    v :: scanLanes op r (some v)
/-- VSCAN (R141). -/
def scanRow (x : VCtx) : VVal :=
  predRow x.w (predBits x x.n) ((scanLanes (redAdd x) (presentLanes x) none).map (canonLane x))

/-- Lane `k` of a row, 0 beyond it (R142). -/
def laneAt (l : List Nat) (k : Nat) : Nat := if l.length ≤ k then 0 else l.getD k 0
/-- VSHUF (R142). -/
def shuffleRow (x : VCtx) : VVal :=
  let a := laneVals x x.t x.f.a
  let hi := if x.w = 1 && x.f.aux.getLsbD 0 then 256 else 0
  predRow x.w (predBits x x.n) ((laneVals x x.t x.f.b).map fun k => laneAt a (k + hi))
/-- VBCAST (R142). -/
def broadcastRow (x : VCtx) : VVal :=
  let v := laneAt (laneVals x x.t x.f.a) (vopVal x.seq x.f.b).toNat
  predRow x.w (predBits x x.n) (List.replicate x.n v)
/-- VEXTR (R142). -/
def extractLane (x : VCtx) : VVal :=
  let v := laneAt (laneVals x x.t x.f.a) (vopVal x.seq x.f.b).toNat
  .scal (if isIntTy x.t && !x.f.aux.getLsbD 0 then toWord (sextN v (8 * x.w)) else BitVec.ofNat 64 v)
/-- VIOTA (R142): of a float type, its literal or constant is the lane value of R126 (DEDUCED, log 45). -/
def iotaRow (x : VCtx) : VVal :=
  let v := scalarLane x x.t x.f.a
  let m := fmtOf x.k x.t
  predRow x.w (predBits x x.n) ((upFrom 0 x.n).map fun (i : Nat) =>
    if isIntTy x.t then intFit x.w false x.f.sat (laneInt x.w false v + (i : Int))
    else roundF m x.rm x.f.sat (vAdd x.rm (decodeF m v) (vInt i)))

/-- One converted lane (R81, R143). -/
def convert (x : VCtx) (a : Nat) : Nat :=
  let ws := tyWidth x.src
  let wt := tyWidth x.t
  if isIntTy x.src then
    let v := laneInt ws (x.f.aux.getLsbD 3) a
    if isIntTy x.t then intFit wt false x.f.sat v else roundF (fmtOf x.k x.t) x.rm x.f.sat (vInt v)
  else
    let v := decodeF (fmtOf x.k x.src) a
    if isIntTy x.t then wrapN (8 * wt) (toIntClamp x.rm (intLo wt false) (intHi wt false) v)
    else roundF (fmtOf x.k x.t) x.rm x.f.sat v

/-- VCVT (R143): the destination lanes that the quarter does not name are unchanged. -/
def convertRow (x : VCtx) : VVal :=
  let q := x.f.c.imm
  let a := (laneVals x x.src x.f.a).map (convert x)
  let ns := 512 / tyWidth x.src
  let p := predBits x x.n
  if tyWidth x.src < x.w then predRow x.w p ((a.drop (q * x.n)).take x.n)
  else if x.w < tyWidth x.src then
    let here := (upFrom 0 x.n).map fun i => decide (q * ns ≤ i) && decide (i < q * ns + ns)
    predRow x.w ((p.zip here).map fun e => e.1 && e.2)
      ((List.replicate (q * ns) 0 ++ a ++ List.replicate x.n 0).take x.n)
  else predRow x.w p a
/-- VPACK (R143). -/
def packRow (x : VCtx) : VVal :=
  predRow x.w (predBits x x.n) (((laneVals x x.src x.f.a) ++ (laneVals x x.src x.f.b)).map (convert x))
/-- VUNPK (R143). -/
def unpackRow (x : VCtx) : VVal :=
  predRow x.w (predBits x x.n) ((((laneVals x x.src x.f.a).drop (x.f.b.imm * x.n)).take x.n).map (convert x))

/-- The exponents of VSCALE (R143): none marks a NaN block. Beyond ±4096 every format overflows or vanishes alike. -/
def scaleExps (x : VCtx) : List (Option Int) :=
  match x.f.b with
  | .vec v => (rowLanes x.w (vecRow x.k v.toNat)).map fun e =>
      if x.t = 7 && e == 128 then none else some (max (-4096) (min 4096 (sextN e (8 * x.w))))
  | o => List.replicate x.n (some (max (-4096) (min 4096 (vopVal x.seq o).toInt)))
/-- VSCALE (R143). -/
def scaleRow (x : VCtx) : VVal :=
  let m := fmtOf x.k x.t
  predRow x.w (predBits x x.n) (((laneVals x x.t x.f.a).zip (scaleExps x)).map fun e =>
    roundF m x.rm x.f.sat (match e.2 with | some k => vScale (decodeF m e.1) k | none => .nan))
/-- A value rounded to an integral one (R143, VRND). -/
def vRound (rm : Nat) (v : Val) : Val :=
  match v with
  | .fin neg m d e => match vToInt rm (.fin neg m d e) with
    | some i => .fin neg i.natAbs 1 0
    | none => .nan
  | v => v

/-- VMSET (R147). -/
def anySet (x : VCtx) : VVal := maskRes (((laneVals x x.t x.f.a).zip (predBits x x.n)).map fun e => e.2 && e.1 != 0)
/-- VMGET (R147). -/
def maskRow (x : VCtx) : VVal :=
  predRow x.w (predBits x x.n) ((chunks 1 x.n (maskOp x.k x.f.a).toNat).map fun b => if b = 1 then 2 ^ (8 * x.w) - 1 else 0)

end Sys2Proof.Machine
end

