-- ==== Sys2Proof/Machine/Vector.lean ====
section
/-! DEFINITION. The vector functions (R135 to R147), bundles (R65, R127), and vector memory (R144 to R146). -/

namespace Sys2Proof.Machine

/-- How a vector memory function forms its addresses (R144). -/
inductive VMode where
  | unit | strided | gather
  deriving DecidableEq, Repr

/-- What a vector function does: a value computed at issue and its latency, or a memory access. -/
inductive VKind where
  | calc (lat : Nat → Nat) (g : VCtx → VVal)
  | load (m : VMode)
  | store (m : VMode)

/-- One instruction of a bundle. -/
structure VUnit where
  f     : FV
  shape : VShape
  kind  : VKind

/-- The instruction as it sees the core at issue: VT 0 and S 0 resolved (R122, R143), RM 5 the mode of CSTAT (R58). -/
def vctx (s : State) (u : VUnit) : VCtx :=
  let k := cc s
  let et := fld k.vtype 2 0
  let src := u.f.aux.toNat % 8
  { f := u.f, seq := cs s, k := k, t := if u.f.vt = 0 then et else u.f.vt.toNat, src := if src = 0 then et else src,
    rm := if u.f.rm = 5 then k.rmode else u.f.rm.toNat }

/-- The checks that VT 0 or S 0 leave to issue (R134). -/
def typeFits (x : VCtx) (h : VShape) : Bool :=
  h.ty == .zero || (x.f.okType h x.t && x.f.okConv h x.t x.src)

/-- The address of lane `i`, none where the lane is not covered (R144). -/
def laneAddr (x : VCtx) (m : VMode) (i : Nat) : Option Word :=
  let a := vopVal x.seq x.f.a
  match m with
  | .unit => some (a + vopVal x.seq x.f.b + BitVec.ofNat 64 (x.w * i))
  | .strided => some (a + BitVec.ofNat 64 i * vopVal x.seq x.f.b)
  | .gather =>
    let q := x.f.aux.toNat % 4
    if i < 128 * q ∨ 128 * q + 128 ≤ i then none
    else match x.f.b with
      | .vec v => some (a + BitVec.ofNat 64 (fld (vecRow x.k v.toNat) (32 * (i - 128 * q) + 31) (32 * (i - 128 * q))))
      | _ => none

/-- The active lanes with their addresses (R144). -/
def activeLanes (x : VCtx) (m : VMode) : List (Nat × Word) :=
  ((upFrom 0 x.n).zip (predBits x x.n)).filterMap fun e => if e.2 then (laneAddr x m e.1).map fun a => (e.1, a) else none

/-- A checked lane. -/
structure VLane where
  i  : Nat
  va : Word
  t  : Target
  deriving DecidableEq, Repr

/-- The checks of the active lanes (R145, steps 1 and 2): the lowest failing lane, its first failing check. -/
def laneChecks (w : Nat) (need : Need) : List (Nat × Word) → State → Sum Cause (List VLane) × Bool × State
  | [], s => (.inr [], false, s)
  | (i, va) :: r, s =>
    if va.toNat % w ≠ 0 then (.inl (causeAt s codeAlign va), false, s) else
    match chk s s.cur.node s.cur.core va w need with
    | .wait => (.inr [], true, s)
    | .fault code s => (.inl (causeAt s code va), false, s)
    | .ok t s =>
      match laneChecks w need r s with
      | (.inr l, h, s) => (.inr (⟨i, va, t⟩ :: l), h, s)
      | x => x

/-- The line of a target, for what counts once a line. -/
def targetLine : Target → Nat × Nat
  | .mem sp pa _ _ => (match sp with | .hbm => 0 | .deep => 1 | .host => 2, pa / 128)
  | .spad o off => (3 + o, off / 128)
  | .remote m _ off => (1000 + m, off / 128)

/-- Reads one lane: its value, or the code of the fault it meets; a STRONG lane is an acquire (R146, R226). -/
def laneRead (w : Nat) (l : VLane) (s : State) : Sum Nat (Nat × State) :=
  let n := s.cur.node
  let c := s.cur.core
  let cls := classOf (cc s)
  match l.t with
  | .remote m rl off =>
    let x := windowNow s ⟨n, c, s.cur.seq, 0, m, rl, fld (cc s).asid 5 0, off, w, .load, 0, false, cls⟩
    if x.2.code ≠ 0 then .inl x.2.code
    else if x.2.poison then .inl codePoison
    else .inr (x.2.data.toNat % 2 ^ (8 * w), winAcquire x.1 n c m off)
  | t =>
    let g := readT (strongAcquire s t) n c (some cls) t w
    if g.poison then .inl codePoison else .inr (g.v, g.s)

/-- Reads the active lanes in order (R145, step 3): a poisoned line of a ZP page reads as zeros and counts once. -/
def laneReads (w : Nat) : List VLane → List (Nat × Nat) → State → Sum Cause (List (Nat × Nat)) × State
  | [], _, s => (.inr [], s)
  | l :: r, seen, s =>
    let n := s.cur.node
    let key := targetLine l.t
    match laneRead w l s with
    | .inl code => (.inl (causeAt s code l.va), s)
    | .inr (v, s') =>
      let s' := if seen.contains key then modNd s' n fun d => { d with poisonZ := (nd s n).poisonZ } else s'
      match laneReads w r (key :: seen) s' with
      | (.inr vs, s) => (.inr ((l.i, v) :: vs), s)
      | x => x

/-- Hands the active lanes of a store to the memory port, ascending (R145, step 4), a STRONG lane after its release (R146,
R226). Each lane is an access of its own: lanes that together cover a line do not make a whole-line write, which the manual
leaves open; on a DETERM page they make one entry (R233), whose publication is one (DESIGN CHOICE, log 45). -/
def laneWrites (w : Nat) (data : List Nat) (ls : List VLane) (s : State) : State :=
  let n := s.cur.node
  let c := s.cur.core
  let b0 := (cc s).detBuf.length
  let m0 := (cc s).detMine.length
  let s := ls.foldl (fun s l =>
    let v := laneAt data l.i
    match l.t with
    | .remote m rl off => sendStore (strongRelease s l.t) m rl off w l.va (BitVec.ofNat 1024 v) false
    | t => writeT (strongRelease s t) n c (some (classOf (cc s))) t w (fullMask w) v) s
  modCc s (mergeNew b0 m0)

/-- What one instruction of a bundle is ready to do. -/
structure VPlan where
  u    : VUnit
  x    : VCtx
  val  : VVal
  lanes : List VLane
  lat  : Nat

/-- The outcome of an instruction's own checks. -/
inductive VPre where
  | go (p : VPlan) (s : State)
  | hold (s : State)
  | fault (k : Cause) (s : State)

/-- The checks of a vector memory access (R145, R226, R233, R264), and for a load its data: every lane at the source, then those
of other nodes at their targets (DESIGN CHOICE, log 45). An access that faults after its translations leaves nothing else
(R196). -/
def memPre (u : VUnit) (x : VCtx) (m : VMode) (store : Bool) (s : State) : VPre :=
  let n := s.cur.node
  let c := s.cur.core
  let need := if store then Need.w else .r
  match laneChecks x.w need (activeLanes x m) s with
  | (.inl k, _, s') => .fault k (keepTlb s s' n c)
  | (.inr _, true, s') => .hold s'
  | (.inr ls, false, s') =>
    match ls.find? fun l => detClash (cc s) l.va x.w store with
    | some l => .fault (causeAt s codeDetConflict l.va) (keepTlb s s' n c)
    | none =>
      if ls.any fun l => bucketHold s' l.t x.w need || remoteBusy s' n c l.t && !store then .hold s'
      else if store then
        if ls.any fun l => !strongReady s' l.t then .hold s'
        else match detRoom (cc s) (detLines (ls.map fun l => l.t)) with
          | .conflict => .fault (causeAt s codeDetConflict ((ls.map fun l => l.va).headD 0)) (keepTlb s s' n c)
          | .wait => .hold s'
          | .ok => .go ⟨u, x, .none, ls, 1⟩ s'
      else if ls.any fun l => isStrong s' l.t && !strongIdle s' then .hold s'
      else match laneReads x.w ls [] s' with
        | (.inl k, _) => .fault k (keepTlb s s' n c)
        | (.inr vs, s) =>
          let val := (upFrom 0 x.n).map fun i => ((vs.find? fun e => e.1 == i).map fun e => e.2).getD 0
          let en := (upFrom 0 x.n).map fun i => ls.any fun l => l.i == i
          .go ⟨u, x, .row (lanesRow x.w val) (laneEn x.w en), ls, 1⟩ s

/-- Whether a row of the core is interlocked (R132): busy, or one on which a VMEM load has not landed. -/
def rowHeld (k : Core) (r : Nat) : Bool :=
  rowBusy k r || (k.inflight ++ k.landing).any fun x => x.vmem && x.dest == .row r

/-- Whether the index row of a VGATH or VSCAT is interlocked: no address can be formed from it yet (R132, R144). -/
def indexHeld (k : Core) (u : VUnit) : Bool :=
  match u.kind, u.f.b with
  | .load .gather, .vec v => decide (v.toNat < 64) && rowHeld k (rowOf k v.toNat)
  | .store .gather, .vec v => decide (v.toNat < 64) && rowHeld k (rowOf k v.toNat)
  | _, _ => false

/-- An instruction's own checks once conditions 1 to 6 hold (R134, R147, R457). The TRAPADDR of an ILLEGAL raised by an
instruction in slot 1 to 3 is the program counter of its bundle (DESIGN CHOICE, log 45). -/
def unitPre (u : VUnit) (s : State) : VPre :=
  let x := vctx s u
  if !typeFits x u.shape then .fault (causeHere s codeIllegal) s
  else if indexHeld (cc s) u then .hold s
  else match u.kind with
  | .calc lat g =>
    match g x with
    | .sett v => if vtypeOk v then .go ⟨u, x, .sett v, [], 1⟩ s else .fault (causeHere s codeIllegal) s
    | v => .go ⟨u, x, v, [], lat x.t⟩ s
  | .load m => memPre u x m false s
  | .store m => memPre u x m true s

/-- The accumulator rows that an instruction reads or writes through the window (R132). -/
def unitRows (k : Core) (u : VUnit) : List Nat :=
  let op (o : VOp) : List Nat := match o with | .vec v => if v.toNat < 64 then [rowOf k v.toNat] else [] | _ => []
  let used (r : ARole) (o : VOp) : List Nat := if r == .none || r == .quarter then [] else op o
  used u.shape.a u.f.a ++ used u.shape.b u.f.b ++ used u.shape.c u.f.c
    ++ (if (u.shape.d == .vec || u.shape.d == .load) && decide (u.f.vd.toNat < 64) then [rowOf k u.f.vd.toNat] else [])

/-- The interlocks of R132: a row on which a VMEM load has not landed, or a busy row. -/
def interlocked (k : Core) (u : VUnit) : Bool := (unitRows k u).any fun r => rowHeld k r

/-- The scalar registers an instruction reads. -/
def unitSrcs (u : VUnit) : List Reg := vopSrcs u.f.a ++ vopSrcs u.f.b ++ vopSrcs u.f.c
/-- The units an instruction takes (R49, R55). -/
def unitLen (u : VUnit) : Nat := if u.f.a.isExt || u.f.b.isExt || u.f.c.isExt then 3 else 2

/-- Whether an instruction's result stays in flight (R127). -/
def unitFlies (p : VPlan) : Bool :=
  match p.val with
  | .row .. | .mask _ | .scal _ => true
  | _ => false

/-- The tokens of a bundle toward a partner (R109). -/
def bundlePops (l : List VUnit) (p : Nat) : Nat := l.foldl (fun a u => a + popCountOf u.f.tk [] p) 0
/-- The pushes of a bundle to a partner. -/
def bundlePushes (l : List VUnit) (p : Nat) : Nat := l.foldl (fun a u => a + pushCountOf u.f.tk [] p) 0

/-- Whether an instruction of a bundle accesses memory (R65). -/
def isVmem (u : VUnit) : Bool :=
  match u.kind with
  | .calc .. => false
  | _ => true

/-- The tests of every instruction of a bundle in order: the fault of the lowest slot stands (DESIGN CHOICE, log 45), else a
wait (R145). Of a memory access in a bundle whose other instruction faults or waits nothing stays, since none of it
issues. -/
def bundlePre : List VUnit → State → Sum Cause (List VPlan) × Bool × State
  | [], s => (.inr [], false, s)
  | u :: r, s =>
    match unitPre u s with
    | .fault k s' => (.inl k, false, s')
    | .hold _ => (match bundlePre r s with
      | (.inl k, _, s') => (.inl k, false, s')
      | (.inr l, _, _) => (.inr l, true, s))
    | .go p s' => (match bundlePre r s' with
      | (.inl k, _, s'') => (.inl k, false, if isVmem u then s else s'')
      | (.inr l, h, s'') => (.inr (p :: l), h, s''))

/-- The effect of one instruction that issues in slot `slot` (R127 to R130, R133). -/
def unitEffect (s : State) (slot : Nat) (p : VPlan) : State :=
  let tok := pushKey s p.u.f.tk
  let vd := p.u.f.vd.toNat
  let isLoad := match p.u.kind with | .load _ => true | _ => false
  match p.val with
  | .row v en =>
    fly s p.lat (if vd < 64 then .row (rowOf p.x.k vd) else .none) v en (if isLoad then none else some slot) tok 0 isLoad
  | .mask v => fly s p.lat (if vd < 8 then .mask vd else .none) (v.setWidth 4096) 1 none tok 0 false
  | .scal v =>
    let d : Reg := BitVec.ofNat 5 vd
    let s := modCc s fun k => supersedeAll k s.cur.seq d
    fly s p.lat (if d = 0 then .none else .sreg s.cur.seq d) (v.setWidth 4096) 1 none tok 0 false
  | .sett v => retirePushes (later s (.vtype s.cur.node s.cur.core (vtypeKeep v))) p.u.f.tk []
  | .none =>
    let data := match p.u.f.c with
      | .vec v => rowLanes p.x.w (vecRow p.x.k v.toNat)
      | o => List.replicate p.x.n (scalarLane p.x p.x.t o)
    retirePushes (laneWrites p.x.w data p.lanes s) p.u.f.tk []

/-- The effects of a bundle's instructions by slot. -/
def bundleEffects : Nat → List VPlan → State → State
  | _, [], s => s
  | slot, p :: r, s => bundleEffects (slot + 1) r (unitEffect s slot p)

/-- What the issue of a bundle takes (R65, R73, R109, R406: one issue). -/
def takeBundle (l : List VUnit) (s : State) : State :=
  let s := [1, 2, 3].foldl (fun s p => popTok s (fifoIn s.cur.seq p) (bundlePops l p)) s
  let s := [1, 2, 3].foldl (fun s p => reserveTok s (fifoOut s.cur.seq p) (bundlePushes l p)) s
  let len := l.foldl (fun a u => a + unitLen u) 0
  modCs s fun k =>
    let c := continuation s k len
    { k with pc := c.pc, past := c.past, span := if c.quiet then 0 else k.span + 1, quiet := c.quiet,
             issued := k.issued + 1, status := .running }

/-- Tests and issues a bundle (R65, R95, R127, R132, R145): its faults are found whether or not conditions 7 and 8 hold
(R457), and one that does not issue takes nothing. -/
def issueBundle (l : List VUnit) (s : State) : Issue :=
  if !mayIssue s then .blocked s
  else if s.cur.seq != .exec then .trap (causeHere s codeWrongSeq) s
  else if spanFull s then .trap (causeHere s codeQuietSpan) s
  else if !([1, 2, 3].all fun p => bundlePops l p ≤ (fifo (cc s) (fifoIn s.cur.seq p)).n) || !srcsReady s (l.flatMap unitSrcs)
  then .blocked s
  else match bundlePre l s with
  | (.inl k, _, s') => .trap k s'
  | (.inr _, true, _) => .blocked s
  | (.inr ps, false, s') =>
    if l.any fun u => interlocked (cc s) u then .blocked s else
    let room := [1, 2, 3].all fun p =>
      let f := fifo (cc s) (fifoOut s.cur.seq p)
      f.n + f.popped + f.v + bundlePushes l p ≤ 16
    if room && inflightRoom s ((ps.filter unitFlies).length) then .issued (bundleEffects 0 ps (takeBundle l s'))
    else .blocked s

/-- Runs a bundle of EXEC. -/
def runBundle (l : List VUnit) (s : State) : Host.Outcome State Fault Refusal := finish s (issueBundle l s)

/-- A vector function of a fixed latency. -/
def vfix (f : FV) (h : VShape) (lat : Nat) (g : VCtx → VVal) : VUnit := ⟨f, h, .calc (fun _ => lat) g⟩

/-- VADD as a unit of a bundle (R135). -/
def unitVadd (f : FV) : VUnit := vfix f VShape.float2 4 (lane2 (float2 fun x a b => vAdd x.rm a b))
/-- VADD (R135), alone in its bundle. -/
def execVadd (f : FV) (s : State) : Host.Outcome State Fault Refusal := runBundle [unitVadd f] s

/-- VSUB as a unit of a bundle (R135). -/
def unitVsub (f : FV) : VUnit := vfix f VShape.float2 4 (lane2 (float2 fun x a b => vAdd x.rm a (vNeg b)))
/-- VSUB (R135), alone in its bundle. -/
def execVsub (f : FV) (s : State) : Host.Outcome State Fault Refusal := runBundle [unitVsub f] s

/-- VMUL as a unit of a bundle (R135). -/
def unitVmul (f : FV) : VUnit := vfix f VShape.float2 4 (lane2 (float2 fun _ a b => vMul a b))
/-- VMUL (R135), alone in its bundle. -/
def execVmul (f : FV) (s : State) : Host.Outcome State Fault Refusal := runBundle [unitVmul f] s

/-- VFMA as a unit of a bundle (R135). -/
def unitVfma (f : FV) : VUnit := vfix f VShape.float3 4 (lane3 (float3 fun x a b c => vAdd x.rm (vMul a b) c))
/-- VFMA (R135), alone in its bundle. -/
def execVfma (f : FV) (s : State) : Host.Outcome State Fault Refusal := runBundle [unitVfma f] s

/-- VFMS as a unit of a bundle (R135). -/
def unitVfms (f : FV) : VUnit := vfix f VShape.float3 4 (lane3 (float3 fun x a b c => vAdd x.rm (vMul a b) (vNeg c)))
/-- VFMS (R135), alone in its bundle. -/
def execVfms (f : FV) (s : State) : Host.Outcome State Fault Refusal := runBundle [unitVfms f] s

/-- VMIN as a unit of a bundle (R135). -/
def unitVmin (f : FV) : VUnit := vfix f VShape.float2 2 (lane2 (float2 fun _ a b => vMin a b))
/-- VMIN (R135), alone in its bundle. -/
def execVmin (f : FV) (s : State) : Host.Outcome State Fault Refusal := runBundle [unitVmin f] s

/-- VMAX as a unit of a bundle (R135). -/
def unitVmax (f : FV) : VUnit := vfix f VShape.float2 2 (lane2 (float2 fun _ a b => vMax a b))
/-- VMAX (R135), alone in its bundle. -/
def execVmax (f : FV) (s : State) : Host.Outcome State Fault Refusal := runBundle [unitVmax f] s

/-- VABS as a unit of a bundle (R135). -/
def unitVabs (f : FV) : VUnit := vfix f VShape.float1 2 (lane1 (float1 fun _ a => vAbs a))
/-- VABS (R135), alone in its bundle. -/
def execVabs (f : FV) (s : State) : Host.Outcome State Fault Refusal := runBundle [unitVabs f] s

/-- VNEG as a unit of a bundle (R135). -/
def unitVneg (f : FV) : VUnit := vfix f VShape.float1 2 (lane1 (float1 fun _ a => vNeg a))
/-- VNEG (R135), alone in its bundle. -/
def execVneg (f : FV) (s : State) : Host.Outcome State Fault Refusal := runBundle [unitVneg f] s

/-- VDIV as a unit of a bundle (R135). -/
def unitVdiv (f : FV) : VUnit := vfix f VShape.float2 8 (lane2 (float2 fun _ a b => vDiv a b))
/-- VDIV (R135), alone in its bundle. -/
def execVdiv (f : FV) (s : State) : Host.Outcome State Fault Refusal := runBundle [unitVdiv f] s

/-- VSQRT as a unit of a bundle (R135). -/
def unitVsqrt (f : FV) : VUnit := vfix f VShape.float1 8 (lane1 (float1 fun _ a => vSqrt a))
/-- VSQRT (R135), alone in its bundle. -/
def execVsqrt (f : FV) (s : State) : Host.Outcome State Fault Refusal := runBundle [unitVsqrt f] s

/-- VCPYS as a unit of a bundle (R135). -/
def unitVcpys (f : FV) : VUnit := vfix f VShape.float2 2 (lane2 (float2 fun _ a b => vCopySign a b))
/-- VCPYS (R135), alone in its bundle. -/
def execVcpys (f : FV) (s : State) : Host.Outcome State Fault Refusal := runBundle [unitVcpys f] s

/-- VIADD as a unit of a bundle (R136). -/
def unitViadd (f : FV) : VUnit := vfix f VShape.intSat2 2 (lane2 (int2 fun a b => a + b))
/-- VIADD (R136), alone in its bundle. -/
def execViadd (f : FV) (s : State) : Host.Outcome State Fault Refusal := runBundle [unitViadd f] s

/-- VISUB as a unit of a bundle (R136). -/
def unitVisub (f : FV) : VUnit := vfix f VShape.intSat2 2 (lane2 (int2 fun a b => a - b))
/-- VISUB (R136), alone in its bundle. -/
def execVisub (f : FV) (s : State) : Host.Outcome State Fault Refusal := runBundle [unitVisub f] s

/-- VIMUL as a unit of a bundle (R136). -/
def unitVimul (f : FV) : VUnit := vfix f VShape.intSat2 2 (lane2 (int2 fun a b => a * b))
/-- VIMUL (R136), alone in its bundle. -/
def execVimul (f : FV) (s : State) : Host.Outcome State Fault Refusal := runBundle [unitVimul f] s

/-- VIMIN as a unit of a bundle (R136). -/
def unitVimin (f : FV) : VUnit := vfix f VShape.intUns2 2 (lane2 (int2 fun a b => min a b))
/-- VIMIN (R136), alone in its bundle. -/
def execVimin (f : FV) (s : State) : Host.Outcome State Fault Refusal := runBundle [unitVimin f] s

/-- VIMAX as a unit of a bundle (R136). -/
def unitVimax (f : FV) : VUnit := vfix f VShape.intUns2 2 (lane2 (int2 fun a b => max a b))
/-- VIMAX (R136), alone in its bundle. -/
def execVimax (f : FV) (s : State) : Host.Outcome State Fault Refusal := runBundle [unitVimax f] s

/-- VIABS as a unit of a bundle (R136). -/
def unitViabs (f : FV) : VUnit := vfix f VShape.intSat1 2 (lane1 intAbs)
/-- VIABS (R136), alone in its bundle. -/
def execViabs (f : FV) (s : State) : Host.Outcome State Fault Refusal := runBundle [unitViabs f] s

/-- VAND as a unit of a bundle (R136). -/
def unitVand (f : FV) : VUnit := vfix f VShape.bits2 2 (lane2 (fun _ a b => a &&& b))
/-- VAND (R136), alone in its bundle. -/
def execVand (f : FV) (s : State) : Host.Outcome State Fault Refusal := runBundle [unitVand f] s

/-- VOR as a unit of a bundle (R136). -/
def unitVor (f : FV) : VUnit := vfix f VShape.bits2 2 (lane2 (fun _ a b => a ||| b))
/-- VOR (R136), alone in its bundle. -/
def execVor (f : FV) (s : State) : Host.Outcome State Fault Refusal := runBundle [unitVor f] s

/-- VXOR as a unit of a bundle (R136). -/
def unitVxor (f : FV) : VUnit := vfix f VShape.bits2 2 (lane2 (fun _ a b => a ^^^ b))
/-- VXOR (R136), alone in its bundle. -/
def execVxor (f : FV) (s : State) : Host.Outcome State Fault Refusal := runBundle [unitVxor f] s

/-- VNOT as a unit of a bundle (R136). -/
def unitVnot (f : FV) : VUnit := vfix f VShape.bits1 2 (lane1 (fun x a => 2 ^ (8 * x.w) - 1 - a))
/-- VNOT (R136), alone in its bundle. -/
def execVnot (f : FV) (s : State) : Host.Outcome State Fault Refusal := runBundle [unitVnot f] s

/-- VSHL as a unit of a bundle (R137). -/
def unitVshl (f : FV) : VUnit := vfix f VShape.shift2 2 (laneShift shlLane)
/-- VSHL (R137), alone in its bundle. -/
def execVshl (f : FV) (s : State) : Host.Outcome State Fault Refusal := runBundle [unitVshl f] s

/-- VSHR as a unit of a bundle (R137). -/
def unitVshr (f : FV) : VUnit := vfix f VShape.shift2 2 (laneShift shrLane)
/-- VSHR (R137), alone in its bundle. -/
def execVshr (f : FV) (s : State) : Host.Outcome State Fault Refusal := runBundle [unitVshr f] s

/-- VSAR as a unit of a bundle (R137). -/
def unitVsar (f : FV) : VUnit := vfix f VShape.shift2 2 (laneShift sarLane)
/-- VSAR (R137), alone in its bundle. -/
def execVsar (f : FV) (s : State) : Host.Outcome State Fault Refusal := runBundle [unitVsar f] s

/-- VROTL as a unit of a bundle (R137). -/
def unitVrotl (f : FV) : VUnit := vfix f VShape.shift2 2 (laneShift rotlLane)
/-- VROTL (R137), alone in its bundle. -/
def execVrotl (f : FV) (s : State) : Host.Outcome State Fault Refusal := runBundle [unitVrotl f] s

/-- VCEQ as a unit of a bundle (R138). -/
def unitVceq (f : FV) : VUnit := vfix f VShape.cmpAll 2 (compare2 vEq (fun a b => decide (a = b)) false)
/-- VCEQ (R138), alone in its bundle. -/
def execVceq (f : FV) (s : State) : Host.Outcome State Fault Refusal := runBundle [unitVceq f] s

/-- VCNE as a unit of a bundle (R138). -/
def unitVcne (f : FV) : VUnit := vfix f VShape.cmpAll 2 (compare2 (fun a b => !vEq a b) (fun a b => decide (a ≠ b)) false)
/-- VCNE (R138), alone in its bundle. -/
def execVcne (f : FV) (s : State) : Host.Outcome State Fault Refusal := runBundle [unitVcne f] s

/-- VCLT as a unit of a bundle (R138). -/
def unitVclt (f : FV) : VUnit := vfix f VShape.cmpAll 2 (compare2 vLt (fun a b => decide (a < b)) false)
/-- VCLT (R138), alone in its bundle. -/
def execVclt (f : FV) (s : State) : Host.Outcome State Fault Refusal := runBundle [unitVclt f] s

/-- VCLE as a unit of a bundle (R138). -/
def unitVcle (f : FV) : VUnit := vfix f VShape.cmpAll 2 (compare2 (fun a b => vLt a b || vEq a b) (fun a b => decide (a ≤ b)) false)
/-- VCLE (R138), alone in its bundle. -/
def execVcle (f : FV) (s : State) : Host.Outcome State Fault Refusal := runBundle [unitVcle f] s

/-- VCLTU as a unit of a bundle (R138). -/
def unitVcltu (f : FV) : VUnit := vfix f VShape.cmpInt 2 (compare2 vLt (fun a b => decide (a < b)) true)
/-- VCLTU (R138), alone in its bundle. -/
def execVcltu (f : FV) (s : State) : Host.Outcome State Fault Refusal := runBundle [unitVcltu f] s

/-- VCLEU as a unit of a bundle (R138). -/
def unitVcleu (f : FV) : VUnit := vfix f VShape.cmpInt 2 (compare2 vLt (fun a b => decide (a ≤ b)) true)
/-- VCLEU (R138), alone in its bundle. -/
def execVcleu (f : FV) (s : State) : Host.Outcome State Fault Refusal := runBundle [unitVcleu f] s

/-- VFCLASS as a unit of a bundle (R138). -/
def unitVfclass (f : FV) : VUnit := vfix f VShape.float1 2 (lane1 (fun x a => classCode (fmtOf x.k x.t) a))
/-- VFCLASS (R138), alone in its bundle. -/
def execVfclass (f : FV) (s : State) : Host.Outcome State Fault Refusal := runBundle [unitVfclass f] s

/-- VSEL as a unit of a bundle (R138). -/
def unitVsel (f : FV) : VUnit := vfix f VShape.sel 2 (selectRow)
/-- VSEL (R138), alone in its bundle. -/
def execVsel (f : FV) (s : State) : Host.Outcome State Fault Refusal := runBundle [unitVsel f] s

/-- VMAND as a unit of a bundle (R138). -/
def unitVmand (f : FV) : VUnit := vfix f VShape.maskLogic 2 (maskLogic false)
/-- VMAND (R138), alone in its bundle. -/
def execVmand (f : FV) (s : State) : Host.Outcome State Fault Refusal := runBundle [unitVmand f] s

/-- VMOR as a unit of a bundle (R138). -/
def unitVmor (f : FV) : VUnit := vfix f VShape.maskLogic 2 (maskLogic true)
/-- VMOR (R138), alone in its bundle. -/
def execVmor (f : FV) (s : State) : Host.Outcome State Fault Refusal := runBundle [unitVmor f] s

/-- VMCNT as a unit of a bundle (R138). -/
def unitVmcnt (f : FV) : VUnit := vfix f VShape.maskCount 6 (maskCount)
/-- VMCNT (R138), alone in its bundle. -/
def execVmcnt (f : FV) (s : State) : Host.Outcome State Fault Refusal := runBundle [unitVmcnt f] s

/-- VEXP2 as a unit of a bundle (R139). -/
def unitVexp2 (f : FV) : VUnit := vfix f VShape.float1 8 (lane1 (float1 fun _ a => vExp2 a))
/-- VEXP2 (R139), alone in its bundle. -/
def execVexp2 (f : FV) (s : State) : Host.Outcome State Fault Refusal := runBundle [unitVexp2 f] s

/-- VLOG2 as a unit of a bundle (R139). -/
def unitVlog2 (f : FV) : VUnit := vfix f VShape.float1 8 (lane1 (float1 fun _ a => vLog2 a))
/-- VLOG2 (R139), alone in its bundle. -/
def execVlog2 (f : FV) (s : State) : Host.Outcome State Fault Refusal := runBundle [unitVlog2 f] s

/-- VRCP as a unit of a bundle (R139). -/
def unitVrcp (f : FV) : VUnit := vfix f VShape.float1 8 (lane1 (float1 fun _ a => vRcp a))
/-- VRCP (R139), alone in its bundle. -/
def execVrcp (f : FV) (s : State) : Host.Outcome State Fault Refusal := runBundle [unitVrcp f] s

/-- VRSQRT as a unit of a bundle (R139). -/
def unitVrsqrt (f : FV) : VUnit := vfix f VShape.float1 8 (lane1 (float1 fun _ a => vRsqrt a))
/-- VRSQRT (R139), alone in its bundle. -/
def execVrsqrt (f : FV) (s : State) : Host.Outcome State Fault Refusal := runBundle [unitVrsqrt f] s

/-- VTANH as a unit of a bundle (R139). -/
def unitVtanh (f : FV) : VUnit := vfix f VShape.float1 8 (lane1 (float1 fun _ a => vTanh a))
/-- VTANH (R139), alone in its bundle. -/
def execVtanh (f : FV) (s : State) : Host.Outcome State Fault Refusal := runBundle [unitVtanh f] s

/-- VERF as a unit of a bundle (R139). -/
def unitVerf (f : FV) : VUnit := vfix f VShape.float1 8 (lane1 (float1 fun _ a => vErf a))
/-- VERF (R139), alone in its bundle. -/
def execVerf (f : FV) (s : State) : Host.Outcome State Fault Refusal := runBundle [unitVerf f] s

/-- VREDADD as a unit of a bundle (R140). -/
def unitVredadd (f : FV) : VUnit := vfix f VShape.redAdd 6 (reduceRow redAdd)
/-- VREDADD (R140), alone in its bundle. -/
def execVredadd (f : FV) (s : State) : Host.Outcome State Fault Refusal := runBundle [unitVredadd f] s

/-- VREDMAX as a unit of a bundle (R140). -/
def unitVredmax (f : FV) : VUnit := vfix f VShape.redCmp 6 (reduceRow (redPick true))
/-- VREDMAX (R140), alone in its bundle. -/
def execVredmax (f : FV) (s : State) : Host.Outcome State Fault Refusal := runBundle [unitVredmax f] s

/-- VREDMIN as a unit of a bundle (R140). -/
def unitVredmin (f : FV) : VUnit := vfix f VShape.redCmp 6 (reduceRow (redPick false))
/-- VREDMIN (R140), alone in its bundle. -/
def execVredmin (f : FV) (s : State) : Host.Outcome State Fault Refusal := runBundle [unitVredmin f] s

/-- VSCAN as a unit of a bundle (R141). -/
def unitVscan (f : FV) : VUnit := vfix f VShape.redAdd 6 (scanRow)
/-- VSCAN (R141), alone in its bundle. -/
def execVscan (f : FV) (s : State) : Host.Outcome State Fault Refusal := runBundle [unitVscan f] s

/-- VSHUF as a unit of a bundle (R142). -/
def unitVshuf (f : FV) : VUnit := vfix f VShape.shuf 4 (shuffleRow)
/-- VSHUF (R142), alone in its bundle. -/
def execVshuf (f : FV) (s : State) : Host.Outcome State Fault Refusal := runBundle [unitVshuf f] s

/-- VBCAST as a unit of a bundle (R142). -/
def unitVbcast (f : FV) : VUnit := vfix f VShape.bcast 2 (broadcastRow)
/-- VBCAST (R142), alone in its bundle. -/
def execVbcast (f : FV) (s : State) : Host.Outcome State Fault Refusal := runBundle [unitVbcast f] s

/-- VEXTR as a unit of a bundle (R142). -/
def unitVextr (f : FV) : VUnit := vfix f VShape.extr 4 (extractLane)
/-- VEXTR (R142), alone in its bundle. -/
def execVextr (f : FV) (s : State) : Host.Outcome State Fault Refusal := runBundle [unitVextr f] s

/-- VIOTA as a unit of a bundle (R142). -/
def unitViota (f : FV) : VUnit := ⟨f, VShape.iota, .calc (fun t => if isIntTy t then 2 else 4) iotaRow⟩
/-- VIOTA (R142), alone in its bundle. -/
def execViota (f : FV) (s : State) : Host.Outcome State Fault Refusal := runBundle [unitViota f] s

/-- VCVT as a unit of a bundle (R143). -/
def unitVcvt (f : FV) : VUnit := vfix f VShape.cvt 4 (convertRow)
/-- VCVT (R143), alone in its bundle. -/
def execVcvt (f : FV) (s : State) : Host.Outcome State Fault Refusal := runBundle [unitVcvt f] s

/-- VPACK as a unit of a bundle (R143). -/
def unitVpack (f : FV) : VUnit := vfix f VShape.pack 4 (packRow)
/-- VPACK (R143), alone in its bundle. -/
def execVpack (f : FV) (s : State) : Host.Outcome State Fault Refusal := runBundle [unitVpack f] s

/-- VUNPK as a unit of a bundle (R143). -/
def unitVunpk (f : FV) : VUnit := vfix f VShape.unpk 4 (unpackRow)
/-- VUNPK (R143), alone in its bundle. -/
def execVunpk (f : FV) (s : State) : Host.Outcome State Fault Refusal := runBundle [unitVunpk f] s

/-- VSCALE as a unit of a bundle (R143). -/
def unitVscale (f : FV) : VUnit := vfix f VShape.float2 4 (scaleRow)
/-- VSCALE (R143), alone in its bundle. -/
def execVscale (f : FV) (s : State) : Host.Outcome State Fault Refusal := runBundle [unitVscale f] s

/-- VRND as a unit of a bundle (R143). -/
def unitVrnd (f : FV) : VUnit := vfix f VShape.float1 4 (lane1 (float1 fun x a => vRound x.rm a))
/-- VRND (R143), alone in its bundle. -/
def execVrnd (f : FV) (s : State) : Host.Outcome State Fault Refusal := runBundle [unitVrnd f] s

/-- VLD as a unit of a bundle (R144). -/
def unitVld (f : FV) : VUnit := ⟨f, VShape.load, .load .unit⟩
/-- VLD (R144), alone in its bundle. -/
def execVld (f : FV) (s : State) : Host.Outcome State Fault Refusal := runBundle [unitVld f] s

/-- VST as a unit of a bundle (R144). -/
def unitVst (f : FV) : VUnit := ⟨f, VShape.store, .store .unit⟩
/-- VST (R144), alone in its bundle. -/
def execVst (f : FV) (s : State) : Host.Outcome State Fault Refusal := runBundle [unitVst f] s

/-- VLDS as a unit of a bundle (R144). -/
def unitVlds (f : FV) : VUnit := ⟨f, VShape.load, .load .strided⟩
/-- VLDS (R144), alone in its bundle. -/
def execVlds (f : FV) (s : State) : Host.Outcome State Fault Refusal := runBundle [unitVlds f] s

/-- VSTS as a unit of a bundle (R144). -/
def unitVsts (f : FV) : VUnit := ⟨f, VShape.store, .store .strided⟩
/-- VSTS (R144), alone in its bundle. -/
def execVsts (f : FV) (s : State) : Host.Outcome State Fault Refusal := runBundle [unitVsts f] s

/-- VGATH as a unit of a bundle (R144). -/
def unitVgath (f : FV) : VUnit := ⟨f, VShape.gath, .load .gather⟩
/-- VGATH (R144), alone in its bundle. -/
def execVgath (f : FV) (s : State) : Host.Outcome State Fault Refusal := runBundle [unitVgath f] s

/-- VSCAT as a unit of a bundle (R144). -/
def unitVscat (f : FV) : VUnit := ⟨f, VShape.scat, .store .gather⟩
/-- VSCAT (R144), alone in its bundle. -/
def execVscat (f : FV) (s : State) : Host.Outcome State Fault Refusal := runBundle [unitVscat f] s

/-- VSETT as a unit of a bundle (R147). -/
def unitVsett (f : FV) : VUnit := vfix f VShape.sett 1 ((fun x => .sett (vopVal x.seq x.f.a)))
/-- VSETT (R147), alone in its bundle. -/
def execVsett (f : FV) (s : State) : Host.Outcome State Fault Refusal := runBundle [unitVsett f] s

/-- VMOV as a unit of a bundle (R147). -/
def unitVmov (f : FV) : VUnit := vfix f VShape.mov 2 (lane1 (fun _ a => a))
/-- VMOV (R147), alone in its bundle. -/
def execVmov (f : FV) (s : State) : Host.Outcome State Fault Refusal := runBundle [unitVmov f] s

/-- VMSET as a unit of a bundle (R147). -/
def unitVmset (f : FV) : VUnit := vfix f VShape.mset 2 (anySet)
/-- VMSET (R147), alone in its bundle. -/
def execVmset (f : FV) (s : State) : Host.Outcome State Fault Refusal := runBundle [unitVmset f] s

/-- VMGET as a unit of a bundle (R147). -/
def unitVmget (f : FV) : VUnit := vfix f VShape.mget 2 (maskRow)
/-- VMGET (R147), alone in its bundle. -/
def execVmget (f : FV) (s : State) : Host.Outcome State Fault Refusal := runBundle [unitVmget f] s

/-- The unit of a vector function. -/
def vunit (f : FV) : VFn → VUnit
  | .vadd => unitVadd f
  | .vsub => unitVsub f
  | .vmul => unitVmul f
  | .vfma => unitVfma f
  | .vfms => unitVfms f
  | .vmin => unitVmin f
  | .vmax => unitVmax f
  | .vabs => unitVabs f
  | .vneg => unitVneg f
  | .vdiv => unitVdiv f
  | .vsqrt => unitVsqrt f
  | .vcpys => unitVcpys f
  | .viadd => unitViadd f
  | .visub => unitVisub f
  | .vimul => unitVimul f
  | .vimin => unitVimin f
  | .vimax => unitVimax f
  | .viabs => unitViabs f
  | .vand => unitVand f
  | .vor => unitVor f
  | .vxor => unitVxor f
  | .vnot => unitVnot f
  | .vshl => unitVshl f
  | .vshr => unitVshr f
  | .vsar => unitVsar f
  | .vrotl => unitVrotl f
  | .vceq => unitVceq f
  | .vcne => unitVcne f
  | .vclt => unitVclt f
  | .vcle => unitVcle f
  | .vcltu => unitVcltu f
  | .vcleu => unitVcleu f
  | .vfclass => unitVfclass f
  | .vsel => unitVsel f
  | .vmand => unitVmand f
  | .vmor => unitVmor f
  | .vmcnt => unitVmcnt f
  | .vexp2 => unitVexp2 f
  | .vlog2 => unitVlog2 f
  | .vrcp => unitVrcp f
  | .vrsqrt => unitVrsqrt f
  | .vtanh => unitVtanh f
  | .verf => unitVerf f
  | .vredadd => unitVredadd f
  | .vredmax => unitVredmax f
  | .vredmin => unitVredmin f
  | .vscan => unitVscan f
  | .vshuf => unitVshuf f
  | .vbcast => unitVbcast f
  | .vextr => unitVextr f
  | .viota => unitViota f
  | .vcvt => unitVcvt f
  | .vpack => unitVpack f
  | .vunpk => unitVunpk f
  | .vscale => unitVscale f
  | .vrnd => unitVrnd f
  | .vld => unitVld f
  | .vst => unitVst f
  | .vlds => unitVlds f
  | .vsts => unitVsts f
  | .vgath => unitVgath f
  | .vscat => unitVscat f
  | .vsett => unitVsett f
  | .vmov => unitVmov f
  | .vmset => unitVmset f
  | .vmget => unitVmget f

end Sys2Proof.Machine
end

