-- ==== Sys2Proof/Machine/Matrix.lean ====
section
/-! DEFINITION. The matrix engine: the nest checks of MGO (R159), reductions, k-steps, table lookup, chaining, adapters
and the lens cache (R158 to R178), and its instructions (R180 to R186). -/

namespace Sys2Proof.Machine

/-- Whether a format code is a binary8 format (R153). -/
def isB8Fmt (f : Nat) : Bool := decide (0x24 ≤ f) && decide (f ≤ 0x3F)
/-- Whether a format code is assigned (R153). -/
def fmtAssigned (f : Nat) : Bool := (decide (1 ≤ f) && decide (f ≤ 6)) || f == 8 || f == 9 || f == 10 || isB8Fmt f
/-- Whether a format is a table-lookup weight format. -/
def isWFmt (f : Nat) : Bool := f == 8 || f == 9 || f == 10
/-- The weight's bits of a table-lookup format. -/
def wBits (f : Nat) : Nat := if f = 8 then 1 else if f = 9 then 2 else 4
/-- The element size of an operand format. -/
def elemSize (f : Nat) : Nat := if f = 1 ∨ f = 2 then 2 else 1
/-- The format of an operand's elements. -/
def elemFmt (f : Nat) : Fmt := if f = 1 then fmtF16 else if f = 2 then fmtBF16 else fmtB8 (f % 32)
/-- K, the reduction elements of a k-step (R89 to R91). -/
def kOf (mode fa fb : Nat) : Nat := if mode = 1 then 128 / wBits fb else if fa = 1 ∨ fa = 2 then 16 else 32
/-- CH, the chunk of an operand row (R154). -/
def chOf (mode fa fb : Nat) (isB : Bool) : Nat :=
  if mode = 1 then (if isB then 16 else kOf mode fa fb * elemSize fa) else 32

/-- K of a nest. -/
def nestK (x : Shadow) : Nat := kOf (atMode x) (sdFmt (atA x)) (sdFmt (atB x))

/-- Whether `p` holds of the numbers from `i`, `n` of them. -/
def allFrom (p : Nat → Bool) (i : Nat) : Nat → Bool
  | 0 => true
  | n + 1 => p i && allFrom p (i + 1) n

/-- The alignment rule of a scratchpad stream (R154); an adapter-ID stream has no pitch. -/
def streamAligned (d : StreamDesc) : Bool :=
  let m := if isWFmt (sdFmt d) then 16 else 32
  sdBase d % m == 0 && (sdFmt d == 6 || sdPitch d % m == 0) && (upFrom 0 6).all fun l => sdStride d l % (m : Int) == 0

/-- Whether a used descriptor has a reserved field or breaks R154 or R155. -/
def streamOk (d : StreamDesc) : Bool :=
  decide (sdSpace d < 2) && fmtAssigned (sdFmt d) && decide (sdGeom d < 6)
  && (sdGeom d == 0 || isB8Fmt (sdFmt d))
  && (sdSpace d != 0 || streamAligned d)
  && !(sdSpace d == 0 && sdGeom d != 0 && sdPitch d == 0)

/-- The rules of an A stream in the accumulator (R156, R165). R165 gives conversions to binary8, F16 and BF16 only: the model
refuses an INT8 stream there as an illegal nest (DESIGN CHOICE, log 45). -/
def chainOk (x : Shadow) (start : Nat) : Bool :=
  let a := atA x
  sdSpace a != 1 ||
  (sdFmt a != 3 && (!isB8Fmt (sdFmt a) || sdGeom a != 0)
   && sdBase a % nestK x == 0 && (upFrom 0 6).all (fun l => sdStride a l % (nestK x : Int) == 0)
   && allFrom (fun i => let v := streamAt x a i 0; decide (0 ≤ v) && decide (v < 512)) (start * nestRed x)
        ((nestNred x - start) * nestRed x))

/-- The rules of the target (R156). -/
def nestTargetOk (x : Shadow) (start : Nat) : Bool :=
  sdSpace (atT x) == 1
  && allFrom (fun q => let v := nestXT x q; decide (0 ≤ v) && decide (v < 512) && v % 128 == 0) start (nestNred x - start)

/-- The formats of A, B and target that go together in a mode (R159). -/
def formatsGo (mode fa fb ft : Nat) : Bool :=
  if mode = 0 then fa == fb && (fa == 1 || fa == 2 || fa == 3 || isB8Fmt fa) && ft == (if fa = 3 then 5 else 4)
  else (fa == 1 || fa == 2 || isB8Fmt fa) && isWFmt fb && ft == 4

/-- The formats of a nest (R159). -/
def formatsOk (x : Shadow) : Bool := formatsGo (atMode x) (sdFmt (atA x)) (sdFmt (atB x)) (sdFmt (atT x))

/-- The rules of IDEN (R159). -/
def adapterOk (x : Shadow) : Bool :=
  !atIden x || (sdFmt (atA x) != 3 && sdSpace (atIdSd x) == 0 && sdFmt (atIdSd x) == 6 && streamOk (atIdSd x)
    && fld x.adtab 5 0 == 0 && sdPitch (atB x) != 0)

/-- Item 1 of R159: whether the nest is legal. -/
def nestLegal (x : Shadow) (start : Nat) : Bool :=
  atRlev x != 0 && atRlev x != 7 && decide (atMode x < 2) && streamOk (atA x) && streamOk (atB x) && streamOk (atT x)
  && sdSpace (atB x) == 0 && formatsOk x && adapterOk x && decide (start < nestNred x) && nestTargetOk x start && chainOk x start

/-- Item 3 of R159: whether a tile that the chained A stream reads is one that the target names. -/
def chainBusy (x : Shadow) (start : Nat) : Bool :=
  sdSpace (atA x) == 1 &&
  !allFrom (fun i => !namesTile x start ((streamAt x (atA x) i 0).toNat / 128)) (start * nestRed x)
     ((nestNred x - start) * nestRed x)

/-! The instructions. -/

/-- An F-E instruction without a result that retires at issue: its SIGMASK is set there (R60). -/
def feAct (f : FE) (srcs : List Reg) (seqs : List Seq) (pre : State → Pre Unit) (act : State → State) : Op Unit :=
  { len := 2, tk := f.tk, seqs := seqs, handler := false, flags := feFlags f, srcs := srcs, pre := pre,
    eff := fun _ s => signal (act s) f.sig }

/-- The sequencers of the matrix instructions (R179). -/
def matSeqs : List Seq := [.ctrl, .exec]

/-- MSETN (R180). -/
def execMsetn (f : FE) (s : State) : Host.Outcome State Fault Refusal :=
  runOp (feAct f [f.a, f.b] matSeqs
    (fun s => if 5 < (reg s f.a).toNat ∨ reg s f.b = 0 ∨ 2 ^ 24 < (reg s f.b).toNat then .fault (causeHere s codeIllegal) s else .go () s)
    fun s => later s (.shTc s.cur.node s.cur.core (reg s f.a).toNat (reg s f.b).toNat)) s

/-- MSETS (R180). -/
def execMsets (f : FE) (s : State) : Host.Outcome State Fault Refusal :=
  runOp (feAct f [f.a, f.b] matSeqs
    (fun s => if fld (reg s f.a) 63 7 ≠ 0 ∨ 4 < fld (reg s f.a) 6 4 then .fault (causeHere s codeIllegal) s else .go () s)
    fun s => later s (.shSd s.cur.node s.cur.core (fld (reg s f.a) 3 0) (fld (reg s f.a) 6 4) (reg s f.b))) s

/-- MSETA (R180). -/
def execMseta (f : FE) (s : State) : Host.Outcome State Fault Refusal :=
  runOp (feAct f [f.a, f.b] matSeqs preOk
    fun s => later s (.shAttr s.cur.node s.cur.core (reg s f.a) (reg s f.b))) s

/-- MCLRS (R180). -/
def execMclrs (f : FE) (s : State) : Host.Outcome State Fault Refusal :=
  runOp (feAct f [] matSeqs preOk fun s => later s (.shClr s.cur.node s.cur.core)) s

/-- Puts an entry into the matrix queue (R150); it may act 8 cc later (R164). -/
def mqPut (s : State) (op : MOp) (sig : BitVec 16) : State :=
  let r := newTag s
  let e : MEntry := ⟨op, sig, r.1, false, 0, coreCyc s s.cur.node s.cur.core + 8, 0⟩
  modCc r.2 fun k => { k with mq := k.mq ++ [e] }

/-- A queued matrix instruction: its SIGMASK is set at the entry's completion (R150, R179). -/
def feQueue (f : FE) (srcs : List Reg) (pre : State → Pre MOp) (room : State → Bool) : Op MOp :=
  { len := 2, tk := f.tk, seqs := matSeqs, handler := false, flags := feFlags f, srcs := srcs, pre := pre,
    room := fun s => mqRoom (cc s) && room s, eff := fun op s => mqPut s op f.sig }

/-- MGO (R159, R160, R181). -/
def execMgo (f : FE) (s : State) : Host.Outcome State Fault Refusal :=
  runOp (feQueue f [f.a]
    (fun s =>
      let x := (cc s).shadow
      let start := (reg s f.a).toNat
      if !nestLegal x start then .fault (causeHere s codeIllegal) s
      else if fld (cc s).redLimit 23 0 < nestRed x then .fault (causeHere s codeRedLen) s
      else if chainBusy x start then .fault (causeHere s codeAccBusy) s
      else .go (.go x start) s)
    fun s => !rowDue (cc s) fun i => namesTile (cc s).shadow (reg s f.a).toNat (i / 128)) s

/-- An F-E instruction with a result of a latency and SIGMASK at retirement (R97). -/
def feResult (f : FE) (srcs : List Reg) (seqs : List Seq) (lat : Nat) (pre : State → Pre Word) (room : State → Bool) : Op Word :=
  { len := 2, tk := f.tk, seqs := seqs, handler := false, flags := feFlags f, srcs := srcs, flying := 1, now := false,
    pre := pre, room := room, eff := fun v s => flyReg s f.d v lat (pushKey s f.tk) f.sig }

/-- The matrix-queue entries that have not completed (R182, R183). -/
def mqCount (k : Core) : Nat := (k.mq.filter fun e => match e.op with | .join _ => false | _ => true).length

/-- MWAIT (R182). -/
def execMwait (f : FE) (s : State) : Host.Outcome State Fault Refusal :=
  runOp (feResult f [f.a] matSeqs 2 (fun s => .go (cc s).mprog s) fun s => decide (mqCount (cc s) ≤ (reg s f.a).toNat)) s

/-- The rows on the replay list. -/
def replayRows (r : Reduction) : Nat :=
  (r.replay.foldl (fun (acc : List Nat) p => if acc.contains p.1 then acc else p.1 :: acc) []).length

/-- The MSTAT status word (R183). -/
def mstatWord (k : Core) : Word :=
  let kk := match k.red with | some r => r.kk | none => 0
  let rp := match k.red with | some r => replayRows r | none => 0
  BitVec.ofNat 64 (kk * 2 ^ 32 + rp * 256 + 16 * b2n k.ret.isSome + 8 * b2n k.red.isSome + mqCount k)

/-- MSTAT (R183). -/
def execMstat (f : FE) (s : State) : Host.Outcome State Fault Refusal :=
  runOp (feResult f [f.a] matSeqs 2
    (fun s =>
      let k := cc s
      match (reg s f.a).toNat with
      | 0 => .go (mstatWord k) s
      | 1 => .go k.mprog s
      | 2 => .go (BitVec.ofNat 64 k.lensHits) s
      | 3 => .go (BitVec.ofNat 64 k.lensMiss) s
      | 4 => .go (BitVec.ofNat 64 k.replays) s
      | _ => .fault (causeHere s codeIllegal) s) fun _ => true) s

/-- The instructions that take a matrix-queue entry (R150). -/
def queuesMatrix : EFn → Bool
  | .mgo | .acopy | .aclr | .adload | .adinv => true
  | _ => false

/-- The F-E instruction at a sequencer's program counter. -/
def standsAt (k : Sequencer) (q : Seq) : Option (FE × EFn) :=
  match lineAt k, k.past with
  | some w, false =>
    let us := lineUnits w (k.pc.toNat % 16)
    if q = .exec then match decodeGroup us with
      | .single (.e g f) _ => some (f, g)
      | _ => none
    else match decodeUnits us with
      | .ok (.e g f) _ => some (f, g)
      | _ => none
  | _, _ => none

/-- Whether a sequencer stands at a matrix instruction for which only the engine's acceptance is wanting: it is pending in
the sense of R184 (DEDUCED, log 47). -/
def matrixPending (s : State) (q : Seq) : Bool :=
  let t := { s with cur := { s.cur with seq := q } }
  mayIssue t && match standsAt (cs t) q with
  | some (f, g) => queuesMatrix g && flagsSet t f.wait && tokensThere t f.tk [] && tokensRoom t f.tk [] && srcsReady t [f.a, f.b]
  | none => false

/-- MABORT (R184): a retirement under way and an ACOPY, ACLR or ADINV that has begun go on; every other entry is dropped and
counted, its busy marks staying while the engine is not idle; joins stay in their queues. -/
def abortMatrix (s : State) : State :=
  modCc s fun k =>
    let stays (e : MEntry) : Bool := runsOn e || match e.op with | .join _ => true | _ => false
    let gone := k.mq.filter fun e => !stays e
    { k with red := none, mq := k.mq.filter stays, mDone := k.mDone + BitVec.ofNat 32 gone.length,
             dropped := if (engineEnds k).isEmpty then [] else k.dropped ++ gone }

/-- MABORT (R184): it waits for the pending instructions of the core's other sequencer, and retires when the engine is idle. -/
def execMabort (f : FE) (s : State) : Host.Outcome State Fault Refusal :=
  runOp { feAct f [] matSeqs preOk id with
          flying := 1, now := false,
          room := fun s => !(matSeqs.any fun q => q != s.cur.seq && matrixPending s q),
          eff := fun _ s => match engineEnds (cc s) with
            | [] => signal (retirePushes (abortMatrix s) f.tk []) f.sig
            | l => flyReg (abortMatrix s) 0 0 (l.foldl max 0 - coreCyc s s.cur.node s.cur.core + 1) (pushKey s f.tk) f.sig } s

/-- ACOPY (R185). -/
def execAcopy (f : FE) (s : State) : Host.Outcome State Fault Refusal :=
  runOp (feQueue f [f.a, f.b]
    (fun s =>
      let a := reg s f.a
      let m := (reg s f.b).toNat
      if fld a 63 25 ≠ 0 ∨ fld a 15 9 ≠ 0 ∨ m = 0 ∨ 512 < fld a 8 0 + m ∨ 512 < fld a 24 16 + m then
        .fault (causeHere s codeIllegal) s
      else .go (.acopy (fld a 8 0) (fld a 24 16) m) s) fun _ => true) s

/-- ACLR (R185). -/
def execAclr (f : FE) (s : State) : Host.Outcome State Fault Refusal :=
  runOp (feQueue f [f.a, f.b]
    (fun s =>
      let a := (reg s f.a).toNat
      let m := (reg s f.b).toNat
      if m = 0 ∨ 512 < a + m then .fault (causeHere s codeIllegal) s else .go (.aclr a m) s) fun _ => true) s

/-- ADLOAD (R186): the formats that its shadow set names must be ones that an MGO with IDEN set accepts. -/
def execAdload (f : FE) (s : State) : Host.Outcome State Fault Refusal :=
  runOp (feQueue f [f.a, f.b]
    (fun s =>
      let x := (cc s).shadow
      if fld (reg s f.a) 63 16 ≠ 0 ∨ fld (reg s f.b) 63 32 ≠ 0 ∨ 2 ≤ atMode x
          ∨ !(formatsGo (atMode x) (sdFmt (atA x)) (sdFmt (atB x)) 4)
      then .fault (causeHere s codeIllegal) s
      else .go (.adload (fld (reg s f.a) 15 0) (fld (reg s f.b) 15 0) (fld (reg s f.b) 31 16) x) s) fun _ => true) s

/-- ADINV (R186). -/
def execAdinv (f : FE) (s : State) : Host.Outcome State Fault Refusal :=
  runOp (feQueue f [f.a]
    (fun s => if fld (reg s f.a) 63 17 ≠ 0 then .fault (causeHere s codeIllegal) s
              else .go (.adinv (fld (reg s f.a) 15 0) (bit (reg s f.a) 16)) s) fun _ => true) s

/-! Reading operands. -/

/-- A fault of the engine: code, underlying code, address (R174). -/
structure EFault where
  code : Nat
  sub  : Nat
  addr : Word
  deriving DecidableEq, Repr

/-- Reads scratchpad bytes for the engine (R154, R174): XLATE beyond the partition, POISON of a poisoned line. Of an address
below 0, which R154 does not speak of, the model faults XLATE with the address, sign-extended, in TRAPADDR (DESIGN CHOICE,
log 45). -/
def engineRead (k : Core) (off : Int) (n : Nat) : Sum EFault Nat :=
  if off < 0 ∨ ((k.part * 8192 : Nat) : Int) < off + n then
    .inl ⟨codeXlate, 0, if off < 0 then toWord off else BitVec.ofNat 64 (max off.toNat (k.part * 8192))⟩
  else
    match (upFrom (off.toNat / 128) ((off.toNat % 128 + n + 127) / 128)).find? fun l => smGet k.spadPoison false l with
    | some l => .inl ⟨codePoison, 0, BitVec.ofNat 64 (max off.toNat (l * 128))⟩
    | none => .inr (spadRead k off.toNat n)

/-- A list of reads, the first fault standing. -/
def readAll {α : Type} (f : α → Sum EFault Nat) : List α → Sum EFault (List Nat)
  | [] => .inr []
  | x :: r => match f x with
    | .inl e => .inl e
    | .inr v => match readAll f r with
      | .inl e => .inl e
      | .inr l => .inr (v :: l)

/-- The block size of a geometry (R87). -/
def geomSize (g : Nat) : Nat := match g with | 1 => 16 | 2 => 32 | 3 => 64 | 4 => 128 | _ => 16

/-- The address of the scale byte of offset Y (R155). -/
def scaleAt (d : StreamDesc) (y : Nat) : Nat :=
  let p := sdPitch d
  if sdGeom d = 5 then sdScBase d + y / p / 8 * sdScStride d + y % p / 16
  else sdScBase d + y / p * sdScStride d + y % p / geomSize (sdGeom d)

/-- A scaled element (R86). -/
def scaled (v : Val) (e : Nat) : Val := if e = 128 then .nan else vScale v (sextN e 8)

/-- One operand row of a scratchpad stream as values (R154, R155): `cnt` elements. -/
def streamRow (k : Core) (d : StreamDesc) (x : Int) (cnt r : Nat) : Sum EFault (List Val) :=
  let es := elemSize (sdFmt d)
  let off := x + ((r * sdPitch d : Nat) : Int)
  match engineRead k off (cnt * es) with
  | .inl e => .inl e
  | .inr raw =>
    let vals := (chunks (8 * es) cnt raw).map (decodeF (elemFmt (sdFmt d)))
    if sdGeom d = 0 then .inr vals
    else
      match readAll (fun c => engineRead k (scaleAt d (off.toNat + c)) 1) (upFrom 0 cnt) with
      | .inl e => .inl e
      | .inr sc => .inr ((vals.zip sc).map fun p => scaled p.1 p.2)

/-- The 128 rows of a scratchpad stream. -/
def streamRows (k : Core) (d : StreamDesc) (x : Int) (cnt : Nat) : Nat → Nat → Sum EFault (List (List Val))
  | _, 0 => .inr []
  | r, n + 1 => match streamRow k d x cnt r with
    | .inl e => .inl e
    | .inr v => match streamRows k d x cnt (r + 1) n with
      | .inl e => .inl e
      | .inr l => .inr (v :: l)

/-- The cells of an accumulator row (R149). -/
def rowCells (r : Row) : List Nat := chunks 32 128 r.toNat

/-- Whether a magnitude rounds to at most the largest finite value after scaling by 2^−e (R88). -/
def fitsScale (m : Fmt) (v : Val) (e : Int) : Bool :=
  match vScale v (-e) with
  | .fin _ k d x => let g := gridBelow m k d x; decide ((if roundsUp 0 false g.1 g.2 then g.1 + 1 else g.1) ≤ m.maxC)
  | _ => false

/-- The exponent of a value's leading bit. -/
def leadExp : Val → Int
  | .fin _ m _ e => (Nat.log2 m : Int) + e
  | _ => 0

/-- The least exponent at which the magnitude fits, from `e` up (R88). -/
def leastScale (m : Fmt) (v : Val) (e : Int) : Nat → Int
  | 0 => e
  | n + 1 => if fitsScale m v e then e else leastScale m v (e + 1) n

/-- The scale of a block (R88): none is a NaN block. -/
def blockScale (m : Fmt) (l : List Val) : Option Int :=
  if l.any fun v => vIsNan v || (m.infC.isNone && match v with | .inf _ => true | _ => false) then none
  else
    let top := l.foldl (fun a v => match v with | .inf _ => a | v => vMax a (vAbs v)) vZero
    if vIsZero top then some 0
    else some (min (max (leastScale m top (leadExp top - leadExp (decodeF m m.maxC) - 3) 8) (-127)) 127)

/-- An element as the down-converter hands it to the array (R88, R165). -/
def downConvert (m : Fmt) (e : Option Int) (v : Val) : Val :=
  match e with
  | none => .nan
  | some e => vScale (decodeF m (roundF m 0 true (vScale v (-e)))) e

/-- The block of cells that shares the scale of cell (i, c) of a tile (R87, R165). -/
def chainBlock (acc : SMap Row) (tile geom i c : Nat) : List Val :=
  let row (r : Nat) : List Val := (rowCells (smGet acc 0 (128 * tile + r))).map (decodeF fmtF32)
  if geom = 5 then (upFrom (i / 8 * 8) 8).flatMap fun r => ((row r).drop (c / 16 * 16)).take 16
  else ((row i).drop (c / geomSize geom * geomSize geom)).take (geomSize geom)

/-- One row of a chained A stream (R165). -/
def chainRow (acc : SMap Row) (d : StreamDesc) (x : Int) (cnt i : Nat) : List Val :=
  let tile := x.toNat / 128
  let c0 := x.toNat % 128
  let cells := ((((rowCells (smGet acc 0 (128 * tile + i))).drop c0).take cnt).map (decodeF fmtF32))
  let m := elemFmt (sdFmt d)
  if isB8Fmt (sdFmt d) then
    ((upFrom c0 cnt).zip cells).map fun p => downConvert m (blockScale m (chainBlock acc tile (sdGeom d) i p.1)) p.2
  else cells.map fun v => decodeF m (roundF m 0 false v)

/-- The first row of a range that an uncorrectable error has struck, as a POISON fault (R174); its TRAPADDR, the row's place in
bytes, is the model's (DESIGN CHOICE, log 47). -/
def accBad (k : Core) (first n : Nat) : Option EFault :=
  (((upFrom first n).find? fun i => smGet k.accPoison false i)).map fun i => ⟨codePoison, 0, BitVec.ofNat 64 (512 * i)⟩

/-- The A operand rows of a k-step (R154, R165). -/
def operandA (k : Core) (x : Shadow) (q kk : Nat) : Sum EFault (List (List Val)) :=
  let d := atA x
  if sdSpace d = 1 then match accBad k (128 * ((nestXA x q kk).toNat / 128)) 128 with
  | some e => .inl e
  | none => .inr ((upFrom 0 128).map (chainRow k.acc d (nestXA x q kk) (nestK x)))
  else streamRows k d (nestXA x q kk) (nestK x) 0 128

/-- A dot product, exact (R89): a zero sum is +0. -/
def dot (a b : List Val) : Val :=
  let s := (a.zip b).foldl (fun acc p => vAdd 0 acc (vMul p.1 p.2)) vZero
  if vIsZero s then vZero else s

/-- One cell's update (R89). -/
def addCell (cell : Nat) (v : Val) : Nat := roundF fmtF32 0 false (vAdd 0 (decodeF fmtF32 cell) v)

/-- The dense float k-step of a row (R89). -/
def denseRow (cells : List Nat) (a : List Val) (b : List (List Val)) : List Nat :=
  (cells.zip b).map fun p => addCell p.1 (dot a p.2)

/-- An INT8 row as integers. -/
def int8Row (raw : Nat) : List Int := (chunks 8 32 raw).map fun v => sextN v 8
/-- The INT8 k-step of a row (R90). -/
def intRow (cells : List Nat) (a : List Int) (b : List (List Int)) : List Nat :=
  (cells.zip b).map fun p => wrapN 32 ((p.1 : Int) + (a.zip p.2).foldl (fun s e => s + e.1 * e.2) 0)

/-- A weight of a code (R91). -/
def weight (bits code : Nat) : Int := if bits = 1 then 2 * (code : Int) - 1 else sextN code bits
/-- The weights of a B row in table-lookup mode (R91, R166): group g's code lies at bits 4g + 3 … 4g. -/
def weightRow (bits raw : Nat) : List Val := (chunks bits (128 / bits) raw).map fun c => vInt (weight bits c)
/-- The table-lookup k-step of a row (R91): σ(n) × S(n), a zero term taken as +0 whatever σ(n)'s sign (DESIGN CHOICE, log 45). -/
def lutCells (cells : List Nat) (a : List Val) (b : List (List Val)) (sig : List Nat) : List Nat :=
  (cells.zip (b.zip sig)).map fun p =>
    let v := vMul (decodeF fmtF32 p.2.2) (dot a p.2.1)
    addCell p.1 (if vIsZero v then vZero else v)

/-- The B row number of XB; the quotient by a zero pitch is a value the spec does not state (log 5). -/
def bRowOf (xb : Int) (pitch : Nat) : Nat := if pitch = 0 then (Config.freeWord xb.toNat).toNat % 2 ^ 16 else xb.toNat / pitch

/-- A k-step of the main array (R162, R166): the working rows after it, or the fault. -/
def mainStep (k : Core) (x : Shadow) (r : Reduction) : Sum EFault (SMap Row) :=
  let xa := nestXA x r.q r.kk
  let xb := nestXB x r.q r.kk
  let b := atB x
  let rawRows (d : StreamDesc) (p : Int) (n : Nat) := readAll (fun i => engineRead k (p + ((i * sdPitch d : Nat) : Int)) n) (upFrom 0 128)
  let put (f : Nat → List Nat → List Nat) : SMap Row :=
    (upFrom 0 128).foldl (fun m i => smPut m i (lanesRow 4 (f i (rowCells (smGet r.work 0 i))))) []
  if sdFmt (atA x) = 3 then
    match rawRows (atA x) xa 32 with
    | .inl e => .inl e
    | .inr la => match rawRows b xb 32 with
      | .inl e => .inl e
      | .inr lb =>
        let bb := lb.map int8Row
        .inr (put fun i cells => intRow cells (int8Row (la.getD i 0)) bb)
  else
    match operandA k x r.q r.kk with
    | .inl e => .inl e
    | .inr la =>
      if atMode x = 0 then
        match streamRows k b xb (nestK x) 0 128 with
        | .inl e => .inl e
        | .inr lb => .inr (put fun i cells => denseRow cells (la.getD i []) lb)
      else
        match rawRows b xb 16 with
        | .inl e => .inl e
        | .inr lb =>
          let row0 := bRowOf xb (sdPitch b)
          match readAll (fun i => engineRead k ((sdScBase b + 4 * (row0 + i) : Nat) : Int) 4) (upFrom 0 128) with
          | .inl e => .inl e
          | .inr sg =>
            let ws := lb.map (weightRow (wBits (sdFmt b)))
            .inr (put fun i cells => lutCells cells (la.getD i []) ws sg)

/-! Adapters and the lens cache. -/

/-- Fields of an adapter table entry (R168). -/
def adGen (e : Nat) : Nat := bitsOf e 183 176
def adAf (e : Nat) : Nat := bitsOf e 168 168
def adRank (e : Nat) : Nat := bitsOf e 164 160 + 1
def adAlpha (e : Nat) : Nat := bitsOf e 159 128
def adBbase (e : Nat) : Word := BitVec.ofNat 64 (bitsOf e 127 64)
def adAbase (e : Nat) : Word := BitVec.ofNat 64 (bitsOf e 63 0)
/-- The slice element size. -/
def adSize (e : Nat) : Nat := if adAf e = 1 then 1 else 2
/-- The bytes of the A slice and of the B slice (R168). -/
def adBytesA (e kSteps : Nat) : Nat := kSteps * adRank e * adSize e
def adBytesB (e : Nat) : Nat := adRank e * 128 * adSize e

/-- The mark of a read that must wait, for a trapped gang peer (R390) or for the HBM bucket (R33). -/
def engineWait : EFault := ⟨0, 0, 0⟩

/-- Reads bytes in a task's address space for the engine, piece by piece within lines; the fault names its address. -/
def engineLoad (n c : Nat) : Nat → Word → Nat → State → Sum EFault (List Byte) × State
  | 0, _, _, s => (.inr [], s)
  | fuel + 1, va, len, s =>
    if len = 0 then (.inr [], s) else
    let size := min len (128 - va.toNat % 128)
    let cls := classOf (co s n c)
    match chk s n c va size .r with
    | .wait => (.inl engineWait, s)
    | .fault code s => (.inl ⟨code, 0, va⟩, s)
    | .ok t s' =>
      if hbmHold s' n c cls t size false || remoteBusy s' n c t then (.inl engineWait, s) else
      let g : Nat × Nat × State := match t with
        | .remote m rl off =>
          let x := windowNow s' ⟨n, c, .ctrl, 0, m, rl, fld (co s n c).asid 5 0, off, size, .load, 0, false, cls⟩
          (x.2.data.toNat % 2 ^ (8 * size), if x.2.code ≠ 0 then x.2.code else if x.2.poison then codePoison else 0, x.1)
        | t =>
          let g := readT s' n c (some cls) t size
          if g.poison then (0, codePoison, keepTlb s s' n c) else (g.v, 0, g.s)
      if g.2.1 ≠ 0 then (.inl ⟨g.2.1, 0, va⟩, g.2.2)
      else match engineLoad n c fuel (va + BitVec.ofNat 64 size) (len - size) g.2.2 with
        | (.inr l, s) => (.inr (valBytes size g.1 ++ l), s)
        | x => x

/-- A fault of a table or slice read as ADAPTER with its cause (R174); a wait stays one. -/
def adapterFault (e : EFault) (at_ : Word) : EFault := if e.code = 0 then e else ⟨codeAdapter, e.code, at_⟩

/-- The VA of an adapter table entry (R167). -/
def adEntryVa (x : Shadow) (id : Nat) : Word := x.adtab + BitVec.ofNat 64 (32 * id)

/-- Reads one table entry (R167, R169, R174): ADAPTER when the read faults, or when the slices exceed 8 KiB. -/
def readEntry (s : State) (n c : Nat) (x : Shadow) (id : Nat) : Sum EFault Nat × State :=
  match engineLoad n c 3 (adEntryVa x id) 32 s with
  | (.inl e, s) => (.inl (adapterFault e (adEntryVa x id)), s)
  | (.inr l, s) =>
    let v := bytesVal l
    if 8192 < adBytesA v (nestK x) + adBytesB v then (.inl ⟨codeAdapter, 0, adEntryVa x id⟩, s) else (.inr v, s)

/-- Reads the entries of the distinct non-zero IDs. -/
def readEntries (n c : Nat) (x : Shadow) : List Nat → List (Nat × Nat) → State → Sum EFault (List (Nat × Nat)) × State
  | [], acc, s => (.inr acc, s)
  | id :: r, acc, s =>
    if id = 0 || acc.any (fun e => e.1 == id) then readEntries n c x r acc s
    else match readEntry s n c x id with
      | (.inl e, s) => (.inl e, s)
      | (.inr v, s) => readEntries n c x r (acc ++ [(id, v)]) s

/-- KT and NT of a k-step (R167). -/
def sliceKt (x : Shadow) (q kk : Nat) : Nat :=
  (nestXB x q kk).toNat % sdPitch (atB x) / chOf (atMode x) (sdFmt (atA x)) (sdFmt (atB x)) true
/-- The B column tile. -/
def sliceNt (x : Shadow) (q kk : Nat) : Nat := (nestXB x q kk).toNat / sdPitch (atB x) / 128

/-- Whether a lens entry is the one of a tag (R167). -/
def lensIs (l : LensEntry) (tenant id kt nt gen : Nat) : Bool :=
  l.tenant == tenant && l.id == id && l.kt == kt && l.nt == nt && l.gen == gen

/-- The entry of a table among those a reduction read. -/
def tabOf (r : Reduction) (id : Nat) : Nat := ((r.tab.find? fun e => e.1 == id).map fun e => e.2).getD 0

/-- The nest of a matrix-queue entry. -/
def nestOf (k : Core) (id : Nat) : Option (Shadow × Nat) :=
  match k.mq.find? fun e => e.id == id with
  | some e => match e.op with
    | .go x start => some (x, start)
    | _ => none
  | none => none

/-- Whether a core's pending replays need a lens entry (R169). -/
def lensPinned (k : Core) (l : LensEntry) : Bool :=
  match k.red with
  | none => false
  | some r => match nestOf k r.entry with
    | none => false
    | some (x, _) => r.replay.any fun p =>
        let id := r.ids.getD p.1 0
        lensIs l (tenantOf k) id (sliceKt x r.q p.2) (sliceNt x r.q p.2) (adGen (tabOf r id))

/-- The entries that stay when a new one comes to a quad's lens cache of 64, the least recently used unpinned one leaving a
full cache; none while every entry is needed by a pending replay (R169). -/
def lensRoom (s : State) (n q : Nat) : Option (List LensEntry) :=
  let cur := (qd s n q).lens
  let pinned (e : LensEntry) : Bool := (upFrom (4 * q) 4).any fun c => lensPinned (co s n c) e
  if cur.length < 64 then some cur
  else (takeFirst (fun e => !pinned e) cur.reverse).map fun x => x.2.reverse

/-- Fills a lens entry (R169): reads both slices in the task's space; without room it waits. -/
def fillLens (s : State) (n c : Nat) (x : Shadow) (ent id kt nt : Nat) : Sum EFault Unit × State :=
  match lensRoom s n (quadOf c) with
  | none => (.inl engineWait, s)
  | some cur =>
    let ka := adBytesA ent (nestK x)
    match engineLoad n c (ka + 2) (adAbase ent + BitVec.ofNat 64 (kt * ka)) ka s with
    | (.inl e, s) => (.inl (adapterFault e e.addr), s)
    | (.inr a, s) =>
      match engineLoad n c (adBytesB ent + 2) (adBbase ent + BitVec.ofNat 64 (nt * adBytesB ent)) (adBytesB ent) s with
      | (.inl e, s) => (.inl (adapterFault e e.addr), s)
      | (.inr b, s) =>
        let l : LensEntry := ⟨tenantOf (co s n c), id, kt, nt, adGen ent, adRank ent, adAf ent, BitVec.ofNat 32 (adAlpha ent),
          a, b, false⟩
        (.inr (), modQd s n (quadOf c) fun y => { y with lens := l :: cur })

/-- An engine fault: the reduction in progress is abandoned and the core will take a trap of agent 4 (R174). -/
def matrixFault (s : State) (n c : Nat) (e : EFault) : State :=
  modCo s n c fun k => { k with red := none, deferred := k.deferred ++ [⟨e.code, e.sub, 4, false, false, e.addr, 0⟩] }

/-- The element of a slice: BF16 or B8P4S-I, unscaled (R168). -/
def sliceElem (af : Nat) (b : List Byte) (i : Nat) : Val :=
  if af = 1 then decodeF (fmtB8 0b10001) (b.getD i 0).toNat
  else decodeF fmtBF16 ((b.getD (2 * i) 0).toNat + 256 * (b.getD (2 * i + 1) 0).toNat)

/-- The side-array k-step of one row (R170). -/
def sideRow (side : SMap (BitVec 32)) (i : Nat) (a : List Val) (l : LensEntry) : SMap (BitVec 32) :=
  (upFrom 0 l.rank).foldl (fun m j =>
    let col := (upFrom 0 a.length).map fun kI => sliceElem l.af l.aSlice (kI * l.rank + j)
    smPut m (32 * i + j) (BitVec.ofNat 32 (addCell (smGet side 0 (32 * i + j)).toNat (dot a col)))) side

/-- The B slice of an ID kept for the retirement: of the slices that a reduction whose NT varies uses, which R170 does not
settle, the last (DESIGN CHOICE, log 45). -/
def keepB (r : Reduction) (id : Nat) (l : LensEntry) : Reduction :=
  { r with bs := (id, l.bSlice) :: r.bs.filter fun e => e.1 != id }

/-- Brings a used lens entry to the front. -/
def lensUse (s : State) (n q : Nat) (l : LensEntry) : State :=
  modQd s n q fun y => { y with lens := l :: y.lens.filter fun e => e != l }

/-- A lens entry that an uncorrectable error has struck, as the POISON fault of the lookup that uses it (R174): TRAPADDR is the
VA of its A slice (DESIGN CHOICE, log 47). -/
def lensBad (x : Shadow) (ent : Nat) (l : LensEntry) : Option EFault :=
  if l.bad then some ⟨codePoison, 0, adAbase ent + BitVec.ofNat 64 (l.kt * adBytesA ent (nestK x))⟩ else none

/-- The lens entry that a k-step of an ID uses, if the quad holds it. -/
def lensOf (s : State) (n c : Nat) (x : Shadow) (r : Reduction) (id kk : Nat) : Option LensEntry :=
  (qd s n (quadOf c)).lens.find? fun l =>
    lensIs l (tenantOf (co s n c)) id (sliceKt x r.q kk) (sliceNt x r.q kk) (adGen (tabOf r id))

/-- A fill asked for, unless it is on its way (R171). -/
def askFill (s : State) (n c : Nat) (f : Nat × Nat × Nat) : State :=
  let due := coreCyc s n c + Config.latFill
  modCo s n c fun k => { k with red := k.red.map fun r =>
    if (r.fills.any fun g => g.1 == f.1 && g.2.1 == f.2.1 && g.2.2.1 == f.2.2) then r
    else { r with fills := r.fills ++ [(f.1, f.2.1, f.2.2, due)] } }

/-- The side array's part of a k-step for one ID (R170, R171): a hit updates its rows that have not entered the replay list;
a miss asks for a fill and lists every row; rows once listed are listed again to the reduction's end. -/
def sideStep (n c : Nat) (x : Shadow) (a : List (List Val)) (s : State) (id : Nat) : State :=
  match (co s n c).red with
  | none => s
  | some r =>
    let rows := (upFrom 0 128).filter fun i => r.ids.getD i 0 == id
    match lensOf s n c x r id r.kk with
    | some l =>
      let listed (i : Nat) : Bool := r.listed.contains i
      let r1 := keepB { r with side := (rows.filter fun i => !listed i).foldl (fun m i => sideRow m i (a.getD i []) l) r.side,
                               replay := r.replay ++ (rows.filter listed).map fun i => (i, r.kk) } id l
      lensUse (modCo s n c fun k => { k with red := some r1, lensHits := k.lensHits + 1 }) n (quadOf c) l
    | none =>
      let r1 := { r with replay := r.replay ++ rows.map (fun i => (i, r.kk)),
                         listed := r.listed ++ rows.filter fun i => !r.listed.contains i }
      askFill (modCo s n c fun k => { k with red := some r1, lensMiss := k.lensMiss + 1 }) n c
        (id, sliceKt x r.q r.kk, sliceNt x r.q r.kk)

/-- The distinct non-zero IDs of a reduction. -/
def distinctIds (r : Reduction) : List Nat := r.tab.map fun e => e.1

/-- Cycles of one k-step (R164). -/
def stepCycles (r : Reduction) : Nat := 32 + 4 * ((distinctIds r).length - 8)

/-! The engine's steps. -/

/-- Whether the engines of a core may act: the core runs its task, or ends it and waits for its queues (R371), and this is a
cycle of its clock. -/
def engineOn (s : State) (n c : Nat) : Bool :=
  (match (co s n c).mode with
    | .run => true
    | .ending _ _ => true
    | _ => false) && decide ((co s n c).resumeAt ≤ s.now) && coreActs s n c

/-- Whether the matrix engine of a core acts: it has not stopped at a fault of its own (R174). -/
def matrixOn (s : State) (n c : Nat) : Bool := engineOn s n c && !((co s n c).deferred.any fun f => f.agent == 4)

/-- Reductions of an entry that have left START: those retired and the one in retirement. -/
def startedOf (k : Core) (e : MEntry) : Nat :=
  e.retired + (match k.ret with | some r => if r.entry == e.id then 1 else 0 | none => 0)

/-- The entry whose turn it is: the first that is not an MGO with every reduction started (R150). -/
def turnEntry (k : Core) : Option MEntry :=
  k.mq.find? fun e => match e.op with
    | .go x start => decide (start + startedOf k e < nestNred x)
    | _ => true

/-- Whether every sequencer of a core stands at a quiet point (R120). -/
def allQuiet (k : Core) : Bool :=
  allSeqs.all fun q =>
    let x := smGet k.seqs {} (seqIdx q)
    x.status == .idle || x.status == .stopped || x.quiet

/-- Whether a reduction may start (R161, R177). -/
def reductionDue (s : State) (n c : Nat) : Bool :=
  let k := co s n c
  matrixOn s n c && k.red.isNone && !k.leaving &&
  match turnEntry k with
  | some e => match e.op with
    | .go x start =>
      decide (e.due ≤ coreCyc s n c) &&
      !(match k.ret with | some r => r.tile == nestTile x (start + startedOf k e) | none => false)
    | _ => false
  | none => false

/-- REDUCTION_START (R158, R161, R167, R173): its table reads may have to wait. -/
def execReductionStart (n c : Nat) (s : State) : Host.Outcome State Fault Refusal :=
  if !reductionDue s n c then .next s else
  let s0 := s
  let k := co s n c
  match turnEntry k with
  | none => .next s
  | some e =>
    match e.op with
    | .go x start =>
      let q := start + startedOf k e
      let tile := nestTile x q
      let work : SMap Row := if atZinit x then [] else
        (upFrom 0 128).foldl (fun m i => smSet m 0 i (smGet k.acc 0 (128 * tile + i))) []
      let nseq := fld k.mprog 63 32 + 1
      let s := if e.begun then s else modCo s n c fun k =>
        { k with mprog := BitVec.ofNat 64 (nseq % 2 ^ 32 * 2 ^ 32 + start % 2 ^ 32),
                 mq := k.mq.map fun y => if y.id == e.id then { y with begun := true, ahead := nseq % 2 ^ 32 } else y }
      let mkRed (ids : List Nat) (tab : List (Nat × Nat)) : Reduction :=
        ⟨e.id, q, 0, tile, work, [], ids, tab, [], [], [], coreCyc s n c, false, false, coreCyc s n c, [],
          if e.begun then e.ahead else nseq % 2 ^ 32⟩
      match (if atZinit x then none else accBad k (128 * tile) 128) with
      | some f => .next (matrixFault s n c f)
      | none =>
      if atIden x then
        match engineRead k (nestXI x q) 256 with
        | .inl f => .next (matrixFault s n c f)
        | .inr raw =>
          let ids := chunks 16 128 raw
          match readEntries n c x ids [] s with
          | (.inl f, s') => .next (if f.code = 0 then s0 else matrixFault s' n c f)
          | (.inr tab, s) => .next (modCo s n c fun k => { k with red := some (mkRed ids tab) })
      else .next (modCo s n c fun k => { k with red := some (mkRed [] []) })
    | _ => .next s

/-- The adapter contribution of one row at retirement (R170). A zero term is +0, which a W of -0 turns into +0 (DESIGN CHOICE,
log 45). -/
def adapterRow (r : Reduction) (i : Nat) (cells : List Nat) : List Nat :=
  let id := r.ids.getD i 0
  if id = 0 then cells else
  let ent := tabOf r id
  let b := ((r.bs.find? fun e => e.1 == id).map fun e => e.2).getD []
  let t := (upFrom 0 (adRank ent)).map fun j => decodeF fmtF32 (smGet r.side 0 (32 * i + j)).toNat
  (cells.zip (upFrom 0 128)).map fun p =>
    let u := dot t ((upFrom 0 (adRank ent)).map fun j => sliceElem (adAf ent) b (128 * j + p.2))
    let v := vMul (decodeF fmtF32 (adAlpha ent)) u
    addCell p.1 (if vIsZero v then vZero else v)

/-- A reduction whose k-steps and replays are done goes into retirement as soon as the other buffer is free (R163, R164): two
retirements exclude each other (DEDUCED, log 45). -/
def toRetire (s : State) (n c : Nat) : State :=
  let k := co s n c
  match k.red, k.ret with
  | some r, none =>
    if !r.done || !r.replay.isEmpty then s else
    let rows := (upFrom 0 128).foldl (fun (m : SMap Row) i =>
      smSet m 0 i (lanesRow 4 (adapterRow r i (rowCells (smGet r.work 0 i))))) []
    let r1 := { r with work := if r.tab.isEmpty then r.work else rows, due := coreCyc s n c + (if r.tab.isEmpty then 64 else 192) }
    modCo s n c fun k => { k with red := none, ret := some r1 }
  | _, _ => s

/-- Whether a chained A stream waits for a tile whose retirement is under way (R165). -/
def chainWaits (k : Core) (x : Shadow) (r : Reduction) : Bool :=
  sdSpace (atA x) == 1 && match k.ret with
    | some y => y.tile == (nestXA x r.q r.kk).toNat / 128
    | none => false

/-- A reduction as its next k-step finds it: the first, or the one after that whose time is over. -/
def nextStep (r : Reduction) : Reduction := if r.ran then { r with kk := r.kk + 1 } else r
/-- Whether the last k-step has run. -/
def stepsOver (x : Shadow) (r : Reduction) : Bool := r.ran && decide (nestRed x ≤ r.kk + 1)

/-- Whether a k-step is due, or a finished reduction waits for its retirement. -/
def kStepDue (s : State) (n c : Nat) : Bool :=
  let k := co s n c
  matrixOn s n c && match k.red with
  | some r =>
    if r.done then r.replay.isEmpty && k.ret.isNone
    else decide (r.due ≤ coreCyc s n c) && (match nestOf k r.entry with
      | some (x, _) => stepsOver x r || !chainWaits k x (nextStep r)
      | none => false)
  | none => false

/-- One k-step (R162, R166, R170): it reads its operands as its time begins. -/
def runStep (s : State) (n c : Nat) (x : Shadow) (r : Reduction) : State :=
  let k := co s n c
  match mainStep k x r with
  | .inl e => matrixFault s n c e
  | .inr work =>
    match (distinctIds r).findSome? fun id => (lensOf s n c x r id r.kk).bind (lensBad x (tabOf r id)) with
    | some e => matrixFault s n c e
    | none =>
      let s := modCo s n c fun k =>
        { k with red := some { r with work := work, ran := true, due := coreCyc s n c + stepCycles r } }
      if r.tab.isEmpty then s else
      match operandA k x r.q r.kk with
      | .inl _ => s
      | .inr a => (distinctIds r).foldl (sideStep n c x a) s

/-- K_STEP (R162, R164): the time of a k-step is over, and the next begins or the reduction is done. -/
def execKStep (n c : Nat) (s : State) : Host.Outcome State Fault Refusal :=
  if !kStepDue s n c then .next s else
  let k := co s n c
  match k.red with
  | none => .next s
  | some r =>
    if r.done then .next (toRetire s n c) else
    match nestOf k r.entry with
    | none => .next s
    | some (x, _) =>
      if stepsOver x r then .next (toRetire (modCo s n c fun k => { k with red := some { r with done := true } }) n c)
      else .next (runStep s n c x (nextStep r))

/-- Whether the ADLOAD at the head of the queue begins or is due. -/
def adloadDue (s : State) (n c : Nat) : Bool :=
  let k := co s n c
  matrixOn s n c && k.red.isNone && k.ret.isNone && match k.mq.head? with
  | some e => match e.op with
    | .adload .. => decide (e.due ≤ coreCyc s n c)
    | _ => false
  | none => false

/-- Whether a fill is due: the first of the reduction in progress, or the ADLOAD at the head of the queue. -/
def lensFillDue (s : State) (n c : Nat) : Bool :=
  match (co s n c).red with
  | some r => matrixOn s n c && match r.fills.head? with
    | some f => decide (f.2.2.2 ≤ coreCyc s n c)
    | none => false
  | none => adloadDue s n c

/-- The fills of the reduction in progress that are due, in order (R169, R171): an entry already present is kept, and one
for which there is no room yet waits. -/
def fillsDue (n c : Nat) : Nat → State → State
  | 0, s => s
  | fuel + 1, s =>
    match (co s n c).red with
    | none => s
    | some r =>
      match r.fills, nestOf (co s n c) r.entry with
      | (id, kt, nt, due) :: rest, some (x, _) =>
        let filled (s : State) : State := modCo s n c fun k => { k with red := k.red.map fun r => { r with fills := rest } }
        if coreCyc s n c < due then s
        else if (qd s n (quadOf c)).lens.any fun l => lensIs l (tenantOf (co s n c)) id kt nt (adGen (tabOf r id)) then
          fillsDue n c fuel (filled s)
        else match fillLens s n c x (tabOf r id) id kt nt with
          | (.inl e, s') => if e.code = 0 then s else matrixFault s' n c e
          | (.inr (), s') => fillsDue n c fuel (filled s')
      | _, _ => s

/-- LENS_FILL (R171, R186): the fills of the reduction in progress that are due, or the ADLOAD at the head of the queue: its
table entry first, then its slices; an entry already present is kept. -/
def execLensFill (n c : Nat) (s : State) : Host.Outcome State Fault Refusal :=
  if !lensFillDue s n c then .next s else
  let k := co s n c
  match k.red with
  | some r => .next (fillsDue n c r.fills.length s)
  | none =>
    match k.mq.head? with
    | some e =>
      match e.op with
      | .adload id kt nt x =>
        if id = 0 then .next (mqComplete s n c e.id)
        else if !e.begun then
          .next (modCo s n c fun k => { k with mq := k.mq.map fun y =>
            if y.id == e.id then { y with begun := true, due := coreCyc s n c + Config.latFill } else y })
        else match readEntry s n c x id with
          | (.inl f, s') => .next (if f.code = 0 then s else matrixFault s' n c f)
          | (.inr ent, s1) =>
            if (qd s n (quadOf c)).lens.any fun l => lensIs l (tenantOf k) id kt nt (adGen ent) then .next (mqComplete s1 n c e.id)
            else match fillLens s1 n c x ent id kt nt with
              | (.inl f, s') => .next (if f.code = 0 then s else matrixFault s' n c f)
              | (.inr (), s') => .next (mqComplete s' n c e.id)
      | _ => .next s
    | none => .next s

/-- The listed k-steps that are their rows' earliest (R171). -/
def replayHeads (r : Reduction) : List (Nat × Nat) :=
  r.replay.filter fun p => !(r.replay.any fun y => y.1 == p.1 && decide (y.2 < p.2))

/-- The lens entry that a listed k-step of a row needs, if it has arrived. -/
def replayEntry (s : State) (n c : Nat) (x : Shadow) (r : Reduction) (p : Nat × Nat) : Option LensEntry :=
  lensOf s n c x r (r.ids.getD p.1 0) p.2

/-- The first listed k-step whose fill has arrived and that is its row's earliest (R171). -/
def replayNext (s : State) (n c : Nat) (x : Shadow) (r : Reduction) : Option Nat :=
  ((replayHeads r).find? fun p => (replayEntry s n c x r p).isSome).map fun p => p.2

/-- The listed k-steps whose entry is neither there nor on its way: an ADINV has dropped it, and the lookup misses again. -/
def replayMiss (s : State) (n c : Nat) (x : Shadow) (r : Reduction) : List (Nat × Nat × Nat) :=
  ((replayHeads r).filter fun p => (replayEntry s n c x r p).isNone).filterMap fun p =>
    let f := (r.ids.getD p.1 0, sliceKt x r.q p.2, sliceNt x r.q p.2)
    if (r.fills.any fun g => g.1 == f.1 && g.2.1 == f.2.1 && g.2.2.1 == f.2.2) then none else some f

/-- Whether a replay can run (R171): one in each 32 cc counted from the reduction's start, as its k-steps do (R164), and where
those take longer too (DEDUCED, log 45). -/
def replayDue (s : State) (n c : Nat) : Bool :=
  let k := co s n c
  matrixOn s n c && match k.red with
  | some r => !r.replay.isEmpty && (coreCyc s n c - r.t0) % 32 == 0 && (match nestOf k r.entry with
    | some (x, _) => (replayNext s n c x r).isSome || !(replayMiss s n c x r).isEmpty
    | none => false)
  | none => false

/-- The rows that are ready for a listed k-step, replayed (R170, R171): the side array re-reads their A operand. -/
def replayRun (s : State) (n c : Nat) (x : Shadow) (r : Reduction) (kk : Nat) : State :=
  let rows := (replayHeads r).filter fun p => p.2 == kk && (replayEntry s n c x r p).isSome
  match rows.findSome? fun p => (replayEntry s n c x r p).bind (lensBad x (tabOf r (r.ids.getD p.1 0))) with
  | some e => matrixFault s n c e
  | none =>
    match operandA (co s n c) x r.q kk with
    | .inl e => matrixFault s n c e
    | .inr a =>
      let s := (rows.filterMap fun p => replayEntry s n c x r p).foldl (fun s l => lensUse s n (quadOf c) l) s
      let r1 := rows.foldl (fun r p => match replayEntry s n c x r p with
        | some l => keepB { r with side := sideRow r.side p.1 (a.getD p.1 []) l } (r.ids.getD p.1 0) l
        | none => r) r
      let r2 := { r1 with replay := r.replay.filter fun p => !rows.contains p }
      toRetire (modCo s n c fun k => { k with red := some r2, replays := k.replays + rows.length }) n c

/-- REPLAY (R171). -/
def execReplay (n c : Nat) (s : State) : Host.Outcome State Fault Refusal :=
  if !replayDue s n c then .next s else
  let k := co s n c
  match k.red with
  | none => .next s
  | some r =>
    match nestOf k r.entry with
    | none => .next s
    | some (x, _) =>
      let s := (replayMiss s n c x r).foldl (fun s f => askFill s n c f) s
      match (co s n c).red, replayNext s n c x r with
      | some r, some kk => .next (replayRun s n c x r kk)
      | _, _ => .next s

/-- Whether the retirement under way is done. -/
def retireDue (s : State) (n c : Nat) : Bool :=
  engineOn s n c && match (co s n c).ret with
  | some r => decide (r.due ≤ coreCyc s n c)
  | none => false

/-- REDUCTION_RETIRE (R163, R173). -/
def execReductionRetire (n c : Nat) (s : State) : Host.Outcome State Fault Refusal :=
  if retireDue s n c then .next (retireDone s n c) else .next s

/-- Whether an accumulator operation or an ADINV at the head of the queue begins or is done. -/
def accOpDue (s : State) (n c : Nat) : Bool :=
  let k := co s n c
  matrixOn s n c && k.red.isNone && k.ret.isNone && match k.mq.head? with
  | some e => (match e.op with
    | .acopy .. => true
    | .aclr .. => true
    | .adinv .. => true
    | _ => false) && (!e.begun || decide (e.due ≤ coreCyc s n c))
  | none => false

/-- ACCUMULATOR_OP_DONE (R150, R164, R185, R186): an ACOPY, ACLR or ADINV begins, and takes effect when its rows are done. -/
def execAccumulatorOpDone (n c : Nat) (s : State) : Host.Outcome State Fault Refusal :=
  if !accOpDue s n c then .next s else
  match (co s n c).mq.head? with
  | none => .next s
  | some e =>
    if e.begun then .next (stopMatrix s n c) else
    match (match e.op with | .acopy _ src m => accBad (co s n c) src m | _ => none) with
    | some f => .next (matrixFault s n c f)
    | none =>
    let lat := match e.op with
      | .acopy _ _ m => m
      | .aclr _ m => ceilDiv m 4
      | _ => 1
    .next (modCo s n c fun k => { k with mq := k.mq.map fun y =>
      if y.id == e.id then { y with begun := true, due := coreCyc s n c + lat } else y })

end Sys2Proof.Machine
end

