-- ==== Sys2Proof/Machine/Engine.lean ====
section
/-! DEFINITION. What the copy, packet, message and collective engines and the instructions that read blocks share: reads and
writes of memory by an engine (R221, R231, R209 to R211) and completion counts (R256). -/

namespace Sys2Proof.Machine

/-- Whether a (TENANT, GIN) pair is on a node's cancel list (R391). -/
def cancelled (d : Node) (t : Nat) (g : BitVec 32) : Bool := d.cancels.contains (t, g)

/-- Whether a completion count has reached a sequence number (R256). -/
def reached (count seqNo : BitVec 32) : Bool := decide ((count - seqNo).toNat < 2 ^ 31)

/-- Who an engine's access is made for: its node, the core whose aperture and L1 it sees, if any, the root, ASID and class it
carries, the core, with its node, whose POISONZ counts (R210), and whether it belongs to a unit that has begun or has left its
source, which no empty bucket stops (R34). -/
structure Agent where
  n    : Nat
  c    : Option Nat
  root : Word
  asid : Nat
  cls  : Nat
  zn   : Nat
  zc   : Nat
  begun : Bool := false
  deriving DecidableEq, Repr

/-- An engine or instruction of a core, in a class. -/
def coreAgent (s : State) (n c cls : Nat) : Agent :=
  let k := co s n c
  ⟨n, some c, k.ptRoot, fld k.asid 5 0, cls, n, c, false⟩

/-- What an engine's access finds: value, poison, fault code, state after. -/
structure EngGot where
  v      : Nat
  poison : Bool
  code   : Nat
  s      : State

/-- Checks an access of an engine (R198). -/
def engChk (a : Agent) (va : Word) (size : Nat) (need : Need) (s : State) : Chk := chkAs s a.n a.c a.root a.asid va size need

/-- A window access of an engine, performed at its target within the engine's step (log 7). -/
def engWindow (a : Agent) (m : Nat) (relaxed : Bool) (off size : Nat) (op : WinOp) (v : Nat) (p : Bool) (s : State) : EngGot :=
  let r := windowNow s ⟨a.n, a.zc, .ctrl, 0, m, relaxed, a.asid, off, size, op, BitVec.ofNat 1024 v, p, a.cls⟩
  ⟨r.2.data.toNat % 2 ^ (8 * size), r.2.poison, r.2.code, r.1⟩

/-- An engine's read of a checked target: the core's own L1 line where it has one, the home otherwise; nothing is brought
into L1. A poisoned line of a ZP page reads zero and counts (R210); other poison travels with the bytes (R209). -/
def engRead (a : Agent) (t : Target) (size : Nat) (s : State) : EngGot :=
  let near : Option Nat := match t, a.c with
    | .mem sp pa k _, some c => if l1Holds sp k && (l1Take (co s a.n c) sp pa).isNone then none else some c
    | .spad o _, _ => some (a.c.getD o)
    | _, _ => none
  match t, near with
  | .remote m rl off, _ => engWindow a m rl off size .load 0 true s
  | _, some c =>
    let g := readT s a.n c (some a.cls) t size
    ⟨g.v, g.poison, 0, g.s⟩
  | .mem sp pa _ zp, none =>
    let s := touch s a.n (some a.cls) sp (pa / 128 * 128) size false
    let p := isPoison (nd s a.n) sp pa
    if p && zp then ⟨0, false, 0, addPoisonZ s a.zn a.zc⟩ else ⟨homeRead (nd s a.n) sp pa size, p, 0, s⟩
  | .spad o off, none => ⟨spadRead (co s a.n o) off size, spadPoisoned (co s a.n o) off, 0, s⟩

/-- An engine's write of bytes of one line: performed at the home, the core's own copy of the line written back and
dropped first, so that the entry's completion is a release at DIE (R231); poison that came with the bytes stays (R209).
Gives the code with which a window target dropped it. -/
def engWrite (a : Agent) (t : Target) (size v : Nat) (poison : Bool) (s : State) : Nat × State :=
  let c := a.c.getD a.zc
  match t with
  | .remote m rl off =>
    let g := engWindow a m rl off size .store v poison s
    (g.code, g.s)
  | .mem sp pa k _ =>
    if k = .determ then
      let s := writeT s a.n c (some a.cls) t size (fullMask size) v
      (0, if poison then poisonT s a.n c t else s)
    else
      let s := match a.c with
        | some c => l1Drop s a.n c sp pa true
        | none => s
      let s := modNd (touch s a.n (some a.cls) sp pa size true) a.n fun d => homeWrite d sp pa size (fullMask size) v
      (0, if poison then modNd s a.n fun d => setPoison d sp pa true else s)
  | .spad .. =>
    let s := writeT s a.n c (some a.cls) t size (fullMask size) v
    (0, if poison then poisonT s a.n c t else s)

/-- Whether an engine's access finds the HBM bucket of its class empty (R33, R34, R262). -/
def engEmpty (a : Agent) (t : Target) (size : Nat) (write : Bool) (s : State) : Bool :=
  !a.begun && match t with
  | .remote m _ off => windowEmpty s m a.asid a.cls off size write
  | t => hbmHold s a.n a.zc a.cls (if write || a.c.isNone then atHome t else t) size write

/-- Whether an engine's access waits, for the HBM bucket of its class or for stores of its core that are still on their way to
the same node (log 7). -/
def engHold (a : Agent) (t : Target) (size : Nat) (write : Bool) (s : State) : Bool :=
  engEmpty a t size write s || match t, a.c with
  | .remote m _ _, some c => windowBusy s a.n c m
  | _, _ => false

/-- Records a fault of an engine, for the core to take (R405, R410): 4 matrix, 5 copy, 6 packet, 7 message, 8 dispatch. -/
def engFault (s : State) (n c agent code : Nat) (addr ref : Word) : State :=
  modCo s n c fun k => { k with deferred := k.deferred ++ [⟨code, 0, agent, false, false, addr, ref⟩] }

/-- The piece of a range that one check covers: within a page of 64 KiB, in the aperture within 8 KiB, the unit of a partition. -/
def pieceStep (va : Word) (len : Nat) : Nat :=
  let g := if inAperture va then 8192 else 65536
  min len (g - va.toNat % g)

/-- Where the host memory that LOC HOST pages may name ends within a checked piece (R194, R447: its length counts 4 KiB). -/
def hostEnd (d : Node) (t : Target) (size : Nat) : Option Nat :=
  match t with
  | .mem .host pa _ _ => if spaceBytes d .host < pa + size then some (spaceBytes d .host - pa) else none
  | _ => none

/-- The address range of an engine access checked piece by piece: the first failure with its address, or none (R198, R200,
R258, R261); window addresses only at their source. -/
def engCheck (n c : Nat) (need : Need) (noPeer : Bool) : Nat → Word → Nat → State → Option (Nat × Word) × State
  | 0, _, _, s => (none, s)
  | fuel + 1, va, len, s =>
    if len = 0 then (none, s) else
    let size := pieceStep va len
    match chk s n c va size need with
    | .fault code s => (some (code, va), s)
    | .ok (.spad o _) s =>
      if noPeer && o != c then (some (codePerm, va), s)
      else engCheck n c need noPeer fuel (va + BitVec.ofNat 64 size) (len - size) s
    | .ok t s => match hostEnd (nd s n) t size with
      | some k => (some (codeXlate, va + BitVec.ofNat 64 k), s)
      | none => engCheck n c need noPeer fuel (va + BitVec.ofNat 64 size) (len - size) s
    | .wait => engCheck n c need noPeer fuel (va + BitVec.ofNat 64 size) (len - size) s

/-- What an engine's load of a range gives: its bytes and the numbers of the 128-byte pieces whose source line is poisoned,
a wait, or a fault with its address. -/
inductive Loaded where
  | bytes (bs : List Byte) (ps : List Nat)
  | wait
  | fault (code : Nat) (va : Word)
  deriving DecidableEq, Repr

/-- Checks and reads `len` bytes for an engine, piece by piece within lines (R306, R309); once the first is read the bucket
holds the others back no more (R34). The state given with a wait is not used. -/
def engLoad (a : Agent) (va0 : Word) : Nat → Nat → Nat → List Byte → List Nat → State → Loaded × State
  | 0, _, _, bs, ps, s => (.bytes bs ps, s)
  | fuel + 1, done, len, bs, ps, s =>
    if len ≤ done then (.bytes bs ps, s) else
    let va := va0 + BitVec.ofNat 64 done
    let size := min (len - done) (128 - va.toNat % 128)
    match engChk a va size .r s with
    | .wait => (.wait, s)
    | .fault code s => (.fault code va, s)
    | .ok t s =>
      if engHold { a with begun := a.begun || decide (0 < done) } t size false s then (.wait, s) else
      let g := engRead a t size s
      if g.code ≠ 0 then (.fault g.code va, g.s)
      else
        let hit := if g.poison then (upFrom (done / 128) ((done % 128 + size + 127) / 128)).filter fun p => !ps.contains p else []
        engLoad a va0 fuel (done + size) len (bs ++ valBytes size g.v) (ps ++ hit) g.s

/-- Checks every page of a range as a store or a load (R200). A peer's accesses keep to its own local pages, and neither
they nor a message's stores take DETERM entries, which only a core's sequencers and copy engine do (R233, R306). -/
def engPages (a : Agent) (need : Need) (peer : Bool) : Nat → Word → Nat → State → Option (Nat × Word) × State
  | 0, _, _, s => (none, s)
  | fuel + 1, va, len, s =>
    if len = 0 then (none, s) else
    let size := pieceStep va len
    match engChk a va size need s with
    | .fault code s => (some (code, va), s)
    | .wait => (some (codeXlate, va), s)
    | .ok t s =>
      let bar : Option Nat := match t with
        | .mem sp _ k _ => if (peer && sp == .host) || (k == .determ && (peer || need == .w)) then some codePerm else none
        | .spad .. => if peer then some codeXlate else none
        | .remote .. => if peer || a.c.isNone then some codeXlate else none
      match bar, hostEnd (nd s a.n) t size with
      | some code, _ => (some (code, va), s)
      | none, some k => (some (codeXlate, va + BitVec.ofNat 64 k), s)
      | none, none => engPages a need peer fuel (va + BitVec.ofNat 64 size) (len - size) s

/-- Writes bytes at an address, piece by piece within lines, with the poison of their pieces (R209, R305 to R308); stops
at the first failing line. -/
def engStore (a : Agent) (va0 : Word) (ps : List Nat) : Nat → Nat → List Byte → State → Option (Nat × Word) × State
  | 0, _, _, s => (none, s)
  | fuel + 1, done, bs, s =>
    if bs.isEmpty then (none, s) else
    let va := va0 + BitVec.ofNat 64 done
    let size := min bs.length (128 - va.toNat % 128)
    match engChk a va size .w s with
    | .wait => (some (codeXlate, va), s)
    | .fault code s => (some (code, va), s)
    | .ok t s =>
      let bad : Bool := match t with
        | .mem _ _ k _ => k == .determ
        | .remote .. => a.c.isNone
        | .spad .. => false
      if bad then (some (codePerm, va), s) else
      let poison := ps.any fun p => decide (p * 128 < done + size) && decide (done < p * 128 + 128)
      let w := engWrite a t size (bytesVal (bs.take size)) poison s
      if w.1 ≠ 0 then (some (w.1, va), w.2)
      else engStore a va0 ps fuel (done + size) (bs.drop size) w.2

/-- One piece of at most 128 bytes that an instruction of the moving core reads as a load. -/
def loadPiece (va : Word) (size : Nat) (s : State) : Pre (Nat × Bool) :=
  let n := s.cur.node
  let c := s.cur.core
  match chk s n c va size .r with
  | .wait => .hold s
  | .fault code s => .fault (causeAt s code va) s
  | .ok t s =>
    let a := coreAgent s n c (classOf (cc s))
    match t with
    | .remote .. =>
      if engHold a t size false s then .hold s else
      let g := engRead a t size s
      if g.code ≠ 0 then .fault (causeAt g.s g.code va) g.s else .go (g.v, g.poison) g.s
    | t =>
      if hbmHold s n c a.cls t size false then .hold s else
      let r := readT s n c (some a.cls) t size
      .go (r.v, r.poison) r.s

/-- A block of `size` bytes, a power of two of at most 256, that an instruction reads whole at issue by one load (R253, R303,
R304): ALIGN, XLATE, PERM, POISON; what faults leaves nothing but the translation (R196). -/
def readWhole (va : Word) (size : Nat) (s : State) : Pre Nat :=
  if va.toNat % size ≠ 0 then .fault (causeAt s codeAlign va) s else
  let keep (r : State) : State := keepTlb s r s.cur.node s.cur.core
  match loadPiece va (min size 128) s with
  | .hold s => .hold s
  | .fault k s' => .fault k (keep s')
  | .go x s' =>
    if size ≤ 128 then (if x.2 then .fault (causeAt s codePoison va) (keep s') else .go x.1 s') else
    match loadPiece (va + 128) (size - 128) s' with
    | .hold s => .hold s
    | .fault k s' => .fault { k with addr := va } (keep s')
    | .go y s' =>
      if x.2 || y.2 then .fault (causeAt s codePoison va) (keep s') else .go (x.1 + y.1 * 2 ^ 1024) s'

end Sys2Proof.Machine
end

