-- ==== Sys2Proof/Machine/Copy.lean ====
section
/-! DEFINITION. The block copy engine (R253 to R264): its four instructions and the three steps of an entry. -/

namespace Sys2Proof.Machine

/-- A signed 32-bit stride of a command block. -/
def blockStride (v lo : Nat) : Word := toWord (sextN (bitsOf v (lo + 31) lo) 32)

/-- The command of a block of 1,024 bits (R253). -/
def blockCmd (v : Nat) : CopyCmd :=
  { src := BitVec.ofNat 64 v, dst := BitVec.ofNat 64 (v >>> 64), len0 := bitsOf v 159 128,
    n1 := bitsOf v 175 160 + 1, n2 := bitsOf v 191 176 + 1, n3 := bitsOf v 207 192 + 1,
    ss1 := blockStride v 256, ss2 := blockStride v 288, ss3 := blockStride v 320,
    ds1 := blockStride v 352, ds2 := blockStride v 384, ds3 := blockStride v 416,
    fill := bitsOf v 225 224 == 1, pattern := BitVec.ofNat 64 (v >>> 512), predEn := v.testBit 226,
    predQ := bitsOf v 230 228, predSeq := BitVec.ofNat 32 (v >>> 448), bwait := BitVec.ofNat 16 (v >>> 480),
    bsig := BitVec.ofNat 16 (v >>> 496) }

/-- Whether a run length is in range (R253). -/
def lenOk (n : Nat) : Bool := n % 4 == 0 && decide (4 ≤ n) && decide (n ≤ 2 ^ 24)

/-- Step 2 of R255: whether the fields of a block are legal. -/
def blockLegal (v : Nat) : Bool :=
  let x := blockCmd v
  bitsOf v 1023 576 == 0 && bitsOf v 255 231 == 0 && bitsOf v 227 227 == 0 && bitsOf v 223 208 == 0
  && decide (bitsOf v 225 224 < 2) && decide (x.predQ < 4) && lenOk x.len0
  && (if x.fill then x.src == 0 && x.ss1 == 0 && x.ss2 == 0 && x.ss3 == 0 else x.pattern == 0)
  && (x.predEn || (x.predQ == 0 && x.predSeq == 0))

/-- Whether a value is a multiple of 4. -/
def mult4 (w : Word) : Bool := w.toNat % 4 == 0

/-- Steps 3 and 4 of R255: ALIGN, then the footprints in deterministic mode (R264). -/
def copyChecks (x : CopyCmd) (s : State) : Pre CopyCmd :=
  if !mult4 x.src then .fault (causeAt s codeAlign x.src) s
  else if !mult4 x.dst then .fault (causeAt s codeAlign x.dst) s
  else if !([x.ss1, x.ss2, x.ss3, x.ds1, x.ds2, x.ds3].all mult4) then .fault (causeHere s codeAlign) s
  else if (cc s).det && (match copySrc x with | some i => i.meets (copyDst x) | none => false) then
    .fault (causeHere s codeDetConflict) s
  else .go x s

/-- Accepts a command (R255, R256): the next sequence number is its entry's and the result. -/
def copyAccept (x : CopyCmd) (f : FE) (s : State) : State :=
  let k := cc s
  let e : CEntry := ⟨x, none, k.cAcc + 1, f.sig, false, 0, 0, classOf k, ginOf k, false, false, 0⟩
  flyReg (modCc s fun k => { k with cq := k.cq ++ [e], cAcc := k.cAcc + 1 }) f.d ((k.cAcc + 1).setWidth 64) 2 none 0

/-- COPY and COPYI: two units, retired at acceptance, SIGMASK at completion (R97, R255, R263). -/
def copyOp (f : FE) (srcs : List Reg) (pre : State → Pre CopyCmd) : Op CopyCmd :=
  { len := 2, tk := f.tk, seqs := [.ctrl], handler := false, flags := feFlags f, srcs := srcs, flying := 1, pre := pre,
    room := fun s => cqRoom (cc s), eff := fun x s => copyAccept x f s }

/-- COPY (R255, R263). -/
def execCopy (f : FE) (s : State) : Host.Outcome State Fault Refusal :=
  runOp (copyOp f [f.a] fun s =>
    match readWhole (reg s f.a) 128 s with
    | .fault k s => .fault k s
    | .hold s => .hold s
    | .go v s => if blockLegal v then copyChecks (blockCmd v) s else .fault (causeHere s codeIllegal) s) s

/-- The command of COPYI (R263). -/
def copyiCmd (src dst : Word) (len : Nat) : CopyCmd := ⟨src, dst, len, 1, 1, 1, 0, 0, 0, 0, 0, 0, false, 0, false, 0, 0, 0, 0⟩

/-- COPYI (R263): the length is read from D at issue. -/
def execCopyi (f : FE) (s : State) : Host.Outcome State Fault Refusal :=
  runOp (copyOp f [f.a, f.b, f.d] fun s =>
    if !lenOk (reg s f.d).toNat then .fault (causeHere s codeIllegal) s
    else copyChecks (copyiCmd (reg s f.a) (reg s f.b) (reg s f.d).toNat) s) s

/-- The count that CPWAIT waits for (R263). -/
def cpTarget (k : Core) (v : Word) : BitVec 32 :=
  let t : BitVec 32 := v.setWidth 32
  if (k.cAcc - t).toNat < 2 ^ 31 then t else k.cAcc

/-- CPWAIT (R263). -/
def execCpwait (f : FE) (s : State) : Host.Outcome State Fault Refusal :=
  runOp (feResult f [f.a] [.ctrl] 2
    (fun s =>
      let v := reg s f.a
      if fld v 63 32 ≠ 0 then .fault (causeHere s codeIllegal) s
      else if reached (cc s).cCmp (cpTarget (cc s) v) then .go ((cc s).cCmp.setWidth 64) s
      else .hold s) fun _ => true) s

/-- The retired sequence number of the queue that PREDQ names (R253, R257). -/
def predCount (k : Core) (q : Nat) : BitVec 32 :=
  match q with
  | 0 => k.mDone
  | 1 => k.pDone
  | 2 => k.mgDone
  | _ => k.collDone

/-- Whether an entry's predecessor has completed. -/
def predMet (k : Core) (e : CEntry) : Bool := !e.cmd.predEn || reached (predCount k e.cmd.predQ) e.cmd.predSeq
/-- The bytes of an entry. -/
def copyTotal (x : CopyCmd) : Nat := x.len0 * x.n1 * x.n2 * x.n3
/-- Whether an entry has issued its last piece. -/
def allPieces (e : CEntry) : Bool := e.begun && decide (copyTotal e.cmd ≤ e.bytes)

/-- The entry that is first in line: the first whose pieces are not all issued (R257). -/
def copyHead (k : Core) : Option CEntry := k.cq.find? fun e => !allPieces e

/-- Whether the copy-byte bucket holds an entry back (R262). -/
def cpyHold (d : Node) (e : CEntry) : Bool := (bucketOf d e.cls).cpy == some 0

/-- The CPSTAT status word (R263). -/
def cpstatWord (s : State) (k : Core) : Word :=
  let n := (k.cq.filter fun e => e.joinId.isNone).length
  match (copyHead k) with
  | none => BitVec.ofNat 64 n
  | some e =>
    if e.joinId.isSome then BitVec.ofNat 64 n else
    let bud := if e.begun then e.waitBud else cpyHold (cn s) e
    let ev := !e.begun && k.evt &&& e.cmd.bwait != e.cmd.bwait
    let pr := !e.begun && !predMet k e
    BitVec.ofNat 64 (n + 2048 * b2n bud + 1024 * b2n ev + 512 * b2n pr + 256 * b2n e.begun)

/-- The bytes that the entry in progress has written (R263): one that has moved its last piece is in progress until the next
begins or it completes. -/
def copyProgress (k : Core) : Nat :=
  match copyHead k, k.cq.head? with
  | some e, some h => if e.begun || h.joinId.isSome then e.bytes else h.bytes
  | none, some h => if h.joinId.isSome then 0 else h.bytes
  | _, none => 0

/-- CPSTAT (R263). -/
def execCpstat (f : FE) (s : State) : Host.Outcome State Fault Refusal :=
  runOp (feResult f [f.a] [.ctrl] 2
    (fun s =>
      let k := cc s
      match (reg s f.a).toNat with
      | 0 => .go (cpstatWord s k) s
      | 1 => .go (k.cAcc.setWidth 64) s
      | 2 => .go (k.cCmp.setWidth 64) s
      | 3 => .go (BitVec.ofNat 64 (copyProgress k)) s
      | _ => .fault (causeHere s codeIllegal) s) fun _ => true) s

/-! The engine's steps. -/

/-- Start addresses of run `r` (R254). -/
def runSrc (x : CopyCmd) (r : Nat) : Word :=
  x.src + BitVec.ofNat 64 (r % x.n1) * x.ss1 + BitVec.ofNat 64 (r / x.n1 % x.n2) * x.ss2 + BitVec.ofNat 64 (r / x.n1 / x.n2) * x.ss3
/-- Destination of run `r`. -/
def runDst (x : CopyCmd) (r : Nat) : Word :=
  x.dst + BitVec.ofNat 64 (r % x.n1) * x.ds1 + BitVec.ofNat 64 (r / x.n1 % x.n2) * x.ds2 + BitVec.ofNat 64 (r / x.n1 / x.n2) * x.ds3

/-- The piece that follows `done` bytes: source, destination, size (R254). -/
def pieceAt (x : CopyCmd) (done : Nat) : Word × Word × Nat :=
  let o := done % x.len0
  let src := runSrc x (done / x.len0) + BitVec.ofNat 64 o
  let dst := runDst x (done / x.len0) + BitVec.ofNat 64 o
  let size := min (x.len0 - o) (128 - dst.toNat % 128)
  (src, dst, if x.fill then size else min size (128 - src.toNat % 128))

/-- The page checks of the runs from `r` on (R258): source, then destination, run by run. -/
def copyPages (n c : Nat) (x : CopyCmd) (r : Nat) : Nat → State → Option (Nat × Word) × State
  | 0, s => (none, s)
  | k + 1, s =>
    let a := if x.fill then (none, s) else engCheck n c .r false (x.len0 / 8192 + 2) (runSrc x r) x.len0 s
    match a with
    | (some e, s) => (some e, s)
    | (none, s) =>
      match engCheck n c .w true (x.len0 / 8192 + 2) (runDst x r) x.len0 s with
      | (some e, s) => (some e, s)
      | (none, s) => copyPages n c x (r + 1) k s

/-- Changes the entry of a sequence number. -/
def modCopy (s : State) (n c : Nat) (e : CEntry) (f : CEntry → CEntry) : State :=
  modCo s n c fun k => { k with cq := k.cq.map fun x => if x.joinId.isNone && x.seqNo == e.seqNo then f x else x }

/-- Whether the first entry belongs to a cancelled pair, and is dropped as the queue pops it (R261, R391). -/
def copyCancelled (s : State) (n c : Nat) : Bool :=
  match (co s n c).cq.head? with
  | some e => e.joinId.isNone && cancelled (nd s n) (tenantOf (co s n c)) e.gin
  | none => false

/-- Whether an entry may be about to begin: its flags are looked at by the step itself (R257). -/
def copyBeginDue (s : State) (n c : Nat) : Bool :=
  let k := co s n c
  engineOn s n c && (copyCancelled s n c || match copyHead k with
  | some e => e.joinId.isNone && !e.checked && (e.begun || (predMet k e && !cpyHold (nd s n) e))
  | none => false)

/-- COPY_ENTRY_BEGIN (R257, R258, R261, R262): a cancelled entry is dropped: CMP advances, no flag is set; else, after the sequencers of the core in this cc, BWAIT is tested and cleared and every
page is checked. -/
def execCopyEntryBegin (n c : Nat) (s : State) : Host.Outcome State Fault Refusal :=
  if !copyBeginDue s n c then .next s
  else if copyCancelled s n c then .next (modCo s n c fun k => { k with cq := k.cq.tail, cCmp := k.cCmp + 1 }) else
  match copyHead (co s n c) with
  | none => .next s
  | some e =>
    if !e.begun && (co s n c).evt &&& e.cmd.bwait != e.cmd.bwait then .next s
    else
      let s := if e.begun then s else modCo s n c fun k => { k with evt := k.evt &&& ~~~e.cmd.bwait }
      let s := modCopy s n c e fun x => { x with begun := true }
      match copyPages n c e.cmd 0 (e.cmd.n1 * e.cmd.n2 * e.cmd.n3) s with
      | (some f, s') => .next (engFault (keepTlb s s' n c) n c 5 f.1 f.2 0)
      | (none, s) =>
        let lat := if e.cmd.fill then 1 else match chk s n c e.cmd.src 4 .r with
          | .ok t _ => accLat s n c t
          | _ => 1
        let due := coreCyc s n c + lat
        .next (modCopy s n c e fun x => { x with checked := true, due := due })

/-- Whether a piece is due. -/
def copyPieceDue (s : State) (n c : Nat) : Bool :=
  engineOn s n c && !copyCancelled s n c && match copyHead (co s n c) with
  | some e => e.checked && decide (e.due ≤ coreCyc s n c)
  | none => false

/-- The bytes of a FILL piece (R254). -/
def fillBytes (pat : Word) (d : Word) (size : Nat) : Nat :=
  bytesVal ((upFrom d.toNat size).map fun b => BitVec.ofNat 8 (pat.toNat >>> (8 * (b % 8))))

/-- COPY_PIECE (R254, R258 to R262): one piece moves, with its poison, and is counted; it waits for room in the DETERM
buffer, for the HBM bucket and for a trapped peer; a fault stops the entry at this piece. A piece is one access, so that a
poisoned ZP line counts once in each piece that reads it (DESIGN CHOICE, log 45). -/
def execCopyPiece (n c : Nat) (s : State) : Host.Outcome State Fault Refusal :=
  if !copyPieceDue s n c then .next s else
  match copyHead (co s n c) with
  | none => .next s
  | some e =>
    let p := pieceAt e.cmd e.bytes
    let src := p.1
    let dst := p.2.1
    let size := p.2.2
    let ag := coreAgent s n c e.cls
    let fail (s' : State) (code : Nat) (va : Word) : Host.Outcome State Fault Refusal :=
      .next (engFault (keepTlb s s' n c) n c 5 code va 0)
    let from_ : Chk := if e.cmd.fill then .ok (.spad c 0) s else chk s n c src size .r
    let waits (b : Bool) : Host.Outcome State Fault Refusal := .next (modCopy s n c e fun x => { x with waitBud := b })
    match from_ with
    | .wait => waits false
    | .fault code s' => fail s' code src
    | .ok a s' =>
      match engCheck n c .w true 2 dst size s' with
      | (some f, s') => fail s' f.1 f.2
      | (none, s') =>
        match chk s' n c dst size .w with
        | .wait => waits false
        | .fault code s' => fail s' code dst
        | .ok t s' =>
          if (!e.cmd.fill && engHold ag a size false s') || engHold ag t size true s' then
            waits ((!e.cmd.fill && engEmpty ag a size false s') || engEmpty ag t size true s')
          else match detRoom (co s n c) (detLines [t]) with
          | .wait => waits false
          | .conflict => fail s' codeDetConflict dst
          | .ok =>
            let g : EngGot := if e.cmd.fill then ⟨fillBytes e.cmd.pattern dst size, false, 0, s'⟩ else engRead ag a size s'
            if g.code ≠ 0 then fail g.s g.code src
            else
              let w := engWrite ag t size g.v g.poison g.s
              if w.1 ≠ 0 then .next (engFault w.2 n c 5 w.1 dst 0)
              else
                let s := modNd w.2 n fun d => charge d e.cls fun b => { b with cpy := drain b.cpy size }
                let now := coreCyc s n c
                .next (modCopy s n c e fun x =>
                  { x with piece := x.piece + 1, bytes := x.bytes + size, waitBud := false, due := now + 1 })

/-- Whether the head entry has written all its bytes. -/
def copyDoneDue (s : State) (n c : Nat) : Bool :=
  engineOn s n c && match (co s n c).cq.head? with
  | some e => e.joinId.isNone && allPieces e && decide (e.due ≤ coreCyc s n c)
  | none => false

/-- COPY_ENTRY_COMPLETE (R256, R259): CMP advances and BSIG and SIGMASK are set. -/
def execCopyEntryComplete (n c : Nat) (s : State) : Host.Outcome State Fault Refusal :=
  if !copyDoneDue s n c then .next s else
  match (co s n c).cq with
  | [] => .next s
  | e :: rest =>
    let s := modCo s n c fun k => { k with cq := rest, cCmp := k.cCmp + 1 }
    .next (if e.sig ||| e.cmd.bsig = 0 then s else later s (.flags n c (e.sig ||| e.cmd.bsig)))

end Sys2Proof.Machine
end

