-- ==== Sys2Proof/Machine/Router.lean ====
section
/-! DEFINITION. The router: packet images (R266 to R268), tenants' blocks and counters (R269, R278), armed operations that
a counter fires (R310, R311), notices (R287), delivery and park rings (R283 to R286) and the congestion window (R314). -/

namespace Sys2Proof.Machine

/-! Packet images. -/

/-- Header fields of R267. -/
def pSrcn (p : PImage) : Nat := fld p 191 180
def pDhint (p : PImage) : Nat := fld p 179 168
def pHopb (p : PImage) : Nat := fld p 135 128
def pHopc (p : PImage) : Nat := fld p 127 120
def pClb (p : PImage) : Nat := fld p 119 116
def pCdep (p : PImage) : Nat := fld p 115 112
def pEntry (p : PImage) : Nat := fld p 111 108
def pNim1 (p : PImage) : Nat := fld p 107 104
def pDir (p : PImage) : Nat := fld p 103 101
def pSdep (p : PImage) : Nat := fld p 100 97
def pPlen (p : PImage) : Nat := fld p 96 94
def pTenant (p : PImage) : Nat := fld p 93 88
def pType (p : PImage) : Nat := fld p 87 85
def pOrd (p : PImage) : Bool := bit p 84
def pExh (p : PImage) : Bool := bit p 83
def pDetr (p : PImage) : Bool := bit p 81
def pClass (p : PImage) : Nat := fld p 80 77
def pNote (p : PImage) : Nat := fld p 76 61
/-- k0 to k3 (R266). -/
def pK (p : PImage) (i : Nat) : Word := BitVec.ofNat 64 (fld p (319 + 64 * i) (256 + 64 * i))
/-- Writes k_i. -/
def setK (p : PImage) (i : Nat) (v : Word) : PImage := putFld p (319 + 64 * i) (256 + 64 * i) v.toNat
/-- A stack entry (R266). -/
def pStack (p : PImage) (i : Nat) : Word := BitVec.ofNat 64 (fld p (575 + 64 * i) (512 + 64 * i))
/-- Writes a stack entry. -/
def setStack (p : PImage) (i : Nat) (v : Word) : PImage := putFld p (575 + 64 * i) (512 + 64 * i) v.toNat
/-- Instruction `i` of the program (R266). -/
def pInstr (p : PImage) (i : Nat) : BitVec 16 := BitVec.ofNat 16 (fld p (1039 + 16 * i) (1024 + 16 * i))
/-- Payload word `w` (R266). -/
def pPayload (p : PImage) (w : Nat) : Word := BitVec.ofNat 64 (fld p (1343 + 64 * w) (1280 + 64 * w))
/-- Writes a payload word. -/
def setPayload (p : PImage) (w : Nat) (v : Word) : PImage := putFld p (1343 + 64 * w) (1280 + 64 * w) v.toNat
/-- Writes DIR. -/
def setDir (p : PImage) (d : Nat) : PImage := putFld p 103 101 d
/-- The stack entries from SDEP on cleared (R268). -/
def clearStack (p : PImage) : PImage :=
  (upFrom (pSdep p) (8 - pSdep p)).foldl (fun p i => setStack p i 0) p
/-- Pops the top of the stack, clearing its entry (R268). -/
def popStack (p : PImage) : Word × PImage :=
  let d := pSdep p
  (pStack p (d - 1), putFld (setStack p (d - 1) 0) 100 97 (d - 1))
/-- Pushes a value. -/
def pushStack (p : PImage) (v : Word) : PImage := putFld (setStack p (pSdep p) v) 100 97 (pSdep p + 1)
/-- The image with the payload beyond PLEN units zero, as a record holds it (R286). -/
def trimPayload (p : PImage) : PImage :=
  (upFrom (4 * pPlen p) (16 - 4 * pPlen p)).foldl (fun p w => setPayload p w 0) p

/-! Tenants' blocks and counters. -/

/-- A word of a prism configuration block (R269). -/
def prismWordOf (d : Node) (t w : Nat) : Word := smGet d.prism 0 (4 * t + w)
/-- A tenant's block as four words. -/
def prismCfg (d : Node) (t : Nat) : List Word := (upFrom 0 4).map (prismWordOf d t)
/-- Word `w` of a block. -/
def cfgWord (c : List Word) (w : Nat) : Word := c.getD w 0
/-- A mask bit (R270). -/
def cfgMask (c : List Word) (b : Nat) : Bool := bit (cfgWord c 0) b
/-- The first counter of the window. -/
def cwBase (c : List Word) : Nat := fld (cfgWord c 0) 32 17
/-- The counters that exist: the window ends at counter 65,535 (R269). -/
def cwLen (c : List Word) : Nat := min (fld (cfgWord c 0) 49 33) (65536 - cwBase c)
/-- The first byte of the router window. -/
def rwBase (c : List Word) : Nat := fld (cfgWord c 1) 28 0
/-- The words of the router window that exist: it ends with the deep store (R269). -/
def rwLen (d : Node) (c : List Word) : Nat := min (fld (cfgWord c 1) 55 29) ((d.dways * 2 ^ 25 - rwBase c) / 8)
/-- DCTR, and the rings' sizes and bases (R269). -/
def dCtr (c : List Word) : Nat := fld (cfgWord c 2) 63 48
def dCnt (c : List Word) : Nat := 2 ^ fld (cfgWord c 2) 44 41
def dBase (c : List Word) : Nat := fld (cfgWord c 2) 28 0
def pCnt (c : List Word) : Nat := 2 ^ fld (cfgWord c 3) 44 41
def pBase (c : List Word) : Nat := fld (cfgWord c 3) 28 0

/-- A node counter (R278). -/
def ctrAt (d : Node) (i : Nat) : Word := smGet d.counters 0 i
/-- A tenant's router state. -/
def trtOf (d : Node) (t : Nat) : TenantRt := smGet d.trt {} t
/-- Changes it. -/
def modTrt (s : State) (n t : Nat) (f : TenantRt → TenantRt) : State :=
  modNd s n fun d => { d with trt := smPut d.trt t (f (trtOf d t)) }
/-- Counts a lost notice (R287, R305, R451: saturating). -/
def addLost (s : State) (n t : Nat) : State :=
  modTrt s n t fun r => { r with lost := BitVec.ofNat 64 (satAdd r.lost.toNat 1 (2 ^ 64 - 1)) }

/-- Whether a value has reached a threshold (R295, R310). -/
def passed (v t : Word) : Bool := decide ((v - t).toNat < 2 ^ 63)

/-- An endpoint of a node. -/
def epOf (d : Node) (e : Nat) : Endpoint := smGet d.eps {} e
/-- Changes an endpoint. -/
def modEp (s : State) (n e : Nat) (f : Endpoint → Endpoint) : State :=
  modNd s n fun d => { d with eps := smPut d.eps e (f (epOf d e)) }

/-- THRESH, TCTR and LEN of a message descriptor (R304). -/
def dscThresh (x : BitVec 512) : Word := BitVec.ofNat 64 (fld x 511 448)
def dscRaddr (x : BitVec 512) : Word := BitVec.ofNat 64 (fld x 447 384)
def dscLaddr (x : BitVec 512) : Word := BitVec.ofNat 64 (fld x 383 320)
def dscLen (x : BitVec 512) : Nat := fld x 319 288
def dscTctr (x : BitVec 512) : Nat := fld x 287 272
def dscRctr (x : BitVec 512) : Nat := fld x 271 256
def dscLctr (x : BitVec 512) : Nat := fld x 255 240

/-- The message-queue entry of a fired operation (R310). -/
def firedEntry (a : Armed) (sseq : BitVec 32) : MsgEntry :=
  ⟨if a.write then .write else .send, a.ep, a.desc, sseq, a.sig, a.tenant, a.gin, a.cls, a.asid, a.root, a.owner, none, .queued⟩

/-- Asks for a context that is not in the cache (R300). -/
def epFetch (s : State) (n e : Nat) : State :=
  if (epOf (nd s n) e).fetching then s
  else schedule (modEp s n e fun y => { y with fetching := true }) Config.latEndpoint (.endpointFetch n e)

/-- A local instruction needs a context: it is used now, and fetched where it is not in the cache (R300). -/
def epNeed (s : State) (n e : Nat) : State :=
  let now := s.now
  if (epOf (nd s n) e).cached then modEp s n e fun y => { y with used := now } else epFetch s n e

/-- TRIGGER_FIRE (R310, R311): SSEQ is assigned and the operation enters its core's queue, or keeps its entry marked fired
while the queue is full or others wait; one whose pair is cancelled is dropped. The arming core takes the acquire at DIE
scope that its payload is read under. -/
def fireArmed (s : State) (n i : Nat) : State :=
  match smGet (nd s n).armed none i with
  | none => s
  | some a =>
    let free (s : State) : State := modNd s n fun d => { d with armed := smDel d.armed i }
    if a.fired then s
    else if cancelled (nd s n) a.tenant a.gin then free s
    else
      let q := (epOf (nd s n) a.ep).sSeq
      let s := modEp (epNeed s n a.ep) n a.ep fun e => { e with sSeq := e.sSeq + 1, sendPend := satAdd e.sendPend 1 65535 }
      let s := acquireL1 s n a.core 3 false
      let k := co s n a.core
      if k.msgq.length < 32 ∧ k.firedQ.isEmpty then
        modCo (free s) n a.core fun k => { k with msgq := k.msgq ++ [firedEntry a q] }
      else
        modCo (modNd s n fun d => { d with armed := smPut d.armed i (some { a with fired := true, sseq := q }) }) n a.core
          fun k => { k with firedQ := k.firedQ ++ [i] }

/-- Whether an armed operation's threshold has been reached (R310). -/
def armedMet (d : Node) (a : Armed) : Bool :=
  !a.fired && passed (ctrAt d (cwBase (prismCfg d a.tenant) + dscTctr a.desc)) (dscThresh a.desc)

/-- The armed operations on a counter, tested in ascending entry order (R311). -/
def fireOn (s : State) (n i : Nat) : State :=
  ((nd s n).armed.filter fun e => match e.2 with
    | some a => decide (cwBase (prismCfg (nd s n) a.tenant) + dscTctr a.desc = i) && armedMet (nd s n) a
    | none => false).foldl (fun s e => fireArmed s n e.1) s

/-- A core whose PCTRW waits for a counter takes the first value that satisfies it (R295). -/
def wakeCtr (i : Nat) (v : Word) (k : Core) : Core :=
  match k.ctrWait with
  | some (j, t, none) => if j == i && passed v t then { k with ctrWait := some (j, t, some v) } else k
  | _ => k

/-- A counter takes a value, and the PCTRW and the armed operations that wait for it are tested (R278, R295, R310). -/
def setCtr (s : State) (n i : Nat) (v : Word) : State :=
  fireOn (modNd s n fun d => { d with counters := smSet d.counters 0 i v, cores := d.cores.map fun x => (x.1, wakeCtr i v x.2) }) n i
/-- A counter is added to. -/
def addCtr (s : State) (n i : Nat) (v : Word) : State := setCtr s n i (ctrAt (nd s n) i + v)

/-- The tenant whose produced count a counter is while its deliveries are in progress (R283). -/
def busyTenant (d : Node) (i : Nat) : Option Nat :=
  (upFrom 0 64).find? fun t => (trtOf d t).res.isSome && decide (cwBase (prismCfg d t) + dCtr (prismCfg d t) = i)

/-- A change that software or a program makes: of a produced count, it waits for the deliveries in progress (R283). -/
def softCtr (s : State) (n i : Nat) (add : Bool) (v : Word) : State :=
  match busyTenant (nd s n) i with
  | some t => modTrt s n t fun r => { r with waiting := r.waiting ++ [(!add, v)] }
  | none => if add then addCtr s n i v else setCtr s n i v

/-! Rings. -/

/-- Writes a record of 512 bytes to the deep store, as far as the store reaches (R286). -/
def writeRecord (s : State) (n a : Nat) (rec_ : BitVec 4096) : State :=
  (upFrom 0 4).foldl (fun s k =>
    let pa := a + 128 * k
    if (nd s n).dways * 2 ^ 25 < pa + 128 then s else
    let s := touch s n none .deep pa 128 true
    modNd s n fun d => homeWrite d .deep pa 128 (fullMask 128) (rec_.toNat >>> (1024 * k))) s

/-- The record of R286. -/
def packetRecord (p : PImage) (g arr steps : Nat) : BitVec 4096 :=
  BitVec.ofNat 4096 ((trimPayload p).toNat + (g % 2 ^ 64) * 2 ^ 2304 + arr * 2 ^ 2368 + steps * 2 ^ 2376)

/-- Applies a notice at its node (R287). -/
def applyNotice (s : State) (n t idx : Nat) (drop : Bool) : State :=
  let c := prismCfg (nd s n) t
  if cwLen c ≤ idx then addLost s n t
  else addCtr s n (cwBase c + idx) (if drop then 0x100000000 else 1)

/-- Sends a notice to the packet's source (R287); at the node itself it is applied at once. -/
def sendNotice (s : State) (n : Nat) (p : PImage) (drop : Bool) : State :=
  if pSrcn p = n then applyNotice s n (pTenant p) (pNote p) drop
  else travel s n (pSrcn p) 32 (.notice (pSrcn p) (pTenant p) (pNote p) drop)

/-- PACKET_PARKED (R285): the record goes to the park ring, or the packet is dropped with a notice where the records in it are
exactly as many as its slots. -/
def parkPacket (s : State) (n : Nat) (cfg : List Word) (p : PImage) (fcode fidx arr steps : Nat) : State :=
  let t := pTenant p
  let r := trtOf (nd s n) t
  if (r.parkIn - r.parkOut).toNat = pCnt cfg then sendNotice s n p true
  else
    let img := putFld (putFld (putFld p 159 148 n) 147 140 fcode) 139 136 fidx
    let s := writeRecord s n (pBase cfg + 512 * (r.parkIn.toNat % pCnt cfg)) (packetRecord img (gsc s n) arr steps)
    sendNotice (modTrt s n t fun r => { r with parkIn := r.parkIn + 1 }) n img false

/-- A hop or delivery in progress: contexts are 0 to 7, DATA deliveries 8 on. -/
def hopOf (d : Node) (k : Nat) : Option Hop :=
  if k < 8 then smGet d.hops none k else (d.dataDel.find? fun e => e.1 == k).map fun e => e.2
/-- Changes it. -/
def putHop (s : State) (n k : Nat) (h : Hop) : State :=
  modNd s n fun d =>
    if k < 8 then { d with hops := smPut d.hops k (some h) }
    else { d with dataDel := d.dataDel.map fun e => if e.1 == k then (k, h) else e }
/-- Ends it: the context is free. -/
def endHop (s : State) (n k : Nat) : State :=
  modNd s n fun d =>
    if k < 8 then { d with hops := smDel d.hops k } else { d with dataDel := d.dataDel.filter fun e => e.1 != k }

/-- The produced count's counter of a block. -/
def prodCtr (c : List Word) : Nat := cwBase c + dCtr c
/-- RES of a tenant (R283). -/
def resOf (d : Node) (c : List Word) (t : Nat) : Word :=
  match (trtOf d t).res with
  | some r => BitVec.ofNat 64 r
  | none => ctrAt d (prodCtr c)
/-- Whether a delivery finds room in its ring (R283): RES - c as exact integers (R8). -/
def ringRoom (d : Node) (h : Hop) : Bool :=
  decide ((resOf d h.cfg (pTenant h.img)).toNat < (ctrAt d (prodCtr h.cfg + 1)).toNat + dCnt h.cfg)

/-- DELIVERY_RESERVE (R283): the slot is reserved and its record written. -/
def reserveSlot (s : State) (n k : Nat) (h : Hop) : State :=
  let t := pTenant h.img
  let p := resOf (nd s n) h.cfg t
  let s := modTrt s n t fun r => { r with res := some (p + 1).toNat }
  let s := writeRecord s n (dBase h.cfg + 512 * (p.toNat % dCnt h.cfg)) (packetRecord (setDir h.img 6) (gsc s n) h.arr h.steps)
  schedule (putHop s n k { h with stage := 2, slot := p.toNat, ready := s.now + Config.latNear }) Config.latNear
    (.deliveryCountAdvance n k)

/-- Takes the changes of a produced count that waited for its deliveries (R283). -/
def flushWaiting (s : State) (n t i : Nat) : State :=
  let w := (trtOf (nd s n) t).waiting
  let s := modTrt s n t fun r => { r with res := none, waiting := [] }
  w.foldl (fun s e => if e.1 then setCtr s n i e.2 else addCtr s n i e.2) s

/-- The rules of DLVR (R283) but for its mask and window tests: a delivery begins to wait for room. Those that find it reserve
their slots in the next cc's order of contexts and arrival directions. -/
def beginDelivery (s : State) (n k : Nat) (h : Hop) : State :=
  putHop s n k { h with stage := 1, until_ := frameOf s n + 1 }

/-- Bytes of a program or DATA packet on the fabric (R265, R266). -/
def packetBytes (p : PImage) : Nat := (if pType p = 1 then 160 else 32) + 32 * pPlen p
/-- Sends a program packet toward a direction on the pool: it begins to transmit in the next cc (R275, R318). -/
def sendToward (s : State) (n d : Nat) (p : PImage) : State :=
  let m := neighbour s n d
  awaitLink s n d { parcelOf s n m 1 (pTenant p) 0 (.progArrival m p (opposite d) none) with bytes := packetBytes p }

/-- What forbids a delivery (R283, R294). -/
def deliveryBar (c : List Word) : Option Nat :=
  if !cfgMask c 5 then some 0x42 else if cwLen c ≤ dCtr c + 1 then some 0x46 else none

/-- DELIVERY_RESERVE (R283). -/
def execDeliveryReserve (n k : Nat) (s : State) : Host.Outcome State Fault Refusal :=
  match hopOf (nd s n) k with
  | some h => .next (if h.stage = 1 ∧ ringRoom (nd s n) h then reserveSlot s n k h else s)
  | none => .next s

/-- Whether a delivery may advance the produced count: its record is performed and earlier ones are counted. -/
def advanceDue (s : State) (n : Nat) (h : Hop) : Bool :=
  h.stage == 2 && decide (h.ready ≤ s.now) && ctrAt (nd s n) (prodCtr h.cfg) == BitVec.ofNat 64 h.slot

/-- DELIVERY_COUNT_ADVANCE (R283): the produced count takes the slot's number plus 1 and the context is free. -/
def execDeliveryCountAdvance (n k : Nat) (s : State) : Host.Outcome State Fault Refusal :=
  match hopOf (nd s n) k with
  | some h =>
    if !advanceDue s n h then .next s else
    let t := pTenant h.img
    let v : Word := BitVec.ofNat 64 h.slot + 1
    let s := setCtr (endHop s n k) n (prodCtr h.cfg) v
    .next (if (trtOf (nd s n) t).res == some v.toNat then flushWaiting s n t (prodCtr h.cfg) else s)
  | none => .next s

/-- DELIVERY_TIMEOUT (R283): a delivery still without room when the frame after its own has ended is dropped with a notice. -/
def execDeliveryTimeout (n k : Nat) (s : State) : Host.Outcome State Fault Refusal :=
  match hopOf (nd s n) k with
  | some h => .next (if h.stage = 1 ∧ h.until_ < frameOf s n then sendNotice (endHop s n k) n h.img true else s)
  | none => .next s

/-- NOTICE (R287). -/
def execNotice (n t idx : Nat) (drop : Bool) (s : State) : Host.Outcome State Fault Refusal := .next (applyNotice s n t idx drop)

/-- A DATA packet reaches its node: delivered as DLVR would, or dropped with a notice (R294). -/
def deliverData (s : State) (n : Nat) (p : PImage) (arr : Nat) : State :=
  let c := prismCfg (nd s n) (pTenant p)
  match deliveryBar c with
  | some _ => sendNotice s n p true
  | none =>
    let k := 8 + (nd s n).nextDel
    let h : Hop := ⟨p, 0, 0, 0, 0, arr, 1, 0, 0, 0, c⟩
    beginDelivery (modNd s n fun d => { d with dataDel := d.dataDel ++ [(k, h)], nextDel := d.nextDel + 1 }) n k h

/-- DATA_DELIVERY (R294). -/
def execDataDelivery (n : Nat) (p : PImage) (arr : Nat) (s : State) : Host.Outcome State Fault Refusal := .next (deliverData s n p arr)

/-! The congestion window. -/

/-- The window toward a node (R314). -/
def cwinOf (d : Node) (m : Nat) : CWin := smGet d.cwin {} m
/-- Whether bytes may be injected toward a node (R314): the window paces the relaxed channel only, and a node's own traffic
to itself is not on the fabric. -/
def cwinOpen (d : Node) (n m bytes : Nat) (relaxed : Bool) : Bool :=
  n == m || !relaxed || (let w := cwinOf d m; w.out == 0 || decide (w.out + bytes ≤ w.w))
/-- Counts bytes injected toward a node, whose acknowledgement comes back a round trip later (R314). -/
def cwinSend (s : State) (n m bytes : Nat) (relaxed : Bool) : State :=
  if n = m ∨ !relaxed then s else
  let s := modNd s n fun d => let w := cwinOf d m; { d with cwin := smPut d.cwin m { w with out := w.out + bytes } }
  schedule s (roundTrip s n m) (.ackReceive n m bytes (gsc s n))
/-- W after one round trip of `rtt` steps (R314): 2 µs is 1,250 steps. -/
def windowAfter (w rtt : Nat) : Nat :=
  let x := if 1250 < rtt then w * (rtt + 1250) / (2 * rtt) else w + 4096
  min (max (x / 128 * 128) 1024) 1048576

/-- Packets that wait for the window toward a node are injected in order while it is open, 4 KiB of payload at a time (R314,
R328). -/
def paceFrom (n dst : Nat) : Nat → State → State
  | 0, s => s
  | fuel + 1, s =>
    match takeFirst (fun e : Nat × Parcel => e.2.dst == dst) (nd s n).paceq with
    | none => s
    | some ((left, p), rest) =>
      let size := nextPacket p.what left
      if !cwinOpen (nd s n) n dst size true then s else
      let s := inject (cwinSend s n dst size true) n size p
      if left ≤ packetCap p.what then paceFrom n dst fuel (modNd s n fun x => { x with paceq := rest })
      else
        let put : List (Nat × Parcel) → List (Nat × Parcel) := fun l =>
          modNth (fun e => (e.1 - packetCap p.what, e.2)) l (l.findIdx fun e => e.2.dst == dst)
        paceFrom n dst fuel (modNd s n fun x => { x with paceq := put x.paceq })

/-- The packets that wait for the window toward a node. -/
def paceCount (d : Node) (dst : Nat) : Nat :=
  (d.paceq.filter fun e => e.2.dst == dst).foldl (fun a e => a + packetsOf e.2.what e.1) 0
/-- The nodes toward which packets wait for the window. -/
def pacedNodes (d : Node) : List Nat := d.paceq.foldl (fun l e => if l.contains e.2.dst then l else l ++ [e.2.dst]) []
/-- Everything that a node's windows let go sets out. -/
def pacePump (s : State) (n : Nat) : State :=
  (pacedNodes (nd s n)).foldl (fun s dst => paceFrom n dst (paceCount (nd s n) dst) s) s
/-- Whether a packet of so many bytes may set out toward a node now: nothing waits before it and the window is open (R314). -/
def paceOpen (d : Node) (n dst bytes : Nat) (relaxed : Bool) : Bool :=
  !relaxed || ((d.paceq.all fun e => e.2.dst != dst) && cwinOpen d n dst bytes true)

/-- ACK_RECEIVE (R314): the window takes its sample; what waits for it goes as the next cc begins. -/
def execAckReceive (n dst bytes stamp : Nat) (s : State) : Host.Outcome State Fault Refusal :=
  let g := gsc s n
  .next (modNd s n fun d =>
    let w := cwinOf d dst
    let w := { w with out := w.out - bytes }
    { d with cwin := smPut d.cwin dst (if w.last = 0 ∨ w.last < stamp then { w with w := windowAfter w.w (g - stamp), last := g } else w) })

end Sys2Proof.Machine
end

