-- ==== Sys2Proof/Machine/Flit.lean ====
section
/-! DEFINITION. Flits (R330, R331): the CRC-32, the RS(204,140) code over GF(2⁸), the header, and the flits that carry a
packet over a link. -/

namespace Sys2Proof.Machine

/-! The field GF(2⁸) with polynomial 0x11D (R330). -/

/-- Times α. -/
def gfX (a : Nat) : Nat := if a < 128 then 2 * a else Nat.xor (2 * a) 0x11D
/-- A product, `n` bits of the second factor at a time from the top. -/
def gfMulFrom (a b : Nat) : Nat → Nat
  | 0 => 0
  | n + 1 => Nat.xor (gfX (gfMulFrom a (b / 2) n)) (if b % 2 = 1 then a else 0)
/-- A product. -/
def gfMul (a b : Nat) : Nat := gfMulFrom a b 8
/-- A power. -/
def gfPow (a : Nat) : Nat → Nat
  | 0 => 1
  | n + 1 => gfMul a (gfPow a n)
/-- α to a power. -/
def alpha (k : Nat) : Nat := gfPow 2 (k % 255)
/-- An inverse: the 254th power. -/
def gfInv (a : Nat) : Nat := gfPow a 254

/-- The value of a polynomial, lowest coefficient first. -/
def polyEval (x : Nat) : List Nat → Nat
  | [] => 0
  | c :: r => Nat.xor c (gfMul x (polyEval x r))
/-- The sum of two polynomials. -/
def polyAdd : List Nat → List Nat → List Nat
  | [], q => q
  | p, [] => p
  | a :: p, b :: q => Nat.xor a b :: polyAdd p q
/-- A polynomial times a constant. -/
def polyScale (k : Nat) (p : List Nat) : List Nat := p.map (gfMul k)
/-- The product of two polynomials. -/
def polyMul : List Nat → List Nat → List Nat
  | [], _ => []
  | a :: p, q => polyAdd (polyScale a q) (0 :: polyMul p q)

/-! The code: byte `i` of the 204 is the coefficient of x²⁰³⁻ⁱ, the data first and then P0 to P63 (R330). -/

/-- The generator polynomial with roots α⁰ to α⁶³, lowest coefficient first. -/
def rsGen : Nat → List Nat
  | 0 => [1]
  | n + 1 => polyMul [alpha n, 1] (rsGen n)
/-- The remainder register after one more data byte: 64 coefficients, highest first. -/
def rsStep (gen : List Nat) (r : List Nat) (b : Nat) : List Nat :=
  let t := Nat.xor (r.headD 0) b
  polyAdd (r.tail ++ [0]) (polyScale t gen)
/-- The parity bytes P0 to P63 of 140 data bytes. -/
def rsParity (data : List Byte) : List Byte :=
  let gen := (rsGen 64).reverse.tail
  (data.foldl (fun r b => rsStep gen r b.toNat) (List.replicate 64 0)).map fun v => BitVec.ofNat 8 v

/-- The syndromes of a word, its first byte first. -/
def rsSyndromes (w : List Nat) : List Nat := (upFrom 0 64).map fun j => let x := alpha j; w.foldl (fun a b => Nat.xor (gfMul a x) b) 0

/-- Berlekamp and Massey with the erasure locator to start from: the locator after the steps from `k` on. -/
def rsLocate (syn : List Nat) (rho : Nat) : Nat → Nat → List Nat → List Nat → Nat → List Nat × Nat
  | 0, _, lam, _, l => (lam, l)
  | fuel + 1, k, lam, b, l =>
    let delta := (upFrom 0 (min (l + 1) (k + 1))).foldl (fun a i => Nat.xor a (gfMul (lam.getD i 0) (syn.getD (k - i) 0))) 0
    let xb := 0 :: b
    if delta = 0 then rsLocate syn rho fuel (k + 1) lam xb l
    else
      let t := polyAdd lam (polyScale delta xb)
      if 2 * l ≤ k + rho then rsLocate syn rho fuel (k + 1) t (polyScale (gfInv delta) lam) (k + 1 + rho - l)
      else rsLocate syn rho fuel (k + 1) t xb l

/-- The formal derivative in characteristic 2: the odd coefficients moved down. -/
def polyDeriv (p : List Nat) : List Nat := (upFrom 1 (p.length - 1)).map fun i => if i % 2 = 1 then p.getD i 0 else 0

/-- Decodes the 140 data bytes from the parity bytes at hand, the missing ones taken as erasures (R331); none where the
errors are more than the code corrects. -/
def rsDecode (data parity : List Byte) : Option (List Byte) :=
  let w := (data ++ parity).map BitVec.toNat ++ List.replicate (64 - parity.length) 0
  let rho := 64 - parity.length
  let gamma := (upFrom 0 rho).foldl (fun p i => polyMul [1, alpha i] p) [1]
  let syn := rsSyndromes w
  if syn.all fun x => x == 0 then some data else
  let r := rsLocate syn rho (64 - rho) rho gamma gamma rho
  let roots := (upFrom 0 204).filter fun i => polyEval (gfInv (alpha (203 - i))) r.1 == 0
  if roots.length ≠ r.2 then none
  else
    let omega := (polyMul syn r.1).take 64
    let der := polyDeriv r.1
    let fixed := (upFrom 0 204).map fun i =>
      if roots.contains i then
        let x := alpha (203 - i)
        Nat.xor (w.getD i 0) (gfMul x (gfMul (polyEval (gfInv x) omega) (gfInv (polyEval (gfInv x) der))))
      else w.getD i 0
    if (rsSyndromes fixed).all fun x => x == 0 then some ((fixed.take 140).map fun v => BitVec.ofNat 8 v) else none

/-! The CRC (R330). -/

/-- One bit of the CRC register shifted out. -/
def crcBit (c : Nat) : Nat := if c < 2 ^ 31 then 2 * c else Nat.xor (2 * c % 2 ^ 32) 0x04C11DB7
/-- `n` bits. -/
def crcBits : Nat → Nat → Nat
  | 0, c => c
  | n + 1, c => crcBits n (crcBit c)
/-- The CRC-32 of bytes, most significant bit of each first (R330). -/
def crc32 (bs : List Byte) : Nat :=
  Nat.xor (bs.foldl (fun c b => crcBits 8 (Nat.xor c (b.toNat * 2 ^ 24))) 0xFFFFFFFF) 0xFFFFFFFF
/-- Whether a flit's CRC passes. -/
def crcOk (data : List Byte) : Bool := data.length == 140 && crc32 (data.take 136) == bytesVal (data.drop 136)

/-! Headers. -/

/-- Header fields (R330). -/
def flitHead (data : List Byte) : Word := BitVec.ofNat 64 (bytesVal (data.take 8))
def flitFt (h : Word) : Nat := fld h 63 60
def flitCh (h : Word) : Nat := fld h 59 58
def flitLseq (h : Word) : Nat := fld h 55 32
def flitCred (h : Word) : Nat := fld h 31 16
def flitAck (h : Word) : Nat := fld h 15 0

/-- A flit of a header and a payload, with its CRC and all its parity. -/
def makeFlit (dir wave : Nat) (h : Word) (payload : List Byte) : Flit :=
  let body := valBytes 8 h.toNat ++ (payload ++ List.replicate (128 - payload.length) 0)
  let data := body ++ valBytes 4 (crc32 body)
  ⟨dir, wave, data, rsParity data⟩

/-- The LSEQ after one of a channel. -/
def lseqNext (q : Nat) : Nat := (q + 1) % 2 ^ 24

/-! Launching on the free pool (R318, R330, R331). -/

/-- The replay buffer of a direction holds so many flits (R331). -/
def replayCap : Nat := 8192

/-- The header of a flit: FT, CH, LSEQ, CRED and, as ACKN, the last LSEQ in order on the reverse way (R330). -/
def flitHeader (ft ch lseq cred back : Nat) : Word :=
  BitVec.ofNat 64 (ft * 2 ^ 60 + ch * 2 ^ 58 + lseq * 2 ^ 32 + cred * 2 ^ 16 + (back + 2 ^ 24 - 1) % 65536)

/-- An ACK flit on its way to the peer of a link: it acknowledges a channel and returns credits (R330, R331). -/
def sendAck (s : State) (n key wave ch cred : Nat) : State :=
  if !linkUp s key then s else
  let h := flitHeader 5 ch 0 cred (smGet (linkOf (nd s n) key).expect 0 ch)
  schedule s (flightCc s n key) (.flitReceive (peerOf s n key) (makeFlit (backKey n key) wave h []))

/-! Packets on the wire (R265). -/

/-- The mark of a packet that PRESUME carries past the nodes on its way, in the fields that hold a parked packet's place and are
0 otherwise (R267, R298): its node in FNODE, the index its hop starts at in FIDX, and 0x80 with its arrival direction in FCODE
(DESIGN CHOICE, log 48: no rule gives the mark). -/
def resumeMark (p : PImage) (m idx arr : Nat) : PImage := putFld (putFld (putFld p 159 148 m) 147 140 (0x80 + arr)) 139 136 idx
/-- Whether an image carries the mark. -/
def isResumed (p : PImage) : Bool := bit p 147
/-- The image without it. -/
def resumeClear (p : PImage) : PImage := putFld (putFld (putFld p 159 148 0) 147 140 0) 139 136 0

/-- The image that a packet's flits carry: program and DATA packets are carried byte by byte (R265); what stands in the payload of
other types no rule gives, and their flits only take their time and their place (log 48). -/
def wireImage (p : Parcel) : Option PImage :=
  match p.what with
  | .progArrival m g arr (some idx) => some (resumeMark g m idx arr)
  | .progArrival _ g _ none => some g
  | .dataDelivery _ g _ => some g
  | _ => none
/-- The bytes of a packet (R265): the header and, of a program packet, k0 to the program; then the payload. -/
def wireBytes (p : PImage) : List Byte :=
  if pType p = 1 then valBytes (packetBytes p) p.toNat
  else valBytes 32 p.toNat ++ valBytes (32 * pPlen p) (p.toNat / 2 ^ 1280)
/-- The image of a packet's bytes: in types other than PROG the fields between are absent, and 0. -/
def packetImage (bytes : List Byte) : PImage :=
  let h : PImage := BitVec.ofNat 2304 (bytesVal (bytes.take 32))
  if pType h = 1 then BitVec.ofNat 2304 (bytesVal (bytes.take (packetBytes h)))
  else BitVec.ofNat 2304 (h.toNat + bytesVal ((bytes.drop 32).take (32 * pPlen h)) * 2 ^ 1280)

/-- Flit `k` of a packet of `all` flits is on its way `wait` cc from now over a wavelength of a link: HEAD, BODY and TAIL, or
SOLO; it stays in the replay buffer until its acknowledgement, and takes a credit of the peer's input buffer. -/
def launchFlit (s : State) (n key wave wait k all ch : Nat) (bytes : List Byte) : State :=
  let l := linkOf (nd s n) key
  let q := smGet l.next 0 ch
  let ft := if all = 1 then 3 else if k = 0 then 0 else if k + 1 = all then 2 else 1
  let f := makeFlit (backKey n key) wave (flitHeader ft ch q 0 (smGet l.expect 0 ch)) ((bytes.drop (128 * k)).take 128)
  let s := modLink s n key fun l =>
    { l with next := smPut l.next ch (lseqNext q), replay := l.replay ++ [(ch, q, f)], room := l.room - 1 }
  schedule s (wait + flitCc + flightCc s n key) (.flitReceive (peerOf s n key) f)

/-! The wavelengths of a packet (R318). -/

/-- The node at the far end of a request's circuit (R316). -/
def farEnd (s : State) (n : Nat) (r : LeaseCtl) : Nat :=
  let e := extent s r.dim
  withCoord n r.dim ((coordOf n r.dim + (if r.plus then r.hops else e - r.hops)) % e)
/-- A node's immediate holdings of a tenant on the leg to a node: the ordered channel uses them beside the floor (R318). -/
def ownHolding (s : State) (n m tenant : Nat) : BitVec 640 :=
  (nd s n).leases.foldl (fun a e => match e.2 with
    | some x => if x.tenant = tenant ∧ !x.req.timed ∧ x.state = 1 ∧ farEnd s n x.req = m then a ||| x.held else a
    | none => a) 0
/-- The indices on which a packet may be launched: the free pool of a direction; of a circuit its floor, its neighbour share and
the tenant's immediate holding (R318). -/
def packetWaves (s : State) (n key tenant : Nat) : BitVec 640 :=
  let d := nd s n
  if key < 8 then smGet d.poolIdx 0 key else smGet d.circIdx 0 (key - 8) ||| ownHolding s n (key - 8) tenant
/-- The lowest of them that carries no flit now. -/
def freeWave (s : State) (n key tenant : Nat) : Option Nat :=
  let inUse := (linkOf (nd s n) key).busy.foldl (fun (a : BitVec 640) b => if s.now < b.1 then a ||| BitVec.twoPow 640 b.2 else a) 0
  let open_ := packetWaves s n key tenant &&& ~~~inUse
  if open_ = 0 then none else (upFrom 0 640).find? fun w => open_.getLsbD w

/-- The clock of a message starts as its last packet leaves its node (R309). -/
def startClock (s : State) (n : Nat) (i : Instr) : State :=
  let now := s.now
  let start (m : Msg) : State :=
    let put (o : OutMsg) : OutMsg := if o.msg.ep == m.ep && o.msg.sseq == m.sseq then { o with sent := now } else o
    schedule (modNd s n fun d => { d with outMsgs := d.outMsgs.map put }) (10 * Config.frameCc) (.messagePeergone n m.ep m.sseq)
  match i with
  | .messageArrival _ m => start m
  | .remoteWriteArrival _ m => start m
  | .remoteReadRequest _ m => start m
  | _ => s

/-- The last flit of a packet has been launched `wait` cc from now: one that is not carried byte by byte is in the air. -/
def leftNode (s : State) (n key wait : Nat) (p : Parcel) : State :=
  let s := if p.src = n then startClock s n p.what else s
  if (wireImage p).isSome then s
  else { s with air := s.air ++ [(s.now + wait + flitCc + flightCc s n key, peerOf s n key, backKey n key, p)] }

/-- Launches what waits for a link or circuit, in order, while a wavelength is free and, for flits with bytes, the peer has room
and the replay buffer a place (R271, R331). -/
def pumpFrom (n key : Nat) : Nat → State → State
  | 0, s => s
  | fuel + 1, s =>
    let l := linkOf (nd s n) key
    match l.txq with
    | [] => s
    | (left, all, p) :: rest =>
      match freeWave s n key p.tenant with
      | none => s
      | some w =>
        let img := wireImage p
        if img.isSome ∧ (l.room = 0 ∨ replayCap ≤ l.replay.length) then s else
        let s := modLink s n key fun l =>
          { l with txq := if left ≤ 1 then rest else (left - 1, all, p) :: rest, busy := l.busy ++ [(s.now + flitCc, w)] }
        let s := match img with
          | some g => launchFlit s n key w 0 (all - left) all p.ch (wireBytes g)
          | none => s
        pumpFrom n key fuel (if left ≤ 1 then leftNode s n key 0 p else s)

/-- A link in a cc: wavelengths that have carried their flit are free again, and what waits is launched. -/
def pumpLink (s : State) (n key : Nat) : State :=
  let now := s.now
  pumpFrom n key 640 (modLink s n key fun l => { l with busy := l.busy.filter fun b => decide (now < b.1) })

/-- The links and circuits of a node at which something waits. -/
def waitingLinks (d : Node) : List Nat := (d.links.filter fun l => !l.2.txq.isEmpty).map fun l => l.1
/-- Every link and circuit of a node launches what it can. -/
def pumpLinks (s : State) (n : Nat) : State := (waitingLinks (nd s n)).foldl (fun s key => pumpLink s n key) s

end Sys2Proof.Machine
end

