-- ==== Sys2Proof/Machine/Prism.lean ====
section
/-! DEFINITION. The prism (R271 to R284): one meaning for each instruction, run by the context that is moving, and the
steps of a program packet. -/

namespace Sys2Proof.Machine

/-- The context that is moving. -/
def curHop (s : State) : Option Hop := hopOf (nd s s.cur.node) s.cur.ctx

/-- What an instruction does once its checks have passed. -/
inductive POut where
  | go (img : PImage) (push : List Word) (nxt : Option Nat) (delay : Nat) (s : State)
  | fault (code : Nat) (s : State)
  | deliver (s : State)
  | gone (s : State)

/-- A prism instruction: entries it pops and pushes, the mask bit it needs, and its effect on the packet after its pops,
the values popped given top first (R273, R274). -/
structure POp where
  pops   : Nat := 0
  pushes : Nat := 0
  need   : Option Nat := none
  act    : State → Hop → List Word → PImage → POut

/-- Ends a hop by parking its packet (R285), or on HOPS with EXH set by dropping it with a notice (R288). -/
def parkHop (s : State) (h : Hop) (fcode fidx : Nat) : State :=
  let n := s.cur.node
  let s := endHop s n s.cur.ctx
  if fcode = 0x40 ∧ pExh h.img then sendNotice s n h.img true
  else parkPacket s n h.cfg h.img fcode fidx h.arr h.steps

/-- Charges one prism step to a packet's class on this node (R289). -/
def chargeStep (s : State) (h : Hop) : State :=
  modNd s s.cur.node fun d => charge d (pClass h.img) fun b => { b with pstep := drain b.pstep 1 }

/-- Takes `k` entries off the stack, the top first. -/
def popMany : Nat → PImage → List Word × PImage
  | 0, p => ([], p)
  | k + 1, p => let r := popStack p; let q := popMany k r.2; (r.1 :: q.1, q.2)

/-- Executes one instruction (R272, R273, R289): a step is counted, then its mask bit, its stack needs and its own faults
are tested; a fault parks the packet as the instructions before it left it. -/
def runPrismOp (o : POp) (s : State) : Host.Outcome State Fault Refusal :=
  match curHop s with
  | none => .next s
  | some h0 =>
    let n := s.cur.node
    let h := { h0 with steps := h0.steps + 1 }
    let s := chargeStep s h
    if match o.need with | some b => !cfgMask h.cfg b | none => false then .next (parkHop s h 0x42 h.pc)
    else if pSdep h.img < o.pops ∨ 8 < pSdep h.img - o.pops + o.pushes then .next (parkHop s h 0x43 h.pc)
    else
      let r := popMany o.pops h.img
      match o.act s h r.1 r.2 with
      | .fault code s => .next (parkHop s h code h.pc)
      | .gone s => .next (endHop s n s.cur.ctx)
      | .deliver s => .next (beginDelivery s n s.cur.ctx { h with img := r.2 })
      | .go img push nxt delay s =>
        let h := { h with img := push.foldl pushStack img, prev := h.pc, pc := nxt.getD (h.pc + 1) }
        .next (schedule (putHop s n s.cur.ctx h) delay (.progHop n s.cur.ctx))

/-- An instruction that computes one value from what it pops. -/
def valueOp (pops : Nat) (f : List Word → Word) : POp :=
  { pops := pops, pushes := 1, act := fun s _ v p => .go p [f v] none 1 s }
/-- The value popped at a place, the top first. -/
def popped (v : List Word) (i : Nat) : Word := v.getD i 0
/-- An instruction a, b → a op b (R274): b is popped first. -/
def binOp (f : Word → Word → Word) : POp := valueOp 2 fun v => f (popped v 1) (popped v 0)

/-- CMP.c (R274). -/
def cmpVal (c : Nat) (a b : Word) : Word :=
  let r : Bool := match c with
    | 0 => a == b
    | 1 => a != b
    | 2 => decide (a.toInt < b.toInt)
    | 3 => decide (a.toNat < b.toNat)
    | 4 => decide (b.toInt ≤ a.toInt)
    | 5 => decide (b.toNat ≤ a.toNat)
    | 6 => false
    | _ => true
  BitVec.ofNat 64 (b2n r)

/-- The value of GET (R277). -/
def getVal (s : State) (h : Hop) (d sel : Nat) : Word :=
  let n := s.cur.node
  BitVec.ofNat 64 <| match sel with
    | 0 => n
    | 1 => coordOf n 0
    | 2 => coordOf n 1
    | 3 => coordOf n 2
    | 4 => pHopc h.img
    | 5 => pHopb h.img
    | 6 => h.arr
    | 7 => pTenant h.img
    | 8 => pCdep h.img
    | 9 => gsc s n % 2 ^ 32
    | 10 => loadOf s n d
    | 11 => pSrcn h.img
    | 12 => pClb h.img
    | _ => 0

/-- A counter instruction (R278): its index popped at place `i`. -/
def ctrAct (i : Nat) (change : Bool) (s : State) (h : Hop) (v : List Word) (p : PImage) : POut :=
  let n := s.cur.node
  let k := (popped v i).toNat
  if cwLen h.cfg ≤ k then .fault 0x46 s
  else
    let old := ctrAt (nd s n) (cwBase h.cfg + k)
    let s := if change then softCtr s n (cwBase h.cfg + k) true (popped v 0) else s
    .go p [old] none 2 s

/-- A window instruction (R279): an atomic at the word's home slice; a poisoned line faults WINDOW. -/
def windowAct (i : Nat) (new : Word → List Word → Word) (s : State) (h : Hop) (v : List Word) (p : PImage) : POut :=
  let n := s.cur.node
  let w := (popped v i).toNat
  if rwLen (nd s n) h.cfg ≤ w then .fault 0x46 s
  else
    let a := rwBase h.cfg + 8 * w
    let wait := Config.latNear + sliceDelay s n .deep a
    let s := touch s n none .deep a 8 true
    if isPoison (nd s n) .deep a then .fault 0x46 s
    else
      let old : Word := BitVec.ofNat 64 (homeRead (nd s n) .deep a 8)
      let s := modNd s n fun d => homeWrite d .deep a 8 (fullMask 8) (new old v).toNat
      .go p [old] none wait s

/-- DIRMIN (R280): the candidate of least load, the lowest of equals, or the lowest of all with DETR. -/
def minDir (s : State) (h : Hop) (m : Nat) (na : Bool) : Nat :=
  let n := s.cur.node
  let cand := (upFrom 0 6).filter fun d => m.testBit d && hasLink s d && !(na && d == h.arr)
  match cand with
  | [] => 7
  | d :: r => if pDetr h.img then d else r.foldl (fun b d => if loadSeen s n d < loadSeen s n b then d else b) d

/-- An instruction that sets DIR. -/
def dirAct (f : State → Hop → List Word → Nat) : State → Hop → List Word → PImage → POut :=
  fun s h v p => .go (setDir p (f s h v)) [] none 1 s

/-- A packet as it leaves toward a neighbour: one hop spent (R281, R282). -/
def hopSpent (p : PImage) : PImage := putFld (putFld p 135 128 (pHopb p - 1)) 127 120 (min (pHopc p + 1) 255)
/-- DLVR (R283). -/
def deliverAct (s : State) (h : Hop) (_ : List Word) (_ : PImage) : POut :=
  match deliveryBar h.cfg with
  | some code => .fault code s
  | none => .deliver s

/-- FWD (R281). -/
def forwardAct (s : State) (h : Hop) (v : List Word) (p : PImage) : POut :=
  let d := pDir p
  if d = 6 then deliverAct s h v p
  else if d = 7 ∨ !hasLink s d ∨ !cfgMask h.cfg 7 then .fault 0x42 s
  else if pHopb p = 0 then .fault 0x40 s
  else .gone (sendToward s s.cur.node d (hopSpent p))

/-- CLONE (R282). -/
def cloneAct (d0 : Nat) (s : State) (h : Hop) (_ : List Word) (p : PImage) : POut :=
  let d := if d0 = 7 then pDir p else d0
  if !cfgMask h.cfg 4 ∨ 6 ≤ d ∨ !hasLink s d ∨ !cfgMask h.cfg 7 then .fault 0x42 s
  else if pClb p = 0 then .fault 0x45 s
  else if pHopb p = 0 then .fault 0x40 s
  else
    let p := putFld p 119 116 (pClb p - 1)
    let c := hopSpent (setDir (putFld (putFld p 82 82 1) 115 112 (min (pCdep p + 1) 15)) d)
    .go p [] none 1 (sendToward s s.cur.node d c)

/-- A branch (R274). -/
def branchAct (t : Nat) (taken : Word → Bool) : State → Hop → List Word → PImage → POut :=
  fun s _ v p => .go p [] (if taken (popped v 0) then some t else none) 1 s

/-- PSHI (R274). -/
def execPshi (v : BitVec 11) (s : State) : Host.Outcome State Fault Refusal :=
  runPrismOp (valueOp 0 fun _ => v.signExtend 64) s

/-- PSHK (R274). -/
def execPshk (n : BitVec 2) (s : State) : Host.Outcome State Fault Refusal :=
  runPrismOp ({ pushes := 1, act := fun s _ _ p => .go p [pK p n.toNat] none 1 s }) s

/-- POPK (R274). -/
def execPopk (n : BitVec 2) (s : State) : Host.Outcome State Fault Refusal :=
  runPrismOp ({ pops := 1, act := fun s _ v p => .go (setK p n.toNat (popped v 0)) [] none 1 s }) s

/-- DUP (R274). -/
def execDup (s : State) : Host.Outcome State Fault Refusal :=
  runPrismOp ({ pops := 1, pushes := 2, act := fun s _ v p => .go p [popped v 0, popped v 0] none 1 s }) s

/-- DROPS (R274). -/
def execDrops (s : State) : Host.Outcome State Fault Refusal :=
  runPrismOp ({ pops := 1, act := fun s _ _ p => .go p [] none 1 s }) s

/-- SWAP (R274). -/
def execSwap (s : State) : Host.Outcome State Fault Refusal :=
  runPrismOp ({ pops := 2, pushes := 2, act := fun s _ v p => .go p [popped v 0, popped v 1] none 1 s }) s

/-- OVER (R274). -/
def execOver (s : State) : Host.Outcome State Fault Refusal :=
  runPrismOp ({ pops := 2, pushes := 3,
                act := fun s _ v p => .go p [popped v 1, popped v 0, popped v 1] none 1 s }) s

/-- ADD (R274). -/
def execPrismAdd (s : State) : Host.Outcome State Fault Refusal :=
  runPrismOp (binOp fun a b => a + b) s

/-- SUB (R274). -/
def execPrismSub (s : State) : Host.Outcome State Fault Refusal :=
  runPrismOp (binOp fun a b => a - b) s

/-- AND (R274). -/
def execPrismAnd (s : State) : Host.Outcome State Fault Refusal :=
  runPrismOp (binOp fun a b => a &&& b) s

/-- OR (R274). -/
def execPrismOr (s : State) : Host.Outcome State Fault Refusal :=
  runPrismOp (binOp fun a b => a ||| b) s

/-- XOR (R274). -/
def execPrismXor (s : State) : Host.Outcome State Fault Refusal :=
  runPrismOp (binOp fun a b => a ^^^ b) s

/-- SHL (R274). -/
def execPrismShl (s : State) : Host.Outcome State Fault Refusal :=
  runPrismOp (binOp fun a b => if 64 ≤ b.toNat then 0 else a <<< b.toNat) s

/-- SHR (R274). -/
def execPrismShr (s : State) : Host.Outcome State Fault Refusal :=
  runPrismOp (binOp fun a b => if 64 ≤ b.toNat then 0 else a >>> b.toNat) s

/-- CMP (R274). -/
def execCmp (c : BitVec 3) (s : State) : Host.Outcome State Fault Refusal :=
  runPrismOp (binOp (cmpVal c.toNat)) s

/-- GET (R277). -/
def execGet (d : BitVec 3) (e : BitVec 4) (s : State) : Host.Outcome State Fault Refusal :=
  runPrismOp ({ pushes := 1, act := fun s h _ p => .go p [getVal s h d.toNat e.toNat] none 1 s }) s

/-- CTRLD (R278). -/
def execCtrld (s : State) : Host.Outcome State Fault Refusal :=
  runPrismOp ({ pops := 1, pushes := 1, need := some 0, act := ctrAct 0 false }) s

/-- CTRADD (R278). -/
def execCtradd (s : State) : Host.Outcome State Fault Refusal :=
  runPrismOp ({ pops := 2, pushes := 1, need := some 1, act := ctrAct 1 true }) s

/-- SWLD (R279). -/
def execSwld (s : State) : Host.Outcome State Fault Refusal :=
  runPrismOp ({ pops := 1, pushes := 1, need := some 2, act := windowAct 0 fun old _ => old }) s

/-- SWADD (R279). -/
def execSwadd (s : State) : Host.Outcome State Fault Refusal :=
  runPrismOp ({ pops := 2, pushes := 1, need := some 3, act := windowAct 1 fun old v => old + popped v 0 }) s

/-- SWCAS (R279). -/
def execSwcas (s : State) : Host.Outcome State Fault Refusal :=
  runPrismOp ({ pops := 3, pushes := 1, need := some 3,
                act := windowAct 2 fun old v => if old = popped v 1 then popped v 0 else old }) s

/-- CLONE (R282). -/
def execClone (d : BitVec 3) (s : State) : Host.Outcome State Fault Refusal :=
  runPrismOp ({ act := cloneAct d.toNat }) s

/-- BRZ (R274). -/
def execBrz (t : BitVec 4) (s : State) : Host.Outcome State Fault Refusal :=
  runPrismOp ({ pops := 1, act := branchAct t.toNat fun v => v == 0 }) s

/-- BRNZ (R274). -/
def execBrnz (t : BitVec 4) (s : State) : Host.Outcome State Fault Refusal :=
  runPrismOp ({ pops := 1, act := branchAct t.toNat fun v => v != 0 }) s

/-- JMP (R274). -/
def execJmp (t : BitVec 4) (s : State) : Host.Outcome State Fault Refusal :=
  runPrismOp ({ act := branchAct t.toNat fun _ => true }) s

/-- DIRSET (R280). -/
def execDirset (d : BitVec 3) (s : State) : Host.Outcome State Fault Refusal :=
  runPrismOp ({ act := dirAct fun _ _ _ => d.toNat }) s

/-- DIRSET stack (R280). -/
def execDirsetStack (s : State) : Host.Outcome State Fault Refusal :=
  runPrismOp ({ pops := 1, act := dirAct fun _ _ v => fld (popped v 0) 2 0 }) s

/-- DIRMIN (R280). -/
def execDirmin (m : BitVec 6) (s : State) : Host.Outcome State Fault Refusal :=
  runPrismOp ({ need := some 6, act := dirAct fun s h _ => minDir s h m.toNat false }) s

/-- DIRMIN.NA (R280). -/
def execDirminNa (m : BitVec 6) (s : State) : Host.Outcome State Fault Refusal :=
  runPrismOp ({ need := some 6, act := dirAct fun s h _ => minDir s h m.toNat true }) s

/-- DIRTO (R280). -/
def execDirto (s : State) : Host.Outcome State Fault Refusal :=
  runPrismOp ({ act := dirAct fun s h _ => dirTo s s.cur.node (pDhint h.img) }) s

/-- DIRTO stack (R280). -/
def execDirtoStack (s : State) : Host.Outcome State Fault Refusal :=
  runPrismOp ({ pops := 1, act := dirAct fun s _ v => dirTo s s.cur.node (fld (popped v 0) 11 0) }) s

/-- FWD (R281). -/
def execFwd (s : State) : Host.Outcome State Fault Refusal :=
  runPrismOp ({ act := forwardAct }) s

/-- DLVR (R283). -/
def execDlvr (s : State) : Host.Outcome State Fault Refusal :=
  runPrismOp ({ act := deliverAct }) s

/-- PARK (R284). -/
def execPark (s : State) : Host.Outcome State Fault Refusal :=
  runPrismOp ({ act := fun s _ _ _ => .fault 0 s }) s

/-- DROP (R284). -/
def execDrop (s : State) : Host.Outcome State Fault Refusal :=
  runPrismOp ({ act := fun s _ _ _ => .gone s }) s

/-- DROP.N (R284). -/
def execDropN (s : State) : Host.Outcome State Fault Refusal :=
  runPrismOp ({ act := fun s h _ _ => .gone (sendNotice s s.cur.node h.img true) }) s

/-- PLDW (R274). -/
def execPldw (w : BitVec 4) (s : State) : Host.Outcome State Fault Refusal :=
  runPrismOp ({ pushes := 1,
                act := fun s _ _ p => if 4 * pPlen p ≤ w.toNat then .fault 0x46 s else .go p [pPayload p w.toNat] none 1 s }) s

/-- PSTW (R274). -/
def execPstw (w : BitVec 4) (s : State) : Host.Outcome State Fault Refusal :=
  runPrismOp ({ pops := 1,
                act := fun s _ v p => if 4 * pPlen p ≤ w.toNat then .fault 0x46 s else .go (setPayload p w.toNat (popped v 0)) [] none 1 s }) s

/-- ENTRY (R274). -/
def execEntry (t : BitVec 4) (s : State) : Host.Outcome State Fault Refusal :=
  runPrismOp ({ act := fun s _ _ p => .go (putFld p 111 108 t.toNat) [] none 1 s }) s

/-! The steps of a program packet. -/

/-- Runs a decoded prism instruction. -/
def runPrism (i : Instr) (s : State) : Host.Outcome State Fault Refusal :=
  match i with
  | .pshi v => execPshi v s
  | .pshk n => execPshk n s
  | .popk n => execPopk n s
  | .dup => execDup s
  | .drops => execDrops s
  | .swap => execSwap s
  | .over => execOver s
  | .prismAdd => execPrismAdd s
  | .prismSub => execPrismSub s
  | .prismAnd => execPrismAnd s
  | .prismOr => execPrismOr s
  | .prismXor => execPrismXor s
  | .prismShl => execPrismShl s
  | .prismShr => execPrismShr s
  | .cmp c => execCmp c s
  | .get d e => execGet d e s
  | .ctrld => execCtrld s
  | .ctradd => execCtradd s
  | .swld => execSwld s
  | .swadd => execSwadd s
  | .swcas => execSwcas s
  | .clone d => execClone d s
  | .brz t => execBrz t s
  | .brnz t => execBrnz t s
  | .jmp t => execJmp t s
  | .dirset d => execDirset d s
  | .dirsetStack => execDirsetStack s
  | .dirmin m => execDirmin m s
  | .dirminNa m => execDirminNa m s
  | .dirto => execDirto s
  | .dirtoStack => execDirtoStack s
  | .fwd => execFwd s
  | .dlvr => execDlvr s
  | .park => execPark s
  | .drop => execDrop s
  | .dropN => execDropN s
  | .pldw w => execPldw w s
  | .pstw w => execPstw w s
  | .entry t => execEntry t s
  | _ => .next s

/-- A program packet's last byte has arrived over a link, 6 for none: it waits for a context (R271). -/
def progArrive (s : State) (n : Nat) (p : PImage) (arr : Nat) (idx : Option Nat) (via : Nat) : State :=
  modNd s n fun d => { d with arrivals := d.arrivals ++ [⟨p, arr, idx, s.now, via⟩] }

/-- PROG_ARRIVAL (R271): one that PRESUME carries brings the index its hop starts at. -/
def execProgArrival (n : Nat) (p : PImage) (arr : Nat) (idx : Option Nat) (s : State) : Host.Outcome State Fault Refusal :=
  .next (progArrive s n p arr idx (if idx.isSome then 6 else arr))

/-- A packet that came over a link leaves the input buffer: its flits' credits go back (R271, R330). -/
def creditBack (s : State) (n : Nat) (a : Arrival) : State :=
  if 6 ≤ a.via then s else sendAck s n a.via 639 1 (unitsOf (packetBytes a.img))

/-- The oldest packet waiting, of those of one cc the lowest arrival direction (R271). -/
def oldestArrival (l : List Arrival) : Option Arrival := (sortBy (fun a => a.cc * 8 + a.arr) l).head?

/-- The lowest-numbered free context. -/
def freeContext (d : Node) : Option Nat := (upFrom 0 8).find? fun k => (smGet d.hops none k).isNone

/-- Gives waiting packets to free contexts (R271), which frees their input buffer; a context starts 4 cc after the packet's
last byte (R275). -/
def takeArrivals (n : Nat) : Nat → State → State
  | 0, s => s
  | fuel + 1, s =>
    match freeContext (nd s n), oldestArrival (nd s n).arrivals with
    | some k, some a =>
      let st := a.idx.getD (pEntry a.img)
      let h : Hop := ⟨a.img, st, st, st, 0, a.arr, 0, 0, 0, 0, []⟩
      let s := modNd s n fun d => { d with arrivals := d.arrivals.erase a, hops := smPut d.hops k (some h) }
      takeArrivals n fuel (schedule (creditBack s n a) (a.cc + 4 - s.now) (.progHop n k))
    | _, _ => s

/-- PROG_HOP (R272, R273): the block is read at the hop's start; FETCH_CHECK, then the instruction at the index. -/
def execProgHop (n k : Nat) (s : State) : Host.Outcome State Fault Refusal :=
  let s := { s with cur := { s.cur with node := n, ctx := k } }
  match curHop s with
  | none => .next s
  | some h0 =>
    let h := if h0.cfg.isEmpty then { h0 with cfg := prismCfg (nd s n) (pTenant h0.img) } else h0
    let s := putHop s n k h
    if h.stage ≠ 0 then .next s
    else if pNim1 h.img < h.pc then .next (parkHop s h 0x44 h.prev)
    else if 32 ≤ h.steps then .next (parkHop s h 0x41 h.pc)
    else match decodePrism (pInstr h.img h.pc) with
      | some i => runPrism i s
      | none => .next s

end Sys2Proof.Machine
end

