-- ==== Sys2Proof/Machine/Shutter.lean ====
section
/-! DEFINITION. The shutter table (R327 to R329, R340): slots and rotations, the send queues, SHUTTER_ROTATION_START and
SHUTTER_SLOT. -/

namespace Sys2Proof.Machine

/-- Changes a node's shutter table. -/
def modSh (s : State) (n : Nat) (f : Shutter → Shutter) : State := modNd s n fun d => { d with shutter := f d.shutter }

/-- DUR, LAST and DIST toward a direction of a slot entry (R327). -/
def slotDur (w : Word) : Nat := fld w 63 48
def slotLast (w : Word) : Bool := bit w 24
def slotDist (w : Word) (d : Nat) : Nat := fld w (4 * d + 3) (4 * d)

/-- The slots of a rotation from slot `i` on (R327): up to LAST, to slot 15, or before the first of DUR 0. -/
def rotFrom (t : SMap Word) (i : Nat) : Nat → List Word
  | 0 => []
  | f + 1 =>
    let w := smGet t 0 i
    if slotDur w = 0 then [] else if slotLast w then [w] else w :: rotFrom t (i + 1) f
/-- The slots of a table's rotation. -/
def rotation (t : SMap Word) : List Word := rotFrom t 0 16
/-- Its length in steps. -/
def rotLen (t : SMap Word) : Nat := (rotation t).foldl (fun a w => a + slotDur w) 0

/-- The node that many hops along a direction. -/
def hopsAlong (s : State) (n d : Nat) : Nat → Nat
  | 0 => n
  | k + 1 => hopsAlong s (neighbour s n d) d k
/-- The destinations that a slot opens: direction, hops and node. -/
def slotOpens (s : State) (n : Nat) (w : Word) : List (Nat × Nat × Nat) :=
  (upFrom 0 6).flatMap fun d =>
    let k := slotDist w d
    if k = 0 || !hasLink s d then [] else [(d, k, hopsAlong s n d k)]

/-- The end of the running rotation that holds step `g` (R340). -/
def rotEnd (x : Shutter) (t0 g : Nat) : Nat :=
  let l := rotLen x.active
  if l = 0 then t0 else t0 + ((g - t0) / l + 1) * l
/-- The step at which the last rotation ends, if a count was given. -/
def runEnd (x : Shutter) : Option Nat :=
  match x.started with
  | some (t0, k) => if k = 0 then none else some (t0 + k * rotLen x.active)
  | none => none
/-- The slot that holds a step: its first step and its entry. -/
def slotAt : List Word → Nat → Nat → Option (Nat × Word)
  | [], _, _ => none
  | w :: r, from_, g => if g < from_ + slotDur w then some (from_, w) else slotAt r (from_ + slotDur w) g
/-- The slot that is open at step `g`. -/
def openSlot (x : Shutter) (g : Nat) : Option (Nat × Word) :=
  match x.started with
  | none => none
  | some (t0, _) =>
    let l := rotLen x.active
    if l = 0 || decide (g < t0) then none else slotAt (rotation x.active) (t0 + (g - t0) / l * l) g

/-- A node's GSC in cc with its phase (R333). -/
def gscCc (s : State) (n : Nat) : Nat :=
  let d := nd s n
  4 * d.gscBase + (s.now - d.gscFrom + d.gscPhase)
/-- The cc until a node's GSC reaches a step, 0 if it has. -/
def stepDelay (s : State) (n t : Nat) : Nat := 4 * t - gscCc s n

/-- The indices of the owner's timed holding in a direction, if it spans so many segments (R328). -/
def bandMask (d : Node) (dir k : Nat) : BitVec 640 :=
  match d.leases.find? fun e => match e.2 with
    | some x => d.shutter.owner == some x.tenant && x.req.timed && x.state == 1 && x.dir == dir && decide (k ≤ x.req.hops)
    | none => false with
  | some (_, some x) => x.held
  | _ => 0
/-- Their count. -/
def bandWidth (d : Node) (dir k : Nat) : Nat := popCount (bandMask d dir k).toNat 640

/-- The flits of so many bytes (R328). -/
def flitsOf (bytes : Nat) : Nat := ceilDiv bytes 128
/-- The steps in which so many flits leave on so many wavelengths: 160 bytes each at 112 Gb/s, 50/7 of a step (R328). -/
def flitSteps (flits w : Nat) : Nat := ceilDiv (ceilDiv flits w * 50) 7

/-! The send queues. -/

/-- The packets that wait in a node's send queue toward a destination: 256 at most (R329). -/
def sendqCount (x : Shutter) (dst : Nat) : Nat :=
  (x.sendq.filter fun e => e.1 == dst).foldl (fun a e => a + e.2.1) 0

/-- Packets enter the send queue toward their destination as far as it has room; the others wait where they stand, behind it
(R329). -/
def sendqPut (x : Shutter) (e : Nat × Nat × Nat × Parcel) : Shutter :=
  let room := if x.back.any fun b => b.1 == e.1 then 0 else 256 - sendqCount x e.1
  if e.2.1 ≤ room then { x with sendq := x.sendq ++ [e] }
  else
    let some_ := if room = 0 then [] else [(e.1, room, flitsOf (nextPacket e.2.2.2.what (packetCap e.2.2.2.what)), e.2.2.2)]
    { x with sendq := x.sendq ++ some_, back := x.back ++ [(e.1, e.2.1 - room, e.2.2)] }
/-- What waits behind the send queues enters them, in order, as room comes. -/
def sendqRefill (x : Shutter) : Shutter := x.back.foldl sendqPut { x with back := [] }

/-- The `k` lowest indices of a holding that carry no flit of a link now. -/
def bandWaves (s : State) (n key k : Nat) (m : BitVec 640) : List Nat :=
  let l := linkOf (nd s n) key
  ((upFrom 0 640).filter fun w => m.getLsbD w && !(l.busy.any fun b => b.2 == w && decide (s.now < b.1))).take k

/-- A packet is launched whole over a band (R328): its flits go round the wavelengths it takes. -/
def launchWhole (s : State) (n key w : Nat) (m : BitVec 640) (p : Parcel) : State :=
  let flits := flitsOf p.bytes
  let rounds := ceilDiv flits w
  let waves := bandWaves s n key w m
  let s := match wireImage p with
    | some g => (upFrom 0 flits).foldl (fun s j => launchFlit s n key (nth waves (j % w) 0) (flitCc * (j / w)) j flits p.ch (wireBytes g)) s
    | none => s
  let until_ := s.now + flitCc * rounds
  let s := modLink s n key fun l => { l with busy := l.busy ++ waves.map fun x => (until_, x) }
  leftNode s n key (flitCc * (rounds - 1)) p

/-- Whether the peer of a circuit has room for the flits of a packet that is carried byte by byte, and the replay buffer too. -/
def wholeRoom (s : State) (n key : Nat) (p : Parcel) : Bool :=
  let l := linkOf (nd s n) key
  (wireImage p).isNone || (decide (flitsOf p.bytes ≤ l.room) && decide (l.replay.length + flitsOf p.bytes ≤ replayCap))

/-- The next packets of a destination begin now, if it is their step and their last flit can be launched within the window of
the slot, which begins at step `from_` and lasts `dur`, while as many wavelengths of the band are free as each needs (R328). -/
def drainFrom (n dir dst : Nat) (m : BitVec 640) (from_ dur : Nat) : Nat → State → State
  | 0, s => s
  | fuel + 1, s =>
    let g := gsc s n
    let x := (nd s n).shutter
    match takeFirst (fun e : Nat × Nat × Nat × Parcel => e.1 == dst) x.sendq with
    | none => s
    | some ((_, left, last, p), rest) =>
      let size := if left ≤ 1 then last * 128 else nextPacket p.what (packetCap p.what)
      let flits := flitsOf size
      let width := popCount m.toNat 640
      let w := min flits width
      let open_ := (smGet x.taken [] dir).filter fun t => decide (g < t.1)
      let k := flitSteps flits w
      if g < from_ + 157 ∨ from_ + dur - 32 < g + k ∨ width < w + open_.foldl (fun a t => a + t.2) 0
          ∨ !wholeRoom s n (8 + dst) { p with bytes := size } then s
      else
        let put (x : Shutter) : Shutter :=
          { x with taken := smPut x.taken dir (open_ ++ [(g + k, w)]),
                   sendq := if left ≤ 1 then rest else modNth (fun e => (e.1, e.2.1 - 1, e.2.2)) x.sendq (x.sendq.findIdx fun e => e.1 == dst) }
        let s := modSh s n fun x => sendqRefill (put x)
        drainFrom n dir dst m from_ dur fuel (launchWhole s n (8 + dst) w m { p with bytes := size, stamp := g })

/-- The send queues drain in the slot that is open now, over the band as it is held now (R328, R329). -/
def shutterPump (s : State) (n : Nat) : State :=
  if (nd s n).shutter.sendq.isEmpty then s else
  match openSlot (nd s n).shutter (gsc s n) with
  | none => s
  | some (from_, w) =>
    (slotOpens s n w).foldl (fun s (o : Nat × Nat × Nat) =>
      let m := bandMask (nd s n) o.1 o.2.1
      if m = 0 then s else drainFrom n o.1 o.2.2 m from_ (slotDur w) 640 s) s

/-- The destinations that the running rotation names (R329). -/
def shutterNames (s : State) (n dst : Nat) : Bool :=
  (rotation (nd s n).shutter.active).any fun w => (slotOpens s n w).any fun o => o.2.2 == dst

/-- Whether a MSG, DATA or COLL packet of a tenant toward a node waits in a send queue (R329). -/
def shutterTakes (s : State) (n tenant dst : Nat) : Bool :=
  let x := (nd s n).shutter
  x.started.isSome && x.owner == some tenant && shutterNames s n dst
/-- Whether the send queue toward a node has room for a packet; others wait where they stand (R329). -/
def shutterRoom (s : State) (n tenant dst : Nat) : Bool :=
  !shutterTakes s n tenant dst
  || (decide (sendqCount (nd s n).shutter dst < 256) && !((nd s n).shutter.back.any fun b => b.1 == dst))

/-- The channel of a transfer that may wait in a send queue (R294, R299, R307): that of the DATA packet or of the endpoint;
chunks are relaxed; the answers to messages, whose channel no rule gives, are ordered (DESIGN CHOICE, log 48). -/
def eventChannel : Instr → Nat
  | .dataDelivery _ p _ => b2n (pOrd p)
  | .messageArrival _ m => b2n m.relaxed
  | .remoteWriteArrival _ m => b2n m.relaxed
  | .remoteReadRequest _ m => b2n m.relaxed
  | .readReplyArrival _ m => b2n m.relaxed
  | .chunkArrival .. => 1
  | .progArrival .. => 1
  | _ => 0

/-- Sends what arrives at another node as `i`, with so many bytes of payload: through the send queue where the shutter table
takes it (R329), over the paths of R318 otherwise. -/
def launch (s : State) (n tenant dst bytes : Nat) (i : Instr) : State :=
  if queuedType i && shutterTakes s n tenant dst then
    let p := parcelOf s n dst (eventChannel i) tenant bytes i
    let last := flitsOf (32 + (bytes - packetCap i * (p.parts - 1)))
    modSh (modNd s n fun d => { d with netSeq := p.seq }) n fun x => sendqPut x (dst, p.parts, last, p)
  else netSend s n dst (eventChannel i) tenant bytes i

/-- Every packet that waits on a node: in its send queues, for its congestion windows, for its wavelengths. -/
def waitingPackets (d : Node) : List Parcel :=
  (d.shutter.sendq ++ d.shutter.back).map (fun e => e.2.2.2) ++ d.paceq.map (fun e => e.2)
  ++ d.links.flatMap fun l => l.2.txq.map fun e => e.2.2
/-- The message that an event brings to its peer. -/
def msgOfEvent : Instr → Option Msg
  | .messageArrival _ m => some m
  | .remoteWriteArrival _ m => some m
  | .remoteReadRequest _ m => some m
  | _ => none

/-- The table becomes idle and loses its owner (R327). -/
def shutterIdle (s : State) (n : Nat) : State :=
  modSh s n fun x => { x with owner := none, shadow := [], active := [], runs := [], started := none }

/-- The queues of destinations that no rotation names any more drain over the paths of R318 (R329). -/
def shutterFlush (s : State) (n : Nat) : State :=
  let keep (e : Nat × Nat × Nat × Parcel) : Bool := (nd s n).shutter.started.isSome && shutterNames s n e.1
  let x := (nd s n).shutter
  let gone := (x.sendq ++ x.back).filter fun e => !keep e
  gone.foldl (fun s e =>
      let cap := packetCap e.2.2.2.what
      netPut s n ((e.2.1 - 1) * cap + min (e.2.2.1 * 128 - 32) cap) e.2.2.2)
    (modSh s n fun x => { x with sendq := x.sendq.filter keep, back := x.back.filter keep })

/-- Schedules the next slot's beginning, or the end of the rotations, in place of what was scheduled before. -/
def slotTimer (s : State) (n : Nat) : State :=
  let waits (e : Nat × Instr) : Bool := match e.2 with | .shutterSlot m => m == n | _ => false
  let s := { s with timers := s.timers.filter fun e => !waits e }
  match openSlot (nd s n).shutter (gsc s n) with
  | none => s
  | some (from_, w) => schedule s (stepDelay s n (from_ + slotDur w)) (.shutterSlot n)

/-- The rotations run out: the next scheduled ones begin at their step, or the table becomes idle (R327, R340). -/
def shutterStop (s : State) (n : Nat) : State :=
  let s := modSh s n fun x => { x with started := none, taken := [] }
  shutterFlush (if (nd s n).shutter.runs.isEmpty then shutterIdle s n else s) n

/-- Whether the last rotation is over. -/
def runsOver (s : State) (n : Nat) : Bool :=
  match runEnd (nd s n).shutter with | some e => decide (e ≤ gsc s n) | none => false

/-- SHUTTER_ROTATION_START (R340): at step T the shadow is loaded and the scheduled rotations begin, in the phase they would
hold had they begun at T. A node whose GSC has been steered back since waits for it to reach T. -/
def execShutterRotationStart (n : Nat) (s : State) : Host.Outcome State Fault Refusal :=
  let g := gsc s n
  let runs := (nd s n).shutter.runs
  match takeFirst (fun r : Nat × Nat => decide (r.1 ≤ g)) runs with
  | none => .next (match runs with
    | [] => s
    | r :: _ => schedule s (max 1 (stepDelay s n r.1)) (.shutterRotationStart n))
  | some (r, rest) =>
    let s := modSh s n fun x => { x with runs := rest, active := x.shadow, started := some r, taken := [] }
    let s := shutterFlush s n
    .next (if runsOver s n then shutterStop s n else slotTimer (shutterPump s n) n)

/-- SHUTTER_SLOT (R328): a slot begins, and the send queues it opens drain; after the last rotation the table is idle. -/
def execShutterSlot (n : Nat) (s : State) : Host.Outcome State Fault Refusal :=
  let x := (nd s n).shutter
  if x.started.isNone || x.runs.any fun r => decide (r.1 ≤ gsc s n) then .next s else
  .next (if runsOver s n then shutterStop s n else slotTimer (shutterPump s n) n)

/-- The running rotation is the last one, or, without one, the table becomes idle at once (R340, R452). -/
def shutterEnd (s : State) (n : Nat) : State :=
  let x := (nd s n).shutter
  match x.started with
  | none => shutterFlush (shutterIdle s n) n
  | some (t0, k) =>
    let last := (gsc s n - t0) / max 1 (rotLen x.active) + 1
    modSh s n fun x => { x with runs := [], started := some (t0, if k = 0 then last else min k last) }

end Sys2Proof.Machine
end

