-- ==== Sys2Proof/Machine/Packet.lean ====
section
/-! DEFINITION. The packet instructions (R291 to R298), packet injection (R293, R294) and park retrieval (R297). -/

namespace Sys2Proof.Machine

/-- Whether a register names scratchpad bytes of an alignment (R292, R297, R298): bits [63:19] zero. -/
def spadOff (v : Word) (align : Nat) : Option Nat :=
  if v.toNat < 2 ^ 19 ∧ v.toNat % align = 0 then some v.toNat else none

/-- Reads bytes of the core's own partition for an instruction: XLATE beyond it, POISON of a poisoned line. -/
def spadTake (s : State) (off size : Nat) : Sum Nat Nat :=
  let k := cc s
  if k.part * 8192 < off + size then .inl codeXlate
  else if (upFrom (off / 128) ((off % 128 + size + 127) / 128)).any fun l => smGet k.spadPoison false l then .inl codePoison
  else .inr (spadRead k off size)

/-- The state of a packet-buffer slot (R292). -/
def slotOf (k : Core) (i : Nat) : PSlot := smGet k.slots .free i
/-- The lowest free slot. -/
def freeSlot (k : Core) : Option Nat := (upFrom 0 8).find? fun i => slotOf k i == .free
/-- Puts a slot. -/
def putSlot (k : Core) (i : Nat) (x : PSlot) : Core := { k with slots := smPut k.slots i x }

/-- The fields that identify the sender (R292). -/
def stampSender (s : State) (p : PImage) : PImage :=
  let k := cc s
  putFld (putFld (putFld (putFld p 93 88 (tenantOf k)) 191 180 s.cur.node) 167 160 s.cur.core) 80 77 (classOf k)

/-- The packet that PBUILD makes of a template (R292). -/
def buildPacket (s : State) (p : PImage) (dhint : Nat) (k0 : Word) : PImage :=
  let p := stampSender s (setK (putFld p 179 168 dhint) 0 k0)
  let p := putFld (putFld (putFld p 159 148 0) 147 140 0) 139 136 0
  putFld (putFld (putFld p 127 120 0) 82 82 0) 115 112 0

/-- PBUILD (R292). -/
def execPbuild (f : FE) (s : State) : Host.Outcome State Fault Refusal :=
  runOp { len := 2, tk := f.tk, seqs := [.ctrl], handler := false, flags := feFlags f, srcs := [f.a, f.b, f.d], flying := 1,
          now := false,
          pre := fun s => match spadOff (reg s f.a) 32 with
            | none => .fault (causeHere s codeIllegal) s
            | some o =>
              if fld (reg s f.d) 63 12 ≠ 0 then .fault (causeHere s codeIllegal) s
              else match spadTake s o 288 with
                | .inl code => .fault (causeAt s code (BitVec.ofNat 64 o)) s
                | .inr v => .go (buildPacket s (BitVec.ofNat 2304 v) (fld (reg s f.d) 11 0) (reg s f.b)) s,
          room := fun s => (freeSlot (cc s)).isSome,
          eff := fun p s => match freeSlot (cc s) with
            | none => s
            | some i => flyReg (modCc s fun k => putSlot k i (.built p)) f.d (BitVec.ofNat 64 i) 2 (pushKey s f.tk) f.sig } s

/-- Check 1 of R293. -/
def packetLegal (s : State) (p : PImage) : Bool :=
  (pType p == 1 || (pType p == 0 && pSdep p == 0 && pNim1 p == 0 && pEntry p == 0 && fld p 1279 256 == 0
    && inTorus s (pDhint p)))
  && decide (pPlen p ≤ 4) && decide (pSdep p ≤ 8) && fld p 60 0 == 0

/-- The channel of a packet (R281, R294): whether it is the ordered one. -/
def packetOrdered (p : PImage) : Bool := pType p == 0 && !pOrd p

/-- The next sequence number of a packet's channel (R293), the first being 1. -/
def nextSeq (k : Core) (ordered : Bool) : BitVec 32 := (if ordered then k.pSeqO else k.pSeqR) + 1
/-- Takes it. -/
def takeSeq (k : Core) (ordered : Bool) : Core :=
  if ordered then { k with pSeqO := k.pSeqO + 1 } else { k with pSeqR := k.pSeqR + 1 }

/-- Puts a packet into the packet queue with its SEQ, and the slot's state (R293, R298). -/
def queuePacket (f : FE) (p : PImage) (slot : Option Nat) (resume : Option (Nat × Nat × Nat)) (s : State) : State :=
  let q := nextSeq (cc s) (packetOrdered p)
  let img := clearStack (putFld p 223 192 q.toNat)
  let e : PEntry := ⟨img, slot, resume, none, f.sig, ginOf (cc s), classOf (cc s)⟩
  let s := modCc s fun k =>
    let k := takeSeq { k with pq := k.pq ++ [e] } (packetOrdered p)
    match slot with
    | some i => putSlot k i (.queued img)
    | none => k
  flyReg s f.d (q.setWidth 64) 2 none 0

/-- PSEND (R293). -/
def execPsend (f : FE) (s : State) : Host.Outcome State Fault Refusal :=
  runOp { len := 2, tk := f.tk, seqs := [.ctrl], handler := false, flags := feFlags f, srcs := [f.a], flying := 1,
          pre := fun s =>
            let v := (reg s f.a).toNat
            if 8 ≤ v then .fault (causeHere s codeIllegal) s
            else match slotOf (cc s) v with
            | .built p =>
              if !packetLegal s p then .fault (causeHere s codeIllegal) s
              else if pType p = 0 ∧ !cfgMask (prismCfg (cn s) (tenantOf (cc s))) 7 then .fault (causeHere s codePerm) s
              else .go (v, p) s
            | _ => .fault (causeHere s codeIllegal) s,
          room := fun s => pqRoom (cc s),
          eff := fun x s => queuePacket f x.2 (some x.1) none s } s

/-- PRESUME (R298): bytes 0 to 287 and byte 296 of a record of the partition are read, and the packet they hold is re-injected
at a node and index. -/
def execPresume (f : FE) (s : State) : Host.Outcome State Fault Refusal :=
  runOp { len := 2, tk := f.tk, seqs := [.ctrl], handler := false, flags := feFlags f, srcs := [f.a, f.b], flying := 1,
          pre := fun s =>
            let b := reg s f.b
            match spadOff (reg s f.a) 32 with
            | none => .fault (causeHere s codeIllegal) s
            | some o =>
              if fld b 63 16 ≠ 0 ∨ !inTorus s (fld b 11 0) then .fault (causeHere s codeIllegal) s
              else match spadTake s o 288, spadTake s (o + 296) 1 with
                | .inl code, _ => .fault (causeAt s code (BitVec.ofNat 64 o)) s
                | _, .inl code => .fault (causeAt s code (BitVec.ofNat 64 o)) s
                | .inr v, .inr arr =>
                  let p := stampSender s (putFld (putFld (putFld (BitVec.ofNat 2304 v) 159 148 0) 147 140 0) 139 136 0)
                  if !packetLegal s p ∨ pType p ≠ 1 then .fault (causeHere s codeIllegal) s
                  else .go (p, fld b 11 0, fld b 15 12, arr % 8) s,
          room := fun s => pqRoom (cc s),
          eff := fun x s => queuePacket f x.1 none (some x.2) s } s

/-! Node counters. -/

/-- What a counter operand names (R295): a node counter, or the fault it raises. -/
def ctrOperand (s : State) (v : Word) : Sum Nat Nat :=
  let c := prismCfg (cn s) (tenantOf (cc s))
  if 65536 ≤ v.toNat then .inl codeIllegal
  else if cwLen c ≤ v.toNat then .inl codePerm
  else .inr (cwBase c + v.toNat)

/-- A counter instruction (R295, R296): its wait, its change as a release at DIE, its value as an acquire. -/
def ctrOp (f : FE) (srcs : List Reg) (result rel acq : Bool) (wait : State → Nat → Option Word) (hold : Nat → State → State)
    (act : State → Nat → State) : Op (Nat × Word) :=
  { len := 2, tk := f.tk, seqs := [.ctrl], handler := false, flags := feFlags f, srcs := srcs,
    flying := if result then 1 else 0, now := !result, keep := true,
    pre := fun s => match ctrOperand s (reg s f.a) with
      | .inl code => .fault (causeHere s code) s
      | .inr i => match wait s i with
        | some v => .go (i, v) s
        | none => .hold (hold i s),
    room := fun s => !rel || blksDone s s.cur.node s.cur.core s.cur.seq,
    eff := fun x s =>
      let n := s.cur.node
      let c := s.cur.core
      let s := act (if rel then releaseL1 s n c 3 false else s) x.1
      let s := if acq then acquireL1 s n c 3 false else s
      if result then flyReg s f.d x.2 12 (pushKey s f.tk) f.sig else signal s f.sig }

/-- The value of a counter as its instruction issues. -/
def ctrNow (s : State) (i : Nat) : Option Word := some (ctrAt (cn s) i)
/-- The value that satisfies a PCTRW (R295): the first one since it began to wait, or else the one of its issue. -/
def ctrWaited (t : Word) (s : State) (i : Nat) : Option Word :=
  let v := ctrAt (cn s) i
  match (cc s).ctrWait with
  | some (j, u, some w) => if j = i ∧ u = t then some w else if passed v t then some v else none
  | _ => if passed v t then some v else none
/-- A PCTRW begins to wait for a counter, or goes on waiting (R295). -/
def ctrBegin (t : Word) (i : Nat) (s : State) : State := modCc s fun k => { k with ctrWait := some (i, t, none) }

/-- PCTRW (R295): every change of the counter is tested until one satisfies it. -/
def execPctrw (f : FE) (s : State) : Host.Outcome State Fault Refusal :=
  runOp (ctrOp f [f.a, f.b] true false true (ctrWaited (reg s f.b)) (ctrBegin (reg s f.b))
    fun s _ => modCc s fun k => { k with ctrWait := none }) s
/-- PCTRR (R295). -/
def execPctrr (f : FE) (s : State) : Host.Outcome State Fault Refusal :=
  runOp (ctrOp f [f.a] true false true ctrNow (fun _ s => s) fun s _ => s) s
/-- PCTRS (R295). -/
def execPctrs (f : FE) (s : State) : Host.Outcome State Fault Refusal :=
  runOp (ctrOp f [f.a, f.b] false true false ctrNow (fun _ s => s) fun s i => softCtr s s.cur.node i false (reg s f.b)) s
/-- PCTRA (R295). -/
def execPctra (f : FE) (s : State) : Host.Outcome State Fault Refusal :=
  runOp (ctrOp f [f.a, f.b] true true false ctrNow (fun _ s => s) fun s i => softCtr s s.cur.node i true (reg s f.b)) s

/-! Park retrieval. -/

/-- What an F-E instruction that waits gives back (R297). -/
def backOf (s : State) (f : FE) (pc : BitVec 28) : Back :=
  ⟨pc, s.now, if f.tk.pop = 0 then 16 else fifoIn s.cur.seq f.tk.pop.toNat, f.wait, pushKey s f.tk, f.sig⟩

/-- Takes back the issue of an F-E instruction that faults with its answer, and the core takes the fault (R410). -/
def answerFault (s : State) (n c : Nat) (b : Back) (k : Cause) : State :=
  let s := modSq s n c .ctrl fun q =>
    { q with pc := b.pc, past := false, hold := .none, issued := q.issued - 1, span := q.span - 1, status := .blocked }
  let s := modCo s n c fun k =>
    let k := { k with evt := k.evt ||| b.wait }
    let k := if b.pop < 16 then (let x := fifo k b.pop; putFifo k b.pop { x with n := x.n + 1 }) else k
    match b.tok with
    | some f => let x := fifo k f; putFifo k f { x with v := x.v - 1 }
    | none => k
  faultNow s n c k

/-- Retirement of an F-E instruction whose answer has come: CTRL goes on, the token is pushed and SIGMASK set. -/
def answerDone (s : State) (n c : Nat) (b : Back) : State :=
  let s := modSq s n c .ctrl fun q => { q with hold := .none }
  let s := match b.tok with
    | some f => modCo s n c fun k => landTok k f 1
    | none => s
  let s := if b.sig = 0 then s else modCo s n c fun k => { k with evt := k.evt ||| b.sig }
  cutProgress s n c

/-- PPARKGET (R297): the request goes to its node, and CTRL waits. -/
def execPparkget (f : FE) (s : State) : Host.Outcome State Fault Refusal :=
  runOp { len := 2, tk := f.tk, seqs := [.ctrl], handler := false, flags := feFlags f, srcs := [f.a, f.b], now := false,
          pre := fun s =>
            let b := reg s f.b
            match spadOff (reg s f.a) 128 with
            | none => .fault (causeHere s codeIllegal) s
            | some o =>
              if fld b 63 12 ≠ 0 then .fault (causeHere s codeIllegal) s
              else if (cc s).part * 8192 < o + 512 then .fault (causeAt s codeXlate (BitVec.ofNat 64 o)) s
              else if isLost s s.cur.node (fld b 11 0) then .fault (causeHere s codePeerGone) s
              else .go (o, fld b 11 0, (cs s).pc) s,
          eff := fun x s =>
            let n := s.cur.node
            let c := s.cur.core
            let s := modCs s fun q => { q with hold := .parkget f.d x.1 x.2.1 (backOf s f x.2.2) }
            let s := schedule s peerTime (.pparkgetPeergone n c)
            if inTorus s x.2.1 then travel s n x.2.1 32 (.parkgetRequest x.2.1 n c (tenantOf (cc s))) else s } s

/-- PARKGET_REQUEST (R297): the oldest record of the tenant's park ring is taken, and its count and bytes travel back with the
poison of its lines (R209). -/
def execParkgetRequest (n src core t : Nat) (s : State) : Host.Outcome State Fault Refusal :=
  let r := trtOf (nd s n) t
  let c := prismCfg (nd s n) t
  let k := (r.parkIn - r.parkOut).toNat
  if k = 0 then .next (travel s n src 32 (.parkgetReply src core 0 ⟨0, []⟩))
  else
    let a := pBase c + 512 * (r.parkOut.toNat % pCnt c)
    let there := decide (a + 512 ≤ (nd s n).dways * 2 ^ 25)
    let s := if there then touch s n none .deep a 512 false else s
    let v := if there then homeRead (nd s n) .deep a 512 else 0
    let bad := (upFrom 0 4).filter fun i => there && isPoison (nd s n) .deep (a + 128 * i)
    let s := modTrt s n t fun r => { r with parkOut := r.parkOut + 1 }
    .next (travel s n src 544 (.parkgetReply src core k ⟨BitVec.ofNat 4096 v, bad⟩))

/-- PARKGET_REPLY (R297): the record is written to the partition, S[D] receives the count and PPARKGET retires. -/
def execParkgetReply (n c count : Nat) (r : ParkRecord) (s : State) : Host.Outcome State Fault Refusal :=
  match (sq s n c .ctrl).hold with
  | .parkget d off _ b =>
    let s := if count = 0 then s else modCo s n c fun k =>
      (upFrom 0 4).foldl (fun k i => spadWrite k (off + 128 * i) 128 (fullMask 128) (r.bits.toNat >>> (1024 * i))) k
    let s := if count = 0 then s else r.bad.foldl (fun s i => poisonT s n c (.spad c (off + 128 * i))) s
    .next (answerDone (writeRegAt s n c .ctrl d (BitVec.ofNat 64 count)) n c b)
  | _ => .next s

/-- PPARKGET_PEERGONE (R297): 10 frames without an answer, or the node declared lost. -/
def execPparkgetPeergone (n c : Nat) (s : State) : Host.Outcome State Fault Refusal :=
  match (sq s n c .ctrl).hold with
  | .parkget _ _ m b =>
    if b.sent + peerTime ≤ s.now ∨ isLost s n m then
      .next (answerFault s n c b ⟨codePeerGone, 0, 0, false, false, pcWord b.pc, 0⟩)
    else .next s
  | _ => .next s

/-! Injection. -/

/-- The node toward which the congestion window paces an entry (R314): that of PRESUME, and else DHINT; a program packet whose
DHINT names no node is not bound for one (log 48). -/
def packetDest (s : State) (n : Nat) (e : PEntry) : Nat :=
  match e.resume with
  | some r => r.1
  | none => if inTorus s (pDhint e.img) then pDhint e.img else n

/-- The head entry of the packet queue, if it is a packet. -/
def packetHead (k : Core) : Option PEntry := match k.pq with | e :: _ => if e.joinId.isNone then some e else none | [] => none

/-- Whether the shutter table takes an entry's packet: a DATA packet only (R329). -/
def packetTaken (s : State) (n : Nat) (e : PEntry) : Bool := pType e.img == 0 && shutterTakes s n (pTenant e.img) (packetDest s n e)
/-- Whether an entry's packet finds its send queue, or else the congestion window, open (R314, R329). -/
def packetPath (s : State) (n : Nat) (e : PEntry) : Bool :=
  if packetTaken s n e then shutterRoom s n (pTenant e.img) (packetDest s n e)
  else paceOpen (nd s n) n (packetDest s n e) (packetBytes e.img) (!packetOrdered e.img)

/-- Whether the head packet may leave: its bucket is not empty and its way is open (R293, R314, R329), or it is cancelled. -/
def packetDue (s : State) (n c : Nat) : Bool :=
  engineOn s n c && match packetHead (co s n c) with
  | none => false
  | some e =>
    let d := nd s n
    let b := bucketOf d (pClass e.img)
    cancelled d (pTenant e.img) e.gin
    || ((if pType e.img = 1 then b.pstep else b.msg) != some 0 && packetPath s n e)

/-- Frees the slot of an entry and takes the entry out (R293). -/
def packetLeave (s : State) (n c : Nat) (e : PEntry) : State :=
  modCo s n c fun k =>
    let k := { k with pq := k.pq.tail, pDone := k.pDone + 1 }
    match e.slot with
    | some i => putSlot k i .free
    | none => k

/-- The direction from which a packet arrives at its node by the route X, Y, Z (R294); LOCAL at the node itself. -/
def arrivalDir (s : State) (a b : Nat) : Nat :=
  match [2, 1, 0].find? fun k => coordOf a k != coordOf b k with
  | none => 6
  | some k =>
    let e := extent s k
    if (coordOf b k + e - coordOf a k) % e ≤ e / 2 then 2 * k + 1 else 2 * k

/-- PACKET_INJECTION (R293, R294, R298, R314, R391): the head packet is stamped and leaves, a program packet into this node's
prism, counted by the window toward its DHINT; a cancelled one is dropped. -/
def execPacketInjection (n c : Nat) (s : State) : Host.Outcome State Fault Refusal :=
  if !packetDue s n c then .next s else
  match packetHead (co s n c) with
  | none => .next s
  | some e =>
    let s := packetLeave s n c e
    if cancelled (nd s n) (pTenant e.img) e.gin then .next s
    else
      let p := putFld e.img 255 224 (gsc s n)
      let m := packetDest s n e
      let s := if pType p = 1 then s else modNd s n fun d => charge d (pClass p) fun b => { b with msg := drain b.msg (32 * pPlen p) }
      let s := if e.sig = 0 then s else later s (.flags n c e.sig)
      .next (match e.resume with
        | some r => netSend s n m 1 (pTenant p) (packetBytes p - 32) (.progArrival m p r.2.2 (some r.2.1))
        | none =>
          if pType p = 1 then schedule (cwinSend s n m (packetBytes p) true) 0 (.progArrival n p 6 none)
          else launch s n (pTenant p) m (32 * pPlen p) (.dataDelivery m p (arrivalDir s n m)))

end Sys2Proof.Machine
end

