-- ==== Sys2Proof/Machine/Message.lean ====
section
/-! DEFINITION. Endpoint pairs and messages (R299 to R313): the instructions, the message queue, what a peer does with a
message, and its answers. -/

namespace Sys2Proof.Machine

/-- Fields of an endpoint's word 0 (R299). -/
def epPeer (e : Endpoint) : Nat := fld e.w0 63 52
def epPeerEp (e : Endpoint) : Nat := fld e.w0 51 40
def epTenant (e : Endpoint) : Nat := fld e.w0 39 34
def epRing (e : Endpoint) : Nat := 2 ^ fld e.w0 33 30
def epRelax (e : Endpoint) : Bool := bit e.w0 29
def epCctr (e : Endpoint) : Nat := fld e.w0 15 0
/-- Descriptors posted and not taken (R305). -/
def epAvail (e : Endpoint) : Nat := (e.rqPost - e.rqTake).toNat

/-- The MPOLL status (R312). -/
def epStatus (e : Endpoint) : Word :=
  BitVec.ofNat 64 (e.sendPend * 2 ^ 48 + epAvail e * 2 ^ 32 + e.rnrCnt * 2 ^ 16 + e.errCode * 2 ^ 8 + 2 * b2n e.cached + b2n e.opened)

/-- The bytes of a context as its home holds it: words 0 to 4, the engine's own state free (R299, R300; log 10). -/
def epImage (s : State) (e : Endpoint) : Nat :=
  e.w0.toNat + e.rqBase.toNat * 2 ^ 64 + (e.rqPost.toNat * 2 ^ 48 + e.rqTake.toNat * 2 ^ 32) * 2 ^ 128
  + (e.sSeq.toNat * 2 ^ 32 + e.rSeq.toNat) * 2 ^ 192 + (epStatus e).toNat * 2 ^ 256
  + bytesVal ((upFrom 0 216).map fun i => Config.freeByte (s.free * 256 + i)) * 2 ^ 320

/-- Writes a context to its home (R300, R408). -/
def epHomeWrite (s : State) (n e : Nat) : State :=
  let v := epImage s (epOf (nd s n) e)
  let a := (nd s n).epHome + BitVec.ofNat 64 (256 * e)
  let s := modEp { s with free := s.free + 1 } n e fun x => { x with sentHome := some (x.rqPost, x.rqTake, x.sSeq, x.rSeq) }
  let s := (devWrite s n none a 128 (v % 2 ^ 1024)).2
  (devWrite s n none (a + 128) 128 (v / 2 ^ 1024)).2

/-- Whether a core, resident or saved, holds an operation of an endpoint that is not locally complete. -/
def epOnCore (e : Nat) (k : Core) : Bool := k.msgq.any fun x => x.joinId.isNone && x.ep == e && x.stage != .complete
/-- Whether an endpoint has an operation in progress, those of pre-empted tasks included (R303, R313). -/
def epBusy (s : State) (n e : Nat) : Bool :=
  ((nd s n).outMsgs.any fun o => o.msg.ep == e)
  || ((nd s n).cores.any fun c => epOnCore e c.2) || (nd s n).areas.any fun a => epOnCore e a.2.1
/-- Whether a fired operation of an endpoint waits for a queue. -/
def epFired (d : Node) (e : Nat) : Bool := d.armed.any fun a => match a.2 with | some x => x.ep == e && x.fired | none => false

/-- The contexts of a node that are in its cache, but for one. -/
def epsCached (s : State) (n e : Nat) : SMap Endpoint := (nd s n).eps.filter fun x => x.2.cached && x.1 != e
/-- The context that a fetch into a full cache evicts: the least recently used one with no operation in progress, fired ones
that wait for a queue among them (R300, R310). -/
def epVictim (s : State) (n e : Nat) : Option Nat :=
  ((sortBy (fun x => x.2.used) ((epsCached s n e).filter fun x => !epBusy s n x.1 && !epFired (nd s n) x.1)).head?).map fun x => x.1
/-- Whether the cache has, or can make, a place for a context. -/
def epPlace (s : State) (n e : Nat) : Bool := decide ((epsCached s n e).length < 1024) || (epVictim s n e).isSome

/-- Puts a context into the cache, evicting another where it is full (R300); without a place it stays at its home. -/
def epCache (s : State) (n e : Nat) : State :=
  if !epPlace s n e then epHomeWrite (modEp s n e fun y => { y with cached := false }) n e else
  let s :=
    if (epsCached s n e).length < 1024 then s
    else match epVictim s n e with
      | none => s
      | some x => modEp (epHomeWrite s n x) n x fun y => { y with cached := false }
  let now := s.now
  modEp s n e fun y => { y with cached := true, used := now, fetching := false }

/-! The instructions. -/

/-- The test of an endpoint operand (R302). -/
def epOperand (s : State) (v : Word) : Sum Nat Nat :=
  if 4096 ≤ v.toNat then .inl codeIllegal
  else
    let e := epOf (cn s) v.toNat
    if !e.opened || epTenant e != tenantOf (cc s) then .inl codePerm else .inr v.toNat

/-- The image of an endpoint is legal (R299, R303). -/
def epImageOk (s : State) (v : Nat) : Bool :=
  bitsOf v 28 16 == 0 && bitsOf v 159 128 == 0 && bitsOf v 2047 256 == 0 && decide (bitsOf v 33 30 ≤ 12) && inTorus s (bitsOf v 63 52)

/-- EPOPEN (R303). -/
def execEpopen (f : FE) (s : State) : Host.Outcome State Fault Refusal :=
  runOp { len := 2, tk := f.tk, seqs := [.ctrl], handler := false, flags := feFlags f, srcs := [f.a, f.b],
          priv := fun s => !privileged (cc s),
          pre := fun s =>
            if 4096 ≤ (reg s f.a).toNat then .fault (causeHere s codeIllegal) s
            else match readWhole (reg s f.b) 256 s with
            | .fault k s => .fault k s
            | .hold s => .hold s
            | .go v s' =>
              if (epOf (cn s) (reg s f.a).toNat).opened || !epImageOk s v then
                .fault (causeHere s codeIllegal) (keepTlb s s' s.cur.node s.cur.core)
              else .go v s',
          eff := fun v s =>
            let n := s.cur.node
            let e := (reg s f.a).toNat
            let x : Endpoint :=
              { opened := true, w0 := BitVec.ofNat 64 v, rqBase := BitVec.ofNat 64 (v >>> 64),
                rqPost := BitVec.ofNat 16 (v >>> 176), rqTake := BitVec.ofNat 16 (v >>> 160),
                sSeq := BitVec.ofNat 32 (v >>> 224), rSeq := BitVec.ofNat 32 (v >>> 192) }
            signal (epCache (modEp s n e fun _ => x) n e) f.sig } s

/-- Disarms the operations of an endpoint that have not fired (R303). -/
def disarmAll (s : State) (n e : Nat) : State :=
  modNd s n fun d => { d with armed := d.armed.filter fun a => match a.2 with | some x => x.ep != e || x.fired | none => false }

/-- EPCLOSE (R303): what is armed is disarmed, what is under way awaited, and the context goes home. -/
def execEpclose (f : FE) (s : State) : Host.Outcome State Fault Refusal :=
  runOp { len := 2, tk := f.tk, seqs := [.ctrl], handler := false, flags := feFlags f, srcs := [f.a],
          priv := fun s => !privileged (cc s), keep := true,
          pre := fun s => match epOperand s (reg s f.a) with
            | .inl code => .fault (causeHere s code) s
            | .inr e =>
              let s := disarmAll s s.cur.node e
              if epBusy s s.cur.node e || epFired (cn s) e then .hold s else .go e s,
          eff := fun e s =>
            let s := epHomeWrite s s.cur.node e
            signal (modEp s s.cur.node e fun x => { x with opened := false, cached := false }) f.sig } s

/-- Which message instruction a descriptor serves. -/
structure MsgUse where
  write : Bool
  read  : Bool
  armed : Bool
  deriving DecidableEq, Repr

/-- Whether a descriptor's fields are legal for its instruction (R304). -/
def descLegal (u : MsgUse) (x : BitVec 512) : Bool :=
  fld x 239 0 == 0 && decide (dscLen x ≤ 2 ^ 24)
  && (u.armed || (dscThresh x == 0 && dscTctr x == 0xFFFF))
  && (u.write || u.read || dscRaddr x == 0) && (!u.read || dscRctr x == 0xFFFF)

/-- Whether TCTR and LCTR lie in the task's window (R304). -/
def descCounters (s : State) (u : MsgUse) (x : BitVec 512) : Bool :=
  let l := cwLen (prismCfg (cn s) (tenantOf (cc s)))
  (!u.armed || decide (dscTctr x < l)) && (dscLctr x == 0xFFFF || decide (dscLctr x < l))

/-- The issue test of a message instruction (R302, R304). -/
def msgPre (f : FE) (u : MsgUse) (s : State) : Pre (Nat × BitVec 512) :=
  match epOperand s (reg s f.a) with
  | .inl code => .fault (causeHere s code) s
  | .inr e =>
    match readWhole (reg s f.b) 64 s with
    | .fault k s => .fault k s
    | .hold s => .hold s
    | .go v s' =>
      let x : BitVec 512 := BitVec.ofNat 512 v
      let keep (r : State) : State := keepTlb s r s.cur.node s.cur.core
      if !descLegal u x then .fault (causeHere s codeIllegal) (keep s')
      else if !descCounters s u x then .fault (causeHere s codePerm) (keep s')
      else match engCheck s.cur.node s.cur.core (if u.read then .w else .r) false 2050 (dscLaddr x) (dscLen x) s' with
        | (some y, r) => .fault (causeAt s y.1 y.2) (keep r)
        | (none, r) => .go (e, x) r

/-- The queue entry of a message instruction. -/
def msgEntry (s : State) (op : MsgOp) (e : Nat) (x : BitVec 512) (sseq : BitVec 32) (sig : BitVec 16) : MsgEntry :=
  let k := cc s
  ⟨op, e, x, sseq, sig, tenantOf k, ginOf k, classOf k, fld k.asid 5 0, k.ptRoot, taskId k, none, .queued⟩

/-- MSEND, MWRITE and MREAD (R305, R306, R313): SSEQ is assigned, the entry queued and its number the result. -/
def msgOp (f : FE) (op : MsgOp) : Op (Nat × BitVec 512) :=
  let u : MsgUse := ⟨op == .write, op == .read, false⟩
  { len := 2, tk := f.tk, seqs := [.ctrl], handler := false, flags := feFlags f, srcs := [f.a, f.b], flying := 1,
    pre := msgPre f u, room := fun s => msgRoom (cc s) && (cc s).firedQ.isEmpty,
    eff := fun p s =>
      let q := (epOf (cn s) p.1).sSeq
      let x := msgEntry s op p.1 p.2 q f.sig
      let add := if op = .read then 0 else 1
      let s := modEp (epNeed s s.cur.node p.1) s.cur.node p.1 fun e =>
        { e with sSeq := e.sSeq + 1, sendPend := satAdd e.sendPend add 65535 }
      flyReg (modCc s fun k => { k with msgq := k.msgq ++ [x] }) f.d (q.setWidth 64) 2 none 0 }

/-- MSEND (R305). -/
def execMsend (f : FE) (s : State) : Host.Outcome State Fault Refusal := runOp (msgOp f .send) s
/-- MWRITE (R306). -/
def execMwrite (f : FE) (s : State) : Host.Outcome State Fault Refusal := runOp (msgOp f .write) s
/-- MREAD (R306). -/
def execMread (f : FE) (s : State) : Host.Outcome State Fault Refusal := runOp (msgOp f .read) s

/-- The address of a receive descriptor (R305). -/
def rqSlot (e : Endpoint) (i : BitVec 16) : Word := e.rqBase + BitVec.ofNat 64 (16 * (i.toNat % epRing e))

/-- MRECV (R305): the buffer's descriptor is stored, performed at the home of its line at once, where the engine that takes a
message reads it (DESIGN CHOICE, log 45: a relaxed store has no time of its own), and RQPOST advances; an evicted context is
asked for (R300). -/
def execMrecv (f : FE) (s : State) : Host.Outcome State Fault Refusal :=
  runOp { len := 2, tk := f.tk, seqs := [.ctrl], handler := false, flags := feFlags f, srcs := [f.a, f.b, f.d], flying := 1,
          now := false,
          pre := fun s => match epOperand s (reg s f.a) with
            | .inl code => .fault (causeHere s code) s
            | .inr i =>
              if 2 ^ 24 < (reg s f.d).toNat then .fault (causeHere s codeIllegal) s
              else
                let e := epOf (cn s) i
                match accessPre s (rqSlot e e.rqPost) 16 16 .w true with
                | .fault k s => .fault k s
                | .hold s => .hold s
                | .go x s' =>
                  if hbmHold s' s.cur.node s.cur.core (classOf (cc s)) (atHome x.t) 16 true then .hold s else .go (i, x.t) s',
          room := fun s => match epOperand s (reg s f.a) with
            | .inr i => decide (epAvail (epOf (cn s) i) < epRing (epOf (cn s) i))
            | .inl _ => true,
          eff := fun p s =>
            let n := s.cur.node
            let c := s.cur.core
            let e := epOf (cn s) p.1
            let v := (reg s f.b).toNat + (reg s f.d).toNat * 2 ^ 64
            let s := match p.2 with
              | .remote m rl off => sendStore s m rl off 16 (rqSlot e e.rqPost) (BitVec.ofNat 1024 v) false
              | t => (engWrite (coreAgent s n c (classOf (cc s))) t 16 v false s).2
            let s := modEp (epNeed s n p.1) n p.1 fun e => { e with rqPost := e.rqPost + 1 }
            flyReg s f.d (e.rqPost.setWidth 64) 2 (pushKey s f.tk) f.sig } s

/-- The lowest free armed entry (R310). -/
def freeArmed (d : Node) : Option Nat := (upFrom 0 4096).find? fun i => (smGet d.armed none i).isNone

/-- TSEND and TWRITE (R300, R310): armed, and tested at once; an evicted context is asked for. -/
def armOp (f : FE) (write : Bool) : Op (Nat × BitVec 512) :=
  { len := 2, tk := f.tk, seqs := [.ctrl], handler := false, flags := feFlags f, srcs := [f.a, f.b], flying := 1,
    pre := msgPre f ⟨write, false, true⟩, room := fun s => (freeArmed (cn s)).isSome,
    eff := fun p s =>
      match freeArmed (cn s) with
      | none => s
      | some i =>
        let n := s.cur.node
        let k := cc s
        let a : Armed := ⟨write, p.1, p.2, s.cur.core, tenantOf k, ginOf k, classOf k, fld k.asid 5 0, k.ptRoot, taskId k,
          k.armCount + 1, false, 0, f.sig⟩
        let s := modNd (modCc s fun k => { k with armCount := k.armCount + 1 }) n fun d => { d with armed := smPut d.armed i (some a) }
        let s := flyReg (epNeed s n p.1) f.d (BitVec.ofNat 64 (i + (k.armCount + 1).toNat * 4096)) 2 none 0
        if armedMet (nd s n) a then fireArmed s n i else s }

/-- TSEND (R310). -/
def execTsend (f : FE) (s : State) : Host.Outcome State Fault Refusal := runOp (armOp f false) s
/-- TWRITE (R310). -/
def execTwrite (f : FE) (s : State) : Host.Outcome State Fault Refusal := runOp (armOp f true) s

/-- TDISARM (R311): it is decided as its cc ends, after every firing of that cc; until then its result stands at 0. -/
def execTdisarm (f : FE) (s : State) : Host.Outcome State Fault Refusal :=
  runOp { len := 2, tk := f.tk, seqs := [.ctrl], handler := false, flags := feFlags f, srcs := [f.a], flying := 1, now := false,
          pre := fun s => if fld (reg s f.a) 63 32 ≠ 0 then .fault (causeHere s codeIllegal) s else .go () s,
          eff := fun _ s =>
            later (flyReg s f.d 0 2 (pushKey s f.tk) f.sig) (.tdisarm s.cur.node s.cur.core (reg s f.a) f.d) } s

/-- MPOLL (R312): the status as it stands; an evicted context is asked for (R300). -/
def execMpoll (f : FE) (s : State) : Host.Outcome State Fault Refusal :=
  runOp { len := 2, tk := f.tk, seqs := [.ctrl], handler := false, flags := feFlags f, srcs := [f.a], flying := 1, now := false,
          pre := fun s => match epOperand s (reg s f.a) with
            | .inl code => .fault (causeHere s code) s
            | .inr e => .go (e, epStatus (epOf (cn s) e)) s,
          eff := fun x s => flyReg (epNeed s s.cur.node x.1) f.d x.2 12 (pushKey s f.tk) f.sig } s

/-! The message queue. -/

/-- The bytes that a core's message engine takes in a cc, one entry after the other (R313). No rule gives its rate; in R437's run the
four sends of 8,192 bytes between chunk 0 and chunk 1 at node 0x005 take 280 steps, so one takes 280 cc (DESIGN CHOICE, log 7). -/
def msgRate : Nat := 29

/-! The retransmit store: the top 16 MiB of the deep store (R308, R448). -/

/-- Its bytes. -/
def retransmitSize : Nat := 2 ^ 24
/-- Where it begins in the deep store (R448). -/
def retransmitBase (d : Node) : Nat := d.dways * 2 ^ 25 - retransmitSize
/-- What is captured there, in ascending order. -/
def captures (d : Node) : List (Nat × Nat) := sortBy (fun x => x.1) (d.outMsgs.flatMap fun o => o.capt)
/-- The free runs from an offset on, given what is captured above it. -/
def freeRunsFrom : Nat → List (Nat × Nat) → List (Nat × Nat)
  | a, [] => if a < retransmitSize then [(a, retransmitSize - a)] else []
  | a, u :: r => if a < u.1 then (a, u.1 - a) :: freeRunsFrom (u.1 + u.2) r else freeRunsFrom (u.1 + u.2) r
/-- The free bytes. -/
def retransmitFree (d : Node) : Nat := retransmitSize - (captures d).foldl (fun v x => v + x.2) 0
/-- `n` bytes of the lowest free runs (DESIGN CHOICE, log 22: no rule says where in the store a payload lies). -/
def takeRuns : Nat → List (Nat × Nat) → List (Nat × Nat)
  | _, [] => []
  | n, u :: r => if n = 0 then [] else if n ≤ u.2 then [(u.1, n)] else u :: takeRuns (n - u.2) r
/-- The lines of captured bytes pass their slices (R208). -/
def touchRuns (s : State) (n : Nat) (l : List (Nat × Nat)) : State :=
  l.foldl (fun s x => (upFrom ((retransmitBase (nd s n) + x.1) / 128) (ceilDiv x.2 128)).foldl
    (fun s k => touch s n none .deep (128 * k) 128 true) s) s
/-- Puts bytes into runs of the store. -/
def putRuns (d : Node) : List (Nat × Nat) → List Byte → Node
  | [], _ => d
  | x :: r, bs => putRuns { d with deep := memPut d.deep (retransmitBase d + x.1) (bs.take x.2) } r (bs.drop x.2)
/-- A payload is captured. -/
def capture (s : State) (n : Nat) (l : List (Nat × Nat)) (bs : List Byte) : State := modNd (touchRuns s n l) n fun d => putRuns d l bs
/-- The payload with which a message is sent: what its capture holds, or the bytes read for it (R308). -/
def payloadOf (d : Node) (o : OutMsg) : List Byte :=
  if o.capt.isEmpty then o.msg.data else o.capt.flatMap fun x => memBytes d.deep (retransmitBase d + x.1) x.2

/-- The core whose task an entry's local addresses belong to, if it is there still (R189). -/
def ownerCore (s : State) (n c tenant : Nat) (owner : Word) : Option Nat :=
  if taskId (co s n c) = owner ∧ tenantOf (co s n c) = tenant then some c else none

/-- For whom the local side of a message is read or written: the core of the task, while it is there, with the root, ASID and
class that the entry keeps (R310, R313). -/
def ownAgent (s : State) (n c tenant : Nat) (owner root : Word) (asid cls : Nat) : Agent :=
  ⟨n, ownerCore s n c tenant owner, root, asid, cls, n, c, false⟩

/-- A fault that reaches a task deferred (R309, R215): on the core where the task is, or with its saved context. -/
def deferTo (s : State) (n tenant : Nat) (owner : Word) (k : Cause) : State :=
  match (nd s n).cores.find? fun e => e.2.task.isSome && taskId e.2 == owner && tenantOf e.2 == tenant with
  | some e => modCo s n e.1 fun x => { x with deferred := x.deferred ++ [k] }
  | none =>
    let put (a : Nat × Core × List (Nat × Ring)) : Nat × Core × List (Nat × Ring) :=
      if taskId a.2.1 == owner && tenantOf a.2.1 == tenant then (a.1, { a.2.1 with deferred := a.2.1.deferred ++ [k] }, a.2.2) else a
    modNd s n fun d => { d with areas := d.areas.map put }

/-- The leading entries that are locally complete leave the queue and are counted (R313). -/
def msgTrim : Nat → Core → Core
  | 0, k => k
  | fuel + 1, k =>
    match k.msgq with
    | e :: rest => if e.joinId.isNone && e.stage == .complete then msgTrim fuel { k with msgq := rest, mgDone := k.mgDone + 1 } else k
    | [] => k

/-- Marks a queue entry complete. -/
def msgComplete (s : State) (n c ep : Nat) (sseq : BitVec 32) : State :=
  let mark (e : MsgEntry) : MsgEntry := if e.joinId.isNone && e.ep == ep && e.sseq == sseq then { e with stage := .complete } else e
  let s := modCo s n c fun k => msgTrim k.msgq.length { k with msgq := k.msgq.map mark }
  cutProgress s n c

/-- Local completion (R308): the entry leaves, LCTR counts and SIGMASK is set. -/
def msgLocal (s : State) (n : Nat) (o : OutMsg) : State :=
  if o.done then s else
  let mark (x : OutMsg) : OutMsg := if x.msg.ep == o.msg.ep && x.msg.sseq == o.msg.sseq then { x with done := true } else x
  let s := modNd s n fun d => { d with outMsgs := d.outMsgs.map mark }
  let s := msgComplete s n o.core o.msg.ep o.msg.sseq
  let c := prismCfg (nd s n) o.msg.tenant
  let s := if o.lctr = 0xFFFF ∨ cwLen c ≤ o.lctr then s else addCtr s n (cwBase c + o.lctr) 1
  if o.sig = 0 then s else later s (.flags n o.core o.sig)

/-- The message of an endpoint and sequence number that is not yet answered. -/
def outOf (d : Node) (ep : Nat) (sseq : BitVec 32) : Option OutMsg :=
  d.outMsgs.find? fun o => o.msg.ep == ep && o.msg.sseq == sseq
/-- Changes it. -/
def modOut (s : State) (n ep : Nat) (sseq : BitVec 32) (f : OutMsg → OutMsg) : State :=
  modNd s n fun d => { d with outMsgs := d.outMsgs.map fun o => if o.msg.ep == ep && o.msg.sseq == sseq then f o else o }
/-- Takes it out and frees its capture (R308). -/
def dropOut (s : State) (n : Nat) (o : OutMsg) : State :=
  let rest (x : OutMsg) : Bool := !(x.msg.ep == o.msg.ep && x.msg.sseq == o.msg.sseq)
  let s := modNd s n fun d => { d with outMsgs := d.outMsgs.filter rest }
  if o.msg.op = .read then s else modEp s n o.msg.ep fun e => { e with sendPend := e.sendPend - 1 }

/-- A message fails (R309): status, entry, and the deferred fault of its task. -/
def msgFail (s : State) (n : Nat) (o : OutMsg) (code : Nat) : State :=
  let s := dropOut s n o
  let s := modEp s n o.msg.ep fun e => if e.errCode = 0 then { e with errCode := code } else e
  let s := msgComplete s n o.core o.msg.ep o.msg.sseq
  deferTo s n o.msg.tenant o.owner ⟨code, 0, 7, true, false, 0, BitVec.ofNat 64 (o.msg.ep + o.msg.sseq.toNat * 2 ^ 32)⟩

/-- Sends a message, or sends it again, toward its peer (R308, R309): packet by packet through a send queue or the congestion
window (R314, R329); its clock starts as its last packet leaves. -/
def msgSend (s : State) (n : Nat) (o : OutMsg) : State :=
  let now := s.now
  let s := modOut s n o.msg.ep o.msg.sseq fun x => { x with sent := now, held := if x.held = 1 then 2 else 0 }
  let m := { o.msg with stamp := gsc s n, data := payloadOf (nd s n) o }
  let ev : Instr := match m.op with | .send => .messageArrival m.dst m | .write => .remoteWriteArrival m.dst m | .read => .remoteReadRequest m.dst m
  let bytes : Nat := match o.msg.op with | .read => 0 | _ => m.len
  launch s n m.tenant m.dst bytes ev

/-- The first entry of the message queue that has not begun, if no join stands before it. -/
def msgHead (k : Core) : Option MsgEntry :=
  match k.msgq.find? fun e => e.joinId.isSome || e.stage == .queued with
  | some e => if e.joinId.isNone then some e else none
  | none => none

/-- Whether a message of an endpoint is held for a retry, which later ones of the endpoint wait for (R301). -/
def epHeld (d : Node) (e : Nat) : Bool := d.outMsgs.any fun o => o.msg.ep == e && o.held != 0

/-- Whether a queue holds an operation of an endpoint that has not begun and whose SSEQ lies before a number (R307). -/
def seqBefore (ep : Nat) (q : BitVec 32) (l : List MsgEntry) : Bool :=
  l.any fun y => y.joinId.isNone && y.ep == ep && y.stage == .queued && y.sseq != q && decide ((q - y.sseq).toNat < 2 ^ 31)
/-- Whether an operation of an endpoint has yet to begin before one of that number: on a core of the node, fired and waiting
for a queue, or saved with a pre-empted task (R307, R310, R313). -/
def seqWaits (d : Node) (ep : Nat) (q : BitVec 32) : Bool :=
  (d.cores.any fun x => seqBefore ep q x.2.msgq) || (d.areas.any fun a => seqBefore ep q a.2.1.msgq)
  || d.armed.any fun a => match a.2 with
    | some x => x.fired && x.ep == ep && x.sseq != q && decide ((q - x.sseq).toNat < 2 ^ 31)
    | none => false

/-- Whether the next entry may begin (R300, R301, R307, R313, R314), or is dropped; a free core still sends what armed
operations of ended tasks have fired (R310). -/
def messageDue (s : State) (n c : Nat) : Bool :=
  (engineOn s n c || ((co s n c).mode == .free && coreActs s n c)) && match msgHead (co s n c) with
  | none => false
  | some e =>
    let d := nd s n
    let x := epOf d e.ep
    let first := 32 + (if e.op = .read then 0 else min (dscLen e.desc) 4096)
    cancelled d e.tenant e.gin
    || (decide ((co s n c).msgFree ≤ s.now) && (bucketOf d e.cls).msg != some 0 && !epHeld d e.ep && (x.cached || !x.fetching) && !seqWaits d e.ep e.sseq
        && shutterRoom s n e.tenant (epPeer x)
        && (shutterTakes s n e.tenant (epPeer x) || paceOpen d n (epPeer x) first (epRelax x && epPeer x != n)))

/-- The message of an entry. -/
def messageOf (n c : Nat) (x : Endpoint) (e : MsgEntry) (bs : List Byte) (ps : List Nat) : Msg :=
  ⟨e.op, n, c, e.ep, epPeer x, epPeerEp x, e.tenant, e.sseq, dscRaddr e.desc, dscLaddr e.desc, dscRctr e.desc, dscLen e.desc, bs, ps,
    epRelax x, 0, e.cls⟩

/-- MESSAGE_INJECTION (R308, R309, R311, R313, R391): the entry's payload is read, which waits as a load does, and captured
when it fits; the entry is charged and sent. A cancelled one is dropped. -/
def execMessageInjection (n c : Nat) (s : State) : Host.Outcome State Fault Refusal :=
  if !messageDue s n c then .next s else
  match msgHead (co s n c) with
  | none => .next s
  | some e =>
    let x := epOf (nd s n) e.ep
    if cancelled (nd s n) e.tenant e.gin then
      let s := if e.op = .read then s else modEp s n e.ep fun y => { y with sendPend := y.sendPend - 1 }
      .next (msgComplete s n c e.ep e.sseq)
    else if !x.cached then .next (epFetch s n e.ep)
    else
      let len := dscLen e.desc
      let now := s.now
      let own := ownAgent s n c e.tenant e.owner e.root e.asid e.cls
      let out (bs : List Byte) (ps : List Nat) (capt : List (Nat × Nat)) : OutMsg :=
        ⟨messageOf n c x e bs ps, c, e.owner, e.cls, e.asid, e.root, dscLctr e.desc, e.sig, capt, false, now, 0, 0⟩
      let begin_ (s : State) : State :=
        let s := modNd (epNeed s n e.ep) n fun d => charge d e.cls fun b => { b with msg := drain b.msg len }
        modCo s n c fun k => { k with msgFree := now + ceilDiv len msgRate, msgq := k.msgq.map fun y =>
          if y.joinId.isNone && y.ep == e.ep && y.sseq == e.sseq then { y with stage := .sent } else y }
      match (if e.op = .read then (.bytes [] [], s) else engLoad own (dscLaddr e.desc) (len / 128 + 3) 0 len [] [] s) with
      | (.wait, _) => .next s
      | (.fault code _, s) => .next (msgFail (modNd (begin_ s) n fun d => { d with outMsgs := d.outMsgs ++ [out [] [] []] }) n (out [] [] []) code)
      | (.bytes bs ps, s) =>
        let s := begin_ s
        let fits := e.op != .read && decide (len ≤ retransmitFree (nd s n))
        let runs := if fits then takeRuns len (freeRunsFrom 0 (captures (nd s n))) else []
        let o := out (if fits then [] else bs) ps runs
        let s := modNd (capture s n runs bs) n fun d => { d with outMsgs := d.outMsgs ++ [o] }
        if isLost s n o.msg.dst then .next (msgFail s n o codePeerGone)
        else
          let s := if fits then msgLocal s n o else s
          .next (msgSend s n { o with done := fits })

/-- FIRED_ENQUEUE (R310): the first fired operation that waits enters its core's queue. -/
def execFiredEnqueue (n c : Nat) (s : State) : Host.Outcome State Fault Refusal :=
  let k := co s n c
  match k.firedQ with
  | [] => .next s
  | i :: rest =>
    if !msgRoom k then .next s else
    match smGet (nd s n).armed none i with
    | none => .next (modCo s n c fun k => { k with firedQ := rest })
    | some a =>
      let s := modNd s n fun d => { d with armed := smDel d.armed i }
      .next (modCo s n c fun k => { k with firedQ := rest, msgq := k.msgq ++ [firedEntry a a.sseq] })

/-! At the peer. -/

/-- The root under which a tenant's accesses from other nodes are translated here (R190, R306). -/
def peerRoot (d : Node) (t : Nat) : Word := smGet d.troot 0 t

/-- For whom a message's side at the peer is read or written: the peer's own local pages under its tenant's root there, with
the packet's class, which no bucket stops any more (R34, R306); ZP poison counts to the core that asked (R210). -/
def peerAgent (d : Node) (n : Nat) (m : Msg) : Agent := ⟨n, none, peerRoot d m.tenant, m.tenant, m.cls, m.src, m.core, true⟩

/-- Answers a message (R301, R308, R309). -/
def answer (s : State) (n : Nat) (m : Msg) (i : Instr) : State := launch s n m.tenant m.src 0 i
/-- A refusal. -/
def refuse (s : State) (n : Nat) (m : Msg) (code : Nat) : State := answer s n m (.messageRefused m.src m.ep m.sseq code)
/-- Whether a sequence number lies before another (R307). -/
def seqEarlier (a b : BitVec 32) : Bool := a != b && decide ((b - a).toNat < 2 ^ 31)
/-- The earliest message of a pair that is to be sent again, one more answered not-ready. -/
def rnrNext (e : Endpoint) (q : BitVec 32) : BitVec 32 := match e.rnrAt with | some p => if seqEarlier q p then q else p | none => q
/-- What is left to be sent again once a message is performed or refused: what was answered after it. -/
def rnrLeft (e : Endpoint) (q : BitVec 32) : Option (BitVec 32) := e.rnrAt.filter fun p => seqEarlier q p
/-- Not ready: the sender tries again after so many frames; until then nothing later of the pair is performed (R301, R307). -/
def notReady (s : State) (n : Nat) (m : Msg) (frames : Nat) : State :=
  modEp (answer s n m (.receiverNotReady m.src m.ep m.sseq frames)) n m.peer fun e => { e with rnrAt := some (rnrNext e m.sseq) }

/-- The end of a performed message: RSEQ advances, RCTR counts, the peer is acknowledged (R307, R308). -/
def performed (s : State) (n : Nat) (m : Msg) : State :=
  let c := prismCfg (nd s n) m.tenant
  let s := modEp s n m.peer fun e => { e with rSeq := m.sseq + 1, rnrAt := rnrLeft e m.sseq }
  let s := if m.rctr = 0xFFFF then s else addCtr s n (cwBase c + m.rctr) 1
  if m.op = .read then s else answer s n m (.messageAck m.src m.ep m.sseq)
/-- A refused message is not performed and the next one of the pair may be. -/
def refused (s : State) (n : Nat) (m : Msg) (code : Nat) : State :=
  refuse (modEp s n m.peer fun e => { e with rSeq := m.sseq + 1, rnrAt := rnrLeft e m.sseq }) n m code

/-- Whether RCTR lies beyond the window (R309). -/
def rctrBad (s : State) (n : Nat) (m : Msg) : Bool := m.rctr != 0xFFFF && decide (cwLen (prismCfg (nd s n) m.tenant) ≤ m.rctr)

/-- Step 4 of R305: RQTAKE and CCTR. -/
def takeDone (s : State) (n : Nat) (m : Msg) : State :=
  let e := epOf (nd s n) m.peer
  let s := modEp s n m.peer fun e => { e with rqTake := e.rqTake + 1 }
  let c := prismCfg (nd s n) m.tenant
  if epCctr e = 0xFFFF then s
  else if cwLen c ≤ epCctr e then addLost s n m.tenant
  else addCtr s n (cwBase c + epCctr e) 1

/-- A send at its peer (R305). -/
def doSend (s : State) (n : Nat) (m : Msg) : State :=
  let e := epOf (nd s n) m.peer
  let a := peerAgent (nd s n) n m
  let va := rqSlot e e.rqTake
  if epAvail e = 0 then notReady s n m 2
  else if rctrBad s n m then refused s n m codePerm
  else match engPages a .w false 2 va 16 s with
  | (some f, s) => refused s n m f.1
  | (none, s) =>
    match engLoad a va 3 0 16 [] [] s with
    | (.wait, s) => refused s n m codeXlate
    | (.fault code _, s) => refused s n m code
    | (.bytes bs ps, s) =>
      if !ps.isEmpty then refused s n m codePoison else
      let v := bytesVal bs
      let buf : Word := BitVec.ofNat 64 v
      let blen := bitsOf v 95 64
      let take := min m.len blen
      match engPages a .w false 2050 buf take s with
      | (some f, s) => refused s n m f.1
      | (none, s) =>
        let s := (engStore a buf m.poison (take / 128 + 3) 0 (m.data.take take) s).2
        let res := m.len + b2n (decide (blen < m.len)) * 2 ^ 30 + 2 ^ 31
        let s := (engStore a (va + 12) [] 3 0 (valBytes 4 res) s).2
        performed (takeDone s n m) n m

/-- A one-sided write at its peer (R306). -/
def doWrite (s : State) (n : Nat) (m : Msg) : State :=
  let a := peerAgent (nd s n) n m
  if bitsOf m.raddr.toNat 63 60 ≠ 0 then refused s n m codeXlate else
  match engPages a .w true 2050 m.raddr m.len s with
  | (some f, s) => refused s n m f.1
  | (none, s) =>
    if rctrBad s n m then refused s n m codePerm
    else performed (engStore a m.raddr m.poison (m.len / 128 + 3) 0 m.data s).2 n m

/-- A one-sided read at its peer (R306): the bytes travel back with their poison. -/
def doRead (s : State) (n : Nat) (m : Msg) : State :=
  let a := peerAgent (nd s n) n m
  if bitsOf m.raddr.toNat 63 60 ≠ 0 then refused s n m codeXlate else
  match engPages a .r true 2050 m.raddr m.len s with
  | (some f, s) => refused s n m f.1
  | (none, s) =>
    match engLoad a m.raddr (m.len / 128 + 3) 0 m.len [] [] s with
    | (.wait, s) => refused s n m codeXlate
    | (.fault code _, s) => refused s n m code
    | (.bytes bs ps, s) => launch (performed s n m) n m.tenant m.src m.len (.readReplyArrival m.src { m with data := bs, poison := ps })

/-- Whether an earlier message of the pair is to be sent again, so that this one is too (R301, R307). -/
def behindRetry (e : Endpoint) (m : Msg) : Bool := match e.rnrAt with | some q => seqEarlier q m.sseq | none => false

/-- Performs a message at an endpoint whose context is there: refused where the endpoint is closed or of another tenant;
dropped while an earlier message of the pair is to be sent again (R301, R307). The sender injects the messages of an endpoint
in SSEQ order (`seqWaits`), and none arrives before an earlier one that is still under way (`overtakes`). -/
def performMsg (s : State) (n : Nat) (m : Msg) : State :=
  let e := epOf (nd s n) m.peer
  if !e.opened || epTenant e != m.tenant then refuse s n m codePerm
  else if behindRetry e m then s
  else
    let now := s.now
    let s := modEp s n m.peer fun e => { e with used := now }
    match m.op with
    | .send => doSend s n m
    | .write => doWrite s n m
    | .read => doRead s n m

/-- The messages that wait in the miss buffer (R301). -/
def missCount (d : Node) : Nat := d.eps.foldl (fun acc e => acc + e.2.miss.length) 0

/-- A message arrives (R301): one for an open endpoint whose context is evicted waits for the fetch, or is answered
not-ready where the miss buffer is full. -/
def arriveMsg (s : State) (n : Nat) (m : Msg) : State :=
  let e := epOf (nd s n) m.peer
  if e.opened && !e.cached && epTenant e == m.tenant then
    if behindRetry e m then s
    else if 256 ≤ missCount (nd s n) then notReady s n m 1
    else epFetch (modEp s n m.peer fun e => { e with miss := e.miss ++ [m] }) n m.peer
  else performMsg s n m

/-- MESSAGE_ARRIVAL (R305). -/
def execMessageArrival (n : Nat) (m : Msg) (s : State) : Host.Outcome State Fault Refusal := .next (arriveMsg s n m)
/-- REMOTE_WRITE_ARRIVAL (R306). -/
def execRemoteWriteArrival (n : Nat) (m : Msg) (s : State) : Host.Outcome State Fault Refusal := .next (arriveMsg s n m)
/-- REMOTE_READ_REQUEST (R306). -/
def execRemoteReadRequest (n : Nat) (m : Msg) (s : State) : Host.Outcome State Fault Refusal := .next (arriveMsg s n m)

/-- Takes words 0 to 3 of a context from its home (R299, R300), the numbers of words 2 and 3 with what they have advanced by
since they went there (R300: an instruction that needs an evicted context is accepted). -/
def epLoad (v : Nat) (e : Endpoint) : Endpoint :=
  let e := { e with w0 := BitVec.ofNat 64 v, rqBase := BitVec.ofNat 64 (v >>> 64) }
  match e.sentHome with
  | none => e
  | some (post, take, sq, rq) =>
    { e with rqPost := BitVec.ofNat 16 (v >>> 176) + (e.rqPost - post), rqTake := BitVec.ofNat 16 (v >>> 160) + (e.rqTake - take),
             sSeq := BitVec.ofNat 32 (v >>> 224) + (e.sSeq - sq), rSeq := BitVec.ofNat 32 (v >>> 192) + (e.rSeq - rq), sentHome := none }
/-- Reads a context back from its home (R300, R408). -/
def epFromHome (s : State) (n ep : Nat) : State :=
  match devRead s n none ((nd s n).epHome + BitVec.ofNat 64 (256 * ep)) 128 with
  | (.inr v, s) => modEp s n ep (epLoad v)
  | (.inl _, s) => s

/-- ENDPOINT_FETCH (R300, R301): the context comes from its home into the cache, and what waited for it proceeds in arrival
order; while every context in the cache has an operation in progress the fetch waits. -/
def execEndpointFetch (n ep : Nat) (s : State) : Host.Outcome State Fault Refusal :=
  if !(epOf (nd s n) ep).fetching then .next s else
  if !epPlace s n ep then .next (schedule s 1 (.endpointFetch n ep)) else
  let s := epCache (if (epOf (nd s n) ep).opened then epFromHome s n ep else s) n ep
  let l := (epOf (nd s n) ep).miss
  .next (l.foldl (fun s m => performMsg s n m) (modEp s n ep fun e => { e with miss := [] }))

/-! Answers at the sender. -/

/-- Whether an earlier message of an endpoint waits for its retry. -/
def heldBefore (d : Node) (o : OutMsg) : Bool :=
  d.outMsgs.any fun x => x.msg.ep == o.msg.ep && x.held == 1 && seqEarlier x.msg.sseq o.msg.sseq
/-- Sends again what was held behind an answered message, in order, as far as no earlier one waits for its retry. -/
def resendHeld (s : State) (n ep : Nat) : State :=
  ((nd s n).outMsgs.filter fun o => o.msg.ep == ep && o.held == 3 && !heldBefore (nd s n) o).foldl (fun s o => msgSend s n o) s

/-- MESSAGE_ACK (R308). -/
def execMessageAck (n ep : Nat) (sseq : BitVec 32) (s : State) : Host.Outcome State Fault Refusal :=
  match outOf (nd s n) ep sseq with
  | none => .next s
  | some o => .next (resendHeld (dropOut (msgLocal s n o) n o) n ep)

/-- READ_REPLY_ARRIVAL (R308, R309): the bytes are performed at LADDR, and the read is locally complete. -/
def execReadReplyArrival (n : Nat) (m : Msg) (s : State) : Host.Outcome State Fault Refusal :=
  match outOf (nd s n) m.ep m.sseq with
  | none => .next s
  | some o =>
    let a := { ownAgent s n o.core o.msg.tenant o.owner o.root o.asid o.cls with begun := true }
    match engStore a m.laddr m.poison (m.len / 128 + 3) 0 m.data s with
    | (some f, s) => .next (msgFail s n o f.1)
    | (none, s) => .next (resendHeld (dropOut (msgLocal s n o) n o) n m.ep)

/-- RECEIVER_NOT_READY (R301): the message and those sent after it on the endpoint are held; the first is sent again at the
first frame boundary that the answer allows. -/
def execReceiverNotReady (n ep : Nat) (sseq : BitVec 32) (frames : Nat) (s : State) : Host.Outcome State Fault Refusal :=
  match outOf (nd s n) ep sseq with
  | none => .next s
  | some _ =>
    let due := ceilDiv (gscCc s n) Config.frameCc + frames
    let now := s.now
    let s := modEp s n ep fun e => { e with rnrCnt := satAdd e.rnrCnt 1 65535 }
    let put (o : OutMsg) : OutMsg :=
      if o.msg.ep != ep || decide (2 ^ 31 ≤ (o.msg.sseq - sseq).toNat) then o
      else if o.msg.sseq = sseq ∧ o.held ≠ 3 then { o with held := 1, due := due, sent := now }
      else { o with held := 3, sent := now }
    .next (modNd s n fun d => { d with outMsgs := d.outMsgs.map put })

/-- The answered message of an endpoint that its retry frame has come for. -/
def retryDue (s : State) (n ep : Nat) : Option OutMsg :=
  (nd s n).outMsgs.find? fun o => o.msg.ep == ep && o.held == 1 && decide (o.due ≤ frameOf s n)

/-- MESSAGE_RETRY (R301): the answered message is sent again with its number. -/
def execMessageRetry (n ep : Nat) (s : State) : Host.Outcome State Fault Refusal :=
  match retryDue s n ep with
  | some o => .next (msgSend s n o)
  | none => .next s

/-- MESSAGE_REFUSED (R309). -/
def execMessageRefused (n ep : Nat) (sseq : BitVec 32) (code : Nat) (s : State) : Host.Outcome State Fault Refusal :=
  match outOf (nd s n) ep sseq with
  | none => .next s
  | some o => .next (resendHeld (msgFail s n o code) n ep)

/-- MESSAGE_PEERGONE (R309): 10 frames without a reply, or the peer declared lost. -/
def execMessagePeergone (n ep : Nat) (sseq : BitVec 32) (s : State) : Host.Outcome State Fault Refusal :=
  match outOf (nd s n) ep sseq with
  | none => .next s
  | some o =>
    let queued (p : Parcel) : Bool := p.src == n && match msgOfEvent p.what with
      | some m => m.ep == ep && m.sseq == sseq
      | none => false
    if isLost s n o.msg.dst ∨ (!((waitingPackets (nd s n)).any queued) ∧ (o.held = 0 ∨ o.held = 2) ∧ o.sent + peerTime ≤ s.now) then .next (resendHeld (msgFail s n o codePeerGone) n ep)
    else .next s

end Sys2Proof.Machine
end

