-- ==== Sys2Proof/Machine/Lease.lean ====
section
/-! DEFINITION. The lease manager (R316 to R325): the default plan, the arbiter's decisions, the node's lease table, and the
instructions LEASE, LREL, LQRY, LWAIT, SHUTW and SHUTGO (R334 to R340). -/

namespace Sys2Proof.Machine

/-! Lines and circuits. -/

/-- The segments of a circuit over a line of `ext` nodes (R316). -/
def segsOf (ext lo hops : Nat) (plus : Bool) : List Nat :=
  (upFrom 0 hops).map fun k => if plus then (lo + k) % ext else (lo + ext * hops - k) % ext
/-- Whether a circuit crosses a segment. -/
def crosses (ext lo hops : Nat) (plus : Bool) (seg : Nat) : Bool := (segsOf ext lo hops plus).contains seg
/-- The circuit of an ordered pair of coordinates (R316): direction, first segment, segments crossed. -/
def circuitOf (ext a b : Nat) : Bool × Nat × Nat :=
  let d := (b + ext - a) % ext
  if d ≤ ext / 2 then (true, a, d) else (false, (a + ext - 1) % ext, ext - d)

/-- The `k` lowest set indices of a mask. -/
def lowMask (m : BitVec 640) (k : Nat) : BitVec 640 :=
  ((upFrom 0 640).foldl (fun (a : BitVec 640 × Nat) i =>
    if a.2 < k ∧ bit m i then (a.1 ||| BitVec.twoPow 640 i, a.2 + 1) else a) (0, 0)).1
/-- The `k` highest. -/
def highMask (m : BitVec 640) (k : Nat) : BitVec 640 :=
  ((upFrom 0 640).foldl (fun (a : BitVec 640 × Nat) i =>
    if a.2 < k ∧ bit m (639 - i) then (a.1 ||| BitVec.twoPow 640 (639 - i), a.2 + 1) else a) (0, 0)).1
/-- How many indices a mask holds. -/
def idxCount (m : BitVec 640) : Nat := popCount m.toNat 640

/-- What a holding uses of its segments, as the pool sees it (R322, R323): a revoked index until it leaves, a released one
no more. -/
def usesIdx (h : Holding) : BitVec 640 := (h.idx ||| h.join1 ||| h.join2) &&& ~~~h.rel1
/-- What it will hold once every decided change is in force. -/
def keepsIdx (h : Holding) : BitVec 640 := usesIdx h &&& ~~~(h.rev1 ||| h.rev2)
/-- What it holds at the next boundary. -/
def nextIdx (h : Holding) : BitVec 640 := (h.idx ||| h.join1) &&& ~~~(h.rel1 ||| h.rev1)

/-- The indices that leave use on a segment (R319). -/
def retiredMask (t : LineTab) (seg : Nat) (plus : Bool) : BitVec 640 :=
  t.retired.foldl (fun m r => if r.1 == seg && r.2.1 == plus then m ||| BitVec.twoPow 640 r.2.2 else m) 0
/-- The indices of a segment that no floor, no holding and no retirement has. -/
def freeOn (ext : Nat) (t : LineTab) (plus : Bool) (seg : Nat) : BitVec 640 :=
  let f := t.floors.foldl (fun m x => if x.plus == plus && crosses ext x.lo x.hops plus seg then m ||| x.idx else m) 0
  let h := t.holdings.foldl (fun m x => if x.plus == plus && crosses ext x.lo x.hops plus seg then m ||| usesIdx x else m) 0
  ~~~(f ||| h ||| retiredMask t seg plus)
/-- The indices free on every segment of a circuit. -/
def freeAlong (ext : Nat) (t : LineTab) (plus : Bool) (lo hops : Nat) : BitVec 640 :=
  (segsOf ext lo hops plus).foldl (fun m seg => m &&& freeOn ext t plus seg) (BitVec.allOnes 640)

/-- The default plan of a line (R317): floors by distance and then by coordinate, then the neighbour shares. -/
def planLine (ext : Nat) : LineTab :=
  let pairs (plus : Bool) : List (Nat × Nat × Nat) := (upFrom 1 (ext / 2)).flatMap fun d => (upFrom 0 ext).filterMap fun a =>
    let c := circuitOf ext a (if plus then (a + d) % ext else (a + ext - d) % ext)
    if c.1 == plus then some (c.2.1, c.2.2, a) else none
  let floor (t : LineTab) (plus : Bool) (p : Nat × Nat × Nat) : LineTab :=
    { t with floors := t.floors ++ [⟨plus, p.1, p.2.1, lowMask (freeAlong ext t plus p.1 p.2.1) 8⟩] }
  let share (t : LineTab) (plus : Bool) (p : Nat × Nat × Nat) : LineTab :=
    let m := lowMask (freeAlong ext t plus p.1 1) 56
    { t with holdings := t.holdings ++ [⟨none, 0, 0, 0, plus, p.1, 1, false, 0, m, 0, 0, 0, 0, 0, false⟩] }
  [true, false].foldl (fun t plus =>
    let t := (pairs plus).foldl (fun t p => floor t plus p) t
    ((pairs plus).filter fun p => p.2.1 == 1).foldl (fun t p => share t plus p) t) { built := true }

/-- The arbiter of a node's line in a dimension (R320). -/
def arbiterOf (n dim : Nat) : Nat := withCoord n dim 0
/-- A line's table at its arbiter. -/
def lineOf (s : State) (n dim : Nat) : LineTab :=
  let t := smGet (nd s (arbiterOf n dim)).lines {} dim
  if t.built then t else planLine (extent s dim)
/-- Changes it. -/
def putLine (s : State) (n dim : Nat) (t : LineTab) : State :=
  modNd s (arbiterOf n dim) fun d => { d with lines := smPut d.lines dim t }

/-! The arbiter (R322 to R324). -/

/-- Whether a holding is the one that a handle's request became. -/
def isHolding (h : Holding) (l : LeaseCtl) : Bool := h.tenant.isSome && h.src == l.src && h.entry == l.entry && h.serial == l.serial
/-- Whether two requests are the same. -/
def sameReq (a b : LeaseCtl) : Bool := a.src == b.src && a.entry == b.entry && a.serial == b.serial

/-- The changes due at this boundary take effect (R325); a holding that ends leaves the table. -/
def lineAdvance (t : LineTab) : LineTab :=
  let step (h : Holding) : Holding :=
    { h with idx := nextIdx h, join1 := h.join2, join2 := 0, rel1 := 0, rev1 := h.rev2, rev2 := 0 }
  { t with holdings := (t.holdings.map step).filter fun h => !(h.ends && h.idx == 0 && h.join1 == 0) }

/-- An LREL is applied (R322, R336): of a request still pending, that it is cancelled. -/
def lineRelease (t : LineTab) (l : LeaseCtl) : LineTab :=
  let give (h : Holding) : Holding :=
    if !isHolding h l then h else
    let m := if l.count = 0 then keepsIdx h else highMask (keepsIdx h) l.count
    let h := { h with rel1 := h.rel1 ||| (m &&& h.idx), join1 := h.join1 &&& ~~~m, join2 := h.join2 &&& ~~~m }
    { h with ends := h.ends || keepsIdx h == 0 }
  { t with requests := t.requests.filter fun r => !sameReq r l, holdings := t.holdings.map give }

/-- Whether a request is aged at the boundary of frame `f` (R324). -/
def isAged (r : LeaseCtl) (f : Nat) : Bool := decide (r.stamp / Config.frameSteps + 9 ≤ f)

/-- Acceptance order (R322): GSC stamp, then source node, then handle serial. -/
def byAcceptance (l : List LeaseCtl) : List LeaseCtl :=
  sortBy (fun r => r.stamp) (sortBy (fun r => r.src) (sortBy (fun r => r.serial) l))
/-- The order in which requests are decided (R322). -/
def decisionOrder (f : Nat) (l : List LeaseCtl) : List LeaseCtl :=
  byAcceptance (l.filter fun r => isAged r f) ++ sortBy (fun r => 3 - r.prio) (byAcceptance (l.filter fun r => !isAged r f))

/-- The rank of a holding's priority: the base holder counts below every request (R320). -/
def prioRank (h : Holding) : Nat := if h.tenant.isNone then 0 else h.prio + 1

/-- The positions of the holdings on a request's segments that hold an index. -/
def holdersOf (ext : Nat) (t : LineTab) (r : LeaseCtl) (i : Nat) : List Nat :=
  (upFrom 0 t.holdings.length).filter fun k =>
    let h := nth t.holdings k default
    h.plus == r.plus && bit (usesIdx h) i && (segsOf ext r.lo r.hops r.plus).any fun seg => crosses ext h.lo h.hops h.plus seg

/-- Whether an index can be revoked for a request, the guarantees apart (R323): on every segment free or in a holding that
is not scheduled for revocation and of lower priority, or the request aged. -/
def mayRevoke (ext : Nat) (t : LineTab) (r : LeaseCtl) (aged : Bool) (i : Nat) : Bool :=
  let segs := segsOf ext r.lo r.hops r.plus
  !(t.floors.any fun x => x.plus == r.plus && bit x.idx i && segs.any fun seg => crosses ext x.lo x.hops x.plus seg)
  && !(segs.any fun seg => bit (retiredMask t seg r.plus) i)
  && (holdersOf ext t r i).all fun k =>
      let h := nth t.holdings k default
      h.rev1 == 0 && h.rev2 == 0 && (aged || decide (prioRank h < r.prio + 1))

/-- A tenant's total on a segment once every decided change is in force (R321). -/
def tenantTotal (ext : Nat) (t : LineTab) (tenant : Nat) (plus : Bool) (seg : Nat) : Nat :=
  t.holdings.foldl (fun a h =>
    if h.tenant == some tenant && h.plus == plus && crosses ext h.lo h.hops plus seg then a + idxCount (keepsIdx h) else a) 0

/-- Takes an index from holdings: it leaves them two boundaries on, and one that has not joined yet never joins. -/
def revokeFrom (t : LineTab) (ks : List Nat) (i : Nat) : LineTab :=
  let b := BitVec.twoPow 640 i
  { t with holdings := ks.foldl (fun l k => modNth (fun h => { h with rev2 := h.rev2 ||| b }) l k) t.holdings }

/-- Whether the tenants that lose an index keep their guarantees with it taken (R323). -/
def keepsGuar (ext : Nat) (guar : Nat → Nat) (before after : LineTab) (ks : List Nat) : Bool :=
  ks.all fun k =>
    let h := nth before.holdings k default
    match h.tenant with
    | none => true
    | some x => (segsOf ext h.lo h.hops h.plus).all fun seg => decide (guar x ≤ tenantTotal ext after x h.plus seg)

/-- V of R322: the candidates in the ranking of R323, each tested with the indices taken before it counted as lost; the
indices taken, at most `room`, and whether more than that could be. -/
def takeRevocable (ext : Nat) (guar : Nat → Nat) (r : LeaseCtl) :
    List (Nat × List Nat) → LineTab → List (Nat × List Nat) → List (Nat × List Nat)
  | [], _, acc => acc
  | (i, ks) :: rest, t, acc =>
    let t' := revokeFrom t ks i
    if keepsGuar ext guar t t' ks then takeRevocable ext guar r rest t' (acc ++ [(i, ks)]) else takeRevocable ext guar r rest t acc

/-- V for a request whose free indices are `u`. -/
def revocable (ext : Nat) (guar : Nat → Nat) (t : LineTab) (r : LeaseCtl) (aged : Bool) (u : BitVec 640) : List (Nat × List Nat) :=
  let cand := ((upFrom 0 640).filter fun i => !bit u i && mayRevoke ext t r aged i).map fun i => (i, holdersOf ext t r i)
  let top (x : Nat × List Nat) : Nat := x.2.foldl (fun a k => max a (prioRank (nth t.holdings k default))) 0
  takeRevocable ext guar r (sortBy top (sortBy (fun x => x.2.length) cand)) t []

/-- One request decided (R322): the table after it, whether it was refused, and the handles whose masks have changed. -/
def decideOne (ext : Nat) (guar : Nat → Nat) (f : Nat) (t : LineTab) (r : LeaseCtl) : LineTab × Bool :=
  let out (t : LineTab) : LineTab := { t with requests := t.requests.filter fun x => !sameReq x r }
  let grant (t : LineTab) (m1 m2 : BitVec 640) : LineTab :=
    out { t with holdings := t.holdings ++
      [⟨some r.tenant, r.src, r.entry, r.serial, r.plus, r.lo, r.hops, r.timed, r.prio, 0, m1, m2, 0, 0, 0, false⟩] }
  let u := freeAlong ext t r.plus r.lo r.hops
  if r.count ≤ idxCount u then (grant t (lowMask u r.count) 0, false)
  else
    let aged := isAged r f
    let v := revocable ext guar t r aged u
    if idxCount u + v.length < r.min then (if aged then out t else t, aged)
    else
      let take := v.take (r.count - idxCount u)
      let m := take.foldl (fun m x => m ||| BitVec.twoPow 640 x.1) 0
      (grant (take.foldl (fun t x => revokeFrom t x.2 x.1) t) u m, false)

/-- The requests decided in order; those refused are listed. -/
def decideAll (ext : Nat) (guar : Nat → Nat) (f : Nat) (l : List LeaseCtl) (t : LineTab) : LineTab × List LeaseCtl :=
  l.foldl (fun a r => let x := decideOne ext guar f a.1 r; (x.1, if x.2 then a.2 ++ [r] else a.2)) (t, [])

/-- What an arbiter tells the holder of a holding (R337). -/
def decisionOf (f : Nat) (h : Holding) : LeaseDec :=
  { dst := h.src, entry := h.entry, serial := h.serial, state := 1, mask1 := nextIdx h, frame1 := f + 1, mask2 := keepsIdx h,
    frame2 := if nextIdx h = keepsIdx h then f + 1 else f + 2, ends := h.ends, notice := h.rev1 != 0 || h.rev2 != 0 }

/-- One line at its arbiter at the boundary of frame `f`: changes due take effect, releases and requests are decided, and
every node whose holding or request changed is told within the frame (R322, R325). -/
def lineBoundary (s : State) (n dim f : Nat) : State :=
  let ext := extent s dim
  let t := lineAdvance (lineOf s n dim)
  let t0 := t
  let t := t.releases.foldl lineRelease { t with releases := [] }
  let guar (x : Nat) : Nat := fld (smGet (nd s n).leaseW 0 x) 9 0
  let r := decideAll ext guar f (decisionOrder f t.requests) t
  let changed := r.1.holdings.filter fun h => h.tenant.isSome && !t0.holdings.contains h
  let s := putLine s n dim r.1
  let s := changed.foldl (fun s h => travel s n h.src 32 (.leaseDecisionArrival h.src (decisionOf f h))) s
  r.2.foldl (fun s q => travel s n q.src 32
    (.leaseDecisionArrival q.src ⟨q.src, q.entry, q.serial, 3, 0, 0, 0, 0, false, false⟩)) s

/-! Retirement (R319). -/

/-- An index leaves use on one segment: a pool index shrinks the pool, a holding shrinks at once, a floor moves to the
lowest pool index free on its whole circuit. -/
def dropIndex (ext seg : Nat) (plus : Bool) (i : Nat) (t : LineTab) : LineTab :=
  let b := BitVec.twoPow 640 i
  let t := { t with retired := t.retired ++ [(seg, plus, i)] }
  let lose (h : Holding) : Holding :=
    if h.plus == plus && crosses ext h.lo h.hops plus seg then
      { h with idx := h.idx &&& ~~~b, join1 := h.join1 &&& ~~~b, join2 := h.join2 &&& ~~~b, rel1 := h.rel1 &&& ~~~b,
               rev1 := h.rev1 &&& ~~~b, rev2 := h.rev2 &&& ~~~b }
    else h
  let t := { t with holdings := t.holdings.map lose }
  { t with floors := t.floors.map fun x =>
      if x.plus == plus && crosses ext x.lo x.hops plus seg && bit x.idx i then
        { x with idx := (x.idx &&& ~~~b) ||| lowMask (freeAlong ext t plus x.lo x.hops) 1 }
      else x }

/-- The entry of a holding loses an index at once, and LQRY shows it (R319). -/
def entryLose (s : State) (h : Holding) (i : Nat) : State :=
  let b := BitVec.twoPow 640 i
  modNd s h.src fun d =>
    match smGet d.leases none h.entry with
    | some e =>
      if e.serial = h.serial then
        { d with leases := smPut d.leases h.entry (some { e with held := e.held &&& ~~~b, next := e.next &&& ~~~b, after := e.after &&& ~~~b }) }
      else d
    | none => d

/-- A wavelength of a node's direction is retired: a spare of the node and of its neighbour takes its place, or it leaves
use (R319). -/
def retireWave (s : State) (n dir i : Nat) : State :=
  let m := neighbour s n dir
  let s := modNd s n fun d => { d with retiredW := satAdd d.retiredW 1 65535 }
  if (nd s n).spareW < 256 ∧ (nd s m).spareR < 256 then
    modNd (modNd s n fun d => { d with spareW := d.spareW + 1 }) m fun d => { d with spareR := d.spareR + 1 }
  else
    let dim := dir / 2
    let ext := extent s dim
    let plus := dir % 2 == 0
    let x := coordOf n dim
    let seg := if plus then x else (x + ext - 1) % ext
    let t := lineOf s n dim
    let hit := t.holdings.filter fun h =>
      h.tenant.isSome && h.plus == plus && crosses ext h.lo h.hops plus seg && bit (usesIdx h) i
    hit.foldl (fun s h => entryLose s h i) (putLine s n dim (dropIndex ext seg plus i t))

/-- The free pool of a node's first segment in a direction (R318, R337), as the changes in force leave it. -/
def poolMask (s : State) (n dir : Nat) : BitVec 640 :=
  if !hasLink s dir then 0 else
  let dim := dir / 2
  let ext := extent s dim
  let x := coordOf n dim
  let plus := dir % 2 == 0
  let seg := if plus then x else (x + ext - 1) % ext
  let t := lineOf s n dim
  let inForce (h : Holding) : Holding := { h with join1 := 0, join2 := 0, rel1 := 0 }
  freeOn ext { t with holdings := t.holdings.map inForce } plus seg

/-- What the plan gives the ordered channel of every tenant on the leg from a node to another of its line: the floor of the pair,
and the neighbour share (R317, R318). -/
def circMask (s : State) (n dim y : Nat) : BitVec 640 :=
  let ext := extent s dim
  let c := circuitOf ext (coordOf n dim) y
  let t := lineOf s n dim
  let f := t.floors.foldl (fun m x => if x.plus == c.1 && x.lo == c.2.1 && x.hops == c.2.2 then m ||| x.idx else m) 0
  t.holdings.foldl (fun m h => if h.tenant.isNone && h.plus == c.1 && h.lo == c.2.1 && h.hops == c.2.2 then m ||| h.idx else m) f

/-- A node's wavelengths are those of the plan in force: the pools that relaxed traffic is launched on (R318) and LQRY counts
(R337), and the circuits of its lines. -/
def setPools (s : State) (n : Nat) : State :=
  let masks := (upFrom 0 6).map fun dir => (dir, poolMask s n dir)
  let pools := masks.foldl (fun m x => smSet m 0 x.1 (idxCount x.2)) []
  let idx := masks.foldl (fun m x => smSet m 0 x.1 x.2) []
  let circ := (upFrom 0 3).flatMap fun dim => ((upFrom 0 (extent s dim)).filter fun y => y != coordOf n dim).map fun y =>
    (withCoord n dim y, circMask s n dim y)
  modNd s n fun d => { d with pools := pools, poolIdx := idx, circIdx := circ.foldl (fun m x => smSet m 0 x.1 x.2) [] }

/-- Every node of a line that has been touched takes the plan as it stands now (R319). -/
def setLine (s : State) (n dim : Nat) : State :=
  ((s.nodes.map fun x => x.1).filter fun m => m != n && arbiterOf m dim == arbiterOf n dim).foldl setPools s

/-- The wavelengths of one direction that failed or were resent three times are retired (R319). -/
def retireWaves (s : State) (n dir : Nat) : State :=
  let l := smGet (nd s n).links {} dir
  let s := modNd s n fun d => { d with links := smPut d.links dir { l with dead := 0, resends := [] } }
  if l.dead = 0 ∨ !hasLink s dir then s
  else setLine ((bitList l.dead.toNat 0 640).foldl (fun s i => retireWave s n dir i) s) n (dir / 2)

/-- A node's entries at a boundary: what is due comes into force, pending ones age, ended ones are freed (R336, R337). -/
def entriesBoundary (f : Nat) (l : SMap (Option LeaseEntry)) : SMap (Option LeaseEntry) :=
  let step (e : LeaseEntry) : LeaseEntry :=
    if e.state = 0 then { e with age := satAdd e.age 1 255 }
    else if e.state = 1 then
      { e with held := if e.eff2 ≤ f then e.after else if e.eff1 ≤ f then e.next else e.held, notice := e.notice && decide (f < e.eff2) }
    else e
  (l.map fun e => (e.1, e.2.map step)).filter fun e => match e.2 with
    | some x => !(x.ends && x.eff2 ≤ f && x.held == 0)
    | none => false

/-- Step 2 of R32 at a node: retirements, its arbiters' decisions, its entries, its pools, and a shutter table that its
owner has left (R327). -/
def leaseBoundary (s : State) (n f : Nat) : State :=
  let s := (upFrom 0 6).foldl (fun s dir => retireWaves s n dir) s
  let s := (upFrom 0 3).foldl (fun s dim => if extent s dim < 2 ∨ coordOf n dim ≠ 0 then s else lineBoundary s n dim f) s
  let s := setPools (modNd s n fun d => { d with leases := entriesBoundary f d.leases }) n
  let x := (nd s n).shutter
  if x.owner.isSome ∧ x.started.isNone ∧ x.runs.isEmpty ∧ x.last + 8 < f then shutterIdle s n else s

/-- LEASE_CTL_ARRIVAL (R322): recorded for the next boundary; the cancellation of a pending request acts at once (R336). -/
def execLeaseCtlArrival (n : Nat) (l : LeaseCtl) (s : State) : Host.Outcome State Fault Refusal :=
  let t := lineOf s n l.dim
  .next (putLine s n l.dim (
    if !l.release then { t with requests := t.requests ++ [l] }
    else { t with requests := t.requests.filter fun r => !sameReq r l, releases := t.releases ++ [l] }))

/-- The indices that are out of use on some segment of a request's circuit (R319). -/
def goneOn (s : State) (n : Nat) (r : LeaseCtl) : BitVec 640 :=
  (segsOf (extent s r.dim) r.lo r.hops r.plus).foldl (fun m seg => m ||| retiredMask (lineOf s n r.dim) seg r.plus) 0

/-- LEASE_DECISION_ARRIVAL (R322, R337): AGE keeps the boundaries that left the request pending, not the one that decided it
(log 20). An index retired since the decision stays out of the holding (R319). -/
def execLeaseDecisionArrival (n : Nat) (d : LeaseDec) (s : State) : Host.Outcome State Fault Refusal :=
  let put (e0 : LeaseEntry) : LeaseEntry :=
    let e := if e0.state = 0 then { e0 with age := e0.age - 1 } else e0
    let m := ~~~(goneOn s n e.req)
    if d.state = 3 then { e with state := 3 }
    else { e with state := 1, next := d.mask1 &&& m, eff1 := d.frame1, after := d.mask2 &&& m, eff2 := d.frame2, ends := d.ends,
                  notice := d.notice }
  .next (match smGet (nd s n).leases none d.entry with
    | some e => if e.serial = d.serial then modNd s n fun x => { x with leases := smPut x.leases d.entry (some (put e)) } else s
    | none => s)

/-! The instructions. -/

/-- The lease word of the task's tenant on this node (R321). -/
def leaseWord (s : State) : Word := smGet (cn s).leaseW 0 (tenantOf (cc s))
/-- EN and SHUT of a lease word. -/
def leaseEn (w : Word) : Bool := bit w 10
def leaseShut (w : Word) : Bool := bit w 11

/-- A lease instruction (R334): EN, and SHUT where the instruction needs it, are tested before its own checks. -/
def leaseOp {α : Type} (f : FE) (srcs : List Reg) (shut result : Bool) (pre : State → Pre α) (room : α → State → Bool)
    (act : α → State → State) (val : α → Word) : Op α :=
  { len := 2, tk := f.tk, seqs := [.ctrl], handler := false, flags := feFlags f, srcs := srcs,
    flying := if result then 1 else 0, now := !result,
    pre := fun s =>
      if !leaseEn (leaseWord s) || (shut && !leaseShut (leaseWord s)) then .fault (causeHere s codePerm) s
      else match pre s with
      | .go x s' => if room x s' then .go x s' else .hold s'
      | p => p,
    eff := fun x s => if result then flyReg (act x s) f.d (val x) 12 (pushKey s f.tk) f.sig else signal (act x s) f.sig }

/-- Fields of the request word (R335). -/
def rqDest (w : Word) : Nat := fld w 47 36
def rqPrio (w : Word) : Nat := fld w 35 34
def rqTimed (w : Word) : Bool := bit w 33
def rqMin (w : Word) : Nat := fld w 19 10
def rqCount (w : Word) : Nat := fld w 9 0

/-- The dimension of the line that two nodes share, if they differ in just one (R316). -/
def lineDim (s : State) (a b : Nat) : Option Nat :=
  match [0, 1, 2].filter fun k => coordOf a k != coordOf b k with
  | [k] => if inTorus s b then some k else none
  | _ => none

/-- The request that a LEASE makes, as its arbiter will see it but for entry and serial; none where R335 calls it illegal. -/
def leaseRequest (s : State) (w : Word) : Option LeaseCtl :=
  let n := s.cur.node
  match lineDim s n (rqDest w) with
  | none => none
  | some dim =>
    let ext := extent s dim
    let c := circuitOf ext (coordOf n dim) (coordOf (rqDest w) dim)
    let t := lineOf s n dim
    let floors (seg : Nat) : Nat := t.floors.foldl (fun a x =>
      if x.plus == c.1 && crosses ext x.lo x.hops c.1 seg then a + idxCount x.idx else a) 0
    let dir := 2 * dim + (if c.1 then 0 else 1)
    let twice := rqTimed w && (cn s).leases.any fun e => match e.2 with
      | some x => x.tenant == tenantOf (cc s) && x.req.timed && decide (x.state ≤ 1) && x.dir == dir
      | none => false
    if fld w 63 48 ≠ 0 ∨ fld w 32 20 ≠ 0 ∨ rqMin w = 0 ∨ rqCount w < rqMin w ∨ 640 < rqCount w
        ∨ ((segsOf ext c.2.1 c.2.2 c.1).any fun seg => decide (640 - floors seg < rqMin w)) ∨ twice then none
    else some ⟨false, n, 0, 0, tenantOf (cc s), dim, c.1, c.2.1, c.2.2, rqPrio w, rqTimed w, rqMin w, rqCount w, gsc s n⟩

/-- The lowest free entry of the node's lease table (R335). -/
def freeLease (d : Node) : Option Nat := (upFrom 0 256).find? fun i => (smGet d.leases none i).isNone

/-- Sends a message to the arbiter of a line (R322). -/
def tellArbiter (s : State) (l : LeaseCtl) : State :=
  let a := arbiterOf s.cur.node l.dim
  travel s s.cur.node a 32 (.leaseCtlArrival a l)

/-- LEASE (R335). -/
def execLease (f : FE) (s : State) : Host.Outcome State Fault Refusal :=
  let handle (s : State) : Word := BitVec.ofNat 64 ((freeLease (cn s)).getD 0 + ((cn s).leaseCnt + 1) % 2 ^ 24 * 256)
  runOp (leaseOp f [f.a] false true
    (fun s => match leaseRequest s (reg s f.a) with
      | none => .fault (causeHere s codeIllegal) s
      | some l =>
        if l.timed && !leaseShut (leaseWord s) then .fault (causeHere s codePerm) s else .go (l, handle s) s)
    (fun _ s => (freeLease (cn s)).isSome)
    (fun x s =>
      let i := fld x.2 7 0
      let l := { x.1 with entry := i, serial := fld x.2 31 8 }
      let e : LeaseEntry := ⟨l.serial, l.tenant, l, 0, 0, 0, 0, 0, 0, false, false, 0, 2 * l.dim + (if l.plus then 0 else 1)⟩
      tellArbiter (modCn s fun d => { d with leases := smPut d.leases i (some e), leaseCnt := (d.leaseCnt + 1) % 2 ^ 24 }) l)
    fun x => x.2) s

/-- The entry that a handle names (R336): no live one, another tenant's, or the task's own. -/
def handleEntry (s : State) (v : Word) : Option LeaseEntry :=
  if fld v 63 32 ≠ 0 then none else
  match smGet (cn s).leases none (fld v 7 0) with
  | some e => if e.serial = fld v 31 8 then some e else none
  | none => none
/-- Whether a handle names another tenant's entry. -/
def foreignHandle (s : State) (v : Word) : Bool :=
  match handleEntry s v with | some e => e.tenant != tenantOf (cc s) | none => false
/-- Frees an entry. -/
def freeEntry (s : State) (v : Word) : State := modCn s fun d => { d with leases := smDel d.leases (fld v 7 0) }

/-- LREL (R336). -/
def execLrel (f : FE) (s : State) : Host.Outcome State Fault Refusal :=
  runOp (leaseOp f [f.a, f.b] false false
    (fun s =>
      if 640 < (reg s f.b).toNat then .fault (causeHere s codeIllegal) s
      else if foreignHandle s (reg s f.a) then .fault (causeHere s codePerm) s
      else .go () s)
    (fun _ _ => true)
    (fun _ s => match handleEntry s (reg s f.a) with
      | none => s
      | some e =>
        let l := { e.req with release := true, count := (reg s f.b).toNat }
        if e.state = 0 then tellArbiter (freeEntry s (reg s f.a)) { l with count := 0 }
        else if e.state = 3 then freeEntry s (reg s f.a)
        else tellArbiter s l)
    fun _ => 0) s

/-- The status word of an entry (R337). -/
def leaseStatus : Option LeaseEntry → Word
  | none => BitVec.ofNat 64 (2 * 2 ^ 22)
  | some e =>
    let base := e.age * 2 ^ 24 + e.state * 2 ^ 22
    if e.state = 1 then
      BitVec.ofNat 64 (idxCount e.held * 2 ^ 54 + idxCount e.after * 2 ^ 44 + e.eff2 % 4096 * 2 ^ 32 + base
        + b2n e.notice * 2 ^ 21 + (lowBit e.held.toNat 0 640).getD 0 * 2 ^ 10)
    else BitVec.ofNat 64 base

/-- A refused entry is freed once its status has been read (R337). -/
def readStatus (s : State) (v : Word) : State :=
  match handleEntry s v with
  | some e => if e.state = 3 then freeEntry s v else s
  | none => s

/-- LQRY (R337). -/
def execLqry (f : FE) (s : State) : Host.Outcome State Fault Refusal :=
  runOp (leaseOp f [f.a, f.b] false true
    (fun s =>
      let a := reg s f.a
      match (reg s f.b).toNat with
      | 0 => if foreignHandle s a then .fault (causeHere s codePerm) s else .go (true, leaseStatus (handleEntry s a)) s
      | 1 => if 5 < a.toNat then .fault (causeHere s codeIllegal) s else .go (false, BitVec.ofNat 64 (smGet (cn s).pools 0 a.toNat)) s
      | 2 => if a ≠ 0 then .fault (causeHere s codeIllegal) s else .go (false, leaseWord s) s
      | _ => .fault (causeHere s codeIllegal) s)
    (fun _ _ => true)
    (fun x s => if x.1 then readStatus s (reg s f.a) else s)
    fun x => x.2) s

/-- Whether LWAIT's wait is over (R338). -/
def leaseReady : Option LeaseEntry → Bool
  | none => true
  | some e => e.state == 3 || decide (e.req.min ≤ idxCount e.held)

/-- LWAIT (R338). -/
def execLwait (f : FE) (s : State) : Host.Outcome State Fault Refusal :=
  runOp (leaseOp f [f.a] false true
    (fun s => if foreignHandle s (reg s f.a) then .fault (causeHere s codePerm) s else .go (leaseStatus (handleEntry s (reg s f.a))) s)
    (fun _ s => leaseReady (handleEntry s (reg s f.a)))
    (fun _ s => readStatus s (reg s f.a))
    fun x => x) s

/-- The table's owner is the tenant, or it has none. -/
def shutterMine (s : State) : Bool := match (cn s).shutter.owner with | some t => t == tenantOf (cc s) | none => true

/-- SHUTW (R339). -/
def execShutw (f : FE) (s : State) : Host.Outcome State Fault Refusal :=
  runOp (leaseOp f [f.a, f.b] true false
    (fun s =>
      let a := reg s f.a
      let b := reg s f.b
      let noLink := (upFrom 0 6).any fun d => slotDist b d != 0 && !hasLink s d
      if 16 ≤ a.toNat ∨ slotDur b < 1250 ∨ fld b 47 25 ≠ 0 ∨ noLink then .fault (causeHere s codeIllegal) s
      else if !shutterMine s then .fault (causeHere s codePerm) s
      else .go () s)
    (fun _ _ => true)
    (fun _ s =>
      let f' := frameOf s s.cur.node
      modSh s s.cur.node fun x =>
        { x with owner := some (tenantOf (cc s)), shadow := smPut x.shadow (reg s f.a).toNat (reg s f.b), last := f' })
    fun _ => 0) s

/-- SHUTGO (R340). -/
def execShutgo (f : FE) (s : State) : Host.Outcome State Fault Refusal :=
  runOp (leaseOp f [f.a, f.b] true true
    (fun s =>
      let b := reg s f.b
      let stop := bit b 16
      if fld b 63 17 ≠ 0 ∨ (stop ∧ (reg s f.a ≠ 0 ∨ fld b 15 0 ≠ 0)) then .fault (causeHere s codeIllegal) s
      else if !shutterMine s then .fault (causeHere s codePerm) s
      else if stop then .go (true, 0) s
      else if slotDur (smGet (cn s).shutter.shadow 0 0) = 0 then .fault (causeHere s codeIllegal) s
      else .go (false, BitVec.ofNat 64 (rotLen (cn s).shutter.shadow)) s)
    (fun _ _ => true)
    (fun x s =>
      let n := s.cur.node
      let now := frameOf s n
      let sh := (nd s n).shutter
      if x.1 then
        if sh.owner.isNone then s else shutterEnd (modSh s n fun y => { y with last := now }) n
      else
        let t := match sh.started with
          | some (t0, _) => max (reg s f.a).toNat (rotEnd sh t0 (gsc s n))
          | none => (reg s f.a).toNat
        let s := modSh s n fun y => { y with runs := y.runs ++ [(t, fld (reg s f.b) 15 0)], last := now }
        schedule s (stepDelay s n t) (.shutterRotationStart n))
    fun x => x.2) s

end Sys2Proof.Machine
end

