-- ==== Sys2Proof/Machine/Link.lean ====
section
/-! DEFINITION. Links (R319, R331 to R333): receiving a flit, asking for parity, resending, alignment and failure; and packets in
the air, which arrive in the order of R332. -/

namespace Sys2Proof.Machine

/-! Receiving. -/

/-- A payload in its turn joins the packet under way on its channel: HEAD begins one, TAIL ends it, SOLO is one (R330). What
is left is the link, and the packet that is whole, if one is. -/
def takePayload (l : Link) (ch ft : Nat) (p : List Byte) : Link × Option (List Byte) :=
  let bytes := if ft = 0 ∨ ft = 3 then p else smGet l.asm [] ch ++ p
  if ft = 2 ∨ ft = 3 then ({ l with asm := smDel l.asm ch }, some bytes) else ({ l with asm := smPut l.asm ch bytes }, none)

/-- Takes the payloads of a channel that are in LSEQ order (R326): the link after them and the packets they complete. -/
def takeEarly (ch : Nat) : Nat → Link → List (List Byte) → Link × List (List Byte)
  | 0, l, ps => (l, ps)
  | fuel + 1, l, ps =>
    match takeFirst (fun e : Nat × Nat × Nat × List Byte => e.1 == ch && e.2.1 == smGet l.expect 0 ch) l.early with
    | none => (l, ps)
    | some ((_, q, ft, p), rest) =>
      let r := takePayload { l with early := rest, expect := smPut l.expect ch (lseqNext q) } ch ft p
      takeEarly ch fuel r.1 (match r.2 with | some b => ps ++ [b] | none => ps)

/-- How far a LSEQ lies ahead of the one expected next on its channel. -/
def lseqAhead (l : Link) (ch q : Nat) : Nat := (q + 2 ^ 24 - smGet l.expect 0 ch) % 2 ^ 24
/-- Whether a flit has been received already. -/
def lseqSeen (l : Link) (ch q : Nat) : Bool :=
  decide (2 ^ 23 ≤ lseqAhead l ch q) || l.early.any fun e => e.1 == ch && e.2.1 == q

/-- A good data flit (R326, R330): delivered in its turn, kept until then, dropped when it comes again. -/
def deliverFlit (l : Link) (h : Word) (payload : List Byte) : Link × List (List Byte) :=
  let ch := flitCh h
  if lseqSeen l ch (flitLseq h) then (l, [])
  else takeEarly ch (l.early.length + 1) { l with early := l.early ++ [(ch, flitLseq h, flitFt h, payload)] } []

/-- What an acknowledgement releases from the replay buffer (R331). -/
def releaseReplay (l : Link) (ch ackn : Nat) : Link :=
  { l with replay := l.replay.filter fun e => e.1 != ch || decide (32768 ≤ (ackn + 65536 - e.2.1 % 65536) % 65536) }

/-- The direction from which a packet that came over a link or circuit arrives (R294). -/
def cameFrom (s : State) (n key : Nat) : Nat := if key < 8 then key else dirTo s n (key - 8)

/-- A whole packet has come over a link: a program packet waits for a context (R271), one that PRESUME carries only at its node
(R298), a DATA packet is delivered at its node or goes on toward it (R294, R326, R332); what goes on or is delivered leaves its
input buffer at once. What another packet's payload says no rule gives (log 48). -/
def takePacket (s : State) (n key ch : Nat) (bytes : List Byte) : State :=
  let p := packetImage bytes
  let back (s : State) : State := sendAck s n key 639 ch (unitsOf (packetBytes p))
  let onward (m : Nat) (i : Instr) : State :=
    routeOn (back s) n { parcelOf s (pSrcn p) m ch (pTenant p) 0 i with src := pSrcn p, bytes := packetBytes p }
  if ch ≤ 1 ∧ pType p = 1 then
    let q := resumeClear p
    if !isResumed p then progArrive s n p (cameFrom s n key) none key
    else
      let m := fld p 159 148
      let arr := fld p 142 140
      let idx := fld p 139 136
      if m = n then progArrive s n q arr (some idx) key else onward m (.progArrival m q arr (some idx))
  else if ch ≤ 1 ∧ pType p = 0 then
    if pDhint p = n then deliverData (back s) n p (cameFrom s n key)
    else onward (pDhint p) (.dataDelivery (pDhint p) p (cameFrom s n key))
  else modLink s n key fun l => { l with got := l.got ++ [(ch, bytes)] }

/-! Alignment (R333). -/

/-- A record whose code and value the manual does not give (R450): both are free. -/
def postOpen (s : State) (n kind : Nat) : State :=
  let r := fresh s
  let q := fresh r.2
  postAttn q.2 n kind 0 ((Config.freeWord r.1).toNat % 2 ^ 32) (Config.freeWord q.1)

/-- One cc forward or back, at most once in 10⁴ cc; a step back never takes the GSC below a value it has shown (R333). -/
def steer (s : State) (n theirs : Nat) : State :=
  let ours := gscCc s n
  let now := s.now
  if now < (nd s n).steerAt + 10000 then s
  else if ours < theirs then modNd s n fun d => { d with gscPhase := d.gscPhase + 1, steerAt := now }
  else if theirs < ours ∧ ours % 4 ≠ 0 then
    modNd s n fun d =>
      if d.gscPhase = 0 then { d with gscFrom := min now (d.gscFrom + 1), steerAt := now } else { d with gscPhase := d.gscPhase - 1, steerAt := now }
  else s

/-- A node takes the GSC and the phase of its parent (R333): it steers toward them, and reports that it is more than a step away. -/
def alignTo (s : State) (n src gsc phase : Nat) : State :=
  let dir := dirTo s n 0
  if 6 ≤ dir ∨ neighbour s n dir ≠ src ∨ !(nd s n).gscOn then s
  else
    let theirs := 4 * gsc + phase / 64 + Config.latHop
    let ours := gscCc s n
    steer (if ours + 4 < theirs ∨ theirs + 4 < ours then postOpen s n 3 else s) n theirs

/-- ALIGN_FLIT (R333). -/
def execAlignFlit (n src gsc phase : Nat) (s : State) : Host.Outcome State Fault Refusal := .next (alignTo s n src gsc phase)

/-- The cc in which a wavelength carries 1,024 flits, after which its ALIGN flit comes (R333). -/
def alignCc : Nat := 29257

/-- The payload of an ALIGN flit: the GSC and, in units of 1/256 step, the phase (R333; its places DESIGN CHOICE, log 48). -/
def alignBytes (g : Nat) : List Byte := valBytes 8 (g / 4) ++ valBytes 1 (g % 4 * 64)

/-- The ALIGN flits of a node: one toward each neighbour stands for those of its wavelengths (R333). -/
def sendAligns (s : State) (n : Nat) : State :=
  if !(nd s n).gscOn || s.now % alignCc != 0 then s else
  let g := gscCc s n
  ((upFrom 0 6).filter fun d => hasLink s d).foldl (fun s d =>
    schedule s Config.latHop (.flitReceive (neighbour s n d) (makeFlit (opposite d) 639 (flitHeader 4 2 0 0 0) (alignBytes g)))) s

/-! Recovery (R331). -/

/-- What a MORE asks of the sender of a flit (R331): increments 1 and 2 make it send P20 to P41 and P42 to P63, 3 makes it resend
the flit; the third resend on a wavelength within a frame retires it (R319), on a circuit as a wavelength of its first segment
(log 48). -/
def sendMore (s : State) (n key id inc : Nat) : State :=
  match (linkOf (nd s n) key).replay.find? fun e => e.1 == id / 2 ^ 24 && e.2.1 == id % 2 ^ 24 with
  | none => s
  | some (_, _, f) =>
    let send (s : State) (data parity : List Byte) : State :=
      schedule s (flightCc s n key) (.flitReceive (peerOf s n key) ⟨f.dir, f.wave, data, parity⟩)
    match inc with
    | 1 => send s [] ((f.parity.drop 20).take 22)
    | 2 => send s [] (f.parity.drop 42)
    | _ =>
      let dir := physDir s n key
      let k := smGet (linkOf (nd s n) dir).resends 0 f.wave + 1
      let s := modNd s n fun d => { d with resendC := BitVec.ofNat 64 (satAdd d.resendC.toNat 1 (2 ^ 64 - 1)) }
      let s := modLink s n dir fun l =>
        { l with resends := smPut l.resends f.wave k, dead := if 3 ≤ k then l.dead ||| BitVec.twoPow 640 f.wave else l.dead }
      send s f.data (f.parity.take 20)

/-- MORE_REQUEST (R331). The channel stands above LSEQ's 24 bits. -/
def execMoreRequest (n dir lseq inc : Nat) (s : State) : Host.Outcome State Fault Refusal := .next (sendMore s n dir lseq inc)

/-- A flit whose CRC passes (R330, R331): a reserved one is discarded and counted; every other acknowledges and returns
credits; ALIGN and MORE are acted on; a data flit is delivered and acknowledged in its turn. -/
def goodFlit (s : State) (n key wave : Nat) (data : List Byte) : State :=
  let h := flitHead data
  let ft := flitFt h
  if 8 ≤ ft ∨ flitCh h = 3 then modNd s n fun d => { d with badFlits := d.badFlits + 1 }
  else
    let payload := (data.drop 8).take 128
    if ft = 4 then alignTo s n (peerOf s n key) (bytesVal (payload.take 8)) (bytesVal ((payload.drop 8).take 1))
    else if ft = 6 then sendMore s n key (flitCh h * 2 ^ 24 + flitLseq h) (bytesVal (payload.take 1))
    else
      let s := modLink s n key fun l => releaseReplay { l with room := min (l.room + flitCred h) 8192 } (flitCh h) (flitAck h)
      if 4 ≤ ft then s else
      let r := deliverFlit (linkOf (nd s n) key) h payload
      let id := flitCh h * 2 ^ 24 + flitLseq h
      let s := modLink s n key fun _ => { r.1 with asked := r.1.asked.filter fun x => x != id }
      let s := r.2.foldl (fun s b => takePacket s n key (flitCh h) b) s
      sendAck s n key wave (flitCh h) 0

/-- The parity bytes that a flit has when increment 1, 2 or the resend is asked for (R331). -/
def moreInc (parity : List Byte) : Nat := if parity.length < 42 then 1 else if parity.length < 64 then 2 else 3

/-- Which flit of its peer's replay buffer a failed flit is, channel above LSEQ: the oldest one of that wavelength that has
neither been received nor is asked about already, else the one its header names (log 48). -/
def askedFlit (s : State) (n : Nat) (g : Flit) : Nat :=
  let l := linkOf (nd s n) g.dir
  let open_ (id : Nat) : Bool := !lseqSeen l (id / 2 ^ 24) (id % 2 ^ 24) && !(l.kept.any fun e => e.1 == id)
  let there := ((linkOf (nd s (peerOf s n g.dir)) (backKey n g.dir)).replay.filter fun e => e.2.2.wave == g.wave).map fun e => e.1 * 2 ^ 24 + e.2.1
  let h := flitHead g.data
  match there.find? fun id => open_ id && !l.asked.contains id with
  | some id => id
  | none => (there.find? open_).getD (flitCh h * 2 ^ 24 + flitLseq h)

/-- A MORE flit about a flit goes to the peer of a link (R330, R331; the place of the increment DESIGN CHOICE, log 48). -/
def askMore (s : State) (n key id inc : Nat) : State :=
  if !linkUp s key then s
  else schedule s (flightCc s n key)
    (.flitReceive (peerOf s n key) (makeFlit (backKey n key) 639 (flitHeader 6 (id / 2 ^ 24) (id % 2 ^ 24) 0 0) (valBytes 1 inc)))

/-- The flit as received so far, the flit of the sender that it is, and the kept ones without it: parity bytes alone belong to the
flit kept longest on their wavelength, since what is asked for comes in order. -/
def gatherFlit (s : State) (n : Nat) (f : Flit) : Flit × Nat × List (Nat × Flit) :=
  let kept := (linkOf (nd s n) f.dir).kept
  if f.data.isEmpty then
    match takeFirst (fun e : Nat × Flit => e.2.wave == f.wave) kept with
    | some ((id, e), rest) => ({ e with parity := e.parity ++ f.parity }, id, rest)
    | none => (f, 0, kept)
  else
    let g := { f with parity := f.parity.take 20 }
    (g, askedFlit s n g, kept)

/-- FLIT_RECEIVE (R331): decoded with the parity at hand; one whose CRC fails is kept while more parity is asked for, and
with all 64 parity bytes a resend. -/
def execFlitReceive (n : Nat) (f : Flit) (s : State) : Host.Outcome State Fault Refusal :=
  let x := gatherFlit s n f
  let s := modLink s n f.dir fun l => { l with kept := x.2.2 }
  let inc := moreInc x.1.parity
  let keep (l : Link) : Link := if inc ≤ 2 then { l with kept := l.kept ++ [(x.2.1, x.1)] } else { l with asked := l.asked ++ [x.2.1] }
  let bad : State := askMore (modLink s n f.dir keep) n f.dir x.2.1 inc
  .next (match rsDecode x.1.data x.1.parity with
    | some d => if crcOk d then goodFlit s n f.dir f.wave d else bad
    | none => bad)

/-- LINK_FAILURE (R319): the wavelengths of a failed laser or fibre are retired at the next frame boundary. -/
def execLinkFailure (n dir : Nat) (waves : BitVec 640) (s : State) : Host.Outcome State Fault Refusal :=
  .next (modLink s n dir fun l => { l with dead := l.dead ||| waves })

/-! Packets in the air (R332). -/

/-- Whether an access to one node must be performed before another: those of one core to the same bytes in its program order
(R222), the messages of one endpoint in SSEQ order (R307). -/
def goesBefore (a b : Parcel) : Bool :=
  match a.what, b.what with
  | .windowAccess m x, .windowAccess k y =>
    m == k && x.src == y.src && x.core == y.core && decide (a.seq < b.seq) && decide (x.off < y.off + y.size) && decide (y.off < x.off + x.size)
  | i, j => match msgOfEvent i, msgOfEvent j with
    | some x, some y => x.src == y.src && x.ep == y.ep && seqEarlier x.sseq y.sseq
    | _, _ => false

/-- Every packet under way on the fabric. -/
def allPackets (s : State) : List Parcel := s.nodes.flatMap (fun x => waitingPackets x.2) ++ s.air.map fun e => e.2.2.2
/-- Whether a packet would be delivered before one that goes before it (R222, R307, R332). -/
def overtakes (s : State) (p : Parcel) : Bool :=
  (match p.what with | .windowAccess .. => true | i => (msgOfEvent i).isSome) && (allPackets s).any fun q => goesBefore q p

/-- A packet has come to a node: it goes on from there, or counts to its transfer, whose event happens once all are there. -/
def landPacket (s : State) (n : Nat) (p : Parcel) : State × List Instr :=
  if n ≠ p.dst then (routeOn s n p, [])
  else if p.parts ≤ 1 then (s, [p.what])
  else
    let got := match (nd s n).partly.find? fun e => e.1 == p.src && e.2.1 == p.seq with
      | some e => e.2.2 + 1
      | none => 1
    let rest := (nd s n).partly.filter fun e => !(e.1 == p.src && e.2.1 == p.seq)
    if p.parts ≤ got then (modNd s n fun d => { d with partly := rest }, [p.what])
    else (modNd s n fun d => { d with partly := rest ++ [(p.src, p.seq, got)] }, [])

/-- Events from different sources are ordered by GSC stamp, source node and SEQ (R332). -/
def arrivalOrder (l : List (Nat × Nat × Nat × Parcel)) : List (Nat × Nat × Nat × Parcel) :=
  sortBy (fun e => e.2.2.2.stamp) (sortBy (fun e => e.2.2.2.src) (sortBy (fun e => e.2.2.2.seq) l))

/-- The packets that have come down in this cc land, in order; what they bring is listed. One that would overtake waits. -/
def landAll (s : State) : State × List Instr :=
  let now := s.now
  let here := arrivalOrder (s.air.filter fun e => decide (e.1 ≤ now))
  here.foldl (fun (a : State × List Instr) e =>
    let s := { a.1 with air := a.1.air.erase e }
    if overtakes s e.2.2.2 then ({ s with air := s.air ++ [e] }, a.2)
    else let r := landPacket s e.2.1 e.2.2.2; (r.1, a.2 ++ r.2)) (s, [])

end Sys2Proof.Machine
end

