-- ==== Sys2Proof/Machine/Comm.lean ====
section
/-! DEFINITION. Communicators (R342 to R344), the canonical tree and its events (R345 to R347), operators (R348, R349),
blocks and chunks (R352, R353), and COMMDEF (R361). -/

namespace Sys2Proof.Machine

/-! Communicators. -/

/-- A descriptor's fields from its bytes: NR and NG (R342). -/
def descNr (bs : List Byte) : Nat := bytesVal (bs.take 2)
def descNg (bs : List Byte) : Nat := bytesVal ((bs.drop 2).take 2)
/-- The bytes of a descriptor. -/
def descLength (nr ng : Nat) : Nat := 64 + 4 * nr + 2 * ng

/-- The identity (R343): the first 8 bytes of the digest of bytes 0 to 63 and the FIRST table. -/
def commIdent (bs : List Byte) : Word :=
  BitVec.ofNat 64 (bytesVal ((sha512 (bs.take 64 ++ bs.drop (64 + 4 * descNr bs))).take 8))

/-- Whether a list strictly ascends. -/
def ascends : List Nat → Bool
  | a :: b :: r => decide (a < b) && ascends (b :: r)
  | _ => true
/-- Whether no pair appears twice. -/
def noRepeat : List (Nat × Nat) → Bool
  | [] => true
  | x :: r => !r.contains x && noRepeat r

/-- The ranks of group `g`: first and one past the last. -/
def groupSpan (first : List Nat) (nr g : Nat) : Nat × Nat := (nth first g 0, nth (first ++ [nr]) (g + 1) nr)

/-- The communicator of a descriptor's bytes, none where it breaks R342; a TREE of a reserved value does, and a RANK with a bit
of [31:20] set (log 45); reserved fields are ignored (R6). -/
def parseComm (s : State) (owner : Nat) (bs : List Byte) : Option Comm :=
  let nr := descNr bs
  let ng := descNg bs
  let word (r : Nat) : Nat := bytesVal ((bs.drop (64 + 4 * r)).take 4)
  let ranks := (upFrom 0 nr).map fun r => (bitsOf (word r) 11 0, bitsOf (word r) 19 12)
  let first := (upFrom 0 ng).map fun g => bytesVal ((bs.drop (64 + 4 * nr + 2 * g)).take 2)
  let groupOk (g : Nat) : Bool :=
    let sp := groupSpan first nr g
    let l := (ranks.drop sp.1).take (sp.2 - sp.1)
    (l.all fun x => x.1 == (l.headD (0, 0)).1) && ascends (l.map fun x => x.2)
  if nr = 0 ∨ 4096 < nr ∨ ng = 0 ∨ 256 < ng ∨ bs.getD 4 0 ≠ 0
      ∨ ((upFrom 0 nr).any fun r => bitsOf (word r) 31 20 != 0) ∨ (ranks.any fun x => !inTorus s x.1)
      ∨ nth first 0 0 ≠ 0 ∨ !ascends (first ++ [nr]) ∨ !noRepeat ranks
      ∨ !((upFrom 0 ng).all groupOk) then none
  else some ⟨owner, nr, ng, ranks, first, commIdent bs⟩

/-- The group of a rank. -/
def groupOf (c : Comm) (rank : Nat) : Nat := (c.first.filter fun f => decide (f ≤ rank)).length - 1
/-- The node of a group. -/
def groupNode (c : Comm) (g : Nat) : Nat := (nth c.ranks (nth c.first g 0) (0, 0)).1

/-! The tree. -/

/-- SPLIT (R345). -/
def split (a b : Nat) : Nat := a + (b - a + 2) / 2

/-- TREE (R345) over the indices `a` to `b`, with `fuel` levels. -/
def tree {α : Type} (op : α → α → α) (x : Nat → α) : Nat → Nat → Nat → α
  | 0, a, _ => x a
  | fuel + 1, a, b => if b ≤ a then x a else op (tree op x fuel a (split a b - 1)) (tree op x fuel (split a b) b)

/-- An event of R347: a partial received from a group, or sent to one. -/
structure CEvent where
  recv : Bool
  g    : Nat
  deriving DecidableEq, Repr

/-- The events of group `g` over `a … b`, root first (R347). -/
def eventsFrom (g : Nat) : Nat → Nat → Nat → List CEvent
  | 0, _, _ => []
  | fuel + 1, a, b =>
    if b ≤ a then [] else
    let m := split a b
    (if g = a then [⟨true, m⟩] else if g = m then [⟨false, a⟩] else [])
      ++ (if g < m then eventsFrom g fuel a (m - 1) else eventsFrom g fuel m b)
/-- L of R347: leaf first. -/
def eventList (g ng : Nat) : List CEvent := (eventsFrom g 9 0 (ng - 1)).reverse

/-! Operators. -/

/-- The element width in bytes of ETYPE (R348). -/
def etWidth (et : Nat) : Nat := match et with | 1 => 4 | 2 => 2 | 3 => 2 | 4 => 4 | 5 => 2 | 6 => 1 | 7 => 8 | _ => 1
/-- The float format of ETYPE, if it is one. -/
def etFmt (et b8 : Nat) : Option Fmt :=
  match et with
  | 1 => some fmtF32
  | 2 => some fmtF16
  | 3 => some fmtBF16
  | 8 => some (fmtB8 b8)
  | _ => none

/-- The combinations of R348. -/
def opLegal (kind et oper b8 : Nat) : Bool :=
  let types := match kind, oper with
    | 2, 0 => [1, 2, 3, 4, 5, 6, 7, 8]
    | 2, _ => []
    | _, 0 => [1, 2, 3, 4, 7]
    | _, 1 => [1, 2, 3, 8]
    | _, 2 => [1, 2, 3, 8]
    | _, 3 => [4, 5, 6, 7]
    | _, 4 => [4, 5, 6, 7]
    | _, _ => []
  types.contains et && (if et = 8 then b8 / 4 != 0 else b8 == 0)

/-- One element combined (R349). -/
def elemOp (et oper b8 a b : Nat) : Nat :=
  match etFmt et b8, oper with
  | some f, 0 => roundF f 0 false (vAdd 0 (decodeF f a) (decodeF f b))
  | some f, 1 => roundF f 0 false (vMax (decodeF f a) (decodeF f b))
  | some f, _ => roundF f 0 false (vMin (decodeF f a) (decodeF f b))
  | none, 0 => (a + b) % 2 ^ (8 * etWidth et)
  | none, 3 => Nat.lor a b
  | none, _ => Nat.land a b

/-- Block `b` of a chunk. -/
def blockOf (v : BitVec 32768) (b : Nat) : Nat := fld v (1024 * b + 1023) (1024 * b)
/-- A chunk of blocks. -/
def ofBlocks (l : List Nat) : BitVec 32768 := BitVec.ofNat 32768 (unchunk 1024 l)
/-- A mask of the blocks for which `p` holds. -/
def presMask (p : Nat → Bool) : BitVec 32 :=
  (upFrom 0 32).foldl (fun m b => if p b then m ||| BitVec.twoPow 32 b else m) 0

/-- The present blocks of a chunk (R353): all but the zero ones of SUM, BOR and BCAST, else all. -/
def presOf (oper : Nat) (v : BitVec 32768) : BitVec 32 :=
  presMask fun b => !(oper == 0 || oper == 3) || blockOf v b != 0

/-- Two blocks combined element by element. -/
def blockOp (et oper b8 p q : Nat) : Nat :=
  let w := 8 * etWidth et
  unchunk w (((chunks w (1024 / w) p).zip (chunks w (1024 / w) q)).map fun e => elemOp et oper b8 e.1 e.2)

/-- BLOCKOP on every block of two chunks (R353); a zero block of a result is absent too. -/
def chunkOp (et oper b8 : Nat) (x y : BitVec 32768 × BitVec 32) : BitVec 32768 × BitVec 32 :=
  let v := ofBlocks ((upFrom 0 32).map fun b =>
    if !bit x.2 b then (if bit y.2 b then blockOf y.1 b else 0)
    else if !bit y.2 b then blockOf x.1 b
    else blockOp et oper b8 (blockOf x.1 b) (blockOf y.1 b))
  (v, presOf oper v)

/-- A contribution as the engine reads it (R349): canonical NaNs but for a BCAST, then its present blocks. -/
def contribution (kind et oper b8 : Nat) (v : BitVec 32768) : BitVec 32768 × BitVec 32 :=
  let w := 8 * etWidth et
  let canon (x : Nat) : Nat := match etFmt et b8 with
    | some f => if vIsNan (decodeF f x) then f.nanC else x
    | none => x
  let v := if kind = 2 then v else BitVec.ofNat 32768 (unchunk w ((chunks w (32768 / w) v.toNat).map canon))
  (v, presOf oper v)

/-! COMMDEF. -/

/-- A communicator slot. -/
def commOf (d : Node) (i : Nat) : Option Comm := smGet d.comms none i
/-- COMM of a tile's image (R350). -/
def tComm (t : Tile) : Nat := fld t.img 259 254
/-- Whether a slot is idle (R344). -/
def commIdle (d : Node) (i : Nat) : Bool := !(d.tiles.any fun t => 1 ≤ t.2.state && t.2.state ≤ 3 && tComm t.2 == i)

/-- Reads a range for an instruction as a load does: it waits where a load waits, and faults POISON, or as its first failing
line does. -/
def readRange (va : Word) (len : Nat) (s : State) : Pre (List Byte) :=
  let n := s.cur.node
  let c := s.cur.core
  match engLoad (coreAgent s n c (classOf (cc s))) va (len / 128 + 3) 0 len [] [] s with
  | (.wait, s) => .hold s
  | (.fault code a, r) => .fault (causeAt s code a) (keepTlb s r n c)
  | (.bytes bs ps, r) =>
    match ps with
    | [] => .go bs r
    | p :: _ => .fault (causeAt s codePoison (va + BitVec.ofNat 64 (128 * p))) (keepTlb s r n c)

/-- The descriptor at an address (R361): its first 64 bytes and then its tables. -/
def readDesc (va : Word) (s : State) : Pre (List Byte) :=
  match readRange va 64 s with
  | .go h s =>
    if descNr h = 0 ∨ 4096 < descNr h ∨ descNg h = 0 ∨ 256 < descNg h then .go h s
    else match readRange (va + 64) (descLength (descNr h) (descNg h) - 64) s with
    | .go r s => .go (h ++ r) s
    | p => p
  | p => p

/-- What COMMDEF finds (R361): a fault, a wait, or the slot and its communicator. -/
def commPre (a b : Word) (s : State) : Pre (Nat × Comm) :=
  let slot := b.toNat
  let keep (r : State) : State := keepTlb s r s.cur.node s.cur.core
  if 64 ≤ slot then .fault (causeHere s codeIllegal) s
  else if a.toNat % 64 ≠ 0 then .fault (causeAt s codeAlign a) s
  else match readDesc a s with
  | .fault k s' => .fault k (keep s')
  | .hold _ => .hold s
  | .go bs s' =>
    match parseComm s (tenantOf (cc s)) bs with
    | none => .fault (causeHere s codeIllegal) (keep s')
    | some x =>
      match commOf (cn s) slot with
      | none => .go (slot, x) s'
      | some old =>
        let idle := commIdle (cn s) slot
        if old.owner ≠ x.owner ∧ !idle then .fault (causeHere s codePerm) (keep s')
        else if old.ident ≠ x.ident ∧ !idle then .fault (causeHere s codeIllegal) (keep s')
        else .go (slot, x) s'

/-- The cycles of COMMDEF: about 8 + R / 16 (R361; taken exactly, log 7). -/
def commTime (x : Comm) : Nat := 8 + x.nr / 16

/-- COMMDEF held at issue for its time (R361): what its first test finds stands aside, and what its last finds is its effect. -/
def commTimed (a b : Word) (s : State) : Pre (Nat × Comm) :=
  let now := coreCyc s s.cur.node s.cur.core
  match (cc s).commWait with
  | some t => if t ≤ now then commPre a b s else .hold s
  | none => match commPre a b s with
    | .go x _ => .hold (modCc s fun k => { k with commWait := some (now + commTime x.2 - 1) })
    | .hold _ => .hold s
    | .fault k s => .fault k s

/-- COMMDEF (R361): held at issue until it retires; S[D] follows 2 cc later (R360). -/
def execCommdef (f : FE) (s : State) : Host.Outcome State Fault Refusal :=
  runOp { len := 2, tk := f.tk, seqs := [.ctrl], handler := false, flags := feFlags f, srcs := [f.a, f.b], flying := 1, keep := true,
          pre := commTimed (reg s f.a) (reg s f.b),
          eff := fun p s =>
            let s := modCn s fun d => { d with comms := smPut d.comms p.1 (some p.2) }
            flyReg (signal (modCc s fun k => { k with commWait := none }) f.sig) f.d p.2.ident 2 none 0 } s

end Sys2Proof.Machine
end

