-- ==== Sys2Proof/Machine/Collective.lean ====
section
/-! DEFINITION. The collective engine (R350 to R359): the tile table, chunks from their reservation to their result, failure,
and the instructions CTSET, CTREADY, CTWAIT and CTDROP (R362 to R364). -/

namespace Sys2Proof.Machine

/-! The tile table. -/

/-- Fields of a tile image (R350). -/
def tPeer (t : Tile) (j : Nat) : Nat := fld t.img (427 + 12 * j) (416 + 12 * j)
def tRaddr (t : Tile) : Word := BitVec.ofNat 64 (fld t.img 415 352)
def tLsrc (t : Tile) : Word := BitVec.ofNat 64 (fld t.img 351 288)
def tRank (t : Tile) : Nat := fld t.img 287 276
def tTile (t : Tile) : Nat := fld t.img 275 260
def tKind (t : Tile) : Nat := fld t.img 253 252
def tOper (t : Tile) : Nat := fld t.img 251 249
def tEtype (t : Tile) : Nat := fld t.img 248 245
def tB8 (t : Tile) : Nat := fld t.img 244 240
def tChunks (t : Tile) : Nat := fld t.img 239 232 + 1

/-- An entry. -/
def tileOf (d : Node) (e : Nat) : Tile := smGet d.tiles {} e
/-- Changes it. -/
def modTile (s : State) (n e : Nat) (f : Tile → Tile) : State :=
  modNd s n fun d => { d with tiles := smPut d.tiles e (f (tileOf d e)) }
/-- Whether an entry is SET, READY or RUNNING. -/
def tileLive (t : Tile) : Bool := decide (1 ≤ t.state) && decide (t.state ≤ 3)
/-- The status word (R350). -/
def tileStatus (t : Tile) : Word := BitVec.ofNat 64 (t.cdone * 2 ^ 48 + t.fcode * 2 ^ 32 + t.state)

/-- The communicator of an entry. -/
def tileComm (d : Node) (t : Tile) : Comm := (commOf d (tComm t)).getD ⟨0, 1, 1, [(0, 0)], [0], 0⟩
/-- The group of an entry's rank. -/
def tileGroup (d : Node) (t : Tile) : Nat := groupOf (tileComm d t) (tRank t)
/-- Whether an entry is its group's leader (R342). -/
def isLeader (d : Node) (t : Tile) : Bool := nth (tileComm d t).first (tileGroup d t) 0 == tRank t
/-- The events of an entry: those of its group for a leader, none otherwise (R347). -/
def tileEvents (d : Node) (t : Tile) : List CEvent := if isLeader d t then eventList (tileGroup d t) (tileComm d t).ng else []
/-- The positions of the RECV events. -/
def recvEvents (l : List CEvent) : List Nat := (upFrom 0 l.length).filter fun j => (l.getD j ⟨false, 0⟩).recv
/-- The position of the SEND event. -/
def sendEvent (l : List CEvent) : Option Nat := (upFrom 0 l.length).find? fun j => !(l.getD j ⟨true, 0⟩).recv

/-- Whether two entries serve one collective. -/
def sameColl (a b : Tile) : Bool := a.ident == b.ident && tTile a == tTile b
/-- The live entries of an entry's group on this node, by rank: with a RUNNING entry those that its collective made RUNNING, and
not one that has been set anew since (R351). -/
def groupTiles (d : Node) (t : Tile) : List (Nat × Tile) :=
  sortBy (fun x => tRank x.2) (d.tiles.filter fun x =>
    tileLive x.2 && (x.2.state == 3) == (t.state == 3) && sameColl x.2 t && tileGroup d x.2 == tileGroup d t)

/-! The queue of R359. -/

/-- An entry's place in a collective queue is complete. -/
def collComplete (s : State) (n e : Nat) : State :=
  let mark (q : CollQ) : CollQ := if q.joinId.isNone && q.entry == e then { q with done := true, waiting := false } else q
  let fix (k : Core) : Core := collTrim { k with collq := k.collq.map mark }
  modNd s n fun d => { d with cores := d.cores.map fun x => (x.1, fix x.2), areas := d.areas.map fun a => (a.1, fix a.2.1, a.2.2) }

/-! Failure (R357). -/

/-- Whether a grant is for the collective that an entry serves. -/
def grantIs (t : Tile) (g : Word × Nat × Nat) : Bool := g.1 == t.ident && g.2.1 == tTile t
/-- The slots of an entry's chunks are free again. -/
def freeRuns (s : State) (n e : Nat) : State :=
  let held := (tileOf (nd s n) e).runs.foldl (fun a r => a + r.slots) 0
  modTile (modNd s n fun d => { d with staging := d.staging - held }) n e fun t =>
    { t with runs := [], early := [], grants := t.grants.filter fun g => !grantIs t g }

/-- An entry stops in a state. -/
def stopTile (s : State) (n e state code : Nat) : State :=
  collComplete (modTile (freeRuns s n e) n e fun t => { t with state := state, fcode := code }) n e

/-- Sends an abort to every PEER that an entry names. -/
def abortPeers (s : State) (n e : Nat) : State :=
  let t := tileOf (nd s n) e
  let l := tileEvents (nd s n) t
  (upFrom 0 l.length).foldl (fun s j =>
    if tPeer t j = 0xFFF then s else
    let m := groupNode (tileComm (nd s n) t) (l.getD j ⟨true, 0⟩).g
    travel s n m 32 (.collectiveAbort m (tPeer t j))) s

/-- An entry becomes FAILED or ABORTED; its group's other entries become ABORTED, and peers are told (R357). -/
def stopColl (s : State) (n e state code : Nat) : State :=
  let t := tileOf (nd s n) e
  if !tileLive t then s else
  let others := (groupTiles (nd s n) t).filter fun x => x.1 != e
  let s := abortPeers (stopTile s n e state code) n e
  others.foldl (fun s x => abortPeers (stopTile s n x.1 6 0) n x.1) s

/-- FAILED with a code. -/
def failColl (s : State) (n e code : Nat) : State := stopColl s n e 5 code
/-- ABORTED. -/
def abortColl (s : State) (n e : Nat) : State := stopColl s n e 6 0

/-- The entries of a cancelled pair become ABORTED (R358). -/
def cancelColl (s : State) (n tenant : Nat) (gin : BitVec 32) : State :=
  ((nd s n).tiles.filter fun x => x.2.tenant == tenant && x.2.gin == gin).foldl (fun s x => abortColl s n x.1) s

/-- The partners' nodes of an entry. -/
def partners (d : Node) (t : Tile) : List Nat := (tileEvents d t).map fun e => groupNode (tileComm d t) e.g
/-- The entries with a partner on a node declared lost fail (R357). -/
def loseColl (s : State) (n m : Nat) : State :=
  ((nd s n).tiles.filter fun x => decide (2 ≤ x.2.state) && decide (x.2.state ≤ 3) && (partners (nd s n) x.2).contains m).foldl
    (fun s x => failColl s n x.1 codePeerGone) s

/-! Starting (R351). -/

/-- Whether a READY entry's collective starts on the node. -/
def collStartDue (d : Node) (n e : Nat) : Bool :=
  let t := tileOf d e
  let c := tileComm d t
  let live := d.tiles.filter fun x => tileLive x.2 && sameColl x.2 t
  t.state == 2 && live.all (fun x => x.2.state == 2)
  && (upFrom 0 c.nr).all fun r => (nth c.ranks r (0, 0)).1 != n || live.any fun x => tRank x.2 == r

/-- COLLECTIVE_START (R351). -/
def execCollectiveStart (n e : Nat) (s : State) : Host.Outcome State Fault Refusal :=
  let d := nd s n
  if !collStartDue d n e then .next s else
  let t := tileOf d e
  let l := d.tiles.filter fun x => tileLive x.2 && sameColl x.2 t
  let s := l.foldl (fun s x => modTile s n x.1 fun y => { y with state := 3, nextK := 0, cdone := 0, heard := [] }) s
  .next (l.foldl (fun s x => if (partners (nd s n) x.2).any (isLost s n) then failColl s n x.1 codePeerGone else s) s)

/-! Chunks (R354). -/

/-- The chunk in flight of an entry. -/
def runOf (t : Tile) (k : Nat) : Option ChunkRun := t.runs.find? fun r => r.k == k
/-- Changes it. -/
def modRun (s : State) (n e k : Nat) (f : ChunkRun → ChunkRun) : State :=
  modTile s n e fun t => { t with runs := t.runs.map fun r => if r.k == k then f r else r }
/-- A chunk begins to wait for the partner of an event (R357). -/
def awaits (s : State) (j : Option Nat) (r : ChunkRun) : ChunkRun :=
  match j with
  | some j => { r with since := smPut r.since j s.now }
  | none => r
/-- The partner of an event has sent a grant or a chunk (R357). -/
def hearFrom (s : State) (n e : Nat) (j : Option Nat) : State :=
  match j with
  | some j => let now := s.now; modTile s n e fun t => { t with heard := smPut t.heard j now }
  | none => s

/-- Whether the node owns a sweep of the chunk: of a BCAST only group 0's leader (R347). -/
def sweeps (d : Node) (t : Tile) : Bool := tKind t != 2 || tileGroup d t == 0
/-- The RECV events whose partials a sweep needs. -/
def needed (d : Node) (t : Tile) : List Nat := if tKind t = 2 then [] else recvEvents (tileEvents d t)

/-- Once every operand is present the sweep begins; it takes 32 × k cc, or 32 (R354). -/
def beginSweep (s : State) (n e k : Nat) : State :=
  let t := tileOf (nd s n) e
  match runOf t k with
  | none => s
  | some r =>
    let need := needed (nd s n) t
    if r.due.isSome || r.own.isEmpty || !(need.all fun j => r.recv.any fun x => x.1 == j) then s
    else
      let d := 32 * max 1 (r.own.length - 1 + need.length)
      let at_ := s.now + d
      schedule (modRun s n e k fun r => { r with due := some at_ }) d (.chunkSweep n e k)

/-- The expression that the sweep forms (R346, R354): the fold of the ranks, then each operand in L's order. -/
def sweepVal (d : Node) (t : Tile) (r : ChunkRun) : BitVec 32768 × BitVec 32 :=
  let op := chunkOp (tEtype t) (tOper t) (tB8 t)
  let x := match r.own with
    | [] => (0, 0)
    | c :: l => l.foldl op c
  (needed d t).foldl (fun x j => op x (smGet r.recv (0, 0) j)) x

/-- A chunk that owes nothing more leaves, and its slot is free (R354, R356). -/
def endRun (s : State) (n e k : Nat) : State :=
  let t := tileOf (nd s n) e
  match runOf t k with
  | none => s
  | some r =>
    let over_ := r.out.isEmpty && r.acks.isEmpty
      && (r.final || (tKind t == 1 && r.sentUp))
    if !over_ then s else
    modTile (modNd s n fun d => { d with staging := d.staging - r.slots }) n e fun t => { t with runs := t.runs.filter fun x => x.k != k }

/-- The payload of a chunk's packet: its header and its present blocks (R352). -/
def chunkBytes (pres : BitVec 32) : Nat := 16 + 128 * popCount pres.toNat 32
/-- Whether the chunk of an entry may be sent now: its bucket, its send queue, or else the congestion window (R314, R329,
R358); until then it waits in its slot. -/
def sendOpen (s : State) (n : Nat) (t : Tile) (dst : Nat) (pres : BitVec 32) : Bool :=
  (bucketOf (nd s n) t.cls).msg != some 0 && shutterRoom s n t.tenant dst
  && (shutterTakes s n t.tenant dst || paceOpen (nd s n) n dst (32 + chunkBytes pres) (dst != n))

/-- Sends what a chunk owes, as far as it may (R352, R358); a REDUCE partial sent up counts in CDONE (R350). -/
def pushRun (s : State) (n e k : Nat) : State :=
  match runOf (tileOf (nd s n) e) k with
  | none => s
  | some r =>
    let s := r.out.foldl (fun s j =>
      let d := nd s n
      let t := tileOf d e
      let c := tileComm d t
      let ev := (tileEvents d t).getD j ⟨true, 0⟩
      let m := groupNode c ev.g
      if !sendOpen s n t m r.pres then s else
      let q := (smGet d.chunkSeq 0 m + 1) % 2 ^ 32
      let bytes := chunkBytes r.pres
      let x : Chunk := ⟨n, m, tPeer t j, e, ev.recv, (t.ident.setWidth 28), tTile t, k, nth c.first (tileGroup d t) 0, r.pres,
        BitVec.ofNat 32 q, r.val⟩
      let s := modNd s n fun d => charge { d with chunkSeq := smPut d.chunkSeq m q } t.cls fun b => { b with msg := drain b.msg bytes }
      let s := modRun s n e k fun r =>
        awaits s (if ev.recv then none else some j)
          { r with out := r.out.filter fun y => y != j, acks := r.acks ++ [j], sentUp := r.sentUp || !ev.recv }
      let s := if tKind t = 1 ∧ !ev.recv then
          (groupTiles (nd s n) t).foldl (fun s y => modTile s n y.1 fun y => { y with cdone := y.cdone + 1 }) s
        else s
      launch s n t.tenant m bytes (.chunkArrival m x)) s
    endRun s n e k

/-- For whom an entry's accesses are made: the core of the task that executed CTREADY while it is there, its root, ASID and
class; ZP poison counts to the core that issued the CTREADY (R355, R358). -/
def tileAgent (s : State) (n : Nat) (t : Tile) (begun : Bool) : Agent :=
  ⟨n, ownerCore s n t.core t.tenant t.owner, t.root, t.asid, t.cls, n, t.core, begun⟩

/-- Writes a chunk's result to an entry's RADDR (R356): XLATE or PERM where a page refuses it. A chunk lies on two pages at
most. -/
def writeResult (s : State) (n e k : Nat) (v : BitVec 32768) : Option Nat × State :=
  let t := tileOf (nd s n) e
  let a := tileAgent s n t true
  let va := tRaddr t + BitVec.ofNat 64 (4096 * k)
  if bitsOf va.toNat 63 60 ≠ 0 then (some codeXlate, s) else
  let onHost (va : Word) (s : State) : Bool := match engChk a va 128 .w s with
    | .ok (.mem sp ..) _ => sp == .host
    | _ => false
  if onHost va s || onHost (va + 3968) s then (some codePerm, s) else
  let r := engStore a va [] 40 0 (valBytes 4096 v.toNat) s
  (r.1.map fun f => f.1, r.2)

/-- A chunk's final result (R347, R356): written to the RADDR of every rank of the group that takes one, counted, and sent on
to the groups of the RECV events. -/
def takeFinal (s : State) (n e k : Nat) (v : BitVec 32768 × BitVec 32) : State :=
  let t := tileOf (nd s n) e
  let group := groupTiles (nd s n) t
  let r := group.foldl (fun (a : Option (Nat × Nat) × State) y =>
    match a.1 with
    | some _ => a
    | none =>
      if tKind t = 1 ∧ tRank y.2 ≠ 0 then a else
      let w := writeResult a.2 n y.1 k v.1
      (w.1.map fun code => (y.1, code), w.2)) (none, s)
  match r with
  | (some f, s) => failColl s n f.1 f.2
  | (none, s) =>
    let s := group.foldl (fun s y => modTile s n y.1 fun y => { y with cdone := y.cdone + 1 }) s
    let down := if tKind t = 1 then [] else recvEvents (tileEvents (nd s n) t)
    pushRun (modRun s n e k fun r => { r with val := v.1, pres := v.2, final := true, out := down }) n e k

/-- A chunk that arrives at its reserved slot: a partial of a RECV event, or the final result (R347, R354). -/
def takeChunk (s : State) (n e j : Nat) (x : Chunk) : State :=
  let t := tileOf (nd s n) e
  if ((tileEvents (nd s n) t).getD j ⟨true, 0⟩).recv then
    beginSweep (modRun s n e x.chunk fun r => { r with recv := smPut r.recv j (x.data, x.pres) }) n e x.chunk
  else takeFinal s n e x.chunk (x.data, x.pres)

/-- The sender learns that its chunk was accepted (R356). -/
def ackChunk (s : State) (x : Chunk) : State :=
  let d := nd s x.src
  let t := tileOf d x.sentry
  let mine (j : Nat) : Bool := tPeer t j == x.entry && groupNode (tileComm d t) ((tileEvents d t).getD j ⟨true, 0⟩).g == x.dst
  endRun (modRun s x.src x.sentry x.chunk fun r => { r with acks := r.acks.filter fun j => !mine j }) x.src x.sentry x.chunk

/-- The event of an entry that a chunk serves, if the entry expects it (R352). -/
def chunkEvent (d : Node) (t : Tile) (x : Chunk) : Option Nat :=
  let l := tileEvents d t
  let c := tileComm d t
  if t.ident.setWidth 28 != x.cid || tTile t != x.tile || decide (tChunks t ≤ x.chunk) then none
  else (upFrom 0 l.length).find? fun j =>
    let ev := l.getD j ⟨true, 0⟩
    nth c.first ev.g 0 == x.srank && ev.recv == !x.down && !(tKind t == 2 && ev.recv) && !(tKind t == 1 && !ev.recv)

/-- CHUNK_ARRIVAL (R352, R354): placed in its slot, kept until its slot is reserved, refused, or dropped. -/
def execChunkArrival (n : Nat) (x : Chunk) (s : State) : Host.Outcome State Fault Refusal :=
  let t := tileOf (nd s n) x.entry
  match (if t.state = 0 ∨ t.state = 4 then none else chunkEvent (nd s n) t x) with
  | none => .next (failColl s x.src x.sentry codePerm)
  | some j =>
    if 5 ≤ t.state then .next s else
    let s := hearFrom s n x.entry (some j)
    if (runOf t x.chunk).isNone then .next (modTile s n x.entry fun t => { t with early := t.early ++ [x] })
    else .next (takeChunk (ackChunk s x) n x.entry j x)

/-- The slots that a chunk of an entry reserves (R354). -/
def slotNeed (d : Node) (t : Tile) : Nat := (groupTiles d t).length + (recvEvents (tileEvents d t)).length

/-- Whether a RUNNING leader may reserve its next chunk: at most 8 in flight, and all its slots free (R351, R354). -/
def reserveRoom (d : Node) (e : Nat) : Bool :=
  let t := tileOf d e
  t.state == 3 && isLeader d t && decide (t.nextK < tChunks t) && decide (t.runs.length < 8)
  && decide (d.staging + slotNeed d t ≤ 4096)
/-- The first chunk whose slots are reserved and whose ranks' chunks are still to be read. -/
def unreadRun (d : Node) (t : Tile) : Option Nat :=
  if t.state = 3 ∧ sweeps d t then (t.runs.find? fun r => r.own.isEmpty && !r.swept).map fun r => r.k else none
/-- Whether a leader has a chunk to reserve, or to read (R354). -/
def reserveDue (d : Node) (e : Nat) : Bool := reserveRoom d e || (unreadRun d (tileOf d e)).isSome

/-- A rank's chunk as it is read (R355): its contribution, a wait for the HBM bucket or for a trapped member's scratchpad
(R33, R390), or the code of its failure. -/
inductive Contrib where
  | got (v : BitVec 32768 × BitVec 32)
  | wait
  | fail (code : Nat)

/-- Reads a rank's chunk (R355). -/
def readContribution (s : State) (n e k : Nat) : Contrib × State :=
  let t := tileOf (nd s n) e
  let va := tLsrc t + BitVec.ofNat 64 (4096 * k)
  if bitsOf va.toNat 63 60 ≠ 0 then (.fail codeXlate, s) else
  match engLoad (tileAgent s n t false) va 40 0 4096 [] [] s with
  | (.wait, s) => (.wait, s)
  | (.fault code _, s) => (.fail code, s)
  | (.bytes bs ps, s) =>
    if !ps.isEmpty then (.fail codePoison, s)
    else (.got (contribution (tKind t) (tEtype t) (tOper t) (tB8 t) (BitVec.ofNat 32768 (bytesVal bs))), s)

/-- The contributions of entries, in order, up to the first failure; none while one of them waits. -/
def readRanks (n k : Nat) : List Nat → State → List (BitVec 32768 × BitVec 32) →
    Option (Sum (Nat × Nat) (List (BitVec 32768 × BitVec 32))) × State
  | [], s, acc => (some (.inr acc), s)
  | e :: rest, s, acc =>
    match readContribution s n e k with
    | (.wait, s) => (none, s)
    | (.fail code, s) => (some (.inl (e, code)), s)
    | (.got v, s) => readRanks n k rest s (acc ++ [v])

/-- The ranks of a chunk are read into their slots (R354, R355), unless one has to wait, which leaves all to be read. -/
def readRun (s : State) (n e k : Nat) : State :=
  let d := nd s n
  let t := tileOf d e
  let g := (groupTiles d t).map fun x => x.1
  match readRanks n k (if tKind t = 2 then g.take 1 else g) s [] with
  | (none, _) => s
  | (some (.inl f), s) => failColl s n f.1 f.2
  | (some (.inr own), s) => beginSweep (modRun s n e k fun r => { r with own := own }) n e k

/-- The watch over an entry's partners, one at a time (R357). -/
def armPeergone (s : State) (n e d : Nat) : State :=
  let waits (x : Nat × Instr) : Bool := match x.2 with | .collectivePeergone m f => m == n && f == e | _ => false
  if s.timers.any waits then s else schedule s d (.collectivePeergone n e)

/-- The slots of an entry's next chunk are taken at once, its RECV partners granted, and what has come early is taken. -/
def reserveRun (s : State) (n e : Nat) : State :=
  let d := nd s n
  let t := tileOf d e
  let k := t.nextK
  let need := slotNeed d t
  let run : ChunkRun := ⟨k, [], [], need, none, 0, 0, false, t.grants.contains (t.ident, tTile t, k), false, false, [], [],
    (upFrom 0 (tileEvents d t).length).map fun j => (j, s.now)⟩
  let s := modTile (modNd s n fun d => { d with staging := d.staging + need }) n e fun t =>
    { t with runs := t.runs ++ [run], nextK := k + 1, grants := t.grants.filter fun g => g != (t.ident, tTile t, k) }
  let l := tileEvents d t
  let s := (needed d t).foldl (fun s j =>
    let m := groupNode (tileComm d t) (l.getD j ⟨true, 0⟩).g
    travel s n m 32 (.chunkGrant m (tPeer t j) t.ident (tTile t) k)) s
  armPeergone s n e peerTime

/-- The chunks of an entry that came before their slot was reserved are taken. -/
def takeEarlyChunks (s : State) (n e k : Nat) : State :=
  let early := (tileOf (nd s n) e).early.filter fun x => x.chunk == k
  let s := modTile s n e fun t => { t with early := t.early.filter fun x => x.chunk != k }
  early.foldl (fun s x => match chunkEvent (nd s n) (tileOf (nd s n) e) x with
    | some j => takeChunk (ackChunk s x) n e j x
    | none => s) s

/-- CHUNK_RESERVE (R354): the slots of the next chunk are taken at once, its RECV partners granted, its ranks' chunks read; a
chunk whose reads had to wait is read first. -/
def execChunkReserve (n e : Nat) (s : State) : Host.Outcome State Fault Refusal :=
  if !reserveDue (nd s n) e then .next s else
  let t := tileOf (nd s n) e
  match unreadRun (nd s n) t with
  | some k => .next (readRun s n e k)
  | none =>
    let s := reserveRun s n e
    let s := if sweeps (nd s n) t then readRun s n e t.nextK else s
    .next (if (tileOf (nd s n) e).state = 3 then takeEarlyChunks s n e t.nextK else s)

/-- A partial whose grant has come is sent up (R354). -/
def sendUp (s : State) (n e k : Nat) : State :=
  let t := tileOf (nd s n) e
  match runOf t k, sendEvent (tileEvents (nd s n) t) with
  | some r, some j =>
    if r.swept && r.granted && !r.sentUp && !r.final && r.out.isEmpty then pushRun (modRun s n e k fun r => { r with out := [j] }) n e k
    else s
  | _, _ => s

/-- Whether a chunk's sweep is done, or something it owes may be sent (R354, R358). -/
def sweepDue (s : State) (n e k : Nat) : Bool :=
  let t := tileOf (nd s n) e
  match runOf t k with
  | none => false
  | some r =>
    (!r.swept && (match r.due with | some x => decide (x ≤ s.now) | none => false))
    || r.out.any fun j => sendOpen s n t (groupNode (tileComm (nd s n) t) ((tileEvents (nd s n) t).getD j ⟨true, 0⟩).g) r.pres

/-- CHUNK_SWEEP (R354): the sweep is done, the other slots are freed, and the result goes on; what waited for its budget is
sent. -/
def execChunkSweep (n e k : Nat) (s : State) : Host.Outcome State Fault Refusal :=
  if !sweepDue s n e k then .next s else
  let t := tileOf (nd s n) e
  match runOf t k with
  | none => .next s
  | some r =>
    if r.swept then .next (pushRun s n e k)
    else
      let v := sweepVal (nd s n) t r
      let s := modNd s n fun d => { d with staging := d.staging - (r.slots - 1) }
      let up := sendEvent (tileEvents (nd s n) t)
      let s := modRun s n e k fun r => awaits s up { r with swept := true, slots := 1, val := v.1, pres := v.2, own := [], recv := [] }
      .next (if up.isNone then takeFinal s n e k v else sendUp s n e k)

/-- CHUNK_GRANT (R354): the chunk in its slot is sent; a grant that comes before is held, whatever the entry's state then. -/
def execChunkGrant (n e : Nat) (ident : Word) (tile k : Nat) (s : State) : Host.Outcome State Fault Refusal :=
  let t := tileOf (nd s n) e
  let g := (ident, tile, k)
  let hold (s : State) : State := modTile s n e fun t => { t with grants := t.grants ++ [g] }
  if t.state = 3 && grantIs t g then
    let s := hearFrom s n e (sendEvent (tileEvents (nd s n) t))
    match runOf t k with
    | some _ => .next (sendUp (modRun s n e k fun r => { r with granted := true }) n e k)
    | none => .next (hold s)
  else .next (hold s)

/-- Whether a RUNNING entry has done all it owes (R356). -/
def collDoneDue (d : Node) (e : Nat) : Bool :=
  let t := tileOf d e
  t.state == 3 && t.cdone == tChunks t
  && (!isLeader d t || (t.runs.isEmpty && t.nextK == tChunks t && (groupTiles d t).all fun x => x.2.cdone == tChunks t))

/-- COLL_ENTRY_DONE (R356). -/
def execCollEntryDone (n e : Nat) (s : State) : Host.Outcome State Fault Refusal :=
  .next (if collDoneDue (nd s n) e then stopTile s n e 4 0 else s)

/-- COLLECTIVE_ABORT (R357). -/
def execCollectiveAbort (n e : Nat) (s : State) : Host.Outcome State Fault Refusal := .next (abortColl s n e)

/-- The events for whose partner a chunk waits: for a partial, a grant, or the final result. -/
def waitsOn (d : Node) (t : Tile) (r : ChunkRun) : List Nat :=
  ((needed d t).filter fun j => !r.swept && !(r.recv.any fun x => x.1 == j))
  ++ match sendEvent (tileEvents d t) with
     | some j => if (tKind t != 2 && r.swept && !r.granted) || ((tKind t == 2 || r.sentUp) && tKind t != 1 && !r.final) then [j] else []
     | none => []
/-- Until when each partner that an entry waits for may stay silent: 10 frames from the wait's start, or from what it sent last
(R357). -/
def waitEnds (d : Node) (t : Tile) : List Nat :=
  t.runs.flatMap fun r => (waitsOn d t r).map fun j => max (smGet r.since 0 j) (smGet t.heard 0 j) + peerTime

/-- COLLECTIVE_PEERGONE (R357): a partner that has sent neither grant nor chunk for 10 frames, or is declared lost; while a
chunk is under way the watch goes on. -/
def execCollectivePeergone (n e : Nat) (s : State) : Host.Outcome State Fault Refusal :=
  let d := nd s n
  let t := tileOf d e
  if t.state ≠ 3 then .next s
  else if (partners d t).any (isLost s n) || (waitEnds d t).any fun x => decide (x ≤ s.now) then .next (failColl s n e codePeerGone)
  else match waitEnds d t with
  | [] => .next (if t.runs.isEmpty then s else armPeergone s n e peerTime)
  | x :: l => .next (armPeergone s n e (l.foldl min x - s.now))

/-! The instructions. -/

/-- The entry operand (R360): ILLEGAL beyond 4,095, PERM for another tenant's entry that is not IDLE. -/
def tileOperand (s : State) (v : Word) : Sum Nat Nat :=
  if 4096 ≤ v.toNat then .inl codeIllegal
  else
    let t := tileOf (cn s) v.toNat
    if t.state ≠ 0 ∧ t.tenant ≠ tenantOf (cc s) then .inl codePerm else .inr v.toNat

/-- Whether an image is legal for CTSET (R362). -/
def tileLegal (s : State) (x : BitVec 512) : Bool :=
  let t : Tile := { img := x }
  fld x 231 0 == 0 && opLegal (tKind t) (tEtype t) (tOper t) (tB8 t) && decide (tKind t ≠ 3)
  && (match commOf (cn s) (tComm t) with
      | some c => c.owner == tenantOf (cc s) && decide (tRank t < c.nr)
      | none => false)
  && (tKind t != 1 || tRank t == 0 || tRaddr t == 0) && (tKind t != 2 || tRank t == 0 || tLsrc t == 0)

/-- CTSET (R362). Until its CTREADY the entry carries the GIN of the task that set it (R358; log 23). -/
def execCtset (f : FE) (s : State) : Host.Outcome State Fault Refusal :=
  runOp
  { len := 2, tk := f.tk, seqs := [.ctrl], handler := false, flags := feFlags f, srcs := [f.a, f.b],
    pre := fun s => match tileOperand s (reg s f.a) with
      | .inl code => .fault (causeHere s code) s
      | .inr e =>
        match readWhole (reg s f.b) 64 s with
        | .fault k s => .fault k s
        | .hold s => .hold s
        | .go v s' =>
          let x : BitVec 512 := BitVec.ofNat 512 v
          let t : Tile := { img := x }
          let st := (tileOf (cn s) e).state
          let keep : State := keepTlb s s' s.cur.node s.cur.core
          if st = 2 ∨ st = 3 ∨ !tileLegal s x then .fault (causeHere s codeIllegal) keep
          else if (tLsrc t).toNat % 128 ≠ 0 then .fault (causeAt s codeAlign (tLsrc t)) keep
          else if (tRaddr t).toNat % 128 ≠ 0 then .fault (causeAt s codeAlign (tRaddr t)) keep
          else .go (e, x) s',
    eff := fun p s =>
      let n := s.cur.node
      let tenant := tenantOf (cc s)
      let ident := match commOf (cn s) (fld p.2 259 254) with | some c => c.ident | none => 0
      let s := collComplete s n p.1
      let t : Tile :=
        { img := p.2, tenant := tenant, ident := ident, state := 1, gin := ginOf (cc s), grants := (tileOf (nd s n) p.1).grants }
      signal (modNd s n fun d => { d with tiles := smPut d.tiles p.1 t }) f.sig } s

/-- The checks of CTREADY against the communicator (R363). -/
def readyLegal (s : State) (e : Nat) : Bool :=
  let d := cn s
  let t := tileOf d e
  let l := tileEvents d t
  t.state == 1
  && (match commOf d (tComm t) with
      | none => false
      | some c => c.ident == t.ident && (nth c.ranks (tRank t) (0, 0)).1 == s.cur.node)
  && (upFrom 0 8).all (fun j => (tPeer t j != 0xFFF) == decide (j < l.length))
  && !(d.tiles.any fun x => x.1 != e && (x.2.state == 2 || x.2.state == 3) && sameColl x.2 t && tRank x.2 == tRank t)

/-- Entries of a core's queue that no join stands before, nor did when its context was saved, become READY (R359). -/
def collWake (s : State) (n c : Nat) : State :=
  let k := co s n c
  let ready := (k.collq.takeWhile fun q => q.joinId.isNone).filter fun q => q.waiting && q.behind.isEmpty
  let fix (q : CollQ) : CollQ := if ready.contains q then { q with waiting := false } else q
  if ready.isEmpty then s else
  ready.foldl (fun s q => modTile s n q.entry fun t => if t.state = 1 then { t with state := 2 } else t)
    (modCo s n c fun k => { k with collq := k.collq.map fix })

/-- What may become READY on any core of a node does: a join that leaves may stand ahead of entries that stayed on another. -/
def collWakeAll (s : State) (n : Nat) : State := (nd s n).cores.foldl (fun s x => collWake s n x.1) s

/-- CTREADY (R355, R359, R363). -/
def execCtready (f : FE) (s : State) : Host.Outcome State Fault Refusal :=
  runOp { len := 2, tk := f.tk, seqs := [.ctrl], handler := false, flags := feFlags f, srcs := [f.a],
          pre := fun s => match tileOperand s (reg s f.a) with
            | .inl code => .fault (causeHere s code) s
            | .inr e => if readyLegal s e then .go e s else .fault (causeHere s codeIllegal) s,
          room := fun s => collRoom (cc s) && blksDone s s.cur.node s.cur.core s.cur.seq && acked s s.cur.node s.cur.core s.cur.seq 3,
          eff := fun e s =>
            let n := s.cur.node
            let c := s.cur.core
            let s := drainDet (releaseL1 s n c 3 true) n c
            let k := cc s
            let put (t : Tile) : Tile := { t with core := c, owner := taskId k, gin := ginOf k, cls := classOf k,
                                                  asid := fld k.asid 5 0, root := k.ptRoot }
            let s := modTile s n e put
            let s := modCc s fun k => { k with collq := k.collq ++ [⟨e, none, false, true, false, []⟩] }
            signal (collWake s n c) f.sig } s

/-- CTWAIT (R356, R364): DONE is an acquire at DIE scope. It retires as it issues, and S[D] follows 2 cc later (R360). -/
def execCtwait (f : FE) (s : State) : Host.Outcome State Fault Refusal :=
  runOp { len := 2, tk := f.tk, seqs := [.ctrl], handler := false, flags := feFlags f, srcs := [f.a], flying := 1,
          pre := fun s => match tileOperand s (reg s f.a) with
            | .inl code => .fault (causeHere s code) s
            | .inr e =>
              let t := tileOf (cn s) e
              if t.state = 2 ∨ t.state = 3 then .hold s else .go t s,
          eff := fun t s =>
            let s := if t.state = 4 then acquireL1 s s.cur.node s.cur.core 3 true else s
            flyReg (signal s f.sig) f.d (tileStatus t) 2 none 0 } s

/-- CTDROP (R364). -/
def execCtdrop (f : FE) (s : State) : Host.Outcome State Fault Refusal :=
  runOp { len := 2, tk := f.tk, seqs := [.ctrl], handler := false, flags := feFlags f, srcs := [f.a], flying := 1,
          pre := fun s => match tileOperand s (reg s f.a) with
            | .inl code => .fault (causeHere s code) s
            | .inr e => .go e s,
          eff := fun e s =>
            let n := s.cur.node
            let t := tileOf (cn s) e
            let s := if t.state = 1 then stopTile s n e 0 0 else if t.state = 2 ∨ t.state = 3 then abortColl s n e else s
            flyReg (signal s f.sig) f.d (BitVec.ofNat 64 t.state) 2 none 0 } s

end Sys2Proof.Machine
end

