-- ==== Sys2Proof/Machine/Area.lean ====
section
/-! DEFINITION. The bytes of a saved context (R418): what is written at each offset of its area, and the context that the bytes
there give back. The order of the fields within a region is a DESIGN CHOICE (log 10): R418 lists them and gives no places. -/

namespace Sys2Proof.Machine

/-! Bytes in bulk. -/

/-- The nonzero bytes of a list as a memory from address `a` on. -/
def bytesMem (a : Nat) : List Byte → Memory
  | [] => []
  | b :: r => if b = 0 then bytesMem (a + 1) r else (a, b) :: bytesMem (a + 1) r

/-- Replaces `n` bytes from address `a` by an image whose addresses lie below `n`. -/
def memBlit (m : Memory) (a n : Nat) (img : Memory) : Memory :=
  (m.filter fun e => decide (e.1 < a)) ++ img.map (fun e => (a + e.1, e.2)) ++ (m.filter fun e => decide (a + n ≤ e.1))

/-- `n` bytes from address `a` as a memory from 0 on. -/
def memSlice (m : Memory) (a n : Nat) : Memory :=
  (m.filter fun e => decide (a ≤ e.1) && decide (e.1 < a + n)).map fun e => (e.1 - a, e.2)

/-- The values of `k` bytes each in a memory, by number. -/
def wordsOf (k : Nat) (m : Memory) : SMap Nat :=
  m.foldl (fun acc e => smSet acc 0 (e.1 / k) (smGet acc 0 (e.1 / k) + e.2.toNat * 256 ^ (e.1 % k))) []
/-- The number that `k` bytes from address `a` of an image hold. -/
def valAt (m : Memory) (a k : Nat) : Nat := (memSlice m a k).foldl (fun v e => v + e.2.toNat * 256 ^ e.1) 0
/-- The accumulator rows of an image (R418). -/
def rowsOf (m : Memory) : SMap Row :=
  m.foldl (fun (acc : SMap Row) e =>
    let v : Row := e.2.setWidth 4096
    smSet acc 0 (e.1 / 512) (smGet acc 0 (e.1 / 512) ||| (v <<< (8 * (e.1 % 512))))) []

/-- Words of a map in ascending order of their numbers below `n`, from an offset on. -/
def putWords (a n : Nat) (m : SMap Word) : Memory :=
  (m.filter fun e => decide (e.1 < n)).flatMap fun e => bytesMem (a + 8 * e.1) (valBytes 8 e.2.toNat)
/-- The words of an image below `n`. -/
def getWords (m : Memory) (a n : Nat) : SMap Word := (wordsOf 8 (memSlice m a (8 * n))).map fun e => (e.1, BitVec.ofNat 64 e.2)

/-! Sequencers: 512 bytes each from 0x200, their constant banks from 0x1800. -/

/-- A sequencer as its region holds it: s0 to s31, the return stack, its depth, PC, CBB, the quiet-span count, the GSCLO latch. -/
def seqImage (a : Nat) (x : Sequencer) : Memory :=
  putWords a 32 x.regs
  ++ bytesMem (a + 256) ((x.rstack.take 16).flatMap fun v => valBytes 4 v.toNat)
  ++ bytesMem (a + 320) (valBytes 4 x.rstack.length ++ valBytes 4 (x.pc.toNat + 2 ^ 28 * b2n x.past + 2 ^ 29 * b2n x.quiet)
    ++ valBytes 8 x.cbb.toNat ++ valBytes 4 x.span
    ++ (match x.gscHi with | some v => valBytes 4 v.toNat ++ valBytes 4 1 | none => valBytes 8 0))

/-- The sequencer that the bytes of its region, of its bank and of the cut record's word give. -/
def seqBack (m : Memory) (i : Nat) (x : Sequencer) : Sequencer :=
  let a := 0x200 + 512 * i
  let pc := valAt m (a + 324) 4
  let w := valAt m (0x110 + 8 * i) 8
  { x with regs := getWords m a 32, rstack := (upFrom 0 (min 16 (valAt m (a + 320) 4))).map fun k => BitVec.ofNat 28 (valAt m (a + 256 + 4 * k) 4),
           pc := BitVec.ofNat 28 pc, past := pc.testBit 28, quiet := pc.testBit 29, cbb := BitVec.ofNat 64 (valAt m (a + 328) 8),
           span := valAt m (a + 336) 4, gscHi := if valAt m (a + 344) 4 = 0 then none else some (BitVec.ofNat 32 (valAt m (a + 340) 4)),
           bank := getWords m (0x1800 + 2048 * i) 256, issued := BitVec.ofNat 32 (w / 2 ^ 32),
           status := match w / 2 ^ 28 % 4 with | 0 => .idle | 1 => .running | 2 => .blocked | _ => .stopped }

/-! FIFOs and registers: 64 bytes from 0xA00, and m1 to m7. -/

/-- The keys of the twelve token FIFOs in order. -/
def fifoKeys : List Nat := (upFrom 0 16).filter fun k => k / 4 != k % 4

/-- FIFOs (N and V), EVT, VTYPE, VWB, CSTAT, MPROG and the masks. -/
def regImage (k : Core) : Memory :=
  bytesMem 0xA00 (fifoKeys.flatMap (fun i => let x := smGet k.fifos {} i; valBytes 1 x.n ++ valBytes 1 x.v)
    ++ valBytes 8 k.evt.toNat ++ valBytes 8 k.vtype.toNat ++ valBytes 8 k.vwb.toNat ++ valBytes 8 (cstatWord k).toNat ++ valBytes 8 k.mprog.toNat)
  ++ (upFrom 1 7).flatMap fun i => bytesMem (0xA00 + 64 * i) (valBytes 64 (smGet k.masks 0 i).toNat)
/-- Back from the bytes; whether a handler runs and the privilege are the core's, not the context's. -/
def regBack (m : Memory) (k : Core) : Core :=
  let st := valAt m 0xA30 8
  { k with fifos := (upFrom 0 12).map (fun j => (nth fifoKeys j 0, { n := valAt m (0xA00 + 2 * j) 1, v := valAt m (0xA01 + 2 * j) 1, popped := 0 })),
           evt := BitVec.ofNat 16 (valAt m 0xA18 8), vtype := BitVec.ofNat 64 (valAt m 0xA20 8), vwb := BitVec.ofNat 64 (valAt m 0xA28 8),
           rmode := st / 16 % 8, det := st.testBit 1, mprog := BitVec.ofNat 64 (valAt m 0xA38 8),
           masks := (upFrom 1 7).map fun i => (i, BitVec.ofNat 512 (valAt m (0xA00 + 64 * i) 64)) }

/-! Queue registers: 16 bytes an entry, 32 entries of Q0 to Q3 and 16 of Q4 to Q7 (R111, R216). -/

/-- Where a queue's entries begin. -/
def queueAt (q : Nat) : Nat := if q < 4 then 0xC00 + 512 * q else 0x1400 + 256 * (q - 4)
/-- An entry: its value, or its fault's address; then 1 filled, 2 reserved, or 3 with the fault's code above. -/
def entryBytes : QEntry → List Byte
  | .filled v => valBytes 8 v.toNat ++ valBytes 8 1
  | .reserved => valBytes 8 0 ++ valBytes 8 2
  | .bad code a => valBytes 8 a.toNat ++ valBytes 8 (3 + 256 * code)
/-- The entry that its bytes give, if one stands there. -/
def entryBack (v w : Nat) : Option QEntry :=
  match w % 256 with
  | 1 => some (.filled (BitVec.ofNat 64 v))
  | 2 => some .reserved
  | 3 => some (.bad (w / 256 % 256) (BitVec.ofNat 64 v))
  | _ => none
/-- All queue registers. -/
def queueImage (k : Core) : Memory := (upFrom 0 8).flatMap fun q => bytesMem (queueAt q) ((queueOf k q).entries.flatMap entryBytes)
/-- The entries of a queue from its bytes. -/
def queueBack (m : Memory) (q : Nat) (x : QReg) : QReg :=
  { x with entries := (upFrom 0 (if q < 4 then 32 else 16)).filterMap fun i =>
      entryBack (valAt m (queueAt q + 16 * i) 8) (valAt m (queueAt q + 16 * i + 8) 8) }

/-! The landing buffer: descriptors of 64 bytes from 0xE000, values packed from 0xF000 (R411). -/

/-- How many bytes the value of an entry takes. -/
def landSize : Dest → Nat
  | .row _ => 512
  | .mask _ => 64
  | _ => 8
/-- A destination as a number: its kind, its sequencer and its number. -/
def destCode : Dest → Nat
  | .none => 0
  | .sreg q r => 1 + 256 * seqIdx q + 65536 * r.toNat
  | .row n => 2 + 65536 * n
  | .mask i => 3 + 65536 * i
/-- The destination of a number. -/
def destBack (v : Nat) : Dest :=
  match v % 256 with
  | 1 => .sreg (seqOfIdx (v / 256 % 256)) (BitVec.ofNat 5 (v / 65536))
  | 2 => .row (v / 65536)
  | 3 => .mask (v / 65536)
  | _ => .none
/-- A descriptor: remaining count, destination, relay slot, token, SIGMASK, whether a VMEM load made it and whose it is, and where
its value stands. Its lane predicate, which 64 bytes do not hold beside these, is kept beside the bytes (log 10). -/
def landDesc (off : Nat) (r : Result) : List Byte :=
  valBytes 8 r.due ++ valBytes 8 (destCode r.dest)
  ++ valBytes 8 ((match r.relay with | some x => x + 1 | none => 0) + 256 * (match r.tok with | some x => x + 1 | none => 0)
    + 65536 * b2n r.vmem + 2 ^ 24 * seqIdx r.seq + 2 ^ 32 * r.sig.toNat)
  ++ valBytes 8 (1 + 256 * off) ++ valBytes 32 0
/-- The offsets of the values of a landing buffer. -/
def landOffs : Nat → List Result → List Nat
  | _, [] => []
  | a, r :: l => a :: landOffs (a + landSize r.dest) l
/-- The landing buffer. -/
def landImage (l : List Result) : Memory :=
  let offs := landOffs 0 l
  bytesMem 0xE000 ((l.zip offs).flatMap fun x => landDesc x.2 x.1)
  ++ (l.zip offs).flatMap fun x => bytesMem (0xF000 + x.2) (valBytes (landSize x.1.dest) x.1.val.toNat)
/-- An entry back from its descriptor and value; `old` is what was kept beside them. -/
def landEntry (m : Memory) (i : Nat) (old : Option Result) : Option Result :=
  let a := 0xE000 + 64 * i
  let at_ := valAt m (a + 24) 8
  if at_ % 256 ≠ 1 then none else
  let d := destBack (valAt m (a + 8) 8)
  let f := valAt m (a + 16) 8
  let opt (v : Nat) : Option Nat := if v = 0 then none else some (v - 1)
  some ⟨valAt m a 8, d, BitVec.ofNat 4096 (valAt m (0xF000 + at_ / 256) (landSize d)),
    match old with | some r => r.en | none => BitVec.allOnes 512, opt (f % 256), opt (f / 256 % 256), BitVec.ofNat 16 (f / 2 ^ 32),
    f.testBit 16, seqOfIdx (f / 2 ^ 24 % 256)⟩
/-- The landing buffer back. -/
def landBack (m : Memory) (old : List Result) : List Result := (upFrom 0 64).filterMap fun i => landEntry m i (old[i]?)

/-! Barriers: 16 bytes each from 0x13000; recorded phases, 8 bytes each, from 0x13100 (R251). -/

/-- The CORE barriers, and each sequencer's recorded phases with, of a QUAD one, whether it had completed. -/
def barImage (k : Core) : Memory :=
  ((upFrom 0 16).flatMap fun i =>
    let b := smGet k.bars {} i
    bytesMem (0x13000 + 16 * i) (valBytes 4 b.phase.toNat ++ valBytes 4 b.part ++ valBytes 8 b.arr))
  ++ (upFrom 0 4).flatMap fun q => (upFrom 0 80).flatMap fun i =>
    let x := smGet k.seqs {} q
    match smGet x.phases none i with
    | none => []
    | some p => bytesMem (0x13100 + 640 * q + 8 * i)
        (valBytes 8 (p.toNat + 2 ^ 32 + 2 ^ 33 * b2n (i / 16 == 2 && smGet x.doneQ false (i % 16))))
/-- The barriers back. -/
def barBack (m : Memory) : SMap Barrier :=
  (upFrom 0 16).map fun i => let a := 0x13000 + 16 * i; (i, ⟨BitVec.ofNat 32 (valAt m a 4), valAt m (a + 4) 4, valAt m (a + 8) 8⟩)
/-- A sequencer's recorded phases back. -/
def phasesBack (m : Memory) (q : Nat) (x : Sequencer) : Sequencer :=
  let l := (wordsOf 8 (memSlice m (0x13100 + 640 * q) 640)).filter fun e => e.2.testBit 32
  { x with phases := l.map (fun e => (e.1, some (BitVec.ofNat 32 e.2))),
           doneQ := (l.filter fun e => e.1 / 16 == 2 && e.2.testBit 33).map fun e => (e.1 % 16, true) }

/-! The whole. -/

/-- VALID of a valid context (R418). -/
def areaValid : Nat := 0x43545801
/-- The needed length of a context with so many granules of scratchpad (R418). -/
def needOf (spad : Nat) : Nat := 0x54000 + spad * 8192
/-- The needed length of a core's context. -/
def areaNeed (k : Core) : Nat := needOf (ctlSpad (taskCtl k))
/-- Where a context's number stands, under which the parts whose places R418 does not give are kept (log 10). -/
def handleAt : Nat := 0x9FF8

/-- The cause word's fields that a later write of the cut record needs. -/
def heldCause (k : Core) : Cause :=
  ⟨fld k.trapCause 7 0, fld k.trapCause 15 8, fld k.trapCause 19 16, bit k.trapCause 21, bit k.trapCause 22, k.trapAddr, k.msgref⟩

/-- The bytes of a saved context (R418), in ascending order; those of the matrix shadow and the engines' queues, whose layout no
rule gives, are free (log 10). -/
def areaImage (s : State) (n c chain : Nat) (k : Core) : Memory :=
  let rec_ := cutRecord s n c (heldCause k) k.trapCause
  let hdr := valBytes 8 areaValid ++ valBytes 8 (areaNeed k) ++ valBytes 8 chain ++ valBytes 8 (taskId k).toNat
    ++ valBytes 8 (taskCtl k).toNat ++ valBytes 8 (gsc s n) ++ valBytes 208 0 ++ valBytes 256 rec_
  bytesMem 0 hdr
  ++ (upFrom 0 4).flatMap (fun i => seqImage (0x200 + 512 * i) (smGet k.seqs {} i))
  ++ regImage k ++ queueImage k
  ++ (upFrom 0 4).flatMap (fun i => putWords (0x1800 + 2048 * i) 256 (smGet k.seqs {} i).bank)
  ++ bytesMem 0x3800 ((upFrom 0 (handleAt - 0x3800)).map fun i => Config.freeByte (s.free + i))
  ++ bytesMem handleAt (valBytes 8 k.saveId)
  ++ ((k.relay.filter fun e => decide (e.1 < 32)).flatMap fun e => bytesMem (0xA000 + 512 * e.1) (valBytes 512 e.2.toNat))
  ++ landImage k.landing ++ barImage k
  ++ (k.acc.flatMap fun r => bytesMem (0x14000 + 512 * r.1) (valBytes 512 r.2.toNat))
  ++ (memSlice k.spad 0 (ctlSpad (taskCtl k) * 8192)).map fun e => (0x54000 + e.1, e.2)

/-- A task of which only its TCB and control word are known. -/
def bareTask : Task := ⟨0, 0, 0, 0, 0, 0, 0, 0, 0, 0, 0, 0, 0, [], none, none, none⟩

/-- The context that the bytes of an area give back (R420, R426), on what is kept beside them. -/
def areaBack (m : Memory) (old : Core) : Core :=
  let word (i : Nat) : Nat := valAt m (0x100 + 8 * i) 8
  let t := old.task.getD bareTask
  let k := regBack m old
  { k with
    task := some { t with tcb := BitVec.ofNat 64 (valAt m 24 8), ctl := BitVec.ofNat 64 (valAt m 32 8) }
    seqs := (upFrom 0 4).map fun i => (i, phasesBack m i (seqBack m i (smGet old.seqs {} i)))
    queues := (upFrom 0 8).map fun q => (q, queueBack m q (queueOf old q))
    relay := rowsOf (memSlice m 0xA000 0x4000)
    landing := landBack m old.landing
    bars := barBack m
    acc := rowsOf (memSlice m 0x14000 0x40000)
    spad := memSlice m 0x54000 (8192 * ctlSpad (BitVec.ofNat 64 (valAt m 32 8)))
    trapCause := BitVec.ofNat 64 (word 0)
    trapAddr := BitVec.ofNat 64 (word 1)
    mDone := BitVec.ofNat 32 (word 6)
    cCmp := BitVec.ofNat 32 (word 6 / 2 ^ 32)
    pDone := BitVec.ofNat 32 (word 7)
    mgDone := BitVec.ofNat 32 (word 7 / 2 ^ 32)
    cutGsc := word 8
    msgref := BitVec.ofNat 64 (word 10) }

end Sys2Proof.Machine
end

