-- ==== Sys2Proof/Machine/Context.lean ====
section
/-! DEFINITION. Save areas (R408, R418 to R420): a saved context in memory, with what the model keeps of it beside the bytes
(log 10), the partition of the unified array (R201, R203), and how a core's own state and a context's part and
come together. -/

namespace Sys2Proof.Machine

/-- The poison marks of a space outside a range of lines. -/
def clearMarks (m : SMap Bool) (a n : Nat) : SMap Bool :=
  m.filter fun e => decide (e.1 < a / 128) || decide ((a + n + 127) / 128 ≤ e.1)
/-- Whether a line of a range is marked. -/
def marked (m : SMap Bool) (a n : Nat) : Bool := m.any fun e => e.2 && decide (a / 128 ≤ e.1) && decide (e.1 < (a + n + 127) / 128)

/-! Areas. -/

/-- A run of an area within one 64 KiB page: its offset in the area, space, physical address and length. -/
structure AreaRun where
  off : Nat
  sp  : Space
  pa  : Nat
  len : Nat
  deriving DecidableEq, Repr

/-- The runs of `len` bytes of an area from offset `off`, each translated as R408 says, or the code that refuses one. -/
def areaRuns (n : Nat) (c : Option Nat) (va : Word) (need : Need) (len : Nat) : Nat → Nat → State → Sum Nat (List AreaRun) × State
  | 0, _, s => (.inr [], s)
  | fuel + 1, off, s =>
    if len ≤ off then (.inr [], s) else
    let size := min 65536 (len - off)
    match chkDevice s n c (va + BitVec.ofNat 64 off) size need with
    | .ok (.mem sp pa _ _) s => match areaRuns n c va need len fuel (off + size) s with
      | (.inr l, s) => (.inr (⟨off, sp, pa, size⟩ :: l), s)
      | x => x
    | .fault code s => (.inl code, s)
    | .ok _ s => (.inl codeXlate, s)
    | .wait => (.inl codeXlate, s)

/-- The lines of a run pass through L2 and their slices one by one (R207, R208). -/
def touchRun (n : Nat) (write : Bool) (s : State) (r : AreaRun) : State :=
  (upFrom 0 ((r.len + 127) / 128)).foldl (fun s i => touch s n none r.sp (r.pa + 128 * i) 128 write) s

/-- Writes one run of an image; whole lines clear their poison (R211). -/
def writeRun (img : Memory) (d : Node) (r : AreaRun) : Node :=
  let d := setHomeMem d r.sp (memBlit (homeMem d r.sp) (homeAddr d r.sp r.pa) r.len (memSlice img r.off r.len))
  match r.sp with
  | .hbm => { d with hbmPoison := clearMarks d.hbmPoison r.pa r.len }
  | .deep => { d with deepPoison := clearMarks d.deepPoison r.pa r.len }
  | .host => d
/-- Whether a run holds poison. -/
def runPoison (d : Node) (r : AreaRun) : Bool :=
  match r.sp with
  | .hbm => marked d.hbmPoison r.pa r.len
  | .deep => marked d.deepPoison r.pa r.len
  | .host => false
/-- The bytes of the runs as an image. -/
def readRuns (d : Node) (l : List AreaRun) : Memory :=
  l.flatMap fun r => (memSlice (homeMem d r.sp) (homeAddr d r.sp r.pa) r.len).map fun e => (r.off + e.1, e.2)

/-- The recorded QUAD phases of a sequencer, complete or not (R251). -/
def quadPhases (x : Sequencer) : List (Nat × BitVec 32) :=
  x.phases.filterMap fun e => if e.1 / 16 = 2 then e.2.map fun p => (e.1 % 16, p) else none
/-- The context with each completed QUAD phase held as completed (R251). -/
def markQuad (s : State) (n c : Nat) : Core :=
  let k := co s n c
  allSeqs.foldl (fun k q =>
    let x := smGet k.seqs {} (seqIdx q)
    let l := (quadPhases x).filter fun p => phaseDone s n c 2 p.1 q p.2
    { k with seqs := smPut k.seqs (seqIdx q) { x with doneQ := l.foldl (fun m p => smPut m p.1 true) x.doneQ } }) k

/-- Whether a saved context holds a recorded QUAD phase that had not completed when it was saved (R251). -/
def quadBound (k : Core) : Bool :=
  allSeqs.any fun q =>
    let x := smGet k.seqs {} (seqIdx q)
    (quadPhases x).any fun p => !smGet x.doneQ false p.1

/-- A CORE barrier whose arrivals are all in completes no later than its core is left (R247, R251). -/
def settleBar (b : Barrier) : Barrier :=
  if b.part = 0 then b else { b with phase := b.phase + BitVec.ofNat 32 (b.arr / b.part), arr := b.arr % b.part }

/-! What of the queues goes with a context and what stays with the core (R310, R313, R359). -/

/-- The message-queue entries of a core that are not its task's: operations that fired for another. -/
def othersMsgs (k : Core) : List MsgEntry :=
  k.msgq.filter fun e => e.joinId.isNone && (e.owner != taskId k || e.tenant != tenantOf k)
/-- Those of its task, its joins among them. -/
def ownMsgs (k : Core) : List MsgEntry :=
  k.msgq.filter fun e => e.joinId.isSome || (e.owner == taskId k && e.tenant == tenantOf k)

/-- The joins of a core's task. -/
def ownJoins (k : Core) : List Join := k.joins.filter fun j => !j.stay
/-- Whether a collective-queue entry is a join of the core's task. -/
def ownJoinEntry (k : Core) (e : CollQ) : Bool := match e.joinId with
  | some id => (ownJoins k).any fun j => j.id == id
  | none => false
/-- The collective-queue entries that stay when a context is saved: all, without its joins, each that waits behind one of them
with the joins it stands behind (R359). -/
def collStays (k : Core) : List CollQ :=
  let f (a : List CollQ × List Nat) (e : CollQ) : List CollQ × List Nat :=
    match e.joinId with
    | some id => if ownJoinEntry k e then (a.1, a.2 ++ [id]) else (a.1 ++ [e], a.2)
    | none => (a.1 ++ [if e.waiting then { e with behind := e.behind ++ a.2 } else e], a.2)
  (k.collq.foldl f ([], [])).1
/-- What a saved context takes: its joins, and of the entries that they wait for a mark each. -/
def collGoes (k : Core) : List CollQ :=
  let upto := ((k.collq.reverse.dropWhile fun e => !ownJoinEntry k e).reverse).filter fun e =>
    ownJoinEntry k e || (e.joinId.isNone && !e.done)
  upto.map fun e => if e.joinId.isSome then e else { e with ghost := true, waiting := false }

/-- The joins that a task leaves behind at its end, which stand in the collective queue alone (R359, R371). -/
def endedJoins (k : Core) : List Join :=
  (k.joins.filter fun j => j.stay || j.mask.testBit 5).map fun j => { j with mask := 0x20, seq := none, stay := true }

/-- A context as an area holds it: what is its core's own is not there, no line is buffered, and a started piece or operation
is due at once where it resumes. -/
def restCore (k : Core) : Core :=
  { k with seqs := k.seqs.map fun e => (e.1, { e.2 with line := .none, notBefore := 0 }), cq := k.cq.map fun e => { e with due := 0 },
           mq := k.mq.map fun e => { e with due := 0 }, bars := k.bars.map fun e => (e.1, settleBar e.2),
           msgq := ownMsgs k, collq := collGoes k, joins := ownJoins k, firedQ := [], l1 := [], tlb := [], tlbOwed := [], detBuf := [],
           detMine := [], preempt := none, leaving := false, spadPoison := [], accPoison := [] }

/-- The rings that a core's task owns, by number (R243). -/
def ringsOf (s : State) (n c : Nat) : List (Nat × Ring) :=
  (qd s n (quadOf c)).rings.filter fun r => r.2.valid && r.2.core == c

/-- Saves the context of a core to an area (R420): the length, VALID 0, every page, then the bytes, VALID last. Gives the
code of what failed, 0 for the length. -/
def saveContext (s : State) (n c : Nat) (va : Word) (len : Nat) : Sum Nat Unit × State :=
  let k := co s n c
  let need := areaNeed k
  if len < need then (.inl 0, s) else
  match devWrite s n (some c) va 8 0 with
  | (.inl code, s) => (.inl code, s)
  | (.inr _, s) =>
  let s := modNd s n fun d => { d with areas := d.areas.filter fun a => a.1 != va.toNat }
  if marked k.spadPoison 0 (ctlSpad (taskCtl k) * 8192) || !k.accPoison.isEmpty then (.inl codePoison, s)
  else match areaRuns n (some c) va .w need (need / 65536 + 2) 0 s with
  | (.inl code, s) => (.inl code, s)
  | (.inr runs, s) =>
    match devRead s n (some c) (va + 16) 8 with
    | (.inl code, s) => (.inl code, s)
    | (.inr chain, s) =>
      let ctx := { restCore (markQuad s n c) with saveId := s.free + 1 }
      let img := areaImage s n c chain ctx
      let rings := ringsOf s n c
      let s := runs.foldl (touchRun n true) s
      let s := modNd s n fun d => runs.foldl (writeRun img)
        { d with areas := (d.areas.filter fun a => a.1 != va.toNat) ++ [(va.toNat, ctx, rings)] }
      (.inr (), { s with free := s.free + 0x10000, kept := smPut s.kept ctx.saveId (ctx, rings) })

/-- Writes VALID 0 (R420, R426); the context of the area is gone. -/
def dropArea (s : State) (n : Nat) (c : Option Nat) (va : Word) : State :=
  let s := (devWrite s n c va 8 0).2
  modNd s n fun d => { d with areas := d.areas.filter fun a => a.1 != va.toNat }
/-- A context that has been loaded waits in no area any more, one that it was copied from among them. -/
def takenUp (s : State) (id : Nat) : State :=
  { s with nodes := s.nodes.map fun x => (x.1, { x.2 with areas := x.2.areas.filter fun a => a.2.1.saveId != id }) }

/-- Returns an area to the head of the pool (R420). -/
def returnArea (s : State) (n : Nat) (c : Option Nat) (va : Word) : State :=
  let s := (devWrite (dropArea s n c va) n c (va + 16) 8 (nd s n).saveArea.toNat).2
  modNd s n fun d => { d with saveArea := va }

/-- What is kept of a context beside its bytes, by its number: as it stands in an area, since a fault may have reached it there,
or as it was saved (log 10). -/
def keptOf (s : State) (id : Nat) : Core × List (Nat × Ring) :=
  match (s.nodes.flatMap fun x => x.2.areas).find? fun a => a.2.1.saveId == id with
  | some a => a.2
  | none => smGet s.kept ({}, []) id

/-- Reads a saved context back (R420, R426): VALID, the header, then every line; the context is what the bytes say. Gives SUB of
what failed. -/
def loadContext (s : State) (n c : Nat) (va : Word) : Sum Nat (Core × List (Nat × Ring)) × State :=
  match devRead s n (some c) va 64 with
  | (.inl code, s) => (.inl code, s)
  | (.inr v, s) =>
    if bitsOf v 63 0 ≠ areaValid then (.inl 0, s) else
    let need := needOf (ctlSpad (BitVec.ofNat 64 (bitsOf v 319 256)))
    match areaRuns n (some c) va .r need (need / 65536 + 2) 0 s with
    | (.inl code, s) => (.inl code, s)
    | (.inr runs, s) =>
      let s := runs.foldl (touchRun n false) s
      if runs.any (runPoison (nd s n)) then (.inl codePoison, s) else
      let img := readRuns (nd s n) runs
      let old := keptOf s (valAt img handleAt 8)
      (.inr (areaBack img old.1, old.2), s)

/-! Cores and contexts. -/

/-- Passes granules between L1 and scratchpad (R203): the lines of granules below `spad` leave L1, dirty ones written back
first, one a cc. Gives how many were. -/
def repartition (s : State) (n c spad : Nat) : Nat × State :=
  let out := (co s n c).l1.filter fun l => decide (l.way < spad)
  let s := out.foldl (fun s l => writeBack s n l) s
  (((out.filter fun l => l.dirty != 0).length),
    modCo s n c fun k => { k with l1 := k.l1.filter fun l => !decide (l.way < spad), part := spad, pre := none })

/-- What stays with the core when its task changes: REDLIMIT (R178), the latest cut's registers, L1, the TLB, DETERM entries
that have not been published, fired operations (R310), collective entries (R359) and the tags in use. -/
def coreOwn (old x : Core) : Core :=
  { x with redLimit := old.redLimit, trapCause := old.trapCause, trapAddr := old.trapAddr, msgref := old.msgref, l1 := old.l1,
           tlb := old.tlb, tlbOwed := old.tlbOwed, detBuf := old.detBuf, detMine := old.detMine, detFull := old.detFull, detNext := old.detNext,
           part := old.part, firedQ := old.firedQ, collq := old.collq ++ x.collq, collDone := old.collDone,
           joins := old.joins ++ x.joins, nextTag := max old.nextTag x.nextTag, pre := old.pre }

/-- A core that its task has left, ended or with its context saved (R371, R420). -/
def leftBehind (saved : Bool) (k : Core) : Core :=
  coreOwn { k with collq := if saved then collStays k else k.collq,
                   joins := if saved then k.joins.filter (fun j => j.stay) else endedJoins k } { msgq := othersMsgs k }

/-- Takes the rings of a core's task out of its quad (R243). -/
def clearRings (s : State) (n c : Nat) : State :=
  modQd s n (quadOf c) fun q =>
    { q with rings := q.rings.filter fun r => !(r.2.core == c),
             rlog := q.rlog.filter fun l => !(q.rings.any fun r => r.1 == l.ring && r.2.core == c) }
/-- Puts a context's rings into a core's quad under their numbers. -/
def putRings (s : State) (n c : Nat) (l : List (Nat × Ring)) : State :=
  modQd s n (quadOf c) fun q => { q with rings := l.foldl (fun m r => smPut m r.1 { r.2 with core := c }) q.rings }

/-- The core of a gang member follows its task (R389). -/
def gangMove (s : State) (n c : Nat) : State :=
  match (co s n c).task with
  | none => s
  | some t => match t.gang with
    | none => s
    | some g => modNd s n fun d =>
      match smGet d.gangs none g.rec_ with
      | none => d
      | some r =>
        let l := r.members.map fun m => if m.1 == g.m then (m.1, m.2.1, c) else m
        { d with gangs := smPut d.gangs g.rec_ (some { r with members := l }) }

/-- A saved context takes a core (R203, R412, R420): the core's own state stays, the partition follows the task, and the
context's rings and gang place come with it. Gives the write-backs of the partition. -/
def adoptContext (s : State) (n c : Nat) (ctx : Core) (rings : List (Nat × Ring)) : Nat × State :=
  let spad := ctlSpad (taskCtl ctx)
  let r := repartition s n c spad
  let s := modCo r.2 n c fun old =>
    let x := coreOwn old ctx
    { x with msgq := ctx.msgq ++ old.msgq, part := spad, asid := BitVec.ofNat 64 (tenantOf ctx), preempt := none, leaving := false }
  let root := smGet (nd s n).troot 0 (tenantOf ctx)
  (r.1, takenUp (gangMove (putRings (modCo s n c fun k => { k with ptRoot := root }) n c rings) n c) ctx.saveId)

/-- The completions of a core's CORE barriers that are on their way go with its task (R251). -/
def dropBars (s : State) (n c : Nat) : State :=
  let mine (i : Instr) : Bool := match i with
    | .barrierComplete m l o _ => m == n && l == 1 && o == c
    | _ => false
  { s with timers := s.timers.filter fun t => !mine t.2 }

/-- A core is free (R371): what is its own stays. -/
def freeCore (s : State) (n c : Nat) (saved : Bool) : State := modCo (dropBars (clearRings s n c) n c) n c (leftBehind saved)

end Sys2Proof.Machine
end

