-- ==== Sys2Proof/Machine/Tasks.lean ====
section
/-! DEFINITION. The dispatch unit: TCBs (R366 to R368), posting (R369, R370), deques, placement and stealing (R373 to R379),
gangs as a unit (R389), preloading (R421), cancellation's list (R391) and retirement (R371, R372). -/

namespace Sys2Proof.Machine

/-! Control blocks in memory. -/

/-- Where an access of the dispatch unit lands. -/
structure UnitAt where
  node : Nat
  sp   : Space
  pa   : Nat
  zp   : Bool
  deriving DecidableEq, Repr

/-- Translates an access of the dispatch unit in a tenant's space (R370, R379). -/
def unitAt (s : State) (n tenant : Nat) (va : Word) (size : Nat) (need : Need) : Sum Nat UnitAt × State :=
  match chkAs s n none (smGet (nd s n).troot 0 tenant) tenant va size need with
  | .ok (.mem sp pa _ zp) s => (.inr ⟨n, sp, pa, zp⟩, s)
  | .ok (.remote m _ off) s =>
    match chkLocal s m none (smGet (nd s m).troot 0 tenant) tenant off size need false with
    | .ok (.mem sp pa k zp) s => (if k = .determ then .inl codePerm else .inr ⟨m, sp, pa, zp⟩, s)
    | .fault code s => (.inl code, s)
    | .ok _ s => (.inl codeXlate, s)
    | .wait => (.inl codeXlate, s)
  | .fault code s => (.inl code, s)
  | .ok _ s => (.inl codeXlate, s)
  | .wait => (.inl codeXlate, s)

/-- Reads bytes at the home of their line for the dispatch unit; a read that faults leaves no A bit (R196). -/
def unitRead (s : State) (n tenant : Nat) (va : Word) (size : Nat) (need : Need) : Sum Nat Nat × State :=
  match unitAt s n tenant va size need with
  | (.inl code, s) => (.inl code, s)
  | (.inr u, s') =>
    let t := touch s' u.node none u.sp (u.pa / 128 * 128) size false
    if isPoison (nd s' u.node) u.sp u.pa then (if u.zp then (.inr 0, t) else (.inl codePoison, { s with free := s'.free }))
    else (.inr (homeRead (nd t u.node) u.sp u.pa size), t)

/-- Changes 8 bytes of a TCB; a write that its page refuses is lost (log 29). -/
def unitWrite (s : State) (n tenant : Nat) (va : Word) (f : Nat → Nat) : State :=
  match unitAt s n tenant va 8 .w with
  | (.inl _, s) => s
  | (.inr u, s) =>
    modNd (touch s u.node none u.sp u.pa 8 true) u.node fun d => homeWrite d u.sp u.pa 8 255 (f (homeRead d u.sp u.pa 8))

/-- Changes the STATUS of a TCB (R368). -/
def setStatus (s : State) (n tenant : Nat) (tcb : Word) (f : Nat → Nat) : State := unitWrite s n tenant (tcb + 120) f

/-- A STATUS with a new STATE and FCODE. -/
def stWord (state code old : Nat) : Nat :=
  bitsOf old 15 0 + bitsOf old 47 40 * 2 ^ 40 + state * 2 ^ 32 + code * 2 ^ 48
/-- A STATUS that counts one more placement, on a core. -/
def stPlace (core old : Nat) : Nat :=
  satAdd (bitsOf old 15 0) 1 65535 + core * 2 ^ 40 + bitsOf old 35 32 * 2 ^ 32 + bitsOf old 55 48 * 2 ^ 48

/-- Fields of a TCB's 128 bytes (R366). -/
def tcbEntry (c k : Nat) : Nat := bitsOf c (32 * k + 31) (32 * k)
def tcbArgs (c : Nat) : Word := BitVec.ofNat 64 (bitsOf c 191 128)
def tcbImage (c : Nat) : Word := BitVec.ofNat 64 (bitsOf c 255 192)
def tcbViews (c : Nat) : Word := BitVec.ofNat 64 (bitsOf c 319 256)
def tcbMarea (c : Nat) : Word := BitVec.ofNat 64 (bitsOf c 383 320)
def tcbSucc (c k : Nat) : Word := BitVec.ofNat 64 (bitsOf c (447 + 64 * k) (384 + 64 * k))
def tcbSuccx (c : Nat) : Word := BitVec.ofNat 64 (bitsOf c 703 640)
def tcbParent (c : Nat) : Word := BitVec.ofNat 64 (bitsOf c 767 704)
def tcbPred (c : Nat) : Nat := bitsOf c 799 768
def tcbGin (c : Nat) : BitVec 32 := BitVec.ofNat 32 (bitsOf c 831 800)
def tcbCtl (c : Nat) : Word := BitVec.ofNat 64 (bitsOf c 895 832)

/-! Queues. -/

/-- A dispatch queue's register block. -/
def dqOf (d : Node) (q : Nat) : DQueue := smGet d.dqs {} q
/-- Changes it. -/
def modDq (s : State) (n q : Nat) (f : DQueue → DQueue) : State :=
  modNd s n fun d => { d with dqs := smPut d.dqs q (f (dqOf d q)) }
/-- DQCTL's fields (R369). -/
def dqEn (x : DQueue) : Bool := bit x.dqctl 6
def dqTenant (x : DQueue) : Nat := fld x.dqctl 5 0

/-- Counts a task in FAULTS and DQFAULT of a queue (R369). -/
def countFault (s : State) (n q : Nat) (va : Word) : State :=
  modDq s n q fun x => { x with faults := satAdd x.faults 1 65535, dqfault := va &&& ~~~(127 : Word) }

/-- The key of a level of a deque. -/
def deqKey (q level : Nat) : Nat := 4 * q + level
/-- A level of a quad's deque, head (oldest) first. -/
def deqOf (x : Quad) (q level : Nat) : List DEntry := smGet x.deques [] (deqKey q level)

/-- The entries of a level older than its newest 64, each with the TCB that its link names: the next older, 0 of the oldest
(R373; DESIGN CHOICE, log 43). -/
def chainOf (l : List DEntry) : List ((Nat × Word × Option Word) × Word) :=
  let old := l.take (l.length - 64)
  (old.map fun e => (e.tenant, e.tcb, e.area)).zip (0 :: old.map fun e => e.tcb)
/-- Writes a link: the LINK of a TCB, or the CHAIN word of the area of a pre-empted task (R373, R420). -/
def writeLink (n : Nat) (s : State) (x : (Nat × Word × Option Word) × Word) : State :=
  match x.1.2.2 with
  | some va => (devWrite s n none (va + 16) 8 x.2.toNat).2
  | none => unitWrite s n x.1.1 (x.1.2.1 + 112) fun _ => x.2.toNat
/-- The dispatch unit writes the links that a change of a level has changed (R373). -/
def fixChain (s : State) (n : Nat) (before after : List DEntry) : State :=
  ((chainOf after).filter fun x => !(chainOf before).contains x).foldl (writeLink n) s

/-- Replaces a level of a deque. -/
def putDeq (s : State) (n c q level : Nat) (l : List DEntry) : State :=
  fixChain (modQd s n c fun x => { x with deques := smSet x.deques [] (deqKey q level) l }) n (deqOf (qd s n c) q level) l

/-- The entries of a level of a pending list. -/
def pendLevel (l : List DEntry) (level : Nat) : List DEntry := l.filter fun e => e.level == level
/-- Replaces a pending list. -/
def putPending (s : State) (n q : Nat) (l : List DEntry) : State :=
  let old := (dqOf (nd s n) q).pending
  (upFrom 0 4).foldl (fun s lv => fixChain s n (pendLevel old lv) (pendLevel l lv)) (modDq s n q fun x => { x with pending := l })

/-- Whether a quad's latched level is COOL or WARM (R35). -/
def quadOpen (d : Node) (q : Nat) : Bool := decide ((smGet d.quads {} q).level < 2)
/-- Whether a queue's mask has a quad. -/
def inMask (d : Node) (dq q : Nat) : Bool := (dqOf d dq).qmask.toNat.testBit q
/-- Resident tasks of a quad and the entries of its deques (R374). -/
def occupancy (d : Node) (q : Nat) : Nat :=
  ((upFrom (4 * q) 4).filter fun c => (smGet d.cores {} c).mode != .free).length
  + (smGet d.quads {} q).deques.foldl (fun a e => a + e.2.length) 0
/-- The quad that a ready task is pushed to (R374). -/
def pushQuad (d : Node) (dq : Nat) : Option Nat :=
  let l := (upFrom 0 64).filter fun q => inMask d dq q && quadOpen d q
  (sortBy (fun q => (smGet d.quads {} q).level * 2 ^ 32 + occupancy d q) l).head?

/-- Puts an entry at the head or the tail of a list. -/
def enqueue (l : List DEntry) (e : DEntry) (head : Bool) : List DEntry := if head then e :: l else l ++ [e]

/-- Pushes a ready task (R374, R375, R380, R389, R251): with its wait count 0, to the deque of the quad it is bound to, of
the quad R374 chooses, or to the pending list. -/
def pushEntry (s : State) (n : Nat) (e : DEntry) (head : Bool) : State :=
  let e := { e with wait := 0, aged := false }
  let q := ctlDq e.ctl
  let into (y : Nat) : State := putDeq s n y q e.level (enqueue (deqOf (qd s n y) q e.level) e head)
  let wait (head : Bool) : State := putPending s n q (enqueue (dqOf (nd s n) q).pending e head)
  if e.gang.isSome then wait false
  else match e.quad with
    | some y => into y
    | none =>
      if ctlDet e.ctl then into (ctlDcore e.ctl / 4)
      else match pushQuad (nd s n) q with
        | some y => into y
        | none => wait head

/-- One decrement of PRED (R370): by a post, or by the retirement of a predecessor. A TCB that cannot be read, or whose
address is no multiple of 128 (log 29), counts in FAULTS of queue `q`. -/
def post (s : State) (n tenant q : Nat) (t : Word) (isPost : Bool) : State :=
  if t.toNat % 128 ≠ 0 then countFault s n q t else
  match unitAt s n tenant t 128 .rw with
  | (.inl _, s) => countFault s n q t
  | (.inr u, s) =>
    let s := touch s u.node none u.sp u.pa 128 false
    let d := nd s u.node
    if isPoison d u.sp u.pa then countFault s n q t else
    let c := homeRead d u.sp u.pa 128
    let ctl := tcbCtl c
    let pred := tcbPred c
    if pred = 0 then countFault s n (ctlDq ctl) t
    else
      let s := modNd (touch s u.node none u.sp (u.pa + 96) 4 true) u.node fun d => homeWrite d u.sp (u.pa + 96) 4 15 (pred - 1)
      if pred = 1 then
        let s := setStatus s n tenant t (stWord 2 0)
        pushEntry s n ⟨t, tenant, ctl, tcbGin c, ctlPrio ctl, 0, false, none, none, none, [], s.now⟩ false
      else if isPost then setStatus s n tenant t (stWord 1 0)
      else s

/-- A write of LAUNCH (R369, R370): ignored before PHASE 4 (R448); ignored and counted in DROPPED while the queue is
disabled or the value is no multiple of 128. -/
def launchWrite (s : State) (n q : Nat) (va : Word) : State :=
  let x := dqOf (nd s n) q
  if 16 ≤ q ∨ (nd s n).phase ≠ 4 then s
  else if !dqEn x ∨ va.toNat % 128 ≠ 0 then modDq s n q fun x => { x with dropped := satAdd x.dropped 1 65535 }
  else post s n (dqTenant x) q va true

/-- LAUNCH (R369, R370, R446). -/
def execLaunch (n q : Nat) (va : Word) (s : State) : Host.Outcome State Fault Refusal := .next (launchWrite s n q va)

/-! Gangs that wait (R389). -/

/-- A gang record of a node. -/
def gangRec (d : Node) (r : Nat) : Option Gang := smGet d.gangs none r
/-- The entries of a queue's pending list that belong to a gang. -/
def gangEntries (d : Node) (dq r : Nat) : List DEntry := (dqOf d dq).pending.filter fun e => e.gang == some r
/-- The gangs with entries in a queue's pending list, the one whose first member left its core earliest first; aging moves entries
within the list and makes no gang younger or older (R377, R389). -/
def gangQueue (d : Node) (dq : Nat) : List Nat :=
  (sortBy (fun e => e.since) ((dqOf d dq).pending.filter fun e => e.gang.isSome)).filterMap fun e => e.gang
/-- The oldest gang of a queue whose members all wait, but for those that stay on their cores. -/
def gangWaits (d : Node) (dq : Nat) : Option Nat :=
  (gangQueue d dq).find? fun r =>
    match gangRec d r with
    | some g => g.members.all fun m =>
        let k := smGet d.cores {} m.2.2
        (gangEntries d dq r).any (fun e => e.tcb == m.2.1)
          || (taskId k == m.2.1 && k.mode != .saving && k.preempt.isNone)
    | none => true

/-- Whether a core is held for a waiting gang (R389). -/
def heldForGang (d : Node) (c : Nat) : Option Nat :=
  (upFrom 0 16).find? fun q => (dqOf d q).reserved.contains c && (gangWaits d q).isSome
/-- Whether a core is free. -/
def coreFree (d : Node) (c : Nat) : Bool := (smGet d.cores {} c).mode == .free
/-- Whether a core is free for any task. -/
def coreOpen (d : Node) (c : Nat) : Bool := coreFree d c && (heldForGang d c).isNone

/-- Whether a class's core-cycle bucket is empty (R33). -/
def cycEmpty (d : Node) (ctl : Word) : Bool := (bucketOf d (ctlClass ctl)).cyc == some 0
/-- Whether every ring number of an entry is free in a quad (R243). -/
def ringsFree (d : Node) (q : Nat) (e : DEntry) : Bool := e.rings.all fun r => !(smGet (smGet d.quads {} q).rings {} r).valid
/-- Whether a quad may take an entry of a deque, DET entries apart (R376, R243). -/
def takeable (d : Node) (q : Nat) (e : DEntry) : Bool := !cycEmpty d e.ctl && ringsFree d q e
/-- Whether a core may take an entry of its quad's deques (R375, R376). -/
def placeable (d : Node) (c : Nat) (e : DEntry) : Bool :=
  takeable d (quadOf c) e && (!ctlDet e.ctl || (ctlDcore e.ctl == c && quadOpen d (quadOf c)))

/-- The indices of a list whose entries satisfy `p`. -/
def idxWhere (p : DEntry → Bool) (l : List DEntry) : List Nat :=
  ((upFrom 0 l.length).zip l).filterMap fun e => if p e.2 then some e.1 else none

/-- The entry that a deque's level gives a core (R376): the head when it is aged at level 3, else the tail. -/
def pickIn (d : Node) (c q level : Nat) : Option (Nat × Nat × Nat) :=
  let l := deqOf (smGet d.quads {} (quadOf c)) q level
  let ok := idxWhere (placeable d c) l
  let aged (i : Nat) : Bool := match l[i]? with | some e => e.aged | none => false
  match ok.head?, ok.getLast? with
  | some h, some t => some (q, level, if level == 3 && aged h then h else t)
  | _, _ => none

/-- Sixteen queue numbers in turn, starting after `k`. -/
def queuesAfter (k : Nat) : List Nat := (upFrom (k + 1) 16).map fun q => q % 16

/-- What a core may take from its own deques (R376): queue, level and index. -/
def pick (d : Node) (c : Nat) : Option (Nat × Nat × Nat) :=
  [3, 2, 1, 0].findSome? fun lv => (queuesAfter (smGet d.quads {} (quadOf c)).lastDq).findSome? fun q => pickIn d c q lv

/-- The highest level of an entry that a core could take, and 1; 0 for none. -/
def pickLevel (d : Node) (c : Nat) : Nat := match pick d c with | some p => p.2.1 + 1 | none => 0

/-- The cores on which a gang of a queue could be placed now: first those held for it, then other open ones, in quads of the
mask that are not HOT or LIMIT (R389). -/
def gangCores (d : Node) (dq : Nat) : List Nat :=
  let ok (c : Nat) : Bool := coreFree d c && inMask d dq (quadOf c) && quadOpen d (quadOf c)
  let mine := (dqOf d dq).reserved.filter ok
  mine ++ (upFrom 0 256).filter fun c => ok c && !mine.contains c && (heldForGang d c).isNone

/-- A core for each entry of a gang, each used once: its own core for a DET member, a quad where its ring numbers are free. -/
def gangAssign (d : Node) : List DEntry → List Nat → Option (List (Nat × DEntry))
  | [], _ => some []
  | e :: r, l =>
    match takeFirst (fun c => (!ctlDet e.ctl || ctlDcore e.ctl == c) && ringsFree d (quadOf c) e
        && (match e.quad with | some q => q == quadOf c | none => true)) l with
    | some (c, l) => (gangAssign d r l).map fun x => (c, e) :: x
    | none => none

/-- The gang of a queue that may be placed, with its cores (R389). -/
def gangPlan (d : Node) (dq : Nat) : Option (Nat × List (Nat × DEntry)) :=
  match gangWaits d dq with
  | none => none
  | some r =>
    let l := gangEntries d dq r
    if l.any fun e => cycEmpty d e.ctl then none
    else
      let pinned := l.filter fun e => ctlDet e.ctl || e.quad.isSome || !e.rings.isEmpty
      let others := l.filter fun e => !(ctlDet e.ctl || e.quad.isSome || !e.rings.isEmpty)
      (gangAssign d (pinned ++ others) (gangCores d dq)).map fun x => (r, x)

/-! Cancellation's list (R391). -/

/-- Adds a pair to a node's list; a full list keeps it waiting. -/
def addCancel (s : State) (n t : Nat) (g : BitVec 32) : State :=
  let d := nd s n
  if cancelled d t g then s
  else if 64 ≤ d.cancels.length then modNd s n fun d => { d with cancelWait := d.cancelWait ++ [(t, g)] }
  else cancelColl (modNd s n fun d => { d with cancels := d.cancels ++ [(t, g)] }) n t g

/-- Adds the pairs that wait while there are places. -/
def admitCancels (s : State) (n : Nat) : Nat → State
  | 0 => s
  | fuel + 1 =>
    match (nd s n).cancelWait with
    | [] => s
    | p :: rest =>
      if 64 ≤ (nd s n).cancels.length then s
      else admitCancels (addCancel (modNd s n fun d => { d with cancelWait := rest }) n p.1 p.2) n fuel

/-- CANCEL_TOKEN (R391): the token of another node's CANCEL arrives. -/
def execCancelToken (n t : Nat) (gin : BitVec 32) (s : State) : Host.Outcome State Fault Refusal := .next (addCancel s n t gin)

/-- Whether a core's resident task belongs to a cancelled pair. -/
def cancelDue (s : State) (n c : Nat) : Bool :=
  let k := co s n c
  k.mode == .run && k.task.isSome && cancelled (nd s n) (tenantOf k) (ginOf k)

/-! Placement. -/

/-- A member leaves its gang (R388 to R390): the record goes with the last one; of a member that a fault ended later peer
reads fault PEERGONE. -/
def gangLeave (s : State) (n : Nat) (rec_ m : Nat) (faulted : Bool) : State :=
  match gangRec (nd s n) rec_ with
  | none => s
  | some r =>
    let left := r.members.filter fun x => x.1 != m
    let r := { r with members := left, held := r.held.filter fun h => h.1 != m,
                      gone := if faulted then r.gone ++ [m] else r.gone }
    modNd s n fun d => { d with gangs := smPut d.gangs rec_ (if left.isEmpty then none else some r) }

/-- The member number of a waiting entry in its gang. -/
def gangMember (d : Node) (e : DEntry) : Option (Nat × Nat) :=
  match e.gang with
  | none => none
  | some r => match gangRec d r with
    | none => none
    | some g => (g.members.find? fun m => m.2.1 == e.tcb).map fun m => (r, m.1)

/-- An entry ends without running (R372, R391): FAULTED with a code, or CANCELLED; its save area goes back to the pool. A
gang member that faults cancels the gang's pair (R390). -/
def endEntry (s : State) (n : Nat) (e : DEntry) (state code : Nat) : State :=
  let s := setStatus s n e.tenant e.tcb (stWord state code)
  let s := match gangMember (nd s n) e with
    | some g =>
      let s := gangLeave s n g.1 g.2 (state == 6)
      if state = 6 then addCancel s n (ctlTenant e.ctl) e.gin else s
    | none => s
  match e.area with
  | some va => returnArea s n none va
  | none => s

/-- A task refused at placement (R379): FAULTED, FAULTS and DQFAULT of its queue, one more placement. -/
def refuseEntry (s : State) (n c : Nat) (e : DEntry) (code : Nat) : State :=
  let s := setStatus s n e.tenant e.tcb (stPlace c)
  countFault (endEntry s n e 6 code) n (ctlDq e.ctl) e.tcb

/-- Steps 1 and 2 of R379 on a TCB. -/
def tcbCheck (d : Node) (t : Nat) : Option Nat :=
  let ctl := tcbCtl t
  if bit ctl 0 ∨ (upFrom 0 4).all (fun k => tcbEntry t k == 0xFFFFFFFF) ∨ 38 < ctlSpad ctl ∨ (tcbImage t).toNat % 64 ≠ 0
      ∨ (tcbViews t ≠ 0 ∧ tcbParent t = 0) ∨ (ctlDet ctl ∧ !inMask d (ctlDq ctl) (ctlDcore ctl / 4)) then some codeIllegal
  else if ctlTenant ctl ≠ dqTenant (dqOf d (ctlDq ctl)) then some codePerm
  else none

/-- Step 4 of R379. -/
def entriesOk (t lines : Nat) : Bool :=
  (upFrom 0 4).all fun k => let e := tcbEntry t k; e == 0xFFFFFFFF || (e != 0 && decide (e < lines))

/-- What a placement's read of the image header gives where IMAGE lies in the aperture (R189, R379): the own partition is the
task's, a peer's that of a member of its gang. -/
def apertureImage (d : Node) (e : DEntry) (t : Nat) : Nat :=
  let va := tcbImage t
  let off := fld va 18 0
  let peer := fld va 26 19
  let size : Nat := if peer = 0 then ctlSpad (tcbCtl t) else
    match e.gang.bind (gangRec d) with
    | some g => match g.members.find? fun m => m.1 + 1 == peer with
      | some m => (smGet d.cores {} m.2.2).part
      | none => 0
    | none => 0
  if fld va 39 27 ≠ 0 ∨ size * 8192 ≤ off then codeXlate else codePerm

/-- What placement reads and checks (R379): the TCB and LINES, CBASE and CLEN, or the code and, where R42 refuses the header,
the image base that TRAPADDR then holds. -/
def placeRead (s : State) (n : Nat) (e : DEntry) : Sum (Nat × Option Word) (Nat × Nat × Nat × Nat) × State :=
  match unitRead s n e.tenant e.tcb 128 .r with
  | (.inl code, s) => (.inl (code, none), s)
  | (.inr t, s) =>
    match tcbCheck (nd s n) t with
    | some code => (.inl (code, none), s)
    | none =>
      if inAperture (tcbImage t) then (.inl (apertureImage (nd s n) e t, none), s) else
      match unitRead s n (ctlTenant (tcbCtl t)) (tcbImage t) 64 .rx with
      | (.inl code, s) => (.inl (code, none), s)
      | (.inr h, s) =>
        match parseHeader h with
        | .inl code => (.inl (code, some (tcbImage t)), s)
        | .inr (lines, cbase, clen) =>
          if entriesOk t lines then (.inr (t, lines, cbase, clen), s) else (.inl (codeIllegal, none), s)

/-- The sequencers at task start (R93, R94). -/
def startSeqs (t : Nat) : SMap Sequencer :=
  (upFrom 0 4).filterMap fun k =>
    if tcbEntry t k = 0xFFFFFFFF then none
    else some (k, { status := .running, regs := [(1, tcbArgs t)], pc := pcOf (tcbEntry t k) 0 })

/-- Task start (R93, R191, R201, R203, R204, R251, R371): everything afresh but what is the core's own; the task issues once
the write-backs of the partition are done. -/
def startTask (s : State) (n c : Nat) (e : DEntry) (t lines cbase clen lat : Nat) : State :=
  let ctl := tcbCtl t
  let r := repartition s n c (ctlSpad ctl)
  let seqs := startSeqs t
  let task : Task := ⟨e.tcb, ctl, tcbArgs t, tcbImage t, tcbViews t, tcbMarea t, tcbParent t, tcbGin t, lines, cbase, clen,
    e.level, ctlDq ctl, [], none, none, none⟩
  let root := smGet (nd s n).troot 0 (ctlTenant ctl)
  let at_ := s.now + lat + r.1
  let bars : SMap Barrier := (upFrom 0 16).map fun i => (i, ⟨0, seqs.length, 0⟩)
  let x : Core :=
    { mode := .run, task := some task, seqs := seqs, det := ctlDet ctl, ptRoot := root,
      asid := BitVec.ofNat 64 (ctlTenant ctl), bars := bars, resumeAt := at_ }
  let s := modCo r.2 n c fun old =>
    { coreOwn old { x with msgq := old.msgq } with part := ctlSpad ctl }
  acquireL1 s n c 3 false

/-- A PREEMPTED task takes a core (R420): VALID and the context are read, the partition is applied, the area goes back to the
pool, and the task resumes; what cannot be restored ends FAULTED with SAVEAREA. -/
def restoreTask (s : State) (n c : Nat) (e : DEntry) (va : Word) (lat : Nat) : State :=
  match loadContext s n c va with
  | (.inl _, s) => countFault (endEntry s n { e with area := none } 6 codeSaveArea) n (ctlDq e.ctl) e.tcb
  | (.inr x, s) =>
    let level := e.level
    let r := adoptContext s n c { x.1 with task := x.1.task.map fun t => { t with level := level } } x.2
    let s := returnArea r.2 n (some c) va
    acquireL1 (resume s n c (s.now + lat + r.1)) n c 3 true

/-- Places one entry on a core (R376, R379, R391): a cancelled one is dropped. -/
def placeEntry (s : State) (n c : Nat) (e : DEntry) (lat : Nat) : State :=
  if cancelled (nd s n) (ctlTenant e.ctl) e.gin then endEntry s n e 7 0
  else match placeRead s n e with
    | (.inl (code, addr), s) =>
      let s := match addr with
        | some a => modCo s n c fun k => { k with trapAddr := a }
        | none => s
      refuseEntry s n c e code
    | (.inr (t, lines, cbase, clen), s) =>
      let s := setStatus s n e.tenant e.tcb fun old => stWord 3 0 (stPlace c old)
      match e.area with
      | some va => restoreTask s n c e va lat
      | none => startTask s n c e t lines cbase clen lat

/-- Whether a core is the lowest free one of its quad that may take a task of its own deques (R376). -/
def placeDue (d : Node) (c : Nat) : Bool :=
  coreOpen d c && (pick d c).isSome
  && (upFrom (4 * quadOf c) (c % 4)).all fun x => !(coreOpen d x && (pick d x).isSome)

/-- The first queue whose waiting gang may be placed, if its lowest core is `c`. -/
def gangDue (d : Node) (c : Nat) : Option Nat :=
  (upFrom 0 16).find? fun q => match gangPlan d q with
    | some p => (sortBy id (p.2.map fun x => x.1)).head? == some c
    | none => false

/-- Places a gang as a unit (R389). -/
def placeGang (s : State) (n q : Nat) : State :=
  match gangPlan (nd s n) q with
  | none => s
  | some p =>
    let s := modDq s n q fun x => { x with reserved := [] }
    let s := putPending s n q ((dqOf (nd s n) q).pending.filter fun e => e.gang != some p.1)
    p.2.foldl (fun s x => placeEntry s n x.1 x.2 Config.latPlace) s

/-- Whether a node may place tasks: in PHASE 4, from the frame after START on (R448). -/
def placeOpen (s : State) (n : Nat) : Bool := (nd s n).phase == 4 && decide ((nd s n).startFrame ≤ frameOf s n)

/-- TASK_PLACEMENT (R376, R379, R389). -/
def execTaskPlacement (n c : Nat) (s : State) : Host.Outcome State Fault Refusal :=
  let d := nd s n
  if !placeOpen s n then .next s else
  match gangDue d c with
  | some q => .next (placeGang s n q)
  | none =>
    if !placeDue d c then .next s else
    match pick d c with
    | none => .next s
    | some (q, lv, i) =>
      let l := deqOf (qd s n (quadOf c)) q lv
      match l[i]? with
      | none => .next s
      | some e =>
        let s := modQd (putDeq s n (quadOf c) q lv (delNth l i)) n (quadOf c) fun x => { x with lastDq := q }
        .next (placeEntry s n c e Config.latPlace)

/-! Stealing (R378). -/

/-- Whether a thief may take an entry of another quad. -/
def stealable (d : Node) (thief : Nat) (e : DEntry) : Bool := !ctlDet e.ctl && e.quad.isNone && takeable d thief e

/-- What a thief finds in one victim's deque of a queue: level and index. -/
def stealIn (d : Node) (thief q victim : Nat) : Option (Nat × Nat × Nat × Nat) :=
  [3, 2, 1, 0].findSome? fun lv =>
    (idxWhere (stealable d thief) (deqOf (smGet d.quads {} victim) q lv)).head?.map fun i => (q, victim, lv, i)

/-- What a quad steals: queue, victim, level and index. -/
def stealPlan (d : Node) (thief : Nat) : Option (Nat × Nat × Nat × Nat) :=
  let x := smGet d.quads {} thief
  (queuesAfter x.lastSteal).findSome? fun q =>
    if !inMask d q thief then none else
    ((upFrom (x.lastVictim + 1) 64).map fun v => v % 64).findSome? fun v =>
      if v == thief || !quadOpen d v then none else stealIn d thief q v

/-- The free core for which a quad steals, when nothing of its own is to be taken. -/
def stealCore (d : Node) (q : Nat) : Option Nat :=
  let free := (upFrom (4 * q) 4).filter (coreOpen d)
  if quadOpen d q && free.all fun c => (pick d c).isNone then free.head? else none

/-- Whether a quad steals. -/
def stealDue (d : Node) (q : Nat) : Bool := (stealCore d q).isSome && (stealPlan d q).isSome

/-- STEAL (R378). -/
def execSteal (n q : Nat) (s : State) : Host.Outcome State Fault Refusal :=
  if !placeOpen s n then .next s else
  match stealCore (nd s n) q, stealPlan (nd s n) q with
  | some c, some (dq, v, lv, i) =>
    let l := deqOf (qd s n v) dq lv
    match l[i]? with
    | none => .next s
    | some e =>
      let s := modQd (putDeq s n v dq lv (delNth l i)) n q fun x => { x with lastVictim := v, lastSteal := dq }
      .next (placeEntry s n c e (Config.latSteal + Config.latPlace))
  | _, _ => .next s

/-- The entry that a core would be given next (R421). -/
def nextEntry (d : Node) (c : Nat) : Option DEntry :=
  match pick d c with
  | some (q, lv, i) => (deqOf (smGet d.quads {} (quadOf c)) q lv)[i]?
  | none => none

/-- PRELOAD (R421): it takes place or not; where it does, ways of the next task's scratchpad that hold no valid line are
zeroed and take no fills any more. -/
def execPreload (n c : Nat) (s : State) : Host.Outcome State Fault Refusal :=
  let k := co s n c
  match nextEntry (nd s n) c with
  | none => .next s
  | some e =>
    if k.mode ≠ .run ∨ k.pre.isSome then .next s else
    let s' := { s with free := s.free + 1 }
    if !Config.choice s.free then .next s' else
    let ways := (upFrom k.part (ctlSpad e.ctl - k.part)).filter fun w => !(k.l1.any fun l => l.way == w)
    .next (modCo s' n c fun k => { k with pre := some (e.tenant, e.tcb, ways) })

/-! The end of a task. -/

/-- Entry boundary work of a core that a task of queue `q` has left: while a gang of the queue waits, the core is held for it
(R389). -/
def reserveCore (s : State) (n c q : Nat) : State :=
  match gangWaits (nd s n) q with
  | some r =>
    let want := (gangEntries (nd s n) q r).length
    if inMask (nd s n) q (quadOf c) then
      modDq s n q fun x => if x.reserved.length < want then { x with reserved := x.reserved ++ [c] } else x
    else s
  | none => s

/-- Whether everything that step 2 of R371 waits for is done. -/
def quiescent (k : Core) : Bool :=
  k.cq.isEmpty && k.mq.isEmpty && k.pq.isEmpty && (ownMsgs k).isEmpty
  && k.winOut.isEmpty && !outstanding k && k.inflight.isEmpty && k.ret.isNone

/-- Whether a task that ends may retire. -/
def retireTaskDue (s : State) (n c : Nat) : Bool :=
  match (co s n c).mode with
  | .ending code _ => quiescent (co s n c) && (code != 0 || (co s n c).deferred.isEmpty)
  | _ => false

/-- The successors of a TCB (R366, R371): inline, then the overflow list; what cannot be read is counted (log 29). -/
def overflowSucc (n tenant : Nat) (va : Word) : Nat → State → List Word × Bool × State
  | 0, s => ([], true, s)
  | fuel + 1, s =>
    match unitRead s n tenant va 8 .r with
    | (.inl _, s) => ([], false, s)
    | (.inr 0, s) => ([], true, s)
    | (.inr v, s) =>
      let r := overflowSucc n tenant (va + 8) fuel s
      (BitVec.ofNat 64 v :: r.1, r.2.1, r.2.2)

/-- The successors that a retiring task decrements, its dynamic ones apart. -/
def successors (s : State) (n : Nat) (t : Task) : List Word × State :=
  let ten := ctlTenant t.ctl
  match unitRead s n ten t.tcb 128 .r with
  | (.inl _, s) => ([], countFault s n t.dq t.tcb)
  | (.inr c, s) =>
    let inline_ := ((upFrom 0 4).map (tcbSucc c)).filter fun v => v != 0
    if tcbSuccx c = 0 then (inline_, s)
    else
      let r := overflowSucc n ten (tcbSuccx c) 4096 s
      (inline_ ++ r.1, if r.2.1 then r.2.2 else countFault r.2.2 n t.dq (tcbSuccx c))

/-- Step 5 of R371. -/
def releaseSuccessors (s : State) (n : Nat) (t : Task) : State :=
  let ten := ctlTenant t.ctl
  let r := successors s n t
  let s := r.1.foldl (fun s v => post s n ten t.dq v false) r.2
  t.succ.foldl (fun s v => post s n ten t.dq v true) s

/-- A spawn group of a node. -/
def groupOfRec (d : Node) (g : Nat) : Option Group := smGet d.groups none g
/-- Changes it. -/
def modGroup (s : State) (n g : Nat) (f : Group → Group) : State :=
  modNd s n fun d => match groupOfRec d g with
    | none => d
    | some x => { d with groups := smPut d.groups g (some (f x)) }
/-- Closes a group: its record is free (R381). -/
def closeGroup (s : State) (n g : Nat) : State := modNd s n fun d => { d with groups := smPut d.groups g none }

/-- A child's leaf is complete (R384), on a core. -/
def leafDone (s : State) (n c : Nat) (t : Task) : State :=
  if t.parent = 0 then s else
  let mine (x : Nat × Option Group) : Bool := match x.2 with
    | some g => g.parent == t.parent && g.tenant == ctlTenant t.ctl
    | none => false
  match (nd s n).groups.find? mine with
  | none => s
  | some x =>
    let i := ctlSidx t.ctl
    modGroup s n x.1 fun g =>
      if g.n ≤ i ∨ g.complete.any (fun p => decide (p.1 ≤ i) && decide (i ≤ p.2)) then g
      else
        let g := { g with complete := (i, i) :: g.complete, who := smPut g.who (4096 * i + i) c }
        { g with done := g.views == 0 && decide (g.complete.length = g.n) }

/-- The entry under which a task is pushed again: afresh, or with its area as the context there asks (R380, R389, R251,
R243). -/
def entryOf (s : State) (n c : Nat) (t : Task) (area : Option Word) : DEntry :=
  let e : DEntry := ⟨t.tcb, ctlTenant t.ctl, t.ctl, t.gin, t.level, 0, false, area, none, none, [], s.now⟩
  match area.bind fun va => (nd s n).areas.find? fun a => a.1 == va.toNat with
  | some a => { e with gang := t.gang.map fun g => g.rec_, quad := if quadBound a.2.1 then some (quadOf c) else none,
                       rings := a.2.2.map fun r => r.1 }
  | none => e

/-- Step 3 of R371: the release, of every kind at the end by MERGE (R385) and for a context that may resume elsewhere, and
the buffered DETERM entries go to staging. -/
def endRelease (s : State) (n c : Nat) (all : Bool) : State := drainDet (releaseL1 s n c 3 all) n c

/-- A task leaves its core for good: its open group, gang place and rings go, and the core is free. -/
def leaveCore (s : State) (n c : Nat) (t : Task) (faulted : Bool) : State :=
  let s := match t.group with
    | some g => closeGroup s n g
    | none => s
  let s := match t.gang with
    | some g =>
      let s := gangLeave s n g.rec_ g.m faulted
      if faulted then addCancel s n (ctlTenant t.ctl) t.gin else s
    | none => s
  reserveCore (freeCore (gangWithdraw s n c) n c false) n c t.dq

/-- A task is pushed again from its core: with the area of its saved context (R420, R424), or to start afresh. -/
def requeueTask (s : State) (n c : Nat) (t : Task) (area : Option Word) : State :=
  let e := entryOf s n c t area
  let ten := ctlTenant t.ctl
  match area with
  | some va =>
    let s := unitWrite s n ten (t.tcb + 112) fun _ => va.toNat
    let s := setStatus s n ten t.tcb (stWord 4 0)
    pushEntry (reserveCore (freeCore s n c true) n c t.dq) n e true
  | none =>
    let s := setStatus s n ten t.tcb (stWord 2 0)
    pushEntry (leaveCore s n c t false) n e true

/-- TASK_RETIRE (R371, R372, R424): the release, STATUS, the successors of a task that ended well, and the core is free. -/
def execTaskRetire (n c : Nat) (s : State) : Host.Outcome State Fault Refusal :=
  if !retireTaskDue s n c then .next s else
  match (co s n c).mode, (co s n c).task with
  | .ending code st, some t =>
    let merge := st == 5 && t.views != 0
    let s := endRelease s n c (merge || st == 4)
    if !(co s n c).detBuf.isEmpty then .next s
    else match st with
      | 4 => .next (requeueTask s n c t (co s n c).saved)
      | 2 => .next (requeueTask s n c t none)
      | 5 =>
        let s := setStatus s n (ctlTenant t.ctl) t.tcb (stWord 5 0)
        .next (leaveCore (leafDone (releaseSuccessors s n t) n c t) n c t false)
      | _ =>
        let s := setStatus s n (ctlTenant t.ctl) t.tcb (stWord st (if st = 6 then code else 0))
        .next (leaveCore s n c t (st == 6))
  | _, _ => .next s

end Sys2Proof.Machine
end

