-- ==== Sys2Proof/Machine/Group.lean ====
section
/-! DEFINITION. Spawn groups and views (R381 to R387), gangs (R388 to R390), cancellation (R391) and the nine TASK
instructions (R392 to R400), with the merge engines' step. -/

namespace Sys2Proof.Machine

/-! Reads and checks of a task's own memory. -/

/-- A read by an instruction of the moving core, its own L1 included; it may have to wait (R33, R390), and one that faults
leaves no more than the translation (R196). -/
def taskRead (s : State) (va : Word) (size : Nat) (need : Need) : Pre Nat :=
  let n := s.cur.node
  let c := s.cur.core
  match chk s n c va size need with
  | .wait => .hold s
  | .fault code s => .fault (causeAt s code va) s
  | .ok t s' =>
    let a := coreAgent s' n c (classOf (cc s'))
    if engHold a t size false s' then .hold s' else
    let g := engRead a t size s'
    if g.code ≠ 0 then .fault (causeAt s g.code va) (keepTlb s g.s n c)
    else if g.poison then .fault (causeAt s codePoison va) (keepTlb s g.s n c)
    else .go g.v g.s

/-- A write by an instruction of the moving core of bytes of one line, performed at DIE scope. -/
def taskWrite (s : State) (va : Word) (size v : Nat) : State :=
  match chk s s.cur.node s.cur.core va size .w with
  | .ok t s => (engWrite (coreAgent s s.cur.node s.cur.core (classOf (cc s))) t size v false s).2
  | .fault _ s => s
  | .wait => s

/-- A view (R382): base, length, operator, element type and binary8 format. -/
def vBase (v : Word × Nat × Nat × Nat × Nat) : Word := v.1
def vLen (v : Word × Nat × Nat × Nat × Nat) : Nat := v.2.1
def vOper (v : Word × Nat × Nat × Nat × Nat) : Nat := v.2.2.1
def vEt (v : Word × Nat × Nat × Nat × Nat) : Nat := v.2.2.2.1
def vB8 (v : Word × Nat × Nat × Nat × Nat) : Nat := v.2.2.2.2

/-- A view-table entry (R382): the view and whether it is the last, none where a field breaks its rule; the reserved bits are
ignored (R6). -/
def parseView (v : Nat) : Option ((Word × Nat × Nat × Nat × Nat) × Bool) :=
  let len := bitsOf v 95 64
  let oper := bitsOf v 102 100
  let et := bitsOf v 99 96
  let b8 := bitsOf v 108 104
  if bitsOf v 63 0 % 128 ≠ 0 ∨ len % 128 ≠ 0 ∨ len < 128 ∨ 2 ^ 24 < len ∨ !opLegal 0 et oper b8 then none
  else some ((BitVec.ofNat 64 (bitsOf v 63 0), len, oper, et, b8), v.testBit 103)

/-- Reads a view table (R382, R393): at most 8 entries, ended by LAST; a bad one faults ILLEGAL. -/
def readViews (va : Word) : Nat → State → Pre (List (Word × Nat × Nat × Nat × Nat))
  | 0, s => .fault (causeHere s codeIllegal) s
  | fuel + 1, s =>
    match taskRead s va 32 .r with
    | .hold s => .hold s
    | .fault k s => .fault k s
    | .go v s =>
      match parseView v with
      | none => .fault (causeHere s codeIllegal) s
      | some (x, true) => .go [x] s
      | some (x, false) => match readViews (va + 32) fuel s with
        | .go l s => .go (x :: l) s
        | r => r

/-- Whether an address lies in the domain window. -/
def inWindow (va : Word) : Bool := fld va 63 60 == 8 || fld va 63 60 == 9

/-- The check of R383 on a range of a view: local pages of kind RELEASE or UNORDERED, HBM or DEEP, with R and W. -/
def viewRange (va : Word) (len : Nat) : Nat → State → Option Cause × State
  | 0, s => (none, s)
  | fuel + 1, s =>
    if len = 0 then (none, s) else
    let size := min len (65536 - va.toNat % 65536)
    if inAperture va || inWindow va then (some (causeAt s codeXlate va), s) else
    match chk s s.cur.node s.cur.core va size .rw with
    | .fault code s => (some (causeAt s code va), s)
    | .ok (.mem sp _ k _) s' =>
      if sp = .host ∨ !(k == .release || k == .unordered) then
        (some (causeAt s codePerm va), keepTlb s s' s.cur.node s.cur.core)
      else viewRange (va + BitVec.ofNat 64 size) (len - size) fuel s'
    | .ok _ s' => (some (causeAt s codeXlate va), keepTlb s s' s.cur.node s.cur.core)
    | .wait => (some (causeAt s codeXlate va), s)

/-- The sum of LEN over a table (R383). -/
def viewsSize (l : List (Word × Nat × Nat × Nat × Nat)) : Nat := l.foldl (fun a v => a + vLen v) 0
/-- Where view `i` lies in slot `k` (R383). -/
def viewVa (marea : Word) (l : List (Word × Nat × Nat × Nat × Nat)) (k i : Nat) : Word :=
  marea + BitVec.ofNat 64 (k * viewsSize l + viewsSize (l.take i))

/-- The identity of a view's elements (R383). -/
def blankElem (oper et b8 : Nat) : Nat :=
  match etFmt et b8, oper with
  | _, 0 => 0
  | _, 3 => 0
  | some f, 1 =>
    if f.b8 then (if f.sgn then 0xFF else 0)
    else match f.infC with
      | some i => i + 2 ^ (f.bits - 1)
      | none => 0
  | some f, 2 => if f.b8 then (if f.sgn then 0x7F else 0xFE) else f.infC.getD 0
  | _, _ => 2 ^ (8 * etWidth et) - 1
/-- A blank line. -/
def blankLine (v : Word × Nat × Nat × Nat × Nat) : Nat :=
  let w := 8 * etWidth (vEt v)
  unchunk w (List.replicate (1024 / w) (blankElem (vOper v) (vEt v) (vB8 v)))

/-- Writes the blanks of one slot (R383, R393). -/
def writeBlanks (s : State) (marea : Word) (l : List (Word × Nat × Nat × Nat × Nat)) (k : Nat) : State :=
  ((upFrom 0 l.length).zip l).foldl (fun s v =>
    (upFrom 0 (vLen v.2 / 128)).foldl (fun s i =>
      taskWrite s (viewVa marea l k v.1 + BitVec.ofNat 64 (128 * i)) 128 (blankLine v.2)) s) s

/-! SPAWN. -/

/-- The resident task of the moving core, or an empty one. -/
def taskOf (k : Core) : Task :=
  k.task.getD ⟨0, 0, 0, 0, 0, 0, 0, 0, 0, 0, 0, 0, 0, [], none, none, none⟩

/-- The open group of the moving core's task: its record's number and the record. -/
def openGroup (s : State) : Option (Nat × Group) :=
  match (taskOf (cc s)).group with
  | none => none
  | some g => (groupOfRec (cn s) g).map fun x => (g, x)

/-- The lowest free group record of the 1,024 (R381). -/
def freeGroup (d : Node) : Option Nat := (upFrom 0 1024).find? fun g => (groupOfRec d g).isNone

/-- What SPAWN has checked: the child, its bytes, the record, whether the group is new, its views and the index. -/
structure SpawnPlan where
  t     : Word
  c     : Nat
  rec_  : Nat
  fresh : Bool
  table : List (Word × Nat × Nat × Nat × Nat)
  k     : Nat
  deriving DecidableEq, Repr

/-- The first failure of the checks of R383 over a list of ranges. -/
def viewRanges : List (Word × Nat) → State → Option Cause × State
  | [], s => (none, s)
  | r :: l, s => match viewRange r.1 r.2 (r.2 / 65536 + 2) s with
    | (some k, s) => (some k, s)
    | (none, s) => viewRanges l s

/-- The part of SPAWN's checks that follows those of the TCB itself (R393). -/
def spawnGroup (s : State) (t : Word) (c : Nat) : Pre SpawnPlan :=
  let ctl := tcbCtl c
  let views := tcbViews c
  let marea := tcbMarea c
  let bad (s : State) : Pre SpawnPlan := .fault (causeHere s codeIllegal) s
  let slot (p : SpawnPlan) (s : State) : Pre SpawnPlan :=
    if views = 0 then .go p s else
    match viewRanges [(viewVa marea p.table p.k 0, viewsSize p.table)] s with
    | (some x, s) => .fault x s
    | (none, s) => .go p s
  match openGroup s with
  | some (r, g) =>
    if g.spawned = g.n ∨ ctlNsib ctl ≠ g.n ∨ views ≠ g.views ∨ marea ≠ g.marea then bad s
    else slot ⟨t, c, r, false, g.table, g.spawned⟩ s
  | none =>
    match freeGroup (cn s) with
    | none => .hold s
    | some r =>
      if views = 0 then .go ⟨t, c, r, true, [], 0⟩ s else
      match readViews views 8 s with
      | .hold s => .hold s
      | .fault x s => .fault x s
      | .go l s => match viewRanges (l.map fun v => (vBase v, vLen v)) s with
        | (some x, s) => .fault x s
        | (none, s) => slot ⟨t, c, r, true, l, 0⟩ s

/-- The checks of SPAWN in the order of R393. A TCB that the dispatch unit could not read is SPAWN's fault (R370). -/
def spawnPre (t : Word) (s : State) : Pre SpawnPlan :=
  if t.toNat % 128 ≠ 0 then .fault (causeAt s codeAlign t) s else
  match taskRead s t 128 .rw with
  | .hold s => .hold s
  | .fault x s => .fault x s
  | .go c s =>
    match unitAt s s.cur.node (tenantOf (cc s)) t 128 .rw with
    | (.inl code, s) => .fault (causeAt s code t) s
    | (.inr _, s) =>
      let ctl := tcbCtl c
      let q := dqOf (cn s) (ctlDq ctl)
      if ctlNsib ctl = 0 ∨ 4096 < ctlNsib ctl then .fault (causeHere s codeIllegal) s
      else if (tcbViews c = 0) ≠ (tcbMarea c = 0) then .fault (causeHere s codeIllegal) s
      else if (tcbMarea c).toNat % 128 ≠ 0 then .fault (causeAt s codeAlign (tcbMarea c)) s
      else if (tcbViews c).toNat % 32 ≠ 0 then .fault (causeAt s codeAlign (tcbViews c)) s
      else if !dqEn q ∨ dqTenant q ≠ tenantOf (cc s) then .fault (causeHere s codePerm) s
      else spawnGroup s t c

/-- Changes the resident task of a core. -/
def modTask (s : State) (n c : Nat) (f : Task → Task) : State :=
  modCo s n c fun k => { k with task := k.task.map f }

/-- The effect of SPAWN (R381, R393): the group opens, the blanks and the child's bytes are written, the index rises and the
child is posted. -/
def spawnDo (s : State) (p : SpawnPlan) : State :=
  let n := s.cur.node
  let c := s.cur.core
  let k := cc s
  let ctl := tcbCtl p.c
  let g : Group := ⟨taskId k, c, tenantOf k, fld k.asid 5 0, k.ptRoot, ctlNsib ctl, 0, tcbViews p.c, tcbMarea p.c, p.table, [], 0,
    [], [], none, false, false⟩
  let s := if p.fresh then
      modTask (modNd s n fun d => { d with groups := smPut d.groups p.rec_ (some g) }) n c fun t => { t with group := some p.rec_ }
    else s
  let s := writeBlanks s (tcbMarea p.c) p.table p.k
  let new := putFld (putFld ctl 47 32 p.k) 19 14 (tenantOf k)
  let mid := (taskId k).toNat + bitsOf p.c 799 768 * 2 ^ 64 + (ginOf k).toNat * 2 ^ 96 + new.toNat * 2 ^ 128
  let s := taskWrite (taskWrite s (p.t + 88) 24 mid) (p.t + 120) 8 0
  let s := modGroup s n p.rec_ fun x => { x with spawned := p.k + 1 }
  post s n (tenantOf k) (ctlDq ctl) p.t true

/-- The pieces of lines that SPAWN writes: the blanks of its slot and the child's bytes (R393). -/
def spawnWrites (p : SpawnPlan) : List (Word × Nat) :=
  let lines := if p.table.isEmpty then 0 else viewsSize p.table / 128
  (upFrom 0 lines).map (fun i => (viewVa (tcbMarea p.c) p.table p.k 0 + BitVec.ofNat 64 (128 * i), 128))
  ++ [(p.t + 88, 24), (p.t + 120, 8)]

/-- Whether a write of SPAWN finds the HBM bucket of its class empty (R33, R34). -/
def spawnHold (s : State) (p : SpawnPlan) : Bool :=
  let n := s.cur.node
  let c := s.cur.core
  let cls := classOf (cc s)
  (bucketOf (cn s) cls).hbm == some 0 && (spawnWrites p).any fun w => match chk s n c w.1 w.2 .w with
    | .ok t s' => hbmHold s' n c cls (atHome t) w.2 true
    | _ => false

/-- SPAWN (R393). -/
def execSpawn (f : FE) (s : State) : Host.Outcome State Fault Refusal :=
  runOp { len := 2, tk := f.tk, seqs := [.ctrl], handler := false, flags := feFlags f, srcs := [f.a], flying := 1, now := false,
          pre := fun s => match spawnPre (reg s f.a) s with
            | .go p s' => if spawnHold s' p then .hold s else .go p s'
            | x => x,
          eff := fun p s => flyReg (spawnDo s p) f.d (BitVec.ofNat 64 p.k) 2 (pushKey s f.tk) f.sig } s

/-! Waiting for a group, and the end of a task. -/

/-- The wait of TWAIT and of a task's end for a group (R386, R387, R395): a recorded fault is raised once, and the group goes
on when the wait is made again. -/
def groupWait (s : State) (r : Nat) (g : Group) : Pre Unit :=
  match g.fault with
  | some (code, va) =>
    if g.raised then .hold (modGroup s s.cur.node r fun x => { x with fault := none, raised := false })
    else .fault { causeAt s codeMergeFault va with sub := code, agent := 0 }
      (modGroup s s.cur.node r fun x => { x with raised := true })
  | none => if g.done then .go () s else .hold s

/-- The core ends its task with DONE: nothing issues any more (R371, R394). -/
def endTask (s : State) (n c : Nat) : State :=
  modCo s n c fun k => { k with mode := .ending 0 5, leaving := false, preempt := none }

/-- The end of a task (R387, R394): once its open group is complete the core ends the task; the instruction stays at the
program counter, where a fault that arrives meanwhile finds it (R215). -/
def endPre (bad : Task → Bool) (s : State) : Pre Unit :=
  if bad (taskOf (cc s)) then .fault (causeHere s codeIllegal) s else
  match openGroup s with
  | none => .hold (endTask s s.cur.node s.cur.core)
  | some (r, g) => match groupWait s r g with
    | .go _ s => .hold (endTask s s.cur.node s.cur.core)
    | x => x

/-- An instruction that ends the task. -/
def endOp (f : FE) (bad : Task → Bool) : Op Unit :=
  { len := 2, tk := f.tk, seqs := [.ctrl], handler := false, flags := feFlags f, pre := endPre bad, eff := fun _ s => s,
    keep := true }

/-- MERGE (R394). -/
def execMerge (f : FE) (s : State) : Host.Outcome State Fault Refusal :=
  runOp (endOp f fun t => t.parent == 0 || t.views == 0) s

/-- TEND (R394). -/
def execTend (f : FE) (s : State) : Host.Outcome State Fault Refusal :=
  runOp (endOp f fun t => t.parent != 0 && t.views != 0) s

/-- TWAIT (R395). -/
def execTwait (f : FE) (s : State) : Host.Outcome State Fault Refusal :=
  runOp { len := 2, tk := f.tk, seqs := [.ctrl], handler := false, flags := feFlags f, flying := 1, now := false, keep := true,
          pre := fun s => match openGroup s with
            | none => .fault (causeHere s codeIllegal) s
            | some (r, g) =>
              if g.spawned < g.n then .fault (causeHere s codeIllegal) s else
              match groupWait s r g with
              | .go _ s => .go (r, g.n) s
              | .hold s => .hold s
              | .fault k s => .fault k s,
          eff := fun p s =>
            let n := s.cur.node
            let c := s.cur.core
            let s := acquireL1 s n c 3 true
            let s := modTask (closeGroup s n p.1) n c fun t => { t with group := none }
            flyReg s f.d (BitVec.ofNat 64 p.2) 2 (pushKey s f.tk) f.sig } s

/-- SUCCADD (R395): W permission is checked at issue; nothing is read or written. -/
def execSuccadd (f : FE) (s : State) : Host.Outcome State Fault Refusal :=
  runOp { len := 2, tk := f.tk, seqs := [.ctrl], handler := false, flags := feFlags f, srcs := [f.a],
          pre := fun s =>
            let v := reg s f.a
            if v.toNat % 128 ≠ 0 then .fault (causeAt s codeAlign v) s
            else if 16 ≤ (taskOf (cc s)).succ.length then .fault (causeHere s codeIllegal) s
            else match unitAt s s.cur.node (tenantOf (cc s)) v 128 .w with
              | (.inl code, s) => .fault (causeAt s code v) s
              | (.inr _, s) => .go v s,
          eff := fun v s =>
            signal (modTask s s.cur.node s.cur.core fun t => { t with succ := t.succ ++ [v] }) f.sig } s

/-! Pre-emption requests, YIELD and CANCEL. -/

/-- Requests a voluntary pre-emption (R380), of every member for a gang (R389). -/
def requestPreempt (s : State) (n c why : Nat) : State :=
  let ask (w : Nat) (s : State) (x : Nat) : State :=
    modCo s n x fun k => if k.preempt.isNone then { k with preempt := some w } else k
  let s := ask why s c
  match (taskOf (co s n c)).gang, gangOf s n c with
  | some g, some r =>
    (r.members.filter fun m => m.1 != g.m && taskId (co s n m.2.2) == m.2.1).foldl (fun s m => ask 3 s m.2.2) s
  | _, _ => s

/-- YIELD (R397). -/
def execYield (f : FE) (s : State) : Host.Outcome State Fault Refusal :=
  runOp { len := 2, tk := f.tk, seqs := [.ctrl], handler := false, flags := feFlags f, pre := preOk,
          eff := fun _ s =>
            let n := s.cur.node
            let c := s.cur.core
            signal (if (taskOf (cc s)).level < pickLevel (cn s) c then requestPreempt s n c 2 else s) f.sig } s

/-- Removes a pair from a node's list, and adds what waited for the place (R391, R396). -/
def clearCancel (s : State) (n t : Nat) (g : BitVec 32) : State :=
  admitCancels (modNd s n fun d => { d with cancels := d.cancels.filter fun p => p != (t, g) }) n 64

/-- CANCEL (R396): the token reaches the agents of the die at once and other nodes after the time of the fabric (log 35). -/
def execCancel (f : FE) (s : State) : Host.Outcome State Fault Refusal :=
  runOp { len := 2, tk := f.tk, seqs := [.ctrl], handler := false, flags := feFlags f, srcs := [f.a, f.b],
          pre := fun s =>
            if fld (reg s f.a) 63 32 ≠ 0 ∨ fld (reg s f.b) 63 2 ≠ 0 then .fault (causeHere s codeIllegal) s else .go () s,
          room := fun s =>
            bit (reg s f.b) 1 || decide ((cn s).cancels.length < 64),
          eff := fun _ s =>
            let n := s.cur.node
            let t := tenantOf (cc s)
            let g : BitVec 32 := (reg s f.a).setWidth 32
            let others := if bit (reg s f.b) 0 then (domainNodes s n).filter fun m => m != n else []
            let s := if bit (reg s f.b) 1 then others.foldl (fun s m => clearCancel s m t g) (clearCancel s n t g)
              else others.foldl (fun s m => travel s n m 32 (.cancelToken m t g)) (addCancel s n t g)
            signal s f.sig } s

/-! TSELF. -/

/-- The view table that the group of a task holds while it is open. -/
def ownTable (s : State) (t : Task) : Option (List (Word × Nat × Nat × Nat × Nat)) :=
  (cn s).groups.findSome? fun x => match x.2 with
    | some g => if g.parent == t.parent && g.tenant == ctlTenant t.ctl then some g.table else none
    | none => none

/-- The view table of the moving core's task: its group's, or as memory holds it once the group is closed. -/
def ownViews (s : State) (t : Task) : List (Word × Nat × Nat × Nat × Nat) :=
  match ownTable s t with
  | some l => l
  | none => match readViews t.views 8 s with
    | .go l _ => l
    | _ => []

/-- Whether TSELF's read of the view table has to wait (R33, R390). -/
def tselfWaits (s : State) (v : Word) : Bool :=
  let t := taskOf (cc s)
  fld v 63 11 == 0 && fld v 7 0 == 4 && t.views != 0 && (ownTable s t).isNone && (match readViews t.views 8 s with
    | .hold _ => true
    | _ => false)

/-- The value of TSELF, none where it faults ILLEGAL (R398). -/
def tselfWord (s : State) (v : Word) : Option Word :=
  let t := taskOf (cc s)
  let i := fld v 10 8
  let sel := fld v 7 0
  if fld v 63 11 ≠ 0 ∨ (sel ≠ 4 ∧ i ≠ 0) then none else
  match sel with
  | 0 => some t.tcb
  | 1 => some (if t.parent = 0 then 0 else BitVec.ofNat 64 (ctlSidx t.ctl + ctlNsib t.ctl * 2 ^ 16))
  | 2 => some (BitVec.ofNat 64 (s.cur.core + t.level * 2 ^ 12 + t.dq * 2 ^ 16))
  | 3 => some (match t.gang with | some g => BitVec.ofNat 64 (g.m + g.g * 256) | none => 0)
  | 4 =>
    if t.views = 0 then none else
    let l := ownViews s t
    if i < l.length then some (viewVa t.marea l (ctlSidx t.ctl) i) else none
  | _ => none

/-- TSELF (R398). -/
def execTself (f : FE) (s : State) : Host.Outcome State Fault Refusal :=
  runOp (feResult f [f.a] [.ctrl] 2 (fun s => if tselfWaits s (reg s f.a) then .hold s else match tselfWord s (reg s f.a) with
    | none => .fault (causeHere s codeIllegal) s
    | some v => .go v s) fun _ => true) s

/-! GANGJOIN. -/

/-- The gang record of a tenant and key. -/
def findGang (d : Node) (t : Nat) (key : BitVec 32) : Option (Nat × Gang) :=
  (upFrom 0 64).findSome? fun r => match gangRec d r with
    | some g => if g.tenant = t ∧ g.key = key then some (r, g) else none
    | none => none
/-- The lowest free gang record of the 64. -/
def freeGang (d : Node) : Option Nat := (upFrom 0 64).find? fun r => (gangRec d r).isNone

/-- Registers a member (R388, R399); with the last one the gang forms. -/
def registerMember (s : State) (r m : Nat) (g : Gang) : State :=
  let n := s.cur.node
  let c := s.cur.core
  let l := g.members ++ [(m, taskId (cc s), c)]
  let full := decide (l.length = g.g)
  let s := modNd s n fun d => { d with gangs := smPut d.gangs r (some { g with members := l, formed := full, since := s.now }) }
  let s := modTask s n c fun t => { t with waitGang := some (r, m) }
  if full then l.foldl (fun s x => modTask s n x.2.2 fun t => { t with gang := some ⟨r, x.1, g.g⟩ }) s else s

/-- The checks of GANGJOIN (R399): it registers and waits, and retires when the gang has formed: every member's in one cc
(R388), the one after the last registration, since the cores' turns of a cc come one after another (log 7). -/
def gangPre (key b : Word) (s : State) : Pre Nat :=
  let k := cc s
  let t := taskOf k
  let g := fld b 7 0
  let m := fld b 15 8
  let bad : Pre Nat := .fault (causeHere s codeIllegal) s
  if fld key 63 32 ≠ 0 ∨ fld b 63 16 ≠ 0 ∨ g = 0 ∨ g ≤ m then bad else
  match t.waitGang with
  | some w => (match gangRec (cn s) w.1 with
    | some r => if r.formed ∧ r.since < s.now then .go r.g s else .hold s
    | none => .hold (modTask s s.cur.node s.cur.core fun t => { t with waitGang := none }))
  | none =>
    if t.gang.isSome then bad else
    match findGang (cn s) (tenantOf k) (key.setWidth 32) with
    | some (r, x) =>
      if x.formed || x.members.any (fun y => y.1 == m) || x.g != g || x.gin != ginOf k || x.dq != t.dq || x.cls != classOf k then bad
      else .hold (registerMember s r m x)
    | none => match freeGang (cn s) with
      | none => .hold s
      | some r => .hold (registerMember s r m ⟨tenantOf k, key.setWidth 32, g, ginOf k, t.dq, classOf k, [], false, 0, [], []⟩)

/-- GANGJOIN (R399). -/
def execGangjoin (f : FE) (s : State) : Host.Outcome State Fault Refusal :=
  runOp { len := 2, tk := f.tk, seqs := [.ctrl], handler := false, flags := feFlags f, srcs := [f.a, f.b], flying := 1, now := false,
          keep := true, pre := fun s => gangPre (reg s f.a) (reg s f.b) s,
          eff := fun g s =>
            let s := modTask s s.cur.node s.cur.core fun t => { t with waitGang := none }
            flyReg s f.d (BitVec.ofNat 64 g) 2 (pushKey s f.tk) f.sig } s

/-! The merge engines. -/

/-- A line as a merge engine found its page: space, physical address, ZP. -/
structure MLine where
  va : Word
  sp : Space
  pa : Nat
  zp : Bool
  deriving DecidableEq, Repr

/-- The lines of a range, page by page checked (R386, point 1), or the code and address of the first failure. -/
def mergeLines (n root asid : Nat) (need : Need) : Nat → Word → Nat → State → Sum (Nat × Word) (List MLine) × State
  | 0, _, _, s => (.inr [], s)
  | fuel + 1, va, len, s =>
    if len = 0 then (.inr [], s) else
    let size := min len (65536 - va.toNat % 65536)
    match chkAs s n none (BitVec.ofNat 64 root) asid va size need with
    | .ok (.mem sp pa _ zp) s =>
      let here := (upFrom 0 (size / 128)).map fun i => (⟨va + BitVec.ofNat 64 (128 * i), sp, pa + 128 * i, zp⟩ : MLine)
      match mergeLines n root asid need fuel (va + BitVec.ofNat 64 size) (len - size) s with
      | (.inr l, s) => (.inr (here ++ l), s)
      | x => x
    | .fault code s => (.inl (code, va), s)
    | .ok _ s => (.inl (codeXlate, va), s)
    | .wait => (.inl (codeXlate, va), s)

/-- Reads lines (R386, point 2): the values, or the first poisoned line of a page without ZP; on one with ZP it reads zeros
and counts in the POISONZ of the core named. -/
def mergeRead (n c : Nat) : List MLine → State → Sum (Nat × Word) (List Nat) × State
  | [], s => (.inr [], s)
  | l :: r, s =>
    let s := touch s n none l.sp l.pa 128 false
    let p := isPoison (nd s n) l.sp l.pa
    if p && !l.zp then (.inl (codePoison, l.va), s) else
    let v := if p then 0 else homeRead (nd s n) l.sp l.pa 128
    match mergeRead n c r (if p then addPoisonZ s n c else s) with
    | (.inr vs, s) => (.inr (v :: vs), s)
    | x => x

/-- One view's part of a step, whole or not at all (R386): destination := OP(destination, source). -/
def mergeView (s : State) (n c : Nat) (g : Group) (v : Word × Nat × Nat × Nat × Nat) (dst src : Word) :
    Option (Nat × Word) × State :=
  let fuel := vLen v / 65536 + 2
  match mergeLines n g.root.toNat g.asid .rw fuel dst (vLen v) s with
  | (.inl f, s) => (some f, s)
  | (.inr dl, s) =>
    match mergeLines n g.root.toNat g.asid .r fuel src (vLen v) s with
    | (.inl f, s) => (some f, s)
    | (.inr sl, s) =>
      match mergeRead n c dl s with
      | (.inl f, s) => (some f, s)
      | (.inr xs, s) =>
        match mergeRead n c sl s with
        | (.inl f, s) => (some f, s)
        | (.inr ys, s) =>
          let put (s : State) (e : MLine × Nat × Nat) : State :=
            let s := touch s n none e.1.sp e.1.pa 128 true
            modNd s n fun d => homeWrite d e.1.sp e.1.pa 128 (fullMask 128) (blockOp (vEt v) (vOper v) (vB8 v) e.2.1 e.2.2)
          (none, (dl.zip (xs.zip ys)).foldl put s)

/-- The views from index `i` on: how far it came, and the fault that stopped it. -/
def mergeViews (n c : Nat) (g : Group) (dst src : Nat → Word) :
    List (Word × Nat × Nat × Nat × Nat) → Nat → State → Nat × Option (Nat × Word) × State
  | [], i, s => (i, none, s)
  | v :: r, i, s =>
    match mergeView s n c g v (dst i) (src i) with
    | (some f, s) => (i, some f, s)
    | (none, s) => mergeViews n c g dst src r (i + 1) s

/-- The first tree node whose two halves are complete (R384). -/
def dueStep (done : List (Nat × Nat)) : Nat → Nat → Nat → Option (Nat × Nat × Nat)
  | 0, _, _ => none
  | fuel + 1, a, b =>
    if b ≤ a || done.contains (a, b) then none else
    let m := split a b
    if done.contains (a, m - 1) && done.contains (m, b) then some (a, m, b)
    else match dueStep done fuel a (m - 1) with
      | some x => some x
      | none => dueStep done fuel m b

/-- The core of the child whose retirement made a step due: of its two halves, the one completed last (R386). -/
def stepCore (g : Group) (a m b : Nat) : Nat :=
  match g.complete.find? fun p => p == (a, m - 1) || p == (m, b) with
  | some p => smGet g.who 0 (4096 * p.1 + p.2)
  | none => 0

/-- Whether a group has a step or its final fold due, and the merge engine that performs it acts in this cc: that of the quad
of the child whose retirement made it due, at that quad's clock (R35, R384, R386). -/
def mergeDue (s : State) (n r : Nat) : Bool :=
  match groupOfRec (nd s n) r with
  | none => false
  | some g => g.fault.isNone && !g.done && g.views != 0 && match dueStep g.complete 13 0 (g.n - 1) with
    | some (a, m, b) => coreActs s n (stepCore g a m b)
    | none => g.complete.contains (0, g.n - 1) && coreActs s n (smGet g.who 0 (g.n - 1))

/-- MERGE_STEP (R384, R386): one step of a group's tree, or the final fold, from the first view not yet applied. -/
def execMergeStep (n g : Nat) (s : State) : Host.Outcome State Fault Refusal :=
  if !mergeDue s n g then .next s else
  match groupOfRec (nd s n) g with
  | none => .next s
  | some x =>
    match dueStep x.complete 13 0 (x.n - 1) with
    | some (a, m, b) =>
      let key := 4096 * a + b
      let i := smGet x.at_ 0 key
      let c := stepCore x a m b
      let r := mergeViews n c x (viewVa x.marea x.table a) (viewVa x.marea x.table m) (x.table.drop i) i s
      .next (modGroup r.2.2 n g fun y => match r.2.1 with
        | some f => { y with fault := some f, at_ := smPut y.at_ key r.1 }
        | none => { y with complete := (a, b) :: y.complete.filter (fun p => p != (a, m - 1) && p != (m, b)),
                           who := smPut y.who key c, at_ := smDel y.at_ key })
    | none =>
      let c := smGet x.who 0 (x.n - 1)
      let base (i : Nat) : Word := match x.table[i]? with | some v => vBase v | none => 0
      let r := mergeViews n c x base (viewVa x.marea x.table 0) (x.table.drop x.fold) x.fold s
      .next (modGroup r.2.2 n g fun y => match r.2.1 with
        | some f => { y with fault := some f, fold := r.1 }
        | none => { y with fold := r.1, done := true })

end Sys2Proof.Machine
end

