-- ==== Sys2Proof/Machine/System.lean ====
section
/-! DEFINITION. Voluntary pre-emption and saving (R415 to R420), the disposal of a held context by TRET and by the host
(R424, R453), and the other SYS instructions (R423 to R434) with the steps that complete them. -/

namespace Sys2Proof.Machine

/-! Voluntary pre-emption. -/

/-- Whether a core's voluntary cut is taken now (R121, R177, R415): every sequencer has stood at a quiet point since the
core began to be left, and the reduction that ran then has retired. -/
def preemptDue (s : State) (n c : Nat) : Bool :=
  let k := co s n c
  k.mode == .run && k.leaving && k.red.isNone && k.ret.isNone

/-- Whether every token FIFO and queue register of a core is empty (R73, R416). -/
def betweenEmpty (k : Core) : Bool :=
  (k.fifos.all fun f => f.2.n == 0 && f.2.v == 0) && k.queues.all fun q => q.2.entries.isEmpty

/-- PREEMPTION_CUT (R415, R416). -/
def execPreemptionCut (n c : Nat) (s : State) : Host.Outcome State Fault Refusal :=
  if !preemptDue s n c then .next s else
  let k := co s n c
  let why := k.preempt.getD 0
  let s := modCo s n c fun k => { k with preempt := none }
  .next (takeTrap s n c
    (if betweenEmpty k then ⟨codeBudget, why, 8, false, true, 0, 0⟩ else ⟨codeQuietSpan, 1, 8, false, false, 0, 0⟩))

/-- Whether every member of a core's gang has been taken too (R389). -/
def gangTaken (s : State) (n c : Nat) : Bool :=
  match (co s n c).task, gangOf s n c with
  | some t, some g => g.members.all fun m =>
      let k := co s n m.2.2
      (taskId k == m.2.1 && k.mode == .saving) || (gangEntries (nd s n) t.dq (match t.gang with | some x => x.rec_ | none => 0)).any
        fun e => e.tcb == m.2.1
  | _, _ => true

/-- Whether a core's context may be saved: its window stores are acknowledged (R215), and its gang is taken (R389). -/
def saveDue (s : State) (n c : Nat) : Bool :=
  let k := co s n c
  k.mode == .saving && k.winOut.isEmpty && (k.saveHeld.isSome || gangTaken s n c)

/-- A save that cannot be made (R420, R453): a kind-2 record with SAVEAREA and its SUB; a pre-emption is abandoned and the
task resumes, a context that the host holds stays held. -/
def abandonSave (s : State) (n c sub : Nat) (va : Word) : State :=
  let s := postAttn s n 2 c (codeSaveArea + 256 * sub) va
  match (co s n c).saveHeld with
  | some h => modCo s n c fun k => { k with mode := .hostHeld h.1 h.2, saveHeld := none }
  | none => resume s n c (s.now + 1)

/-- CONTEXT_SAVE (R420): the context goes to the head of the pool, STATUS PREEMPTED and LINK are written, the task is pushed
again and the core is free. -/
def execContextSave (n c : Nat) (s : State) : Host.Outcome State Fault Refusal :=
  if !saveDue s n c then .next s else
  match (co s n c).task with
  | none => .next s
  | some t =>
    let s := endRelease s n c true
    if !(co s n c).detBuf.isEmpty then .next s else
    let va := (nd s n).saveArea
    if va = 0 then .next (abandonSave s n c 0 0) else
    match devRead s n (some c) (va + 16) 8 with
    | (.inl code, s) => .next (abandonSave s n c code va)
    | (.inr chain, s) =>
      match saveContext s n c va (nd s n).saveLen.toNat with
      | (.inl code, s) => .next (abandonSave s n c code va)
      | (.inr _, s) => .next (requeueTask (modNd s n fun d => { d with saveArea := BitVec.ofNat 64 chain }) n c t (some va))

/-! The disposal of a held context. -/

/-- A context is discarded (R424): its engine entries go with it; collective entries stay (R359), and one that a join of it
held back goes on unless the saved context holds that join. -/
def discardContext (s : State) (n c : Nat) (saved : Bool) : State :=
  let s := if saved then s else forgetJoins s n ((ownJoins (co s n c)).map fun j => j.id)
  collWakeAll (modCo s n c fun k =>
    { k with cq := [], mq := [], pq := [], msgq := othersMsgs k, red := none, ret := none, joins := k.joins.filter fun j => j.stay,
             collq := if saved then collStays k else k.collq.filter fun e => !ownJoinEntry k e,
             landing := [], inflight := [], loads := [], blks := [] }) n

/-- The sends and writes of a context that is discarded for good are accepted no more (R312, R424). -/
def forgetSends (s : State) (n c : Nat) : State :=
  let k := co s n c
  let mine := k.msgq.filter fun e => e.joinId.isNone && e.owner == taskId k && e.tenant == tenantOf k && e.stage == .queued && e.op != .read
  mine.foldl (fun s e => modEp s n e.ep fun y => { y with sendPend := y.sendPend - 1 }) s

/-- Disposes of a held context (R424, R453): 0 RESUME at `t0`, 1 END, 2 REQUEUE, 3 RERUN, 4 CANCEL. The core leaves the
handler; after 1 to 4 it is freed by the steps of R371. -/
def dispose (s : State) (n c action code t0 : Nat) : State :=
  let held := fld (co s n c).trapCause 7 0
  let s := modCo s n c fun k => { k with hseq := {}, himg := (0, 0, 0, 0) }
  let ends (code st : Nat) (s : State) : State := modCo s n c fun k => { k with mode := .ending code st, landing := [], resumeAt := 0 }
  match action with
  | 0 => resume s n c t0
  | 1 => ends (if code = 0 then held else code) 6 s
  | 2 => ends 1 4 (discardContext s n c true)
  | 3 => ends 1 2 (discardContext (forgetSends s n c) n c false)
  | _ => ends codeCancelled 7 s

/-- A SYS instruction's common parts (R423). -/
def sysPriv (s : State) : Bool := !privileged (cc s)

/-- TRET (R424). -/
def execTret (f : FE) (s : State) : Host.Outcome State Fault Refusal :=
  runOp { len := 2, tk := f.tk, seqs := [.ctrl], illegal := fun s => !inHandler (cc s), priv := sysPriv, flags := feFlags f,
          srcs := [f.a, f.b],
          pre := fun s =>
            let a := (reg s f.a).toNat
            if 4 < a ∨ fld (reg s f.b) 63 8 ≠ 0 ∨ (a = 2 ∧ (cc s).saved.isNone) then .fault (causeHere s codeIllegal) s
            else .go (a, fld (reg s f.b) 7 0) s,
          eff := fun p s => dispose (signal s f.sig) s.cur.node s.cur.core p.1 p.2 (s.now + 4) } s

/-- A SAVEAREA fault of the moving sequencer with its SUB (R420). -/
def saveFault (s : State) (sub : Nat) (va : Word) : Cause := { causeAt s codeSaveArea va with sub := sub }

/-- CTXSAVE (R425): held until the window stores of the context are acknowledged (R215). -/
def execCtxsave (f : FE) (s : State) : Host.Outcome State Fault Refusal :=
  runOp { len := 2, tk := f.tk, seqs := [.ctrl], illegal := fun s => !inHandler (cc s), priv := sysPriv, flags := feFlags f,
          srcs := [f.a, f.b], flying := 1, now := false,
          pre := fun s =>
            let va := reg s f.a
            if va.toNat % 65536 ≠ 0 then .fault (causeAt s codeAlign va) s
            else if !(cc s).winOut.isEmpty then .hold s
            else match saveContext s s.cur.node s.cur.core va (reg s f.b).toNat with
              | (.inl code, s) => .fault (saveFault s code va) s
              | (.inr _, s) => .go va s,
          eff := fun va s =>
            let s := modCc s fun k => { k with saved := some va, trapCause := k.trapCause ||| 0x800000 }
            flyReg s f.d (BitVec.ofNat 64 (areaNeed (cc s))) 2 (pushKey s f.tk) f.sig } s

/-- Whether a tenant has an enabled dispatch queue on a node (R426). -/
def tenantQueue (d : Node) (t : Nat) : Bool := (upFrom 0 16).any fun q => dqEn (dqOf d q) && dqTenant (dqOf d q) == t

/-- What CTXLOAD finds (R426). The ring numbers of the loaded context must be free once those of the held one are (log 30). -/
def ctxloadPre (va : Word) (s : State) : Pre (Core × List (Nat × Ring)) :=
  let n := s.cur.node
  let c := s.cur.core
  if (cc s).saved.isNone then .fault (causeHere s codeIllegal) s
  else if va.toNat % 65536 ≠ 0 then .fault (causeAt s codeAlign va) s
  else match loadContext s n c va with
    | (.inl code, s') => .fault (saveFault s code va) s'
    | (.inr x, s') =>
      let taken (r : Nat) : Bool := match smGet (qd s n (quadOf c)).rings {} r with | y => y.valid && y.core != c
      if !tenantQueue (nd s n) (tenantOf x.1) || x.2.any (fun r => taken r.1) then .fault (saveFault s 0 va) s'
      else .go x s'

/-- The loaded context becomes the held one (R426): CTRL stays in the handler. -/
def ctxloadDo (s : State) (x : Core × List (Nat × Ring)) : State :=
  let n := s.cur.node
  let c := s.cur.core
  let old := cc s
  let r := adoptContext (freeCore s n c true) n c x.1 x.2
  modCo r.2 n c fun k =>
    { k with mode := .handler, hseq := old.hseq, himg := old.himg, saved := none, inflight := old.inflight,
             trapCause := x.1.trapCause &&& ~~~(0x800000 : Word), trapAddr := x.1.trapAddr, msgref := x.1.msgref }

/-- CTXLOAD (R426). -/
def execCtxload (f : FE) (s : State) : Host.Outcome State Fault Refusal :=
  runOp { len := 2, tk := f.tk, seqs := [.ctrl], illegal := fun s => !inHandler (cc s), priv := sysPriv, flags := feFlags f,
          srcs := [f.a], pre := fun s => ctxloadPre (reg s f.a) s,
          eff := fun x s =>
            let va := reg s f.a
            signal (dropArea (ctxloadDo s x) s.cur.node (some s.cur.core) va) f.sig } s

/-! What the host does with a held context (R453). -/

/-- Applies a host action to a held context; ignored while none is held. -/
def hostAction (s : State) (n c action code : Nat) : State :=
  match (co s n c).mode with
  | .hostHeld .. => if action = 2 ∧ (co s n c).saved.isNone then s else dispose s n c action code (s.now + 4)
  | _ => s

/-- SAVEQ (R453): the context-save engine takes the held context. -/
def hostSaveq (s : State) (n c : Nat) : State :=
  match (co s n c).mode with
  | .hostHeld h k => modCo s n c fun x => { x with mode := .saving, saveHeld := some (h, k) }
  | _ => s

/-- CORECTL RESUME (R453). -/
def execCorectlResume (n c : Nat) (s : State) : Host.Outcome State Fault Refusal := .next (hostAction s n c 0 0)
/-- CORECTL END (R453). -/
def execCorectlEnd (n c code : Nat) (s : State) : Host.Outcome State Fault Refusal := .next (hostAction s n c 1 (code % 256))
/-- CORECTL REQUEUE (R453). -/
def execCorectlRequeue (n c : Nat) (s : State) : Host.Outcome State Fault Refusal := .next (hostAction s n c 2 0)
/-- CORECTL RERUN (R453). -/
def execCorectlRerun (n c : Nat) (s : State) : Host.Outcome State Fault Refusal := .next (hostAction s n c 3 0)
/-- CORECTL CANCEL (R453). -/
def execCorectlCancel (n c : Nat) (s : State) : Host.Outcome State Fault Refusal := .next (hostAction s n c 4 0)
/-- CORECTL SAVEQ (R453). -/
def execCorectlSaveq (n c : Nat) (s : State) : Host.Outcome State Fault Refusal := .next (hostSaveq s n c)

/-! TLBINV. -/

/-- Whether a TLB entry is one that TLBINV removes (R427). -/
def tlbHit (asid mode : Nat) (va : Word) (e : TlbEntry) : Bool :=
  match mode with
  | 0 => e.asid == asid && decide (e.base ≤ va.toNat % 2 ^ 48) && decide (va.toNat % 2 ^ 48 < e.base + e.size)
  | 1 => e.asid == asid
  | _ => true

/-- Whether a table pointer of the walk cache is one that TLBINV removes (R427). -/
def walkHit (asid mode : Nat) (va : Word) (p : WalkPtr) : Bool :=
  match mode with
  | 0 => p.asid == asid && p.pref == walkPref p.level (va.toNat % 2 ^ 48)
  | 1 => p.asid == asid
  | _ => true

/-- Removes translations from every TLB and the walk cache of a die (R427). The dirty L1 lines of the die go down first, so
that the stores which used a removed entry are performed at its scope (log 49). -/
def tlbRemove (s : State) (n asid mode : Nat) (va : Word) : State :=
  let keep (l : List TlbEntry) : List TlbEntry := l.filter fun e => !tlbHit asid mode va e
  let s := (nd s n).cores.foldl (fun s x => releaseL1 s n x.1 3 true) s
  modNd s n fun d =>
    { d with walks := d.walks.filter fun p => !walkHit asid mode va p,
             cores := d.cores.map fun x => (x.1, { x.2 with tlb := keep x.2.tlb }),
             quads := d.quads.map fun x => (x.1, { x.2 with tlb := keep x.2.tlb }) }

/-- The cc when every access of a node that was translated before and is not yet performed will have been (R427). -/
def pendingUntil (s : State) (n : Nat) : Nat :=
  s.timers.foldl (fun m t => match t.2 with
    | .blkRetire k _ _ => if k = n then max m t.1 else m
    | .atomicPerform k _ _ => if k = n then max m t.1 else m
    | _ => m) s.now

/-- Whether a DETERM entry lies in the page of a TLB entry, by its physical address. -/
def detUnder (l : List TlbEntry) (e : DetEntry) : Bool :=
  l.any fun t =>
    let lo := fld t.pte 51 16 * 2 ^ 16
    locSpace (fld t.pte 9 8) == some e.sp && decide (lo ≤ e.pa) && decide (e.pa < lo + t.size)

/-- The DETERM entries of a die that are not published. -/
def detOpen (d : Node) : List DetEntry := d.cores.flatMap (fun x => x.2.detBuf) ++ d.staged

/-- The DETERM stores of a die which used an entry that TLBINV removes and are not published (R221, R235, R427). -/
def detsUnder (d : Node) (asid mode : Nat) (va : Word) : List (Nat × Nat) :=
  let gone := (d.cores.flatMap (fun x => x.2.tlb) ++ d.quads.flatMap (fun x => x.2.tlb)).filter (tlbHit asid mode va)
  ((detOpen d).filter (detUnder gone)).map fun e => (e.core, e.serial)

/-- Whether the accesses of a die that a removal waits for are performed (R427). -/
def tlbQuiet (s : State) (n due : Nat) (dets : List (Nat × Nat)) : Bool :=
  decide (due ≤ s.now) && (dets.isEmpty || !((detOpen (nd s n)).any fun e => dets.contains (e.core, e.serial)))

/-- TLBINV's operands (R427). -/
def tlbinvOk (b : Word) : Bool := b &&& ~~~(0x133F : Word) == 0 && fld b 9 8 != 3

/-- The other nodes that a TLBINV covers (R427). -/
def tlbOthers (s : State) (b : Word) : List Nat :=
  if bit b 12 then (domainNodes s s.cur.node).filter fun m => m != s.cur.node else []

/-- TLBINV begins (R427): the translations of this die go at once, and the other nodes are asked for theirs. -/
def tlbBegin (s : State) (b va : Word) : State :=
  let n := s.cur.node
  let c := s.cur.core
  let others := tlbOthers s b
  let w : TlbWait := ⟨others, s.now, pendingUntil s n, detsUnder (nd s n) (fld b 5 0) (fld b 9 8) va, false⟩
  let s := modCc (tlbRemove s n (fld b 5 0) (fld b 9 8) va) fun k => { k with tlbWait := some w }
  let s := others.foldl (fun s m => travel s n m 32 (.remoteTlbinv m n c (fld b 5 0) (fld b 9 8) va)) s
  if others.isEmpty then s else schedule s peerTime (.tlbinvPeergone n c)

/-- What TLBINV finds each time it is tested: it is held at issue until all is gone and performed (R423, R427). -/
def tlbTest (s : State) : Pre Unit :=
  match (cc s).tlbWait with
  | none => .hold s
  | some w =>
    if w.gone then .fault (causeHere s codePeerGone) s
    else if w.left.isEmpty && tlbQuiet s s.cur.node w.due w.dets then .go () s
    else .hold s

/-- TLBINV (R427): CTRL waits at issue for the accesses that used removed translations, and, with DOMAIN, for the answers of the
other nodes. -/
def execTlbinv (f : FE) (s : State) : Host.Outcome State Fault Refusal :=
  runOp { len := 2, tk := f.tk, seqs := [.ctrl], priv := sysPriv, flags := feFlags f, srcs := [f.a, f.b], keep := true,
          pre := fun s =>
            let b := reg s f.b
            if !tlbinvOk b then .fault (causeHere s codeIllegal) s
            else if (cc s).tlbWait.isSome then tlbTest s
            else if (tlbOthers s b).any (isLost s s.cur.node) then .fault (causeHere s codePeerGone) s
            else tlbTest (tlbBegin s b (reg s f.a)),
          eff := fun _ s => signal (modCc s fun k => { k with tlbWait := none }) f.sig } s

/-- The removals asked of a die, those that can be answered apart; those of one core are answered in order. -/
def answerable (s : State) (n : Nat) : List (Nat × Nat) → List TlbAsk → List TlbAsk × List TlbAsk
  | _, [] => ([], [])
  | behind, a :: r =>
    if !behind.contains (a.src, a.core) && tlbQuiet s n a.due a.dets then
      let x := answerable s n behind r
      (a :: x.1, x.2)
    else
      let x := answerable s n ((a.src, a.core) :: behind) r
      (x.1, a :: x.2)

/-- Answers the removals of a die that are done (R427). -/
def tlbAnswers (s : State) (n : Nat) : State :=
  if (nd s n).tlbAsks.isEmpty then s else
  let x := answerable s n [] (nd s n).tlbAsks
  x.1.foldl (fun s a => travel s n a.src 32 (.tlbinvAnswer a.src a.core n)) (modNd s n fun d => { d with tlbAsks := x.2 })

/-- REMOTE_TLBINV (R427): the translations of this die go at once; the answer waits for the accesses that used them. -/
def execRemoteTlbinv (n src core asid mode : Nat) (va : Word) (s : State) : Host.Outcome State Fault Refusal :=
  let a : TlbAsk := ⟨src, core, pendingUntil s n, detsUnder (nd s n) asid mode va⟩
  .next (tlbAnswers (modNd (tlbRemove s n asid mode va) n fun d => { d with tlbAsks := d.tlbAsks ++ [a] }) n)

/-- TLBINV_ANSWER (R427): a node has answered, an earlier TLBINV that a trap left unissued first. -/
def execTlbinvAnswer (n c src : Nat) (s : State) : Host.Outcome State Fault Refusal :=
  .next (modCo s n c fun k =>
    if k.tlbOwed.contains src then { k with tlbOwed := k.tlbOwed.erase src }
    else { k with tlbWait := k.tlbWait.map fun w => { w with left := w.left.filter fun m => m != src } })

/-- TLBINV_PEERGONE (R427): 10 frames without an answer, or a node that has been declared lost: the TLBINV that waits faults. -/
def execTlbinvPeergone (n c : Nat) (s : State) : Host.Outcome State Fault Refusal :=
  .next (modCo s n c fun k => { k with tlbWait := k.tlbWait.map fun w =>
    if !w.left.isEmpty && (decide (w.sent + peerTime ≤ s.now) || w.left.any (isLost s n)) then { w with gone := true } else w })

/-! Attention, tenants, budgets, thermal levels, retention. -/

/-- ATTN (R428). -/
def execAttn (f : FE) (s : State) : Host.Outcome State Fault Refusal :=
  runOp { len := 2, tk := f.tk, seqs := [.ctrl], flags := feFlags f, srcs := [f.a, f.b],
          pre := fun s => if fld (reg s f.a) 63 16 ≠ 0 then .fault (causeHere s codeIllegal) s else .go () s,
          room := fun s => decide (((cn s).attHead - (cn s).attTail).toNat < 64),
          eff := fun _ s => signal (postAttn s s.cur.node 0 s.cur.core (fld (reg s f.a) 15 0) (reg s f.b)) f.sig } s

/-- The value a tenant's word takes (R269, R321, R429): reserved bits cleared, none where a field is out of its range. -/
def tnWord (w : Nat) (v : Word) : Option Word :=
  match w with
  | 0 => if 65536 < fld v 49 33 then none else some (v &&& 0x3FFFFFFFEFFFF)
  | 1 => if 2 ^ 26 < fld v 55 29 ∨ fld v 28 0 % 8 ≠ 0 then none else some (v &&& 0xFFFFFFFFFFFFFF)
  | 2 => if 12 < fld v 44 41 ∨ fld v 28 0 % 512 ≠ 0 then none else some (v &&& 0xFFFF1E001FFFFFFF)
  | 3 => if 12 < fld v 44 41 ∨ fld v 28 0 % 512 ≠ 0 then none else some (v &&& 0x00001E001FFFFFFF)
  | 4 => if 640 < fld v 9 0 then none else some (v &&& 0xFFF)
  | _ => none
/-- A tenant's word as it stands. -/
def tnOld (d : Node) (t w : Nat) : Word := if w = 4 then smGet d.leaseW 0 t else prismWordOf d t w

/-- TNSET (R429): the new word is used from the next cc on. -/
def execTnset (f : FE) (s : State) : Host.Outcome State Fault Refusal :=
  runOp { len := 2, tk := f.tk, seqs := [.ctrl], priv := sysPriv, flags := feFlags f, srcs := [f.a, f.b], flying := 1, now := false,
          pre := fun s =>
            let a := reg s f.a
            if a &&& ~~~(0x73F : Word) ≠ 0 then .fault (causeHere s codeIllegal) s
            else match tnWord (fld a 10 8) (reg s f.b) with
              | none => .fault (causeHere s codeIllegal) s
              | some v => .go (fld a 5 0, fld a 10 8, v) s,
          eff := fun p s =>
            let old := tnOld (cn s) p.1 p.2.1
            flyReg (later s (.tnWord s.cur.node p.1 p.2.1 p.2.2)) f.d old 2 (pushKey s f.tk) f.sig } s

/-- TENANT_CONFIG_WRITE (R451): as TNSET of the same word; accepted in PHASE 3 and 4, a refused word stays. -/
def tenantWrite (s : State) (n t w : Nat) (v : Word) : State :=
  let ph := (nd s n).phase
  if (ph ≠ 3 ∧ ph ≠ 4) ∨ 64 ≤ t then s
  else match tnWord w v with
    | none => s
    | some x => later s (.tnWord n t w x)

/-- TENANT_CONFIG_WRITE (R451). -/
def execTenantConfigWrite (n t w : Nat) (v : Word) (s : State) : Host.Outcome State Fault Refusal := .next (tenantWrite s n t w v)

/-- BUDSET (R430): used from the next refill on. -/
def execBudset (f : FE) (s : State) : Host.Outcome State Fault Refusal :=
  runOp { len := 2, tk := f.tk, seqs := [.ctrl], priv := sysPriv, flags := feFlags f, srcs := [f.a, f.b], flying := 1, now := false,
          pre := fun s => if fld (reg s f.a) 63 4 ≠ 0 then .fault (causeHere s codeIllegal) s else .go (fld (reg s f.a) 3 0) s,
          eff := fun k s =>
            let old := budgetWord (cn s) k
            let v := reg s f.b &&& 0xFFFFFFFFFFFFFFF0
            flyReg (later s (.nodeReg s.cur.node (0x10 + k) v)) f.d old 2 (pushKey s f.tk) f.sig } s

/-- THERMRD's value (R431). -/
def thermWord (q : Quad) : Word := BitVec.ofNat 64 (q.level + q.temp % 256 * 256 + min q.age 65535 * 65536)

/-- THERMRD (R431). -/
def execThermrd (f : FE) (s : State) : Host.Outcome State Fault Refusal :=
  runOp { len := 2, tk := f.tk, seqs := [.ctrl], flags := feFlags f, srcs := [f.a], flying := 1, now := false,
          pre := fun s =>
            if fld (reg s f.a) 63 6 ≠ 0 then .fault (causeHere s codeIllegal) s
            else .go (thermWord (qd s s.cur.node (fld (reg s f.a) 5 0))) s,
          eff := fun v s => flyReg s f.d v 12 (pushKey s f.tk) f.sig } s

/-- A slice of a node. -/
def slcOf (d : Node) (sl : Nat) : Slice := smGet d.slices {} sl
/-- Changes it. -/
def modSlc (s : State) (n sl : Nat) (f : Slice → Slice) : State :=
  modNd s n fun d => { d with slices := smPut d.slices sl (f (slcOf d sl)) }

/-- A slice begins its exit from retention (R208). -/
def beginExit (s : State) (n sl : Nat) : State :=
  let t := s.now + Config.latRetain
  schedule (modSlc s n sl fun x => { x with state := 3, until_ := t, wake := false, wakeAt := none }) Config.latRetain (.retentionExitDone n sl)

/-- Whether a slice leaves retention as soon as it has entered it (R208, R433). -/
def slcWakes (x : Slice) : Bool := x.wake || x.wakeAt.isSome

/-- RETAIN of one slice: whether it changed (R433, log 31). A slice that is entering stays in where the WAKE of this frame alone
would have it leave; one that will leave in any case is marked as others are. -/
def retainOne (n : Nat) (a : Nat × State) (sl : Nat) : Nat × State :=
  let x := slcOf (nd a.2 n) sl
  if x.state = 2 ∨ (x.state = 1 ∧ slcWakes x = false) then a
  else if x.state = 1 ∧ x.wake = false ∧ x.wakeAt = some (frameOf a.2 n) then
    (a.1 + 1, modSlc a.2 n sl fun y => { y with wakeAt := none })
  else if x.retain then a
  else (a.1 + 1, modSlc a.2 n sl fun y => { y with retain := true })

/-- WAKE of one slice: whether it changed (R433, log 31). -/
def wakeOne (n : Nat) (a : Nat × State) (sl : Nat) : Nat × State :=
  let x := slcOf (nd a.2 n) sl
  match x.state with
  | 1 => if slcWakes x && !x.retain then a
         else (a.1 + 1, modSlc a.2 n sl fun y =>
           { y with wakeAt := some (y.wakeAt.getD (frameOf a.2 n)), retain := false })
  | 2 => (a.1 + 1, beginExit a.2 n sl)
  | _ => if x.retain then (a.1 + 1, modSlc a.2 n sl fun y => { y with retain := false }) else a

/-- RETAIN and WAKE (R433). -/
def sliceOp (f : FE) (one : Nat → Nat × State → Nat → Nat × State) : Op Unit :=
  { len := 2, tk := f.tk, seqs := [.ctrl], priv := sysPriv, flags := feFlags f, srcs := [f.a, f.b], flying := 1, now := false,
    pre := fun s =>
      let a := (reg s f.a).toNat
      let b := (reg s f.b).toNat
      if b = 0 ∨ 512 < b ∨ 512 < a + b then .fault (causeHere s codeIllegal) s else .go () s,
    eff := fun _ s =>
      let r := (upFrom (reg s f.a).toNat (reg s f.b).toNat).foldl (one s.cur.node) (0, s)
      flyReg r.2 f.d (BitVec.ofNat 64 r.1) 2 (pushKey s f.tk) f.sig }

/-- RETAIN (R433). -/
def execRetain (f : FE) (s : State) : Host.Outcome State Fault Refusal := runOp (sliceOp f retainOne) s

/-- WAKE (R433). -/
def execWake (f : FE) (s : State) : Host.Outcome State Fault Refusal := runOp (sliceOp f wakeOne) s

/-- RETENTION_ENTRY_DONE (R208): the slice is in retention, or leaves it at once when an access or a WAKE has come. -/
def execRetentionEntryDone (n sl : Nat) (s : State) : Host.Outcome State Fault Refusal :=
  let x := slcOf (nd s n) sl
  if x.state ≠ 1 then .next s
  else if slcWakes x then .next (beginExit s n sl)
  else .next (modSlc s n sl fun y => { y with state := 2, until_ := 0 })

/-- RETENTION_EXIT_DONE (R208). -/
def execRetentionExitDone (n sl : Nat) (s : State) : Host.Outcome State Fault Refusal :=
  .next (if (slcOf (nd s n) sl).state = 3 then modSlc s n sl fun y => { y with state := 0, until_ := 0, idle := 0 } else s)

end Sys2Proof.Machine
end

