-- ==== Sys2Proof/Machine/Boot.lean ====
section
/-! DEFINITION. The host's side of a node: module reset and start-up (R447 to R449, R454), attestation (R455), the register
window as the host writes it (R445 to R453), its accesses of HBM (R444), node loss (R450) and hardware failures (R209, R444). -/

namespace Sys2Proof.Machine

/-! Start-up. -/

/-- A node after module reset: every register at its Reset value (R449), and its cores count their cycles from this cc on
(R115). What is not the module's stands as it was: host memory, the readings of the sensors and the modules of the host link. -/
def nodeAfterReset (now : Nat) (d : Node) : Node :=
  let q := (upFrom 0 64).map fun q => (q, ({ sensor := (smGet d.quads {} q).sensor, since := now } : Quad))
  { Node.reset with host := d.host, power := d.power, ucie := d.ucie, quads := q }

/-- The node at which an event happens; none of an instruction. -/
def eventNode : Instr → Option Nat
  | .romCheck n => some n
  | .bringup n => some n
  | .start n => some n
  | .attestationReport n => some n
  | .frameBoundary n => some n
  | .retentionEntryDone n .. => some n
  | .retentionExitDone n .. => some n
  | .budgetExhausted n .. => some n
  | .flitReceive n .. => some n
  | .moreRequest n .. => some n
  | .alignFlit n .. => some n
  | .ackReceive n .. => some n
  | .progArrival n .. => some n
  | .progHop n .. => some n
  | .dataDelivery n .. => some n
  | .deliveryReserve n .. => some n
  | .deliveryCountAdvance n .. => some n
  | .deliveryTimeout n .. => some n
  | .notice n .. => some n
  | .cancelToken n .. => some n
  | .windowAccess n .. => some n
  | .windowReply n .. => some n
  | .deferredFault n .. => some n
  | .windowPeergone n .. => some n
  | .packetInjection n .. => some n
  | .messageInjection n .. => some n
  | .messageArrival n .. => some n
  | .remoteWriteArrival n .. => some n
  | .remoteReadRequest n .. => some n
  | .readReplyArrival n .. => some n
  | .receiverNotReady n .. => some n
  | .messageRetry n .. => some n
  | .messageAck n .. => some n
  | .messageRefused n .. => some n
  | .messagePeergone n .. => some n
  | .endpointFetch n .. => some n
  | .firedEnqueue n .. => some n
  | .leaseCtlArrival n .. => some n
  | .shutterRotationStart n => some n
  | .shutterSlot n => some n
  | .parkgetRequest n .. => some n
  | .pparkgetPeergone n .. => some n
  | .remoteTlbinv n .. => some n
  | .tlbinvPeergone n .. => some n
  | .collectiveStart n .. => some n
  | .chunkReserve n .. => some n
  | .chunkGrant n .. => some n
  | .chunkArrival n .. => some n
  | .chunkSweep n .. => some n
  | .collEntryDone n .. => some n
  | .collectiveAbort n .. => some n
  | .collectivePeergone n .. => some n
  | .copyEntryBegin n .. => some n
  | .copyPiece n .. => some n
  | .copyEntryComplete n .. => some n
  | .reductionStart n .. => some n
  | .kStep n .. => some n
  | .lensFill n .. => some n
  | .replay n .. => some n
  | .reductionRetire n .. => some n
  | .accumulatorOpDone n .. => some n
  | .vectorResultLanding n .. => some n
  | .scalarResultWrite n .. => some n
  | .loadDataReturn n .. => some n
  | .ldqFill n .. => some n
  | .blkRetire n .. => some n
  | .atomicPerform n .. => some n
  | .atomicReturn n .. => some n
  | .trapCut n .. => some n
  | .landingBufferLand n .. => some n
  | .preemptionCut n .. => some n
  | .contextSave n .. => some n
  | .taskPlacement n .. => some n
  | .steal n .. => some n
  | .preload n .. => some n
  | .taskRetire n .. => some n
  | .mergeStep n .. => some n
  | .barrierComplete n .. => some n
  | .lineFetch n .. => some n
  | .parkgetReply n .. => some n
  | .tlbinvAnswer n .. => some n
  | .leaseDecisionArrival n .. => some n
  | .boot n => some n
  | .nodelost n .. => some n
  | .shutclr n => some n
  | .attreq n => some n
  | .corectlResume n .. => some n
  | .corectlEnd n .. => some n
  | .corectlRequeue n .. => some n
  | .corectlRerun n .. => some n
  | .corectlCancel n .. => some n
  | .corectlSaveq n .. => some n
  | .launch n .. => some n
  | .tenantConfigWrite n .. => some n
  | .registerWrite n .. => some n
  | .hostMemoryAccess n .. => some n
  | .uncorrectableError n .. => some n
  | .linkFailure n .. => some n
  | .ucieModuleLoss n .. => some n
  | _ => none
/-- The node at which an agent moves. -/
def turnNode : Turn → Option Nat
  | .arb n _ => some n
  | .seq n _ _ => some n
  | .ev i => eventNode i
/-- The node at which an effect is seen. -/
def lateNode : Late → Nat
  | .tokPop n .. => n
  | .tokPush n .. => n
  | .qFill n .. => n
  | .qFreed n .. => n
  | .flags n .. => n
  | .evt n .. => n
  | .vtype n .. => n
  | .vwb n .. => n
  | .rmode n .. => n
  | .det n .. => n
  | .interlock n .. => n
  | .redLimit n .. => n
  | .ptRoot n .. => n
  | .asid n .. => n
  | .nodeReg n .. => n
  | .tnWord n .. => n
  | .shTc n .. => n
  | .shSd n .. => n
  | .shAttr n .. => n
  | .shClr n .. => n
  | .tdisarm n .. => n

/-- One module is reset (R449): nothing that was under way on it goes on; the other nodes do. -/
def resetOne (s : State) (n : Nat) : State :=
  { s with ready := s.ready.filter fun t => turnNode t != some n, timers := s.timers.filter fun t => eventNode t.2 != some n,
           air := s.air.filter fun e => e.2.1 != n, late := s.late.filter fun l => lateNode l != n,
           nodes := smPut s.nodes n (nodeAfterReset s.now (nd s n)) }

/-- MODULE_RESET (R449): of the module that the input `resetOf` names, a module being one node (R13), or, where it names none, of
every module: then nothing that was under way goes on. -/
def execModuleReset (s : State) : Host.Outcome State Fault Refusal :=
  .next (match s.resetOf with
    | some n => resetOne s n
    | none => { s with cur := {}, ready := [], timers := [], air := [], late := [], trap := none, bornAt := s.now,
                       nodes := s.nodes.map fun x => (x.1, nodeAfterReset s.now x.2) })

/-- Start-up fails (R448). -/
def failStart (s : State) (n code : Nat) : State := modNd s n fun d => { d with phase := 15, fail := code }

/-- BOOT.GO (R447, R448): in PHASE 0 or 15 the ROM reads the image; a length or an address out of range is a failed read. -/
def bootGo (s : State) (n : Nat) : State :=
  let d := nd s n
  if d.phase ≠ 0 ∧ d.phase ≠ 15 then s
  else
    let len := d.fwLen.toNat
    if len < 4096 ∨ 2 ^ 24 < len ∨ d.fwAddr.toNat % 4096 ≠ 0 then failStart s n 0x01
    else
      schedule (modNd s n fun d => { d with phase := 1, fail := 0, fw := memBytes d.host d.fwAddr.toNat len }) 0 (.romCheck n)

/-- BOOT (R448). -/
def execBoot (n : Nat) (s : State) : Host.Outcome State Fault Refusal := .next (bootGo s n)

/-- A part of a list of bytes. -/
def byteSlice (l : List Byte) (first n : Nat) : List Byte := (l.drop first).take n

/-- What is wrong with a firmware image (R454), in the order of its checks. -/
def fwFault (fw : List Byte) : Option Nat :=
  if (byteSlice fw 1032 3064).any fun b => b != 0 then some 0x02
  else if bytesVal (sha512 (fw.take 516)) ≠ Config.vendorDigest.toNat then some 0x03
  else if !pssVerify (bytesVal (fw.take 512)) (bytesVal (byteSlice fw 512 4)) (bytesVal (byteSlice fw 516 512)) (fw.drop 1028) then
    some 0x04
  else none

/-- ROM_CHECK (R448, R454): the read over CXL.mem has succeeded, or else failed (log 11); M0 is the digest of the whole image. -/
def execRomCheck (n : Nat) (s : State) : Host.Outcome State Fault Refusal :=
  let d := nd s n
  if d.phase ≠ 1 then .next s
  else if Config.cxlReadFails s.free then .next (failStart { s with free := s.free + 1 } n 0x01) else
  let s := { s with free := s.free + 1 }
  match fwFault d.fw with
  | some code => .next (failStart s n code)
  | none =>
    let m0 := BitVec.ofNat 512 (bytesVal (sha512 d.fw))
    .next (schedule (modNd s n fun d => { d with m0 := m0, phase := 2 }) 0 (.bringup n))

/-- The node toward node 0 from which a node takes its GSC (R333): its parent, or, while that one's does not run, the next on the
way, and else any node whose GSC runs. -/
def gscParent (s : State) : Nat → Nat → Option Nat
  | 0, _ => (s.nodes.find? fun x => x.2.gscOn).map fun x => x.1
  | fuel + 1, n =>
    let d := dirTo s n 0
    if 6 ≤ d then (s.nodes.find? fun x => x.2.gscOn).map fun x => x.1
    else
      let m := neighbour s n d
      if (nd s m).gscOn then some m else gscParent s fuel m

/-- The GSC a node loads at BRINGUP (R333, R449): its parent's, or, where no node runs, the implementation's (log 11). -/
def gscLoad (s : State) (n : Nat) : Nat × Nat :=
  match gscParent s 48 n with
  | some m => let g := gscCc s m; (g / 4, g % 4)
  | none => (Config.gscAtBringup n, 0)

/-- The sensors' next readings, which are the environment's (log 12). -/
def sampleSensors (s : State) (n : Nat) : State :=
  let k := s.free
  let d := nd s n
  let put (m : SMap Quad) (q : Nat) : SMap Quad :=
    smPut m q { smGet m {} q with sensor := (Config.freeWord (k + q)).toNat % 256 }
  let quads := (upFrom 0 64).foldl put d.quads
  let power := ((Config.freeWord (k + 64)).toNat % 4096 :: d.power).take 8
  { modNd s n (fun d => { d with quads := quads, power := power }) with free := k + 65 }

/-- The physical sites of the logical quads: which of the 66 each takes is the module's own, no two alike (R18, log 11). -/
def pickSites (n : Nat) : Nat → List Nat → List Nat
  | 0, _ => []
  | k + 1, left =>
    let x := nth left (Config.quadSite n (64 - (k + 1)) % left.length) 0
    x :: pickSites n k (left.filter fun y => y != x)

/-- The physical slices of the logical ones: the one beneath the quad's site, or, as the module itself decides, one of the
eight spares while one is left (R18). Slices 8·p to 8·p + 7 lie beneath site p, and a quad on a spare site has those beneath a
site that no quad has taken (DESIGN CHOICE, log 11). -/
def pickSlices (n : Nat) (sites : List Nat) : List Nat :=
  let idle := (upFrom 0 64).filter fun p => !sites.contains p
  let at_ (q : Nat) : Nat :=
    let p := nth sites q 0
    if p < 64 then p else nth idle ((sites.take q).filter fun x => decide (64 ≤ x)).length 0
  ((upFrom 0 512).foldl (fun (a : List Nat × Nat) k =>
    if 512 ≤ Config.sliceSite n k % 520 ∧ a.2 < 8 then ((512 + a.2) :: a.1, a.2 + 1) else ((8 * at_ (k / 8) + k % 8) :: a.1, a.2))
    ([], 0)).1.reverse

/-- What BRINGUP fixes as SPARES when it ends (R452). -/
def sparesWord (d : Node) : Word :=
  BitVec.ofNat 64 (min d.spareQ 255 + min d.spareS 255 * 2 ^ 8 + min (d.spareW + d.spareR) 65535 * 2 ^ 16 + min d.retiredW 65535 * 2 ^ 32
    + min d.sparedHbm 65535 * 2 ^ 48)

/-- BRINGUP (R448): it fails with a code of its own, or leaves the maps, the counts of spares, the GSC and clear memories;
whether and how is the module's own (log 11). -/
def execBringup (n : Nat) (s : State) : Host.Outcome State Fault Refusal :=
  if (nd s n).phase ≠ 2 then .next s
  else
    let code := Config.bringupFail n
    if 0x10 ≤ code ∧ code ≤ 0x13 then .next (failStart s n code)
    else
      let qmap := pickSites n 64 (upFrom 0 66)
      let smap := pickSlices n qmap
      let g := gscLoad s n
      let r := fresh s
      let now := s.now
      let load (d : Node) : Node :=
        if d.gscOn then d else { d with gscOn := true, gscBase := g.1, gscPhase := g.2, gscFrom := now, frame := g.1 / Config.frameSteps }
      let s := modNd r.2 n fun d =>
        { load d with phase := 3, qmap := qmap, smap := smap,
                      spareQ := (qmap.filter fun x => decide (64 ≤ x)).length,
                      spareS := (smap.filter fun x => decide (512 ≤ x)).length,
                      sparedHbm := (Config.freeWord r.1).toNat % 65536,
                      hbm := [], deep := [], hbmPoison := [], deepPoison := [], l2 := [] }
      .next (sampleSensors (modNd (setPools s n) n fun d => { d with spares := sparesWord d }) n)

/-- Whether every start-up register is in its range (R447, R448). -/
def startOk (d : Node) : Bool :=
  decide (1 ≤ d.dways) && decide (d.dways ≤ 16) && d.epHome.toNat % 2 ^ 20 == 0
  && (fld d.dspill 19 0 == 0 || decide (fld d.dspill 63 20 < 2 ^ 19)) && decide (1000 ≤ d.powLim) && decide (d.powLim ≤ 3400)

/-- What M1 measures of the window (R454): bytes 0x0028 to 0x004F, and TROOT 0 to 63. -/
def measured (d : Node) : List Byte :=
  [d.dways, d.epHome.toNat, d.dspill.toNat, d.retIdle.toNat, d.powLim].flatMap (valBytes 8)
  ++ (upFrom 0 64).flatMap fun t => valBytes 8 (smGet d.troot 0 t).toNat

/-- START.GO (R448, R454). -/
def startGo (s : State) (n : Nat) : State :=
  let d := nd s n
  if d.phase ≠ 3 then s
  else if !startOk d then failStart s n 0x20
  else
    let m1 := BitVec.ofNat 512 (bytesVal (sha512 (valBytes 64 d.m0.toNat ++ measured d)))
    modNd s n fun x => { x with m1 := m1, phase := 4, startFrame := frameOf s n + 1 }

/-- START (R448). -/
def execStart (n : Nat) (s : State) : Host.Outcome State Fault Refusal := .next (startGo s n)

/-! Attestation (R455). -/

/-- A write of 1 to ATTREQ: ignored while BUSY; a report is signed from PHASE 3 on. -/
def attReq (s : State) (n : Nat) : State :=
  let d := nd s n
  if d.attBusy ∨ d.phase < 3 then s
  else schedule (modNd s n fun d => { d with attBusy := true, attDone := false }) Config.latSign (.attestationReport n)

/-- ATTREQ (R455). -/
def execAttreq (n : Nat) (s : State) : Host.Outcome State Fault Refusal := .next (attReq s n)

/-- Bytes 0 to 223 of the report. -/
def reportBody (s : State) (n : Nat) : List Byte :=
  let d := nd s n
  valBytes 4 1 ++ valBytes 4 0x7420 ++ valBytes 16 Config.deviceSerial.toNat ++ valBytes 64 d.m0.toNat ++ valBytes 64 d.m1.toNat
  ++ valBytes 64 d.nonce.toNat ++ valBytes 8 (gsc s n)

/-- ATTESTATION_REPORT (R455): the report, signed with the identity key, stands in the window, and DONE is set. -/
def execAttestationReport (n : Nat) (s : State) : Host.Outcome State Fault Refusal :=
  if !(nd s n).attBusy then .next s else
  let body := reportBody s n
  let r := fresh s
  let sig := pssSign Config.identity.modulus Config.identity.secret body (valBytes 64 (Config.signSalt r.1).toNat)
  .next (modNd r.2 n fun d => { d with attBusy := false, attDone := true, report := body ++ valBytes 512 sig })

/-! Node loss (R39, R450). -/

/-- Whether an access that has not returned goes to a node. -/
def accTo (m : Nat) (p : PendAcc) : Bool :=
  p.data.isNone && match p.tgt with | .remote k _ _ => k == m | _ => false

/-- The tags of a core's accesses that wait for a node (R215). -/
def tagsTo (k : Core) (m : Nat) : List Nat :=
  (allSeqs.filterMap fun q => match (seqIn k q).hold with
    | .load p => if accTo m p then some p.tag else none
    | .atomic p => if accTo m p then some p.tag else none
    | _ => none)
  ++ (k.loads.filter (accTo m)).map (fun p => p.tag)
  ++ (k.winOut.filter fun w => w.node == m).map (fun w => w.tag)
  ++ (k.blks.filter fun b => b.lines.any fun l => match l.1 with | .remote x _ _ => x == m | _ => false).map fun b => b.tag

/-- What of a node's cores, engines and collectives waits for a lost node is told so (R215, R297, R309, R357, R427). -/
def loseOn (lost n : Nat) (s : State) : State :=
  let s := modNd s n fun d => { d with lost := if d.lost.contains lost then d.lost else d.lost ++ [lost] }
  let s := (nd s n).cores.foldl (fun s x =>
    let s := (tagsTo x.2 lost).foldl (fun s t => schedule s 0 (.windowPeergone n x.1 t)) s
    let s := match x.2.tlbWait with
      | some w => if w.left.contains lost then schedule s 0 (.tlbinvPeergone n x.1) else s
      | none => s
    match (seqIn x.2 .ctrl).hold with
    | .parkget _ _ m _ => if m = lost then schedule s 0 (.pparkgetPeergone n x.1) else s
    | _ => s) s
  let s := ((nd s n).outMsgs.filter fun o => o.msg.dst == lost).foldl
    (fun s o => schedule s 0 (.messagePeergone n o.msg.ep o.msg.sseq)) s
  loseColl s n lost

/-- A NODELOST write (R447, R450): in PHASE 3 and 4 every node of the torus treats the node as lost. -/
def nodeLost (s : State) (n lost : Nat) : State :=
  if (nd s n).phase ≠ 3 ∧ (nd s n).phase ≠ 4 then s
  else (allNodes s).foldl (fun s m => loseOn lost m s) (postOpen s n 5)

/-- NODELOST (R450). -/
def execNodelost (n lost : Nat) (s : State) : Host.Outcome State Fault Refusal := .next (nodeLost s n lost)

/-- SHUTCLR (R327, R452). -/
def execShutclr (n : Nat) (s : State) : Host.Outcome State Fault Refusal := .next (shutterEnd s n)

/-! The window (R445). -/

/-- A write of a start-up register (R447): each in its own phases. -/
def startReg (s : State) (n off : Nat) (v : Word) : State :=
  let d := nd s n
  let inPhase (ok : Bool) (f : Node → Node) : State := if ok then modNd s n f else s
  let early := d.phase == 0 || d.phase == 15
  let config := d.phase == 3
  match off with
  | 0x10 => inPhase early fun d => { d with fwAddr := v }
  | 0x18 => inPhase early fun d => { d with fwLen := v &&& 0xFFFFFFFF }
  | 0x20 => if bit v 0 then bootGo s n else s
  | 0x28 => inPhase config fun d => { d with dways := fld v 4 0 }
  | 0x30 => inPhase config fun d => { d with epHome := v }
  | 0x38 => inPhase config fun d => { d with dspill := v }
  | 0x40 => inPhase config fun d => { d with retIdle := v &&& 0xFFFF }
  | 0x48 => inPhase (config || d.phase == 4) fun d => { d with powLim := fld v 11 0 }
  | 0x50 => nodeLost s n (fld v 11 0)
  | 0x58 => inPhase config fun d => { d with hostBase := v &&& ~~~(0xFFF : Word) }
  | 0x60 => inPhase config fun d => { d with hostLen := v &&& ~~~(0xFFF : Word) }
  | 0x68 => if bit v 0 then startGo s n else s
  | _ => s

/-- A write of a dispatch queue's block (R369, R448): ignored before PHASE 4. -/
def dqReg (s : State) (n q off : Nat) (v : Word) : State :=
  if (nd s n).phase ≠ 4 then s else
  match off with
  | 0 => launchWrite s n q v
  | 8 => modDq s n q fun x => { x with qmask := v }
  | 16 => modDq s n q fun x => { x with dqctl := v &&& 0x7F }
  | _ => s

/-- A write of CORECTL (R453): ignored with a reserved bit set. -/
def corectlReg (s : State) (n c : Nat) (v : Word) : State :=
  if v &&& ~~~(0xFF07 : Word) ≠ 0 then s else
  match fld v 2 0 with
  | 5 => hostSaveq s n c
  | 6 => s
  | 7 => s
  | a => hostAction s n c a (fld v 15 8)

/-- A write of the window at an offset that is a multiple of 8 (R445 to R455). -/
def windowWrite (s : State) (n off : Nat) (v : Word) : State :=
  if off < 0x70 then startReg s n off v
  else if 0x100 ≤ off ∧ off < 0x500 then dqReg s n ((off - 0x100) / 64) ((off - 0x100) % 64) v
  else if 0x900 ≤ off ∧ off < 0xB00 then
    if (nd s n).phase = 3 ∨ (nd s n).phase = 4 then
      modNd s n fun d => { d with troot := smSet d.troot 0 ((off - 0x900) / 8) (v &&& 0xFFFFFFFFFF000) }
    else s
  else if 0x1000 ≤ off ∧ off < 0x1040 then
    modNd s n fun d => { d with nonce := putFld d.nonce (8 * (off - 0x1000) + 63) (8 * (off - 0x1000)) v.toNat }
  else if off = 0x1FF0 then (if bit v 0 then attReq s n else s)
  else if off = 0x2810 then modNd s n fun d => { d with attTail := v }
  else if 0x3000 ≤ off ∧ off < 0x4000 then tenantWrite s n ((off - 0x3000) / 64) ((off - 0x3000) % 64 / 8) v
  else if off = 0x5A40 then (if bit v 0 then shutterEnd s n else s)
  else if 0x6400 ≤ off ∧ off < 0x6C00 then corectlReg s n ((off - 0x6400) / 8) v
  else s

/-- REGISTER_WRITE (R445): other sizes and offsets have no effect. -/
def execRegisterWrite (n off size : Nat) (v : Word) (s : State) : Host.Outcome State Fault Refusal :=
  .next (if size ≠ 8 ∨ off % 8 ≠ 0 then s else windowWrite s n off v)

/-! The host's accesses of HBM, and failures. -/

/-- Writes bytes at their home line by line: a line written whole loses its poison (R211). -/
def hostStore (n : Nat) : Nat → Nat → List Byte → State → State
  | 0, _, _, s => s
  | fuel + 1, pa, bs, s =>
    if bs.isEmpty then s else
    let size := min bs.length (128 - pa % 128)
    let s := touch s n none .hbm pa size true
    let s := modNd s n fun d => homeWrite d .hbm pa size (fullMask size) (bytesVal (bs.take size))
    hostStore n fuel (pa + size) (bs.drop size) s

/-- The lines that a read of the host uses. -/
def hostTouch (s : State) (n pa len : Nat) : State :=
  if len = 0 then s else
  (upFrom (pa / 128) ((pa + len - 1) / 128 + 1 - pa / 128)).foldl (fun s l => touch s n none .hbm (128 * l) 128 false) s

/-- HOST_MEMORY_ACCESS (R234, R444): performed at the home, with no order against others; a read leaves no more than the use
of its lines. An address beyond HBM names nothing. -/
def execHostMemoryAccess (n pa : Nat) (store : Bool) (bytes : List Byte) (s : State) : Host.Outcome State Fault Refusal :=
  .next (if 2 ^ 39 < pa + bytes.length then s
    else if store then hostStore n (bytes.length + 1) pa bytes s
    else hostTouch s n pa bytes.length)

/-- An L1 line that an uncorrectable error hits (R209): a clean one is dropped and fetched again, a dirty one is poisoned. -/
def l1Error (k : Core) (sp : Space) (pa : Nat) : Core :=
  match l1Take k sp pa with
  | none => k
  | some (l, rest) => if l.dirty = 0 then { k with l1 := rest } else { k with l1 := { l with poison := true } :: rest }

/-- What a bit error that no code corrects does where it strikes (R38, R174, R209). -/
def errorAt (s : State) (n : Nat) : ErrSite → Nat → Nat → State
  | .home sp, _, pa => modNd s n fun d => setPoison d sp pa true
  | .l1 sp, c, pa => modCo s n c fun k => l1Error k sp pa
  | .spad, c, off => modCo s n c fun k => { k with spadPoison := smSet k.spadPoison false (off / 128) true }
  | .acc, c, row => modCo s n c fun k => { k with accPoison := smSet k.accPoison false row true }
  | .lens, q, k => modQd s n q fun x => { x with lens := modNth (fun l => { l with bad := true }) x.lens k }

/-- UNCORRECTABLE_ERROR (R37, R38, R209): a bit error within the reach of the code is corrected and counted in ECCCNT (R452),
another strikes. -/
def execUncorrectableError (n : Nat) (site : ErrSite) (owner place : Nat) (corrected : Bool) (s : State) :
    Host.Outcome State Fault Refusal :=
  .next (if corrected then modNd s n fun d => { d with eccCnt := if d.eccCnt = BitVec.allOnes 64 then d.eccCnt else d.eccCnt + 1 }
    else errorAt s n site owner place)

/-- UCIE_MODULE_LOSS (R444): bandwidth only; the module's share moves to the others. -/
def execUcieModuleLoss (n k : Nat) (s : State) : Host.Outcome State Fault Refusal :=
  .next (modNd s n fun d => { d with ucie := if d.ucie.contains k then d.ucie else d.ucie ++ [k] })

end Sys2Proof.Machine
end

