-- ==== Sys2Proof/Machine/Frame.lean ====
section
/-! DEFINITION. The frame boundary (R32): thermal and power latching (R35, R456), the refill of the budgets (R33, R430),
pending lists and aging (R374, R377), priority pre-emption (R380), entry to retention (R208); and an exhausted bucket (R33). -/

namespace Sys2Proof.Machine

/-! Thermal levels (R35, R456). -/

/-- A thermal table: WARM, HOT and LIMIT thresholds, and the hysteresis. -/
structure ThermTab where
  warm : Nat
  hot  : Nat
  lim  : Nat
  hyst : Nat
  deriving DecidableEq, Repr

/-- The built-in table. -/
def builtinTab : ThermTab := ⟨85, 95, 105, 2⟩
/-- The threshold of a level, 0 for COOL. -/
def threshold (t : ThermTab) (level : Nat) : Nat := match level with | 0 => 0 | 1 => t.warm | 2 => t.hot | _ => t.lim

/-- The table of this frame, none where the one at THERMTAB is refused: it cannot be read, or its thresholds do not ascend. -/
def thermTable (d : Node) : Option ThermTab :=
  if !bit d.thermTab 0 then some builtinTab
  else
    let a := fld d.thermTab 51 6 * 64
    if 2 ^ 39 < a + 64 ∨ isPoison d .hbm a then none
    else
      let v := homeRead d .hbm a 4
      let t : ThermTab := ⟨bitsOf v 7 0, bitsOf v 15 8, bitsOf v 23 16, bitsOf v 31 24⟩
      if t.warm < t.hot ∧ t.hot < t.lim then some t else none

/-- The level that a temperature gives after a level (R456). -/
def nextHeat (t : ThermTab) (old temp : Nat) : Nat :=
  let up := if t.lim ≤ temp then 3 else if t.hot ≤ temp then 2 else if t.warm ≤ temp then 1 else 0
  if old < up then up
  else if old ≠ 0 ∧ temp + t.hyst < threshold t old then old - 1
  else old

/-- A quad latches its sensor and a level; a change of the clock divider starts a new count of cycles (R14, R35). -/
def latchQuad (t : ThermTab) (hot : Bool) (now : Nat) (q : Quad) : Quad :=
  let heat := nextHeat t q.heat q.sensor
  let level := if hot then min 3 (heat + 1) else heat
  let q' : Quad := { q with heat := heat, level := level, temp := q.sensor, age := if level = q.level then satAdd q.age 1 65535 else 0 }
  if divider q' = divider q then q' else { q' with cyc := q.cyc + (now - q.since) / divider q, since := now }

/-- Whether the power limit holds: above POWLIM in the mean of the last 8 frames, until below POWLIM − 50 (R456). -/
def powerOver (d : Node) : Bool := decide (d.powLim * d.power.length < d.power.sum)
def powerUnder (d : Node) : Bool := decide (d.power.sum + 50 * d.power.length < d.powLim * d.power.length) || d.power.isEmpty

/-- The read of the thermal table as L2 and its slice see it (R207, R208, R456). -/
def touchTherm (s : State) (n : Nat) : State :=
  let a := fld (nd s n).thermTab 51 6 * 64
  if bit (nd s n).thermTab 0 && decide (a + 64 ≤ 2 ^ 39) then touch s n none .hbm a 64 false else s

/-- Step 3 of R32. -/
def latchLevels (s : State) (n : Nat) : State :=
  let s := touchTherm s n
  let d := nd s n
  let above := powerOver d
  let hot := above || (d.powHot && !powerUnder d)
  let tab := thermTable d
  let t := tab.getD builtinTab
  let now := s.now
  let old (q : Quad) : Quad := { q with since := sinceOf s q }
  let quads := (upFrom 0 64).foldl (fun m q => smPut m q (latchQuad t hot now (old (smGet m {} q)))) d.quads
  let s := modNd s n fun d => { d with quads := quads, powHot := hot }
  let s := if tab.isNone then postOpen s n 6 else s
  sampleSensors (if above then postOpen s n 4 else s) n

/-! Budgets (R33, R430). -/

/-- A full bucket of a budget field: 0xFFF is unlimited. -/
def fullBucket (v unit_ : Nat) : Option Nat := if v = 0xFFF then none else some (v * unit_)

/-- The buckets of a budget word. -/
def refill (w : Word) : Bucket :=
  ⟨fullBucket (fld w 63 52) 4096, fullBucket (fld w 51 40) 65536, fullBucket (fld w 39 28) 65536, fullBucket (fld w 27 16) 256,
   fullBucket (fld w 15 4) 65536⟩

/-- Step 4 of R32. -/
def refillAll (s : State) (n : Nat) : State :=
  modNd s n fun d => { d with bucket := (upFrom 0 16).map fun k => (k, refill (budgetWord d k)) }

/-! Pending lists and aging (R374, R377). -/

/-- The pending lists are pushed head first; an entry without a candidate, and a gang's, keeps its place, and one of a cancelled
pair is dropped as it is popped (R391). -/
def pushPending (s : State) (n q : Nat) : State :=
  let l := (dqOf (nd s n) q).pending
  let r := l.foldl (fun (a : List DEntry × State) e =>
    if e.gang.isSome ∨ (pushQuad (nd a.2 n) q).isNone then (a.1 ++ [e], a.2)
    else if cancelled (nd a.2 n) (ctlTenant e.ctl) e.gin then (a.1, endEntry a.2 n e 7 0)
    else (a.1, pushEntry a.2 n e false)) ([], s)
  if l.isEmpty then s else putPending r.2 n q r.1

/-- One more frame of waiting for an entry of a deque. -/
def older (e : DEntry) : DEntry := { e with wait := e.wait + 1 }

/-- One queue's four levels after a boundary (R377): what reaches 8 moves to the head of the next level, in its order. -/
def ageLevels (m : SMap (List DEntry)) (q : Nat) : SMap (List DEntry) :=
  let l (lv : Nat) : List DEntry := (smGet m [] (deqKey q lv)).map older
  let up (lv : Nat) : List DEntry := (l lv).filter fun e => decide (8 ≤ e.wait)
  let stay (lv : Nat) : List DEntry := (l lv).filter fun e => decide (e.wait < 8)
  let moved (lv : Nat) : List DEntry := (up (lv - 1)).map fun e => { e with wait := 0, level := lv }
  let top := (l 3).map fun e => { e with aged := e.aged || decide (8 ≤ e.wait) }
  let m := smSet m [] (deqKey q 0) (stay 0)
  let m := smSet m [] (deqKey q 1) (moved 1 ++ stay 1)
  let m := smSet m [] (deqKey q 2) (moved 2 ++ stay 2)
  smSet m [] (deqKey q 3) (moved 3 ++ top)

/-- A pending list after a boundary (R377): what reaches 8 moves to the head of the next level, in its order. -/
def agePending (l : List DEntry) : List DEntry :=
  let l := l.map older
  let moves (e : DEntry) : Bool := decide (8 ≤ e.wait) && decide (e.level < 3)
  (l.filter moves).map (fun e => { e with wait := 0, level := e.level + 1 })
    ++ (l.filter fun e => !moves e).map fun e => { e with aged := e.aged || decide (8 ≤ e.wait) }

/-- The links that the moves of a boundary have changed are written (R373). -/
def chainAll (s : State) (n : Nat) (before : Node) : State :=
  let s := (nd s n).quads.foldl (fun s x => x.2.deques.foldl (fun s l =>
    fixChain s n (smGet (smGet before.quads {} x.1).deques [] l.1) l.2) s) s
  (nd s n).dqs.foldl (fun s x => (upFrom 0 4).foldl (fun s lv =>
    fixChain s n (pendLevel (dqOf before x.1).pending lv) (pendLevel x.2.pending lv)) s) s

/-- Step 5 of R32. -/
def ageAll (s : State) (n : Nat) : State :=
  let age (q : Quad) : Quad := { q with deques := (upFrom 0 16).foldl ageLevels q.deques }
  chainAll (modNd s n fun d =>
    { d with quads := d.quads.map fun x => (x.1, if x.2.deques.isEmpty then x.2 else age x.2),
             dqs := d.dqs.map fun x => (x.1, { x.2 with pending := agePending x.2.pending }) }) n (nd s n)

/-! Priority pre-emption (R380). -/

/-- Whether a core's task may be asked to leave for an entry of a higher level. -/
def yields (d : Node) (c : Nat) : Bool :=
  let k := smGet d.cores {} c
  match k.task with
  | some t => k.mode == .run && k.preempt.isNone && t.waitGang.isNone && decide (t.level + 1 < pickLevel d c)
  | none => false

/-- The task that a quad pre-empts: the lowest level, then the highest core. -/
def victim (d : Node) (q : Nat) : Option Nat :=
  if (upFrom (4 * q) 4).any (coreFree d) then none
  else
    let level (c : Nat) : Nat := match (smGet d.cores {} c).task with | some t => t.level | none => 0
    (sortBy (fun c => 256 * level c + (255 - c)) ((upFrom (4 * q) 4).filter (yields d))).head?

/-- Priority pre-emption, at most one task a quad. -/
def priorityPreempt (s : State) (n : Nat) : State :=
  (upFrom 0 64).foldl (fun s q => match victim (nd s n) q with
    | some c => requestPreempt s n c 1
    | none => s) s

/-! Retention (R208, R433). -/

/-- A slice at a boundary: entry where RETAIN asked for it, or after RETIDLE frames without an access. -/
def sliceFrame (retIdle now : Nat) (x : Slice) : Slice × Bool :=
  let idle := if x.mark then 0 else satAdd x.idle 1 65535
  if x.state = 0 ∧ (x.retain ∨ (retIdle ≠ 0 ∧ retIdle ≤ idle)) then
    ({ x with state := 1, mark := false, wake := false, wakeAt := none, retain := false, idle := 0, until_ := now + Config.latRetain }, true)
  else ({ x with mark := false, idle := if retIdle = 0 then 0 else idle }, false)

/-- The slices at a boundary; with RETIDLE 0 only those that have been used or marked. -/
def slicesBoundary (s : State) (n : Nat) : State :=
  let d := nd s n
  let keys := if d.retIdle = 0 then d.slices.map fun x => x.1 else upFrom 0 512
  let now := s.now
  let next := keys.map fun k => (k, sliceFrame d.retIdle.toNat now (slcOf d k))
  let s := modNd s n fun d => { d with slices := (next.map fun x => (x.1, x.2.1)).filter fun x => x.2 != {} }
  (next.filter fun x => x.2.2).foldl (fun s x => schedule s Config.latRetain (.retentionEntryDone n x.1)) s

/-! The boundary. -/

/-- FRAME_BOUNDARY (R32): its five steps in order, with what other rules do at a boundary. -/
def execFrameBoundary (n : Nat) (s : State) : Host.Outcome State Fault Refusal :=
  let f := frameOf s n
  let s := leaseBoundary (quantumEnd s n) n f
  let s := refillAll (latchLevels s n) n
  let s := ageAll ((upFrom 0 16).foldl (fun s q => pushPending s n q) s) n
  let s := slicesBoundary (priorityPreempt s n) n
  .next (modNd s n fun d => { d with frame := f })

/-- Whether a running task's class has no core-cycles left (R33, R34). -/
def budgetDue (s : State) (n c : Nat) : Bool :=
  let k := co s n c
  k.mode == .run && k.task.isSome && k.preempt.isNone && (bucketOf (nd s n) (classOf k)).cyc == some 0

/-- BUDGET_EXHAUSTED (R33): of core-cycles, the class's tasks are pre-empted at their next quiet point; work of the other
activities waits where it stands, since every start of it looks at its bucket. -/
def execBudgetExhausted (n cls act : Nat) (s : State) : Host.Outcome State Fault Refusal :=
  if act ≠ 0 ∨ (bucketOf (nd s n) cls).cyc ≠ some 0 then .next s
  else
    let due := (nd s n).cores.filter fun x => budgetDue s n x.1 && classOf x.2 == cls
    .next (due.foldl (fun s x => requestPreempt s n x.1 0) s)

end Sys2Proof.Machine
end

