-- ==== Sys2Proof/Machine/Scalar.lean ====
section
/-! DEFINITION. The integer instructions of ALUA, ALUB, MULD, CMPS, ADDX and the immediate forms (R101 to R103). -/

namespace Sys2Proof.Machine

/-- A binary function of two operands (R101). -/
def alu2 (t : Tok) (d : Reg) (a b : SOp) (lat : Nat) (f : Word → Word → Word) : Op Unit :=
  regOp (1 + sopLen a + sopLen b) t (sopSrcs a ++ sopSrcs b) d lat fun s => f (opv s a) (opv s b)
/-- A unary function (R101). -/
def alu1 (t : Tok) (d : Reg) (a : SOp) (f : Word → Word) : Op Unit :=
  regOp (1 + sopLen a) t (sopSrcs a) d 1 fun s => f (opv s a)
/-- A function of a register and an immediate (R103). -/
def aluI (t : Tok) (d a : Reg) (f : Word → Word) : Op Unit := regOp 1 t [a] d 1 fun s => f (reg s a)

/-- A comparison as a result (R101). -/
def boolW (b : Bool) : Word := if b then 1 else 0
/-- SHL (R101, R102). -/
def shlW (x n : Word) : Word := if 64 ≤ n.toNat then 0 else x <<< n.toNat
/-- SHR (R101, R102). -/
def shrW (x n : Word) : Word := if 64 ≤ n.toNat then 0 else x >>> n.toNat
/-- SAR (R101, R102). -/
def sarW (x n : Word) : Word := x.sshiftRight (min n.toNat 63)
/-- ROTL (R101). -/
def rotlW (x n : Word) : Word := x.rotateLeft (n.toNat % 64)
/-- Leading zero bits (R101). -/
def clzW (x : Word) : Word := BitVec.ofNat 64 (if x = 0 then 64 else 63 - Nat.log2 x.toNat)
/-- Set bits (R101). -/
def popcW (x : Word) : Word := BitVec.ofNat 64 (popCount x.toNat 64)
/-- MULH (R101). -/
def mulhW (x y : Word) : Word := BitVec.ofInt 64 (x.toInt * y.toInt / 2 ^ 64)
/-- MULHU (R101). -/
def mulhuW (x y : Word) : Word := BitVec.ofNat 64 (x.toNat * y.toNat / 2 ^ 64)
/-- DIV (R101, R102): toward zero, all ones for a zero divisor; −2⁶³ ÷ −1 wraps. -/
def divW (x y : Word) : Word := if y = 0 then BitVec.allOnes 64 else BitVec.ofInt 64 (Int.tdiv x.toInt y.toInt)
/-- DIVU (R102). -/
def divuW (x y : Word) : Word := if y = 0 then BitVec.allOnes 64 else BitVec.ofNat 64 (x.toNat / y.toNat)
/-- REM (R102): the sign of the dividend; the dividend for a zero divisor. -/
def remW (x y : Word) : Word := if y = 0 then x else BitVec.ofInt 64 (Int.tmod x.toInt y.toInt)
/-- REMU (R102). -/
def remuW (x y : Word) : Word := if y = 0 then x else BitVec.ofNat 64 (x.toNat % y.toNat)
/-- ADDW (R101). -/
def addwW (x y : Word) : Word := sextW (x + y) 32


/-- ADD (R101). -/
def execAdd (t : Tok) (d : Reg) (a b : SOp) (s : State) : Host.Outcome State Fault Refusal :=
  runOp (alu2 t d a b 1 (fun x y => x + y)) s

/-- SUB (R101). -/
def execSub (t : Tok) (d : Reg) (a b : SOp) (s : State) : Host.Outcome State Fault Refusal :=
  runOp (alu2 t d a b 1 (fun x y => x - y)) s

/-- AND (R101). -/
def execAnd (t : Tok) (d : Reg) (a b : SOp) (s : State) : Host.Outcome State Fault Refusal :=
  runOp (alu2 t d a b 1 (fun x y => x &&& y)) s

/-- OR (R101). -/
def execOr (t : Tok) (d : Reg) (a b : SOp) (s : State) : Host.Outcome State Fault Refusal :=
  runOp (alu2 t d a b 1 (fun x y => x ||| y)) s

/-- XOR (R101). -/
def execXor (t : Tok) (d : Reg) (a b : SOp) (s : State) : Host.Outcome State Fault Refusal :=
  runOp (alu2 t d a b 1 (fun x y => x ^^^ y)) s

/-- ANDN (R101). -/
def execAndn (t : Tok) (d : Reg) (a b : SOp) (s : State) : Host.Outcome State Fault Refusal :=
  runOp (alu2 t d a b 1 (fun x y => x &&& ~~~y)) s

/-- MIN (R101). -/
def execMin (t : Tok) (d : Reg) (a b : SOp) (s : State) : Host.Outcome State Fault Refusal :=
  runOp (alu2 t d a b 1 (fun x y => if x.toInt ≤ y.toInt then x else y)) s

/-- MAX (R101). -/
def execMax (t : Tok) (d : Reg) (a b : SOp) (s : State) : Host.Outcome State Fault Refusal :=
  runOp (alu2 t d a b 1 (fun x y => if x.toInt ≤ y.toInt then y else x)) s

/-- MINU (R101). -/
def execMinu (t : Tok) (d : Reg) (a b : SOp) (s : State) : Host.Outcome State Fault Refusal :=
  runOp (alu2 t d a b 1 (fun x y => if x.toNat ≤ y.toNat then x else y)) s

/-- MAXU (R101). -/
def execMaxu (t : Tok) (d : Reg) (a b : SOp) (s : State) : Host.Outcome State Fault Refusal :=
  runOp (alu2 t d a b 1 (fun x y => if x.toNat ≤ y.toNat then y else x)) s

/-- SHL (R102). -/
def execShl (t : Tok) (d : Reg) (a b : SOp) (s : State) : Host.Outcome State Fault Refusal :=
  runOp (alu2 t d a b 1 shlW) s

/-- SHR (R102). -/
def execShr (t : Tok) (d : Reg) (a b : SOp) (s : State) : Host.Outcome State Fault Refusal :=
  runOp (alu2 t d a b 1 shrW) s

/-- SAR (R101). -/
def execSar (t : Tok) (d : Reg) (a b : SOp) (s : State) : Host.Outcome State Fault Refusal :=
  runOp (alu2 t d a b 1 sarW) s

/-- ROTL (R101). -/
def execRotl (t : Tok) (d : Reg) (a b : SOp) (s : State) : Host.Outcome State Fault Refusal :=
  runOp (alu2 t d a b 1 rotlW) s

/-- MUL (R101). -/
def execMul (t : Tok) (d : Reg) (a b : SOp) (s : State) : Host.Outcome State Fault Refusal :=
  runOp (alu2 t d a b 4 (fun x y => x * y)) s

/-- MULH (R101). -/
def execMulh (t : Tok) (d : Reg) (a b : SOp) (s : State) : Host.Outcome State Fault Refusal :=
  runOp (alu2 t d a b 4 mulhW) s

/-- MULHU (R101). -/
def execMulhu (t : Tok) (d : Reg) (a b : SOp) (s : State) : Host.Outcome State Fault Refusal :=
  runOp (alu2 t d a b 4 mulhuW) s

/-- DIV (R102). -/
def execDiv (t : Tok) (d : Reg) (a b : SOp) (s : State) : Host.Outcome State Fault Refusal :=
  runOp (alu2 t d a b 36 divW) s

/-- DIVU (R102). -/
def execDivu (t : Tok) (d : Reg) (a b : SOp) (s : State) : Host.Outcome State Fault Refusal :=
  runOp (alu2 t d a b 36 divuW) s

/-- REM (R102). -/
def execRem (t : Tok) (d : Reg) (a b : SOp) (s : State) : Host.Outcome State Fault Refusal :=
  runOp (alu2 t d a b 36 remW) s

/-- REMU (R102). -/
def execRemu (t : Tok) (d : Reg) (a b : SOp) (s : State) : Host.Outcome State Fault Refusal :=
  runOp (alu2 t d a b 36 remuW) s

/-- ADDW (R101). -/
def execAddw (t : Tok) (d : Reg) (a b : SOp) (s : State) : Host.Outcome State Fault Refusal :=
  runOp (alu2 t d a b 1 addwW) s

/-- CEQ (R101). -/
def execCeq (t : Tok) (d : Reg) (a b : SOp) (s : State) : Host.Outcome State Fault Refusal :=
  runOp (alu2 t d a b 1 (fun x y => boolW (x == y))) s

/-- CNE (R101). -/
def execCne (t : Tok) (d : Reg) (a b : SOp) (s : State) : Host.Outcome State Fault Refusal :=
  runOp (alu2 t d a b 1 (fun x y => boolW (x != y))) s

/-- CLT (R101). -/
def execClt (t : Tok) (d : Reg) (a b : SOp) (s : State) : Host.Outcome State Fault Refusal :=
  runOp (alu2 t d a b 1 (fun x y => boolW (decide (x.toInt < y.toInt)))) s

/-- CLTU (R101). -/
def execCltu (t : Tok) (d : Reg) (a b : SOp) (s : State) : Host.Outcome State Fault Refusal :=
  runOp (alu2 t d a b 1 (fun x y => boolW (decide (x.toNat < y.toNat)))) s

/-- CLE (R101). -/
def execCle (t : Tok) (d : Reg) (a b : SOp) (s : State) : Host.Outcome State Fault Refusal :=
  runOp (alu2 t d a b 1 (fun x y => boolW (decide (x.toInt ≤ y.toInt)))) s

/-- CLEU (R101). -/
def execCleu (t : Tok) (d : Reg) (a b : SOp) (s : State) : Host.Outcome State Fault Refusal :=
  runOp (alu2 t d a b 1 (fun x y => boolW (decide (x.toNat ≤ y.toNat)))) s

/-- ADDS1 (R101). -/
def execAdds1 (t : Tok) (d : Reg) (a b : SOp) (s : State) : Host.Outcome State Fault Refusal :=
  runOp (alu2 t d a b 1 (fun x y => x + (y <<< 1))) s

/-- ADDS2 (R101). -/
def execAdds2 (t : Tok) (d : Reg) (a b : SOp) (s : State) : Host.Outcome State Fault Refusal :=
  runOp (alu2 t d a b 1 (fun x y => x + (y <<< 2))) s

/-- ADDS3 (R101). -/
def execAdds3 (t : Tok) (d : Reg) (a b : SOp) (s : State) : Host.Outcome State Fault Refusal :=
  runOp (alu2 t d a b 1 (fun x y => x + (y <<< 3))) s

/-- ADDS4 (R101). -/
def execAdds4 (t : Tok) (d : Reg) (a b : SOp) (s : State) : Host.Outcome State Fault Refusal :=
  runOp (alu2 t d a b 1 (fun x y => x + (y <<< 4))) s

/-- CLZ (R101). -/
def execClz (t : Tok) (d : Reg) (a : SOp) (s : State) : Host.Outcome State Fault Refusal :=
  runOp (alu1 t d a clzW) s

/-- POPC (R101). -/
def execPopc (t : Tok) (d : Reg) (a : SOp) (s : State) : Host.Outcome State Fault Refusal :=
  runOp (alu1 t d a popcW) s

/-- MOV (R101). -/
def execMov (t : Tok) (d : Reg) (a : SOp) (s : State) : Host.Outcome State Fault Refusal :=
  runOp (alu1 t d a id) s

/-- SEXTB (R101). -/
def execSextb (t : Tok) (d : Reg) (a : SOp) (s : State) : Host.Outcome State Fault Refusal :=
  runOp (alu1 t d a (fun x => sextW x 8)) s

/-- SEXTH (R101). -/
def execSexth (t : Tok) (d : Reg) (a : SOp) (s : State) : Host.Outcome State Fault Refusal :=
  runOp (alu1 t d a (fun x => sextW x 16)) s

/-- SEXTW (R101). -/
def execSextw (t : Tok) (d : Reg) (a : SOp) (s : State) : Host.Outcome State Fault Refusal :=
  runOp (alu1 t d a (fun x => sextW x 32)) s

/-- ZEXTW (R101). -/
def execZextw (t : Tok) (d : Reg) (a : SOp) (s : State) : Host.Outcome State Fault Refusal :=
  runOp (alu1 t d a (fun x => zextW x 32)) s

/-- CSEL (R101): the destination is also a source (R95, condition 6). -/
def execCsel (t : Tok) (d : Reg) (a b : SOp) (s : State) : Host.Outcome State Fault Refusal :=
  runOp (regOp (1 + sopLen a + sopLen b) t (d :: sopSrcs a ++ sopSrcs b) d 1
    fun s => if opv s a ≠ 0 then opv s b else reg s d) s

/-- ADDI (R103). -/
def execAddi (t : Tok) (d a : Reg) (i : BitVec 12) (s : State) : Host.Outcome State Fault Refusal :=
  runOp (aluI t d a fun x => x + i.signExtend 64) s

/-- ANDI (R103). -/
def execAndi (t : Tok) (d a : Reg) (i : BitVec 12) (s : State) : Host.Outcome State Fault Refusal :=
  runOp (aluI t d a fun x => x &&& i.setWidth 64) s

/-- ORI (R103). -/
def execOri (t : Tok) (d a : Reg) (i : BitVec 12) (s : State) : Host.Outcome State Fault Refusal :=
  runOp (aluI t d a fun x => x ||| i.setWidth 64) s

/-- XORI (R103). -/
def execXori (t : Tok) (d a : Reg) (i : BitVec 12) (s : State) : Host.Outcome State Fault Refusal :=
  runOp (aluI t d a fun x => x ^^^ i.setWidth 64) s

/-- SHLI (R103). -/
def execShli (t : Tok) (d a : Reg) (n : BitVec 6) (s : State) : Host.Outcome State Fault Refusal :=
  runOp (aluI t d a fun x => shlW x (n.setWidth 64)) s

/-- SHRI (R103). -/
def execShri (t : Tok) (d a : Reg) (n : BitVec 6) (s : State) : Host.Outcome State Fault Refusal :=
  runOp (aluI t d a fun x => shrW x (n.setWidth 64)) s

/-- SARI (R103). -/
def execSari (t : Tok) (d a : Reg) (n : BitVec 6) (s : State) : Host.Outcome State Fault Refusal :=
  runOp (aluI t d a fun x => sarW x (n.setWidth 64)) s

/-- ROTLI (R103). -/
def execRotli (t : Tok) (d a : Reg) (n : BitVec 6) (s : State) : Host.Outcome State Fault Refusal :=
  runOp (aluI t d a fun x => rotlW x (n.setWidth 64)) s

/-- LI (R103). -/
def execLi (t : Tok) (d : Reg) (i : BitVec 17) (s : State) : Host.Outcome State Fault Refusal :=
  runOp (regOp 1 t [] d 1 fun _ => i.signExtend 64) s

end Sys2Proof.Machine
end

