-- ==== Sys2Proof/Machine/Dispatch.lean ====
section
/-! DEFINITION. One arm for each instruction: a direct call of its meaning. -/

namespace Sys2Proof.Machine

def exec (i : Instr) (s : State) : Host.Outcome State Fault Refusal :=
  match i with
  | .moduleReset => Sys2Proof.Machine.execModuleReset s
  | .romCheck n => Sys2Proof.Machine.execRomCheck n s
  | .bringup n => Sys2Proof.Machine.execBringup n s
  | .start n => Sys2Proof.Machine.execStart n s
  | .attestationReport n => Sys2Proof.Machine.execAttestationReport n s
  | .frameBoundary n => Sys2Proof.Machine.execFrameBoundary n s
  | .retentionEntryDone n sl => Sys2Proof.Machine.execRetentionEntryDone n sl s
  | .retentionExitDone n sl => Sys2Proof.Machine.execRetentionExitDone n sl s
  | .budgetExhausted n cls act => Sys2Proof.Machine.execBudgetExhausted n cls act s
  | .flitReceive n f => Sys2Proof.Machine.execFlitReceive n f s
  | .ackReceive n dst bytes stamp => Sys2Proof.Machine.execAckReceive n dst bytes stamp s
  | .progArrival n p arr idx => Sys2Proof.Machine.execProgArrival n p arr idx s
  | .progHop n k => Sys2Proof.Machine.execProgHop n k s
  | .dataDelivery n p arr => Sys2Proof.Machine.execDataDelivery n p arr s
  | .deliveryReserve n k => Sys2Proof.Machine.execDeliveryReserve n k s
  | .deliveryCountAdvance n k => Sys2Proof.Machine.execDeliveryCountAdvance n k s
  | .deliveryTimeout n k => Sys2Proof.Machine.execDeliveryTimeout n k s
  | .notice n t idx drop => Sys2Proof.Machine.execNotice n t idx drop s
  | .cancelToken n t gin => Sys2Proof.Machine.execCancelToken n t gin s
  | .windowAccess n r => Sys2Proof.Machine.execWindowAccess n r s
  | .windowReply n r => Sys2Proof.Machine.execWindowReply n r s
  | .deferredFault n c => Sys2Proof.Machine.execDeferredFault n c s
  | .windowPeergone n c tag => Sys2Proof.Machine.execWindowPeergone n c tag s
  | .packetInjection n c => Sys2Proof.Machine.execPacketInjection n c s
  | .messageInjection n c => Sys2Proof.Machine.execMessageInjection n c s
  | .messageArrival n m => Sys2Proof.Machine.execMessageArrival n m s
  | .remoteWriteArrival n m => Sys2Proof.Machine.execRemoteWriteArrival n m s
  | .remoteReadRequest n m => Sys2Proof.Machine.execRemoteReadRequest n m s
  | .readReplyArrival n m => Sys2Proof.Machine.execReadReplyArrival n m s
  | .receiverNotReady n ep sseq frames => Sys2Proof.Machine.execReceiverNotReady n ep sseq frames s
  | .messageRetry n ep => Sys2Proof.Machine.execMessageRetry n ep s
  | .messageAck n ep sseq => Sys2Proof.Machine.execMessageAck n ep sseq s
  | .messageRefused n ep sseq code => Sys2Proof.Machine.execMessageRefused n ep sseq code s
  | .messagePeergone n ep sseq => Sys2Proof.Machine.execMessagePeergone n ep sseq s
  | .endpointFetch n ep => Sys2Proof.Machine.execEndpointFetch n ep s
  | .firedEnqueue n c => Sys2Proof.Machine.execFiredEnqueue n c s
  | .leaseCtlArrival n l => Sys2Proof.Machine.execLeaseCtlArrival n l s
  | .shutterRotationStart n => Sys2Proof.Machine.execShutterRotationStart n s
  | .shutterSlot n => Sys2Proof.Machine.execShutterSlot n s
  | .parkgetRequest n src core t => Sys2Proof.Machine.execParkgetRequest n src core t s
  | .pparkgetPeergone n c => Sys2Proof.Machine.execPparkgetPeergone n c s
  | .remoteTlbinv n src core asid mode va => Sys2Proof.Machine.execRemoteTlbinv n src core asid mode va s
  | .tlbinvPeergone n c => Sys2Proof.Machine.execTlbinvPeergone n c s
  | .collectiveStart n e => Sys2Proof.Machine.execCollectiveStart n e s
  | .chunkReserve n e => Sys2Proof.Machine.execChunkReserve n e s
  | .chunkGrant n e ident tile k => Sys2Proof.Machine.execChunkGrant n e ident tile k s
  | .chunkArrival n k => Sys2Proof.Machine.execChunkArrival n k s
  | .chunkSweep n e k => Sys2Proof.Machine.execChunkSweep n e k s
  | .collEntryDone n e => Sys2Proof.Machine.execCollEntryDone n e s
  | .collectiveAbort n e => Sys2Proof.Machine.execCollectiveAbort n e s
  | .collectivePeergone n e => Sys2Proof.Machine.execCollectivePeergone n e s
  | .copyEntryBegin n c => Sys2Proof.Machine.execCopyEntryBegin n c s
  | .copyPiece n c => Sys2Proof.Machine.execCopyPiece n c s
  | .copyEntryComplete n c => Sys2Proof.Machine.execCopyEntryComplete n c s
  | .reductionStart n c => Sys2Proof.Machine.execReductionStart n c s
  | .kStep n c => Sys2Proof.Machine.execKStep n c s
  | .lensFill n c => Sys2Proof.Machine.execLensFill n c s
  | .replay n c => Sys2Proof.Machine.execReplay n c s
  | .reductionRetire n c => Sys2Proof.Machine.execReductionRetire n c s
  | .accumulatorOpDone n c => Sys2Proof.Machine.execAccumulatorOpDone n c s
  | .vectorResultLanding n c => Sys2Proof.Machine.execVectorResultLanding n c s
  | .scalarResultWrite n c => Sys2Proof.Machine.execScalarResultWrite n c s
  | .loadDataReturn n c q => Sys2Proof.Machine.execLoadDataReturn n c q s
  | .ldqFill n c tag => Sys2Proof.Machine.execLdqFill n c tag s
  | .blkRetire n c tag => Sys2Proof.Machine.execBlkRetire n c tag s
  | .atomicPerform n c q => Sys2Proof.Machine.execAtomicPerform n c q s
  | .atomicReturn n c q => Sys2Proof.Machine.execAtomicReturn n c q s
  | .trapCut n c k => Sys2Proof.Machine.execTrapCut n c k s
  | .landingBufferLand n c => Sys2Proof.Machine.execLandingBufferLand n c s
  | .preemptionCut n c => Sys2Proof.Machine.execPreemptionCut n c s
  | .contextSave n c => Sys2Proof.Machine.execContextSave n c s
  | .taskPlacement n c => Sys2Proof.Machine.execTaskPlacement n c s
  | .steal n q => Sys2Proof.Machine.execSteal n q s
  | .preload n c => Sys2Proof.Machine.execPreload n c s
  | .taskRetire n c => Sys2Proof.Machine.execTaskRetire n c s
  | .mergeStep n g => Sys2Proof.Machine.execMergeStep n g s
  | .barrierComplete n lvl own id => Sys2Proof.Machine.execBarrierComplete n lvl own id s
  | .lineFetch n c q => Sys2Proof.Machine.execLineFetch n c q s
  | .parkgetReply n c count r => Sys2Proof.Machine.execParkgetReply n c count r s
  | .tlbinvAnswer n c src => Sys2Proof.Machine.execTlbinvAnswer n c src s
  | .leaseDecisionArrival n d => Sys2Proof.Machine.execLeaseDecisionArrival n d s
  | .nop t => Sys2Proof.Machine.execNop t s
  | .sqstop t => Sys2Proof.Machine.execSqstop t s
  | .sqwait t a => Sys2Proof.Machine.execSqwait t a s
  | .sqsig t a => Sys2Proof.Machine.execSqsig t a s
  | .rdstep t d => Sys2Proof.Machine.execRdstep t d s
  | .rdcyc t d => Sys2Proof.Machine.execRdcyc t d s
  | .waitstep t a => Sys2Proof.Machine.execWaitstep t a s
  | .sqid t d => Sys2Proof.Machine.execSqid t d s
  | .add t d a b => Sys2Proof.Machine.execAdd t d a b s
  | .sub t d a b => Sys2Proof.Machine.execSub t d a b s
  | .and t d a b => Sys2Proof.Machine.execAnd t d a b s
  | .or t d a b => Sys2Proof.Machine.execOr t d a b s
  | .xor t d a b => Sys2Proof.Machine.execXor t d a b s
  | .andn t d a b => Sys2Proof.Machine.execAndn t d a b s
  | .min t d a b => Sys2Proof.Machine.execMin t d a b s
  | .max t d a b => Sys2Proof.Machine.execMax t d a b s
  | .minu t d a b => Sys2Proof.Machine.execMinu t d a b s
  | .maxu t d a b => Sys2Proof.Machine.execMaxu t d a b s
  | .shl t d a b => Sys2Proof.Machine.execShl t d a b s
  | .shr t d a b => Sys2Proof.Machine.execShr t d a b s
  | .sar t d a b => Sys2Proof.Machine.execSar t d a b s
  | .rotl t d a b => Sys2Proof.Machine.execRotl t d a b s
  | .clz t d a => Sys2Proof.Machine.execClz t d a s
  | .popc t d a => Sys2Proof.Machine.execPopc t d a s
  | .mul t d a b => Sys2Proof.Machine.execMul t d a b s
  | .mulh t d a b => Sys2Proof.Machine.execMulh t d a b s
  | .mulhu t d a b => Sys2Proof.Machine.execMulhu t d a b s
  | .div t d a b => Sys2Proof.Machine.execDiv t d a b s
  | .divu t d a b => Sys2Proof.Machine.execDivu t d a b s
  | .rem t d a b => Sys2Proof.Machine.execRem t d a b s
  | .remu t d a b => Sys2Proof.Machine.execRemu t d a b s
  | .addw t d a b => Sys2Proof.Machine.execAddw t d a b s
  | .ceq t d a b => Sys2Proof.Machine.execCeq t d a b s
  | .cne t d a b => Sys2Proof.Machine.execCne t d a b s
  | .clt t d a b => Sys2Proof.Machine.execClt t d a b s
  | .cltu t d a b => Sys2Proof.Machine.execCltu t d a b s
  | .cle t d a b => Sys2Proof.Machine.execCle t d a b s
  | .cleu t d a b => Sys2Proof.Machine.execCleu t d a b s
  | .csel t d a b => Sys2Proof.Machine.execCsel t d a b s
  | .mov t d a => Sys2Proof.Machine.execMov t d a s
  | .adds1 t d a b => Sys2Proof.Machine.execAdds1 t d a b s
  | .adds2 t d a b => Sys2Proof.Machine.execAdds2 t d a b s
  | .adds3 t d a b => Sys2Proof.Machine.execAdds3 t d a b s
  | .adds4 t d a b => Sys2Proof.Machine.execAdds4 t d a b s
  | .sextb t d a => Sys2Proof.Machine.execSextb t d a s
  | .sexth t d a => Sys2Proof.Machine.execSexth t d a s
  | .sextw t d a => Sys2Proof.Machine.execSextw t d a s
  | .zextw t d a => Sys2Proof.Machine.execZextw t d a s
  | .addi t d a xi => Sys2Proof.Machine.execAddi t d a xi s
  | .andi t d a xi => Sys2Proof.Machine.execAndi t d a xi s
  | .ori t d a xi => Sys2Proof.Machine.execOri t d a xi s
  | .xori t d a xi => Sys2Proof.Machine.execXori t d a xi s
  | .shli t d a n => Sys2Proof.Machine.execShli t d a n s
  | .shri t d a n => Sys2Proof.Machine.execShri t d a n s
  | .sari t d a n => Sys2Proof.Machine.execSari t d a n s
  | .rotli t d a n => Sys2Proof.Machine.execRotli t d a n s
  | .li t d xi => Sys2Proof.Machine.execLi t d xi s
  | .qput t a b => Sys2Proof.Machine.execQput t a b s
  | .qget t d b => Sys2Proof.Machine.execQget t d b s
  | .qpeek t d b => Sys2Proof.Machine.execQpeek t d b s
  | .qcnt t d b => Sys2Proof.Machine.execQcnt t d b s
  | .tokgive t a b => Sys2Proof.Machine.execTokgive t a b s
  | .toktake t a b => Sys2Proof.Machine.execToktake t a b s
  | .tokcntIn t d b => Sys2Proof.Machine.execTokcntIn t d b s
  | .tokcntOut t d b => Sys2Proof.Machine.execTokcntOut t d b s
  | .mfsr t d xi => Sys2Proof.Machine.execMfsr t d xi s
  | .mtsr t a xi => Sys2Proof.Machine.execMtsr t a xi s
  | .cbld t a n e => Sys2Proof.Machine.execCbld t a n e s
  | .ldb t d a o => Sys2Proof.Machine.execLdb t d a o s
  | .ldbu t d a o => Sys2Proof.Machine.execLdbu t d a o s
  | .ldh t d a o => Sys2Proof.Machine.execLdh t d a o s
  | .ldhu t d a o => Sys2Proof.Machine.execLdhu t d a o s
  | .ldw t d a o => Sys2Proof.Machine.execLdw t d a o s
  | .ldwu t d a o => Sys2Proof.Machine.execLdwu t d a o s
  | .ldd t d a o => Sys2Proof.Machine.execLdd t d a o s
  | .stb t d a o => Sys2Proof.Machine.execStb t d a o s
  | .sth t d a o => Sys2Proof.Machine.execSth t d a o s
  | .stw t d a o => Sys2Proof.Machine.execStw t d a o s
  | .std t d a o => Sys2Proof.Machine.execStd t d a o s
  | .ldqB t d a o => Sys2Proof.Machine.execLdqB t d a o s
  | .ldqBu t d a o => Sys2Proof.Machine.execLdqBu t d a o s
  | .ldqH t d a o => Sys2Proof.Machine.execLdqH t d a o s
  | .ldqHu t d a o => Sys2Proof.Machine.execLdqHu t d a o s
  | .ldqW t d a o => Sys2Proof.Machine.execLdqW t d a o s
  | .ldqWu t d a o => Sys2Proof.Machine.execLdqWu t d a o s
  | .ldqD t d a o => Sys2Proof.Machine.execLdqD t d a o s
  | .pref t a o => Sys2Proof.Machine.execPref t a o s
  | .cwb t a o => Sys2Proof.Machine.execCwb t a o s
  | .cinv t a o => Sys2Proof.Machine.execCinv t a o s
  | .cflush t a o => Sys2Proof.Machine.execCflush t a o s
  | .zero t a o => Sys2Proof.Machine.execZero t a o s
  | .blkld t d a b => Sys2Proof.Machine.execBlkld t d a b s
  | .blkst t d a b => Sys2Proof.Machine.execBlkst t d a b s
  | .blkrow t d a b => Sys2Proof.Machine.execBlkrow t d a b s
  | .fence t xs y => Sys2Proof.Machine.execFence t xs y s
  | .qfence t a xs => Sys2Proof.Machine.execQfence t a xs s
  | .amoadd t d a b z o => Sys2Proof.Machine.execAmoadd t d a b z o s
  | .amoand t d a b z o => Sys2Proof.Machine.execAmoand t d a b z o s
  | .amoor t d a b z o => Sys2Proof.Machine.execAmoor t d a b z o s
  | .amoxor t d a b z o => Sys2Proof.Machine.execAmoxor t d a b z o s
  | .amomin t d a b z o => Sys2Proof.Machine.execAmomin t d a b z o s
  | .amomax t d a b z o => Sys2Proof.Machine.execAmomax t d a b z o s
  | .amominu t d a b z o => Sys2Proof.Machine.execAmominu t d a b z o s
  | .amomaxu t d a b z o => Sys2Proof.Machine.execAmomaxu t d a b z o s
  | .amoswap t d a b z o => Sys2Proof.Machine.execAmoswap t d a b z o s
  | .amofadd t d a b o => Sys2Proof.Machine.execAmofadd t d a b o s
  | .amofmin t d a b o => Sys2Proof.Machine.execAmofmin t d a b o s
  | .amofmax t d a b o => Sys2Proof.Machine.execAmofmax t d a b o s
  | .amocas t d a b z o => Sys2Proof.Machine.execAmocas t d a b z o s
  | .rngclaim t d a => Sys2Proof.Machine.execRngclaim t d a s
  | .rngpub t a b => Sys2Proof.Machine.execRngpub t a b s
  | .rngwfill t d a b => Sys2Proof.Machine.execRngwfill t d a b s
  | .rngwfree t d a b => Sys2Proof.Machine.execRngwfree t d a b s
  | .rngrel t a b => Sys2Proof.Machine.execRngrel t a b s
  | .rngstat t d a => Sys2Proof.Machine.execRngstat t d a s
  | .rnginit t a b => Sys2Proof.Machine.execRnginit t a b s
  | .rngpeek t d a b => Sys2Proof.Machine.execRngpeek t d a b s
  | .bararr t d a l => Sys2Proof.Machine.execBararr t d a l s
  | .barwait t d a l => Sys2Proof.Machine.execBarwait t d a l s
  | .barsync t d a l => Sys2Proof.Machine.execBarsync t d a l s
  | .barinit t a l => Sys2Proof.Machine.execBarinit t a l s
  | .ret t => Sys2Proof.Machine.execRet t s
  | .jmpr t a => Sys2Proof.Machine.execJmpr t a s
  | .callr t a => Sys2Proof.Machine.execCallr t a s
  | .trap t a => Sys2Proof.Machine.execTrap t a s
  | .brk t => Sys2Proof.Machine.execBrk t s
  | .b t line unit => Sys2Proof.Machine.execB t line unit s
  | .beqz t a line unit => Sys2Proof.Machine.execBeqz t a line unit s
  | .bnez t a line unit => Sys2Proof.Machine.execBnez t a line unit s
  | .bltz t a line unit => Sys2Proof.Machine.execBltz t a line unit s
  | .bgez t a line unit => Sys2Proof.Machine.execBgez t a line unit s
  | .bgtz t a line unit => Sys2Proof.Machine.execBgtz t a line unit s
  | .blez t a line unit => Sys2Proof.Machine.execBlez t a line unit s
  | .bloop t a line unit => Sys2Proof.Machine.execBloop t a line unit s
  | .call t line unit => Sys2Proof.Machine.execCall t line unit s
  | .pshi v => Sys2Proof.Machine.execPshi v s
  | .pshk n => Sys2Proof.Machine.execPshk n s
  | .popk n => Sys2Proof.Machine.execPopk n s
  | .cmp c => Sys2Proof.Machine.execCmp c s
  | .get d xs => Sys2Proof.Machine.execGet d xs s
  | .clone d => Sys2Proof.Machine.execClone d s
  | .brz t => Sys2Proof.Machine.execBrz t s
  | .brnz t => Sys2Proof.Machine.execBrnz t s
  | .jmp t => Sys2Proof.Machine.execJmp t s
  | .dirset d => Sys2Proof.Machine.execDirset d s
  | .dirmin m => Sys2Proof.Machine.execDirmin m s
  | .dirminNa m => Sys2Proof.Machine.execDirminNa m s
  | .pldw w => Sys2Proof.Machine.execPldw w s
  | .pstw w => Sys2Proof.Machine.execPstw w s
  | .entry t => Sys2Proof.Machine.execEntry t s
  | .dup => Sys2Proof.Machine.execDup s
  | .drops => Sys2Proof.Machine.execDrops s
  | .swap => Sys2Proof.Machine.execSwap s
  | .over => Sys2Proof.Machine.execOver s
  | .prismAdd => Sys2Proof.Machine.execPrismAdd s
  | .prismSub => Sys2Proof.Machine.execPrismSub s
  | .prismAnd => Sys2Proof.Machine.execPrismAnd s
  | .prismOr => Sys2Proof.Machine.execPrismOr s
  | .prismXor => Sys2Proof.Machine.execPrismXor s
  | .prismShl => Sys2Proof.Machine.execPrismShl s
  | .prismShr => Sys2Proof.Machine.execPrismShr s
  | .ctrld => Sys2Proof.Machine.execCtrld s
  | .ctradd => Sys2Proof.Machine.execCtradd s
  | .swld => Sys2Proof.Machine.execSwld s
  | .swadd => Sys2Proof.Machine.execSwadd s
  | .swcas => Sys2Proof.Machine.execSwcas s
  | .dirsetStack => Sys2Proof.Machine.execDirsetStack s
  | .dirto => Sys2Proof.Machine.execDirto s
  | .dirtoStack => Sys2Proof.Machine.execDirtoStack s
  | .fwd => Sys2Proof.Machine.execFwd s
  | .dlvr => Sys2Proof.Machine.execDlvr s
  | .park => Sys2Proof.Machine.execPark s
  | .drop => Sys2Proof.Machine.execDrop s
  | .dropN => Sys2Proof.Machine.execDropN s
  | .vadd f => Sys2Proof.Machine.execVadd f s
  | .vsub f => Sys2Proof.Machine.execVsub f s
  | .vmul f => Sys2Proof.Machine.execVmul f s
  | .vfma f => Sys2Proof.Machine.execVfma f s
  | .vfms f => Sys2Proof.Machine.execVfms f s
  | .vmin f => Sys2Proof.Machine.execVmin f s
  | .vmax f => Sys2Proof.Machine.execVmax f s
  | .vabs f => Sys2Proof.Machine.execVabs f s
  | .vneg f => Sys2Proof.Machine.execVneg f s
  | .vdiv f => Sys2Proof.Machine.execVdiv f s
  | .vsqrt f => Sys2Proof.Machine.execVsqrt f s
  | .vcpys f => Sys2Proof.Machine.execVcpys f s
  | .viadd f => Sys2Proof.Machine.execViadd f s
  | .visub f => Sys2Proof.Machine.execVisub f s
  | .vimul f => Sys2Proof.Machine.execVimul f s
  | .vimin f => Sys2Proof.Machine.execVimin f s
  | .vimax f => Sys2Proof.Machine.execVimax f s
  | .viabs f => Sys2Proof.Machine.execViabs f s
  | .vand f => Sys2Proof.Machine.execVand f s
  | .vor f => Sys2Proof.Machine.execVor f s
  | .vxor f => Sys2Proof.Machine.execVxor f s
  | .vnot f => Sys2Proof.Machine.execVnot f s
  | .vshl f => Sys2Proof.Machine.execVshl f s
  | .vshr f => Sys2Proof.Machine.execVshr f s
  | .vsar f => Sys2Proof.Machine.execVsar f s
  | .vrotl f => Sys2Proof.Machine.execVrotl f s
  | .vceq f => Sys2Proof.Machine.execVceq f s
  | .vcne f => Sys2Proof.Machine.execVcne f s
  | .vclt f => Sys2Proof.Machine.execVclt f s
  | .vcle f => Sys2Proof.Machine.execVcle f s
  | .vcltu f => Sys2Proof.Machine.execVcltu f s
  | .vcleu f => Sys2Proof.Machine.execVcleu f s
  | .vfclass f => Sys2Proof.Machine.execVfclass f s
  | .vsel f => Sys2Proof.Machine.execVsel f s
  | .vmand f => Sys2Proof.Machine.execVmand f s
  | .vmor f => Sys2Proof.Machine.execVmor f s
  | .vmcnt f => Sys2Proof.Machine.execVmcnt f s
  | .vexp2 f => Sys2Proof.Machine.execVexp2 f s
  | .vlog2 f => Sys2Proof.Machine.execVlog2 f s
  | .vrcp f => Sys2Proof.Machine.execVrcp f s
  | .vrsqrt f => Sys2Proof.Machine.execVrsqrt f s
  | .vtanh f => Sys2Proof.Machine.execVtanh f s
  | .verf f => Sys2Proof.Machine.execVerf f s
  | .vredadd f => Sys2Proof.Machine.execVredadd f s
  | .vredmax f => Sys2Proof.Machine.execVredmax f s
  | .vredmin f => Sys2Proof.Machine.execVredmin f s
  | .vscan f => Sys2Proof.Machine.execVscan f s
  | .vshuf f => Sys2Proof.Machine.execVshuf f s
  | .vbcast f => Sys2Proof.Machine.execVbcast f s
  | .vextr f => Sys2Proof.Machine.execVextr f s
  | .viota f => Sys2Proof.Machine.execViota f s
  | .vcvt f => Sys2Proof.Machine.execVcvt f s
  | .vpack f => Sys2Proof.Machine.execVpack f s
  | .vunpk f => Sys2Proof.Machine.execVunpk f s
  | .vscale f => Sys2Proof.Machine.execVscale f s
  | .vrnd f => Sys2Proof.Machine.execVrnd f s
  | .vld f => Sys2Proof.Machine.execVld f s
  | .vst f => Sys2Proof.Machine.execVst f s
  | .vlds f => Sys2Proof.Machine.execVlds f s
  | .vsts f => Sys2Proof.Machine.execVsts f s
  | .vgath f => Sys2Proof.Machine.execVgath f s
  | .vscat f => Sys2Proof.Machine.execVscat f s
  | .vsett f => Sys2Proof.Machine.execVsett f s
  | .vmov f => Sys2Proof.Machine.execVmov f s
  | .vmset f => Sys2Proof.Machine.execVmset f s
  | .vmget f => Sys2Proof.Machine.execVmget f s
  | .msetn f => Sys2Proof.Machine.execMsetn f s
  | .msets f => Sys2Proof.Machine.execMsets f s
  | .mseta f => Sys2Proof.Machine.execMseta f s
  | .mclrs f => Sys2Proof.Machine.execMclrs f s
  | .mgo f => Sys2Proof.Machine.execMgo f s
  | .mwait f => Sys2Proof.Machine.execMwait f s
  | .mstat f => Sys2Proof.Machine.execMstat f s
  | .mabort f => Sys2Proof.Machine.execMabort f s
  | .acopy f => Sys2Proof.Machine.execAcopy f s
  | .aclr f => Sys2Proof.Machine.execAclr f s
  | .adload f => Sys2Proof.Machine.execAdload f s
  | .adinv f => Sys2Proof.Machine.execAdinv f s
  | .copy f => Sys2Proof.Machine.execCopy f s
  | .copyi f => Sys2Proof.Machine.execCopyi f s
  | .cpwait f => Sys2Proof.Machine.execCpwait f s
  | .cpstat f => Sys2Proof.Machine.execCpstat f s
  | .pbuild f => Sys2Proof.Machine.execPbuild f s
  | .psend f => Sys2Proof.Machine.execPsend f s
  | .pctrw f => Sys2Proof.Machine.execPctrw f s
  | .pctrr f => Sys2Proof.Machine.execPctrr f s
  | .pctrs f => Sys2Proof.Machine.execPctrs f s
  | .pctra f => Sys2Proof.Machine.execPctra f s
  | .pparkget f => Sys2Proof.Machine.execPparkget f s
  | .presume f => Sys2Proof.Machine.execPresume f s
  | .epopen f => Sys2Proof.Machine.execEpopen f s
  | .epclose f => Sys2Proof.Machine.execEpclose f s
  | .msend f => Sys2Proof.Machine.execMsend f s
  | .mrecv f => Sys2Proof.Machine.execMrecv f s
  | .mwrite f => Sys2Proof.Machine.execMwrite f s
  | .mread f => Sys2Proof.Machine.execMread f s
  | .tsend f => Sys2Proof.Machine.execTsend f s
  | .twrite f => Sys2Proof.Machine.execTwrite f s
  | .tdisarm f => Sys2Proof.Machine.execTdisarm f s
  | .mpoll f => Sys2Proof.Machine.execMpoll f s
  | .lease f => Sys2Proof.Machine.execLease f s
  | .lrel f => Sys2Proof.Machine.execLrel f s
  | .lqry f => Sys2Proof.Machine.execLqry f s
  | .lwait f => Sys2Proof.Machine.execLwait f s
  | .shutw f => Sys2Proof.Machine.execShutw f s
  | .shutgo f => Sys2Proof.Machine.execShutgo f s
  | .commdef f => Sys2Proof.Machine.execCommdef f s
  | .ctset f => Sys2Proof.Machine.execCtset f s
  | .ctready f => Sys2Proof.Machine.execCtready f s
  | .ctwait f => Sys2Proof.Machine.execCtwait f s
  | .ctdrop f => Sys2Proof.Machine.execCtdrop f s
  | .spawn f => Sys2Proof.Machine.execSpawn f s
  | .merge f => Sys2Proof.Machine.execMerge f s
  | .tend f => Sys2Proof.Machine.execTend f s
  | .twait f => Sys2Proof.Machine.execTwait f s
  | .succadd f => Sys2Proof.Machine.execSuccadd f s
  | .cancel f => Sys2Proof.Machine.execCancel f s
  | .yield f => Sys2Proof.Machine.execYield f s
  | .tself f => Sys2Proof.Machine.execTself f s
  | .gangjoin f => Sys2Proof.Machine.execGangjoin f s
  | .tret f => Sys2Proof.Machine.execTret f s
  | .ctxsave f => Sys2Proof.Machine.execCtxsave f s
  | .ctxload f => Sys2Proof.Machine.execCtxload f s
  | .tlbinv f => Sys2Proof.Machine.execTlbinv f s
  | .attn f => Sys2Proof.Machine.execAttn f s
  | .tnset f => Sys2Proof.Machine.execTnset f s
  | .budset f => Sys2Proof.Machine.execBudset f s
  | .thermrd f => Sys2Proof.Machine.execThermrd f s
  | .retain f => Sys2Proof.Machine.execRetain f s
  | .wake f => Sys2Proof.Machine.execWake f s
  | .boot n => Sys2Proof.Machine.execBoot n s
  | .nodelost n lost => Sys2Proof.Machine.execNodelost n lost s
  | .shutclr n => Sys2Proof.Machine.execShutclr n s
  | .attreq n => Sys2Proof.Machine.execAttreq n s
  | .corectlResume n c => Sys2Proof.Machine.execCorectlResume n c s
  | .corectlEnd n c code => Sys2Proof.Machine.execCorectlEnd n c code s
  | .corectlRequeue n c => Sys2Proof.Machine.execCorectlRequeue n c s
  | .corectlRerun n c => Sys2Proof.Machine.execCorectlRerun n c s
  | .corectlCancel n c => Sys2Proof.Machine.execCorectlCancel n c s
  | .corectlSaveq n c => Sys2Proof.Machine.execCorectlSaveq n c s
  | .launch n q va => Sys2Proof.Machine.execLaunch n q va s
  | .tenantConfigWrite n t w v => Sys2Proof.Machine.execTenantConfigWrite n t w v s
  | .registerWrite n off size v => Sys2Proof.Machine.execRegisterWrite n off size v s
  | .hostMemoryAccess n pa store bytes => Sys2Proof.Machine.execHostMemoryAccess n pa store bytes s
  | .uncorrectableError n site owner place corrected => Sys2Proof.Machine.execUncorrectableError n site owner place corrected s
  | .linkFailure n dir waves => Sys2Proof.Machine.execLinkFailure n dir waves s
  | .moreRequest n dir lseq inc => Sys2Proof.Machine.execMoreRequest n dir lseq inc s
  | .alignFlit n src gsc phase => Sys2Proof.Machine.execAlignFlit n src gsc phase s
  | .ucieModuleLoss n k => Sys2Proof.Machine.execUcieModuleLoss n k s

end Sys2Proof.Machine
end

