-- ==== Sys2Proof/Machine/Late.lean ====
section
/-! DEFINITION. The effects of one cc that its issue tests do not see (R97, R109, R111, R114, R119), as they take effect
for the next. -/

namespace Sys2Proof.Machine

/-- TDISARM as its cc ends, after every firing of that cc (R311): the entry is freed and the result, in flight with 0,
becomes 1. -/
def lateDisarm (s : State) (n c : Nat) (v : Word) (d : Reg) : State :=
  match smGet (nd s n).armed none (fld v 11 0) with
  | none => s
  | some a =>
    if a.fired || a.count.toNat != fld v 31 12 || a.tenant != tenantOf (co s n c) then s else
    let one (r : Result) : Result := if r.dest == .sreg .ctrl d then { r with val := 1 } else r
    modCo (modNd s n fun x => { x with armed := smDel x.armed (fld v 11 0) }) n c fun k =>
      { k with inflight := k.inflight.map one, landing := k.landing.map one }

/-- Applies one effect. -/
def applyLate (s : State) : Late → State
  | .tokPop n c f k => modCo s n c fun x => let y := fifo x f; putFifo x f { y with popped := y.popped - k }
  | .tokPush n c f k => modCo s n c fun x => landTok x f k
  | .qFill n c q i v => modCo s n c fun x => queueFill x q i (.filled v)
  | .qFreed n c q => modCo s n c fun x => let y := queueOf x q; putQueue x q { y with freed := y.freed - 1 }
  | .flags n c m => modCo s n c fun x => { x with evt := x.evt ||| m }
  | .evt n c v => modCo s n c fun x => { x with evt := v }
  | .vtype n c v => modCo s n c fun x => { x with vtype := v }
  | .vwb n c v => modCo s n c fun x => { x with vwb := v }
  | .rmode n c v => modCo s n c fun x => { x with rmode := v }
  | .det n c b => modCo s n c fun x => { x with det := b }
  | .interlock n c => modCo s n c fun x => { x with interlock := !x.landing.isEmpty }
  | .redLimit n c v => modCo s n c fun x => { x with redLimit := v }
  | .ptRoot n c v => modCo s n c fun x => { x with ptRoot := v }
  | .asid n c v => modCo s n c fun x => { x with asid := v }
  | .nodeReg n r v => modNd s n fun d =>
      match r with
      | 0x20 => { d with trapVec := v }
      | 0x23 => { d with trapCut := v }
      | 0x24 => { d with saveArea := v }
      | 0x25 => { d with saveLen := v }
      | 0x40 => { d with thermTab := v }
      | _ => { d with budget := smPut d.budget (r - 0x10) v }
  | .tnWord n t w v => modNd s n fun d =>
      if w = 4 then { d with leaseW := smPut d.leaseW t v } else { d with prism := smPut d.prism (4 * t + w) v }
  | .shTc n c l k => modCo s n c fun x => { x with shadow := { x.shadow with tc := smPut x.shadow.tc l k } }
  | .shSd n c i w v => modCo s n c fun x =>
      let y := smGet x.shadow.sd {} i
      let y := match w with
        | 0 => { y with w0 := v }
        | 1 => { y with w1 := v }
        | 2 => { y with w2 := v }
        | 3 => { y with w3 := v }
        | _ => { y with w4 := v }
      { x with shadow := { x.shadow with sd := smPut x.shadow.sd i y } }
  | .shAttr n c a t => modCo s n c fun x => { x with shadow := { x.shadow with attr := a, adtab := t } }
  | .shClr n c => modCo s n c fun x => { x with shadow := {} }
  | .tdisarm n c v d => lateDisarm s n c v d

/-- A write of EVT by MTSR, which applies after the other flag changes of its cc (R114). -/
def isEvt : Late → Bool
  | .evt .. => true
  | _ => false

/-- SIGMASK of the F-E results whose retirement cc this is, the last before they land (R97, R114). -/
def retireSigs (s : State) (n c : Nat) : State :=
  let next := coreCyc { s with now := s.now + 1 } n c
  let hit (r : Result) : Bool := r.sig != 0 && decide (r.due ≤ next)
  let off (r : Result) : Result := if hit r then { r with sig := 0 } else r
  let k := co s n c
  let l := k.inflight ++ (if k.mode == .run then k.landing else [])
  if !l.any hit then s else
  modCo s n c fun k => { k with evt := (l.filter hit).foldl (fun e r => e ||| r.sig) k.evt, inflight := k.inflight.map off,
                                landing := if k.mode == .run then k.landing.map off else k.landing }

/-- Applies all effects of a cc, in issue order, MTSR to EVT last. -/
def applyAll (s : State) : State :=
  let l := s.late
  let s := (l.filter fun x => !isEvt x).foldl applyLate { s with late := [] }
  let s := s.nodes.foldl (fun s x => x.2.cores.foldl (fun s y => retireSigs s x.1 y.1) s) s
  (l.filter isEvt).foldl applyLate s

end Sys2Proof.Machine
end

