-- ==== Sys2Proof/Machine/Turns.lean ====
section
/-! DEFINITION. What may move in one cc: the turns of each core, of its engines and of each node, found from the state as
the cc begins. An event that is no longer due when its turn comes does nothing. -/

namespace Sys2Proof.Machine

/-- An event as a turn where it is due. -/
def due (b : Bool) (i : Instr) : List Turn := if b then [.ev i] else []

/-- The results that land on a core (R96, R129, R413). -/
def landTurns (s : State) (n c : Nat) : List Turn :=
  due ((co s n c).mode == .run && !(dueLanding s n c).isEmpty) (.landingBufferLand n c)
  ++ due (!(dueResults s n c false).isEmpty) (.scalarResultWrite n c)
  ++ due (!(dueResults s n c true).isEmpty) (.vectorResultLanding n c)

/-- The lines that the sequencers of a core need (R48). -/
def fetchTurns (s : State) (n c : Nat) : List Turn :=
  allSeqs.flatMap fun q => due (lineWanted s n c q).isSome (.lineFetch n c q)

/-- The sequencers of a core, the choice among their faults first (R95, R410). -/
def seqTurns (s : State) (n c : Nat) : List Turn :=
  let k := co s n c
  match k.mode with
  | .run => fetchTurns s n c ++ .arb n c :: allSeqs.map fun q => .seq n c q
  | .handler => fetchTurns s n c ++ [.arb n c, .seq n c .ctrl]
  | .ending _ _ => if k.deferred.isEmpty then [] else [.arb n c]
  | _ => []

/-- The matrix engine of a core (R150, R161 to R171, R185): where anything is due, all that it may bring in the same cc, a
reduction that starts taking its first k-step at once (R164). -/
def matrixTurns (s : State) (n c : Nat) : List Turn :=
  if retireDue s n c || accOpDue s n c || lensFillDue s n c || replayDue s n c || kStepDue s n c || reductionDue s n c then
    [.ev (.reductionRetire n c), .ev (.accumulatorOpDone n c)] ++ due (lensFillDue s n c) (.lensFill n c)
    ++ [.ev (.replay n c), .ev (.kStep n c), .ev (.reductionStart n c), .ev (.kStep n c)]
  else []

/-- The copy, packet and message engines of a core (R257, R293, R310, R313). -/
def queueTurns (s : State) (n c : Nat) : List Turn :=
  due (copyBeginDue s n c) (.copyEntryBegin n c)
  ++ due (copyPieceDue s n c) (.copyPiece n c)
  ++ due (copyDoneDue s n c) (.copyEntryComplete n c)
  ++ due (packetDue s n c) (.packetInjection n c)
  ++ due (!(co s n c).firedQ.isEmpty && msgRoom (co s n c)) (.firedEnqueue n c)
  ++ due (messageDue s n c) (.messageInjection n c)

/-- What ends a task's stay on a core (R371, R420). -/
def leaveTurns (s : State) (n c : Nat) : List Turn :=
  due (retireTaskDue s n c) (.taskRetire n c) ++ due (saveDue s n c) (.contextSave n c)

/-- Every turn of a core in a cc. A voluntary cut is taken before anything else issues (R121, R415). -/
def coreTurns (s : State) (n c : Nat) : List Turn :=
  landTurns s n c
  ++ due (preemptDue s n c) (.preemptionCut n c)
  ++ (if coreActs s n c then seqTurns s n c ++ matrixTurns s n c ++ queueTurns s n c else [])
  ++ leaveTurns s n c

/-- The deliveries of a router (R283). -/
def hopTurns (s : State) (n k : Nat) (h : Hop) : List Turn :=
  due (h.stage == 1 && ringRoom (nd s n) h) (.deliveryReserve n k)
  ++ due (advanceDue s n h) (.deliveryCountAdvance n k)
  ++ due (h.stage == 1 && decide (h.until_ < frameOf s n)) (.deliveryTimeout n k)

/-- The deliveries of a node: contexts by number, then those of DATA packets by arrival direction (R283). -/
def routerTurns (s : State) (n : Nat) : List Turn :=
  ((nd s n).hops.flatMap fun x => match x.2 with
    | some h => hopTurns s n x.1 h
    | none => [])
  ++ (sortBy (fun x => x.2.arr) (nd s n).dataDel).flatMap fun x => hopTurns s n x.1 x.2

/-- The collective engine (R351, R354, R356). -/
def tileTurns (s : State) (n e : Nat) : List Turn :=
  let d := nd s n
  due (collStartDue d n e) (.collectiveStart n e)
  ++ due (reserveDue d e) (.chunkReserve n e)
  ++ ((tileOf d e).runs.flatMap fun r => due (sweepDue s n e r.k) (.chunkSweep n e r.k))
  ++ due (collDoneDue d e) (.collEntryDone n e)

/-- Whether a node has any ready task. -/
def anyReady (d : Node) : Bool :=
  (d.quads.any fun q => !q.2.deques.isEmpty) || d.dqs.any fun q => q.2.pending.any fun e => e.gang.isSome

/-- The dispatch unit and the merge engines of a node (R376, R378, R384). -/
def dispatchTurns (s : State) (n : Nat) : List Turn :=
  let d := nd s n
  (if placeOpen s n && anyReady d then
    ((upFrom 0 256).flatMap fun c => due (placeDue d c || (gangDue d c).isSome) (.taskPlacement n c))
    ++ (upFrom 0 64).flatMap fun q => due (stealDue d q) (.steal n q)
  else [])
  ++ d.groups.flatMap fun g => due (mergeDue s n g.1) (.mergeStep n g.1)

/-- The classes of a node that have run out of core-cycles with tasks to pre-empt (R33). -/
def budgetTurns (s : State) (n : Nat) : List Turn :=
  (upFrom 0 16).flatMap fun k =>
    due ((nd s n).cores.any fun x => budgetDue s n x.1 && classOf x.2 == k) (.budgetExhausted n k 0)

/-- Every turn of a node in a cc: the collective engine before the instructions of that cc (R364), then its cores in
ascending index (R119). -/
def nodeTurns (s : State) (n : Nat) : List Turn :=
  let d := nd s n
  (d.tiles.flatMap fun x => tileTurns s n x.1)
  ++ (d.cores.flatMap fun x => coreTurns s n x.1)
  ++ routerTurns s n
  ++ (d.outMsgs.flatMap fun o => due (retryDue s n o.msg.ep).isSome (.messageRetry n o.msg.ep))
  ++ dispatchTurns s n ++ budgetTurns s n

/-- What a frame boundary of a node brings (R32, R421). -/
def frameTurns (s : State) (n : Nat) : List Turn :=
  if (nd s n).frame = frameOf s n then []
  else .ev (.frameBoundary n) :: (nd s n).cores.flatMap fun x =>
    due (x.2.mode == .run && x.2.pre.isNone && (nextEntry (nd s n) x.1).isSome) (.preload n x.1)

end Sys2Proof.Machine
end

