-- ==== Sys2Proof/Machine/Run.lean ====
section
/-! DEFINITION. One turn of one agent: a sequencer at its program counter (R44 to R48, R62 to R65, R94, R95), the choice
among the faults of one cc (R410), and an event. -/

namespace Sys2Proof.Machine

/-- Runs an F-E function. -/
def runE (f : FE) (s : State) : EFn → Host.Outcome State Fault Refusal
  | .msetn => execMsetn f s
  | .msets => execMsets f s
  | .mseta => execMseta f s
  | .mclrs => execMclrs f s
  | .mgo => execMgo f s
  | .mwait => execMwait f s
  | .mstat => execMstat f s
  | .mabort => execMabort f s
  | .acopy => execAcopy f s
  | .aclr => execAclr f s
  | .adload => execAdload f s
  | .adinv => execAdinv f s
  | .copy => execCopy f s
  | .copyi => execCopyi f s
  | .cpwait => execCpwait f s
  | .cpstat => execCpstat f s
  | .pbuild => execPbuild f s
  | .psend => execPsend f s
  | .pctrw => execPctrw f s
  | .pctrr => execPctrr f s
  | .pctrs => execPctrs f s
  | .pctra => execPctra f s
  | .pparkget => execPparkget f s
  | .presume => execPresume f s
  | .epopen => execEpopen f s
  | .epclose => execEpclose f s
  | .msend => execMsend f s
  | .mrecv => execMrecv f s
  | .mwrite => execMwrite f s
  | .mread => execMread f s
  | .tsend => execTsend f s
  | .twrite => execTwrite f s
  | .tdisarm => execTdisarm f s
  | .mpoll => execMpoll f s
  | .lease => execLease f s
  | .lrel => execLrel f s
  | .lqry => execLqry f s
  | .lwait => execLwait f s
  | .shutw => execShutw f s
  | .shutgo => execShutgo f s
  | .commdef => execCommdef f s
  | .ctset => execCtset f s
  | .ctready => execCtready f s
  | .ctwait => execCtwait f s
  | .ctdrop => execCtdrop f s
  | .spawn => execSpawn f s
  | .merge => execMerge f s
  | .tend => execTend f s
  | .twait => execTwait f s
  | .succadd => execSuccadd f s
  | .cancel => execCancel f s
  | .yield => execYield f s
  | .tself => execTself f s
  | .gangjoin => execGangjoin f s
  | .tret => execTret f s
  | .ctxsave => execCtxsave f s
  | .ctxload => execCtxload f s
  | .tlbinv => execTlbinv f s
  | .attn => execAttn f s
  | .tnset => execTnset f s
  | .budset => execBudset f s
  | .thermrd => execThermrd f s
  | .retain => execRetain f s
  | .wake => execWake f s

/-- Runs what the decoder gives, as `exec` runs its instruction. -/
def runCode (c : Code) (s : State) : Host.Outcome State Fault Refusal :=
  match c with
  | .one i => exec i s
  | .v n f => runBundle [vunit f n] s
  | .e n f => runE f s n

/-- Whether a sequencer accepts a major (R62). -/
def acceptsMajor (q : Seq) (op : Nat) : Bool :=
  if op ≤ 0x0F ∨ op = 0x15 ∨ (0x17 ≤ op ∧ op ≤ 0x21) then true
  else match q with
    | .ctrl => decide ((0x10 ≤ op ∧ op ≤ 0x13) ∨ op = 0x16 ∨ 0x2A ≤ op)
    | .load => decide ((0x10 ≤ op ∧ op ≤ 0x14) ∨ op = 0x16)
    | .exec => decide (0x22 ≤ op ∧ op ≤ 0x2B)
    | .store => decide (op = 0x10 ∨ op = 0x11 ∨ op = 0x13 ∨ op = 0x14 ∨ op = 0x16)

/-- Whether an instruction puts into a queue that the sequencer does not produce (R112). -/
def foreignPut (s : State) : Code → Bool
  | .one (.qput _ _ b) => qProducer b.toNat != s.cur.seq
  | _ => false

/-- The fault of an instruction whose extended unit is missing: the lowest code (R55, R64, R112, R409). -/
def literalFault (s : State) (op : Nat) (i : Code) : Nat :=
  if foreignPut s i || (inHandler (cc s) && decide (0x2A ≤ op ∧ op ≤ 0x31)) then codeIllegal
  else if acceptsMajor s.cur.seq op then codeLiteral
  else codeWrongSeq

/-- A fault of the moving sequencer at its program counter, once it may issue. -/
def faultHere (s : State) (code : Nat) : Host.Outcome State Fault Refusal :=
  if mayIssue s then .next (takeTrap s s.cur.node s.cur.core (causeHere s code)) else .next (setBlocked s)

/-- Runs the instruction, or on EXEC the bundle, that the units from the program counter on hold (R61 to R65). A fault of any
slot's encoding has the program counter of the bundle as TRAPADDR (DESIGN CHOICE, log 45). -/
def runUnits (us : List (BitVec 32)) (s : State) : Host.Outcome State Fault Refusal :=
  let op := match us with
    | u :: _ => opOf u
    | [] => 0
  if s.cur.seq = .exec then
    match decodeGroup us with
    | .single c _ => runCode c s
    | .bundle l _ => runBundle (l.map fun x => vunit x.2 x.1) s
    | .literal i => faultHere s (literalFault s op i)
    | .illegal => faultHere s codeIllegal
  else
    match decodeUnits us with
    | .ok c _ => runCode c s
    | .literal i => faultHere s (literalFault s op i)
    | .illegal => faultHere s codeIllegal

/-- A sequencer that has passed the last unit of its line, where its program counter stays: END stops it once all has retired
(R44, R94; DEDUCED, log 46); a NEXT that R46 refuses faults ILLEGAL at that unit. -/
def lineEnd (s : State) (bits : BitVec 512) : Host.Outcome State Fault Refusal :=
  if !mayIssue s then .next (setBlocked s)
  else if linkEnd bits then .next (if allRetired s then stopSeq s else setBlocked s)
  else .next (takeTrap s s.cur.node s.cur.core (causeHere s codeIllegal))

/-- What the moving sequencer does at its program counter: without its line it waits (R95, condition 2). -/
def runAt (s : State) : Host.Outcome State Fault Refusal :=
  let k := cs s
  let idx := k.pc.toNat / 16
  let unit_ := k.pc.toNat % 16
  match k.line with
  | .ready i bits =>
    if i ≠ idx then .next (setBlocked s)
    else if k.past then lineEnd s bits
    else runUnits (lineUnits bits unit_) s
  | .bad i code addr =>
    if i ≠ idx then .next (setBlocked s)
    else if mayIssue s then
      .next (takeTrap (modCs s fun k => { k with line := .none }) s.cur.node s.cur.core (causeAt s code addr))
    else .next (setBlocked s)
  | .none => .next (setBlocked s)

/-- Whether a sequencer is alive: its core runs, or runs the handler on CTRL, and it has not stopped. -/
def seqLive (s : State) : Bool :=
  let k := cc s
  (k.mode == .run || (inHandler k && s.cur.seq == .ctrl)) && decide (k.resumeAt ≤ s.now)
  && (cs s).status != .stopped && (cs s).status != .idle

/-- Whether every sequencer of the core that moves is idle or has stopped while its task runs (R371). -/
def allStopped (s : State) : Bool :=
  let k := cc s
  k.mode == .run && decide (k.resumeAt ≤ s.now)
  && allSeqs.all fun q => let x := (smGet k.seqs {} (seqIdx q)).status; x == .stopped || x == .idle

/-- The end by stopping (R371, R387): with an open group the task waits for it at CTRL's stopping point. -/
def stopEnd (s : State) : State :=
  match openGroup s with
  | none => endTask s s.cur.node s.cur.core
  | some (r, g) => match groupWait s r g with
    | .go _ s => endTask s s.cur.node s.cur.core
    | .hold s => s
    | .fault k s => takeTrap s s.cur.node s.cur.core k

/-- One sequencer moves (R95): at most one instruction or bundle. -/
def seqTurn (n c : Nat) (q : Seq) (s : State) : Host.Outcome State Fault Refusal :=
  let s := { s with cur := { node := n, core := c, seq := q, slot := 0, ctx := 0 } }
  if q = .ctrl ∧ allStopped s then .next (stopEnd s)
  else if !seqLive s then .next s
  else match (cs s).hold with
    | .none => runAt s
    | .join .. => .next (setBlocked (joinRelease s n c q))
    | .barrier .. => .next (setBlocked (barrierRelease s n c q))
    | _ => .next (setBlocked s)

/-! The choice among the faults of a core in one cc (R410). -/

/-- A fault that a core could take now: its code, its agent and the state after it is taken. -/
structure Claim where
  code  : Nat
  agent : Nat
  s     : State

/-- The claim of a trial: the trap it has taken on the core, if any. -/
def claimOf (n c : Nat) : Host.Outcome State Fault Refusal → List Claim
  | .next s => match s.trap with
    | some (m, x, k) => if m = n ∧ x = c then [⟨k.code, k.agent, s⟩] else []
    | none => []
  | _ => []

/-- The claims of a core: its sequencers', each tried on the state as this cc finds it, a BARSYNC whose participant is lost
(R249), the engines' and the deferred ones, and a cancellation (R391). -/
def claims (s : State) (n c : Nat) : List Claim :=
  let seqs := allSeqs.flatMap fun q => claimOf n c (seqTurn n c q s)
  let lost (q : Seq) : List Claim := match (sq s n c q).hold with
    | .barrier 4 own id _ _ _ =>
      if (co s n c).mode == .run && barLost s n own id then
        claimOf n c (execTrapCut n c ⟨codePeerGone, 0, seqIdx q, false, false, 0, 0⟩ s)
      else []
    | _ => []
  let cancel : List Claim :=
    if cancelDue s n c then claimOf n c (execTrapCut n c ⟨codeCancelled, 0, 8, false, false, 0, 0⟩ s) else []
  seqs ++ allSeqs.flatMap lost ++ claimOf n c (execDeferredFault n c s) ++ cancel

/-- The claim with the lowest code, then the lowest agent. -/
def firstClaim : List Claim → Option Claim
  | [] => none
  | k :: r => match firstClaim r with
    | none => some k
    | some x => if k.code < x.code || (k.code == x.code && k.agent ≤ x.agent) then some k else some x

/-- Whether a turn is one of a core's sequencers. -/
def turnOf (n c : Nat) : Turn → Bool
  | .seq m x _ => m == n && x == c
  | _ => false

/-- Takes the fault that R410 chooses, and with it the core's turns of this cc. -/
def arbitrate (n c : Nat) (s : State) : Host.Outcome State Fault Refusal :=
  match firstClaim (claims { s with trap := none } n c) with
  | some k => .next { k.s with ready := k.s.ready.filter fun t => !turnOf n c t }
  | none => execDeferredFault n c s

/-- An event of a well-formed term. -/
def eventTurn (i : Instr) (s : State) : Host.Outcome State Fault Refusal :=
  if wellFormed i then exec i s else .fault .illFormed

/-- One turn. -/
def runTurn (t : Turn) (s : State) : Host.Outcome State Fault Refusal :=
  match t with
  | .arb n c => arbitrate n c s
  | .seq n c q => seqTurn n c q s
  | .ev i => eventTurn i s

end Sys2Proof.Machine
end

