-- ==== Sys2Proof/Machine/Tick.lean ====
section
/-! DEFINITION. One cc begins (R14, R30): the effects of the cc before are seen, resident tasks are charged, and the turns
of the cc are laid out: frame boundaries, what is due, then every node's. -/

namespace Sys2Proof.Machine

/-- Charges every resident task of a node one nominal cc (R33). -/
def chargeNode (d : Node) : Node :=
  d.cores.foldl (fun d x =>
    if x.2.mode != .free && (bucketOf d (classOf x.2)).cyc.isSome then
      charge d (classOf x.2) fun b => { b with cyc := drain b.cyc 1 }
    else d) d

/-- The order of what is due in one cc by a timer: the node's own, then program hops by context and DATA deliveries by arrival
direction (R283). -/
def dueRank (i : Instr) : Nat :=
  match i with
  | .progHop _ k => 1 + k
  | .dataDelivery _ _ arr => 9 + arr
  | _ => 0

/-- What is due in this cc, and what is not. -/
def takeDue (s : State) : List Instr × State :=
  let now := s.now
  let l := (s.timers.takeWhile fun t => decide (t.1 ≤ now)).map fun t => t.2
  (sortBy dueRank l, { s with timers := s.timers.dropWhile fun t => decide (t.1 ≤ now) })

/-- The joins of QFENCE that may leave their queues do (R230, R359). -/
def leaveJoins (s : State) (n c : Nat) : State :=
  if joinDue s n c then collWakeAll (clearJoins s n c) n else s

/-- Whether a core begins to be left at a voluntary pre-emption (R121, R177, R399, R415): every sequencer stands at a quiet
point, none waits in GANGJOIN, and the task does not end by stopping. -/
def leaveDue (s : State) (n c : Nat) : Bool :=
  let k := co s n c
  k.mode == .run && k.preempt.isSome && !k.leaving && allQuiet k && decide (k.resumeAt ≤ s.now)
  && match k.task with
     | some t => t.waitGang.isNone && (t.group.isSome || allSeqs.any fun q =>
         let x := (smGet k.seqs {} (seqIdx q)).status
         x != .stopped && x != .idle)
     | none => false

/-- What a core does by itself as a cc begins: joins leave its queues, a handler whose header waited begins, and the stop of a
pre-emption is latched. -/
def coreBegin (n : Nat) (s : State) (c : Nat) : State :=
  let s := leaveJoins s n c
  let s := match (co s n c).mode with
    | .entering k => tryEnter s n c k
    | _ => s
  if leaveDue s n c then modCo s n c fun k => { k with leaving := true } else s

/-- The loads that every DIRMIN of this cc sees (R280). -/
def latchLoads (s : State) (n : Nat) : State :=
  let l := (upFrom 0 6).map fun d => loadOf s n d
  let now := s.now
  modNd s n fun d => { d with loads := some (now, l) }

/-- What a node does by itself as a cc begins: waiting packets take free contexts, congestion windows, send queues and links let
go what they can, ALIGN flits go, removals of translations are answered, loads are latched, and its cores begin. -/
def nodeBegin (s : State) (n : Nat) : State :=
  let s := if (nd s n).arrivals.isEmpty then s else takeArrivals n 8 s
  let s := tlbAnswers (sendAligns (pumpLinks (shutterPump (pacePump s n) n) n) n) n
  let s := if (nd s n).hops.isEmpty then s else latchLoads s n
  (nd s n).cores.foldl (fun s x => coreBegin n s x.1) s

/-- One cc begins. -/
def tick (s : State) : State :=
  let s := applyAll s
  let charged := s.nodes.map fun x => (x.1, chargeNode x.2)
  let s := { s with now := s.now + 1, trap := none, nodes := charged }
  let s := s.nodes.foldl (fun s x => nodeBegin s x.1) s
  let a := landAll s
  let r := takeDue a.1
  let s := r.2
  let own := r.1.filter fun i => dueRank i == 0
  let hops := r.1.filter fun i => dueRank i != 0
  let turns := (s.nodes.flatMap fun x => frameTurns s x.1) ++ ((own ++ a.2 ++ hops).map fun i => .ev i)
    ++ s.nodes.flatMap fun x => nodeTurns s x.1
  { s with ready := turns }

end Sys2Proof.Machine
end

