-- ==== Sys2Proof/Machine/Step.lean ====
section
/-! DEFINITION. One step of the machine: one turn, or, when no turn is left in this cc, the beginning of the next. -/

namespace Sys2Proof.Machine

/-- One step. -/
def step (s : State) : Host.Outcome State Fault Refusal :=
  match s.ready with
  | [] => .next (tick s)
  | t :: r => runTurn t { s with ready := r }

/-- The state with an instruction where the next step takes it: the line that a sequencer of a running task has fetched,
or the instruction word at which a program packet stands in a prism context (log 14). -/
def State.withFetchWord (s : State) (nbits w : Nat) : State := placeWord s nbits w

end Sys2Proof.Machine
end

