-- ==== Sys2Proof/Machine/Window.lean ====
section
/-! DEFINITION. What the host reads in a node's register window (R445 to R455). A read changes nothing. -/

namespace Sys2Proof.Machine

/-- An attention record as it lies in the ring (R450). -/
def attnWord (r : Attn) (k : Nat) : Word :=
  match k with
  | 0 => BitVec.ofNat 64 (r.kind + r.core % 256 * 2 ^ 16 + r.code % 2 ^ 32 * 2 ^ 32)
  | 1 => r.val
  | 2 => r.gsc
  | _ => r.task

/-- A start-up register as it reads: WO registers read 0 (R5, R447). -/
def startRead (d : Node) (off : Nat) : Word :=
  match off with
  | 0x00 => 0x17420
  | 0x08 => BitVec.ofNat 64 (d.phase + 256 * d.fail)
  | 0x10 => d.fwAddr
  | 0x18 => d.fwLen
  | 0x28 => BitVec.ofNat 64 d.dways
  | 0x30 => d.epHome
  | 0x38 => d.dspill
  | 0x40 => d.retIdle
  | 0x48 => BitVec.ofNat 64 d.powLim
  | 0x58 => d.hostBase
  | 0x60 => d.hostLen
  | _ => 0

/-- The ready tasks of a queue (R369). -/
def readyCount (d : Node) (q : Nat) : Nat :=
  (dqOf d q).pending.length
  + d.quads.foldl (fun a x => (upFrom 0 4).foldl (fun a lv => a + (deqOf x.2 q lv).length) a) 0

/-- A dispatch queue's block as it reads (R369). -/
def dqRead (d : Node) (q off : Nat) : Word :=
  let x := dqOf d q
  match off with
  | 0x08 => x.qmask
  | 0x10 => x.dqctl
  | 0x18 => BitVec.ofNat 64 (readyCount d q + x.dropped * 2 ^ 32 + x.faults * 2 ^ 48)
  | 0x20 => x.dqfault
  | _ => 0

/-- CORESTAT (R453): CODE is that of the held cut, after a fault in the handler too. A context that SAVEQ is saving is still
held. -/
def coreStat (k : Core) : Word :=
  let word (h : Bool) : Word :=
    BitVec.ofNat 64 (2 ^ 63 + 2 ^ 62 * b2n h + 2 ^ 23 * fld k.trapCause 23 23 + fld k.trapCause 7 0)
  match k.mode, k.saveHeld with
  | .hostHeld h _, _ => word h
  | _, some (h, _) => word h
  | _, none => 0

/-- The public modulus and exponent of the device identity key as the window shows them (R455), in the byte order of R454's header. -/
def identityBytes : List Byte := valBytes 512 Config.identity.modulus ++ valBytes 4 Config.identity.exponent

/-- A word of the attestation mailbox (R455). -/
def mailRead (d : Node) (off : Nat) : Word :=
  if off < 0x1040 then BitVec.ofNat 64 (fld d.nonce (8 * (off - 0x1000) + 63) (8 * (off - 0x1000)))
  else if 0x1100 ≤ off ∧ off < 0x1400 then BitVec.ofNat 64 (bytesVal (byteSlice d.report (off - 0x1100) 8))
  else if 0x1400 ≤ off ∧ off < 0x1FF0 then BitVec.ofNat 64 (bytesVal (byteSlice identityBytes (off - 0x1400) 8))
  else if off = 0x1FF8 then BitVec.ofNat 64 (b2n d.attBusy + 2 * b2n d.attDone)
  else 0

/-- A tenant's block as it reads (R451). -/
def tenantRead (d : Node) (t off : Nat) : Word :=
  if off ≤ 0x20 then tnOld d t (off / 8) else if off = 0x28 then (smGet d.trt {} t).lost else 0

/-- The 8 bytes at an offset of the window (R445). -/
def windowRead (s : State) (n off : Nat) : Word :=
  let d := nd s n
  if off % 8 ≠ 0 then 0
  else if off < 0x70 then startRead d off
  else if 0x100 ≤ off ∧ off < 0x500 then dqRead d ((off - 0x100) / 64) ((off - 0x100) % 64)
  else if 0x900 ≤ off ∧ off < 0xB00 then smGet d.troot 0 ((off - 0x900) / 8)
  else if 0x1000 ≤ off ∧ off < 0x2000 then mailRead d off
  else if 0x2000 ≤ off ∧ off < 0x2800 then
    match d.attn.find? fun r => r.1 == (off - 0x2000) / 32 with
    | some r => attnWord r.2 ((off - 0x2000) % 32 / 8)
    | none => 0
  else if off = 0x2800 then d.attLost
  else if off = 0x2808 then d.attHead
  else if off = 0x2810 then d.attTail
  else if 0x3000 ≤ off ∧ off < 0x4000 then tenantRead d ((off - 0x3000) / 64) ((off - 0x3000) % 64)
  else if 0x4000 ≤ off ∧ off < 0x4800 then smGet d.poisonZ 0 ((off - 0x4000) / 8)
  else if 0x4800 ≤ off ∧ off < 0x4A00 then BitVec.ofNat 64 (nth d.qmap ((off - 0x4800) / 8) 0)
  else if 0x4A00 ≤ off ∧ off < 0x5A00 then BitVec.ofNat 64 (nth d.smap ((off - 0x4A00) / 8) 0)
  else if off = 0x5A00 then d.spares
  else if off = 0x5A08 then d.eccCnt
  else if off = 0x5A10 then d.resendC
  else if 0x5C00 ≤ off ∧ off < 0x6400 then coreStat (co s n ((off - 0x5C00) / 8))
  else 0

end Sys2Proof.Machine
end

