-- ==== Sys2Proof/Safety.lean ====
section
/-! DEFINITION. What counts as a safe run: no step stops. Every fault of the spec is a trap, which is a next state (R405),
so a well-formed state never stops. -/

namespace Sys2Proof

/-- Whether a step goes on. -/
def goesOn (o : Host.Outcome Machine.State Machine.Fault Machine.Refusal) : Prop := ∃ s, o = .next s

/-- Whether the events that wait in a state are well formed, as every agent makes them. -/
def eventsOk (s : Machine.State) : Prop :=
  (∀ i, Machine.Turn.ev i ∈ s.ready → wellFormed i = true) ∧ (∀ t ∈ s.timers, wellFormed t.2 = true)
  ∧ ∀ p ∈ s.air, wellFormed p.2.2.2.what = true

/-- A run of `k` steps from a state stops nowhere. -/
def safeFor : Nat → Machine.State → Prop
  | 0, _ => True
  | k + 1, s => ∃ t, Machine.step s = .next t ∧ safeFor k t

end Sys2Proof
end

