-- ==== Sys2Proof/Certificates/Slice0/Obligations.lean ====
section
/-! DEFINITION. What is claimed of the model: one Prop for each obligation. An instruction completes under conditions on
the state and its operands; what it then gives is said with the operations that the rules name. -/

namespace Sys2Proof.Claims

open Sys2Proof.Machine

/-- What a step of the machine answers. -/
abbrev Out : Type := Host.Outcome State Fault Refusal

/-- The conditions of R95 (and the quiet span of R73) on an instruction of one of the sequencers `seqs` with token field
`t`, source registers `srcs`, `fly` results in flight, waiting for `flags` and moving `pops` and `pushes` beside its token
field: the core runs, the flags are set, the tokens it pops are there and those it pushes have room, its sources are ready,
and the results in flight leave room. -/
structure CanIssueWith (s : State) (t : Tok) (seqs : List Seq) (srcs : List Reg) (fly : Nat) (flags : BitVec 16)
    (pops pushes : List (Nat × Nat)) : Prop where
  runs  : mayIssue s = true
  taken : s.cur.seq ∈ seqs
  span  : spanFull s = false
  flags : flagsSet s flags = true
  pops  : tokensThere s t pops = true
  room  : tokensRoom s t pushes = true
  ready : srcsReady s srcs = true
  slots : inflightRoom s fly = true

/-- The same for an instruction that waits for no flag and moves no token beside its token field. -/
abbrev CanIssue (s : State) (t : Tok) (seqs : List Seq) (srcs : List Reg) (fly : Nat) : Prop :=
  CanIssueWith s t seqs srcs fly 0 [] []

/-- The same for an F-E instruction (R60, R62): with its WAITMASK, outside the handler (R409). -/
structure CanIssueE (s : State) (f : FE) (seqs : List Seq) (srcs : List Reg) (fly : Nat) : Prop where
  issue : CanIssueWith s f.tk seqs srcs fly f.wait [] []
  task  : inHandler (cc s) = false

/-- What a vector instruction sees at issue: its fields, the core, and the types and rounding mode as resolved (R58, R122). -/
def ctxOf (s : State) (f : FV) : VCtx := vctx s ⟨f, VShape.mov, .load .unit⟩

/-- The conditions of R95, R127 and R132 on a vector instruction alone in its bundle: EXEC may issue, its tokens, sources
and rows are ready, and its result has room in flight. -/
structure CanIssueV (s : State) (f : FV) (h : VShape) : Prop where
  issue : CanIssue s f.tk [.exec] (vopSrcs f.a ++ vopSrcs f.b ++ vopSrcs f.c) 1
  rows  : interlocked (cc s) ⟨f, h, .load .unit⟩ = false

/-- The state once an instruction of `len` units has issued and retires in its issue cc: flags cleared, tokens moved, the
program counter at the continuation, one more issue counted (R59, R60, R73, R95, R97, R109). -/
def pastWith (s : State) (t : Tok) (len : Nat) (flags : BitVec 16) (pops pushes : List (Nat × Nat)) : State :=
  takeIssue { actOp len t [] id with flags := fun _ => flags, pops := fun _ => pops, pushes := fun _ => pushes } s
/-- The same without flags and further tokens. -/
def past (s : State) (t : Tok) (len : Nat) : State := pastWith s t len 0 [] []
/-- The same of an instruction whose result is still to come: its push waits (R97). -/
def begun (s : State) (t : Tok) (len : Nat) : State := takeIssue { actOp len t [] id with now := false } s
/-- The same of an F-E instruction of two units, which clears the flags of its WAITMASK (R60). -/
def pastE (s : State) (f : FE) : State := pastWith s f.tk 2 f.wait [] []
/-- The same of an F-E instruction whose result is still to come. -/
def begunE (s : State) (f : FE) : State := takeIssue { actOp 2 f.tk [] id with flags := fun _ => f.wait, now := false } s

/-- The state once a vector instruction alone in its bundle has issued (R65). -/
def begunV (s : State) (f : FV) : State := begun s f.tk (if f.a.isExt || f.b.isExt || f.c.isExt then 3 else 2)

/-- The fields of a core that no register instruction touches: all but its sequencers, the tokens, and the results in
flight or still to land. -/
def coreRest (k : Core) : Core := { k with seqs := [], hseq := {}, fifos := [], inflight := [], landing := [] }
/-- The fields of a node but its cores. -/
def nodeRest (d : Node) : Node := { d with cores := [] }
/-- A sequencer but its registers and what an issue moves: where control stands, its status and the counts of R73 and R406. -/
def seqRest (k : Sequencer) : Sequencer :=
  { k with regs := [], pc := 0, past := false, span := 0, quiet := false, issued := 0, notBefore := 0, status := .idle }

/-- Everything but the moving sequencer and its tokens stands as before: every other node and core, every memory, special
register, accumulator row and mask, and every other sequencer. -/
structure OnlySeq (s t : State) : Prop where
  nodes : ∀ n, nodeRest (nd t n) = nodeRest (nd s n)
  cores : ∀ n c, ¬(n = s.cur.node ∧ c = s.cur.core) → co t n c = co s n c
  rest  : coreRest (cc t) = coreRest (cc s)
  seqs  : ∀ q, q ≠ s.cur.seq → sq t s.cur.node s.cur.core q = sq s s.cur.node s.cur.core q

/-- And of the moving sequencer only registers and what an issue moves. -/
structure OnlyOwn (s t : State) : Prop extends OnlySeq s t where
  own   : seqRest (cs t) = seqRest (cs s)

/-- The reply of a node to a window request, with a code and a value and no poison (R215). -/
def winRep (n : Nat) (r : WinReq) (code v : Nat) : WinRep :=
  ⟨r.core, r.seq, r.tag, n, BitVec.ofNat 64 ((if r.relaxed then 9 else 8) * 2 ^ 60 + n * 2 ^ 48 + r.off),
    match r.op with | .store => true | _ => false, code, BitVec.ofNat 1024 v, false⟩

end Sys2Proof.Claims

open Sys2Proof Sys2Proof.Machine Sys2Proof.Claims

/-! Scalar instructions. -/

/-- The functions of two operands that take one cc (R101, R102): each instruction writes its function of the two operand
values to its destination and goes on. The functions of one operand and CSEL (R101). The immediate forms (R103): ADDI
sign-extends its immediate, ANDI, ORI and XORI zero-extend it, LI loads a sign-extended one, and the shifts act by their
six-bit amount. Of each of these it says which next state it answers, under conditions on the state and the operands
alone: add, sub, and, or, xor, andn, min, max, minu, maxu, shl, shr, sar, rotl, addw, ceq, cne, clt, cltu, cle, cleu,
adds1, adds2, adds3, adds4, clz, popc, csel, mov, sextb, sexth, sextw, zextw, addi, andi, ori, xori, shli, shri, sari,
rotli, li. -/
def Obligations.ScalarResults : Prop :=
  (
    ∀ e ∈ ([(Instr.add, fun x y => x + y), (Instr.sub, fun x y => x - y), (Instr.and, fun x y => x &&& y),
        (Instr.or, fun x y => x ||| y), (Instr.xor, fun x y => x ^^^ y), (Instr.andn, fun x y => x &&& ~~~y),
        (Instr.min, fun x y => if x.sle y then x else y), (Instr.max, fun x y => if x.sle y then y else x),
        (Instr.minu, fun x y => if x.ule y then x else y), (Instr.maxu, fun x y => if x.ule y then y else x),
        (Instr.shl, fun x y => x <<< y.toNat), (Instr.shr, fun x y => x >>> y.toNat),
        (Instr.sar, fun x y => x.sshiftRight y.toNat), (Instr.rotl, fun x y => x.rotateLeft (y.toNat % 64)),
        (Instr.addw, fun x y => ((x + y).setWidth 32).signExtend 64),
        (Instr.ceq, fun x y => if x = y then 1 else 0), (Instr.cne, fun x y => if x = y then 0 else 1),
        (Instr.clt, fun x y => if x.slt y then 1 else 0), (Instr.cltu, fun x y => if x.ult y then 1 else 0),
        (Instr.cle, fun x y => if x.sle y then 1 else 0), (Instr.cleu, fun x y => if x.ule y then 1 else 0),
        (Instr.adds1, fun x y => x + 2 * y), (Instr.adds2, fun x y => x + 4 * y), (Instr.adds3, fun x y => x + 8 * y),
        (Instr.adds4, fun x y => x + 16 * y)]
        : List ((Tok → Reg → SOp → SOp → Instr) × (Word → Word → Word))),
      ∀ t d a b s, CanIssue s t allSeqs (sopSrcs a ++ sopSrcs b) 0 →
        exec (e.1 t d a b) s
          = .next (writeReg (past s t (1 + sopLen a + sopLen b)) d (e.2 (opv s a) (opv s b))))
  ∧ (
    (∀ e ∈ ([(Instr.mov, fun x => x), (Instr.sextb, fun x => (x.setWidth 8).signExtend 64),
        (Instr.sexth, fun x => (x.setWidth 16).signExtend 64), (Instr.sextw, fun x => (x.setWidth 32).signExtend 64),
        (Instr.zextw, fun x => (x.setWidth 32).setWidth 64),
        (Instr.clz, fun x => BitVec.ofNat 64 (((List.range 64).takeWhile fun i => !x.getMsbD i).length)),
        (Instr.popc, fun x => BitVec.ofNat 64 (((List.range 64).filter fun i => x.getLsbD i).length))]
        : List ((Tok → Reg → SOp → Instr) × (Word → Word))),
      ∀ t d a s, CanIssue s t allSeqs (sopSrcs a) 0 →
        exec (e.1 t d a) s = .next (writeReg (past s t (1 + sopLen a)) d (e.2 (opv s a))))
    ∧ ∀ t d a b s, CanIssue s t allSeqs (d :: sopSrcs a ++ sopSrcs b) 0 →
        exec (.csel t d a b) s
          = .next (writeReg (past s t (1 + sopLen a + sopLen b)) d (if opv s a = 0 then reg s d else opv s b)))
  ∧ (
    (∀ e ∈ ([(Instr.addi, fun x i => x + i.signExtend 64), (Instr.andi, fun x i => x &&& i.setWidth 64),
        (Instr.ori, fun x i => x ||| i.setWidth 64), (Instr.xori, fun x i => x ^^^ i.setWidth 64)]
        : List ((Tok → Reg → Reg → BitVec 12 → Instr) × (Word → BitVec 12 → Word))),
      ∀ t d a i s, CanIssue s t allSeqs [a] 0 →
        exec (e.1 t d a i) s = .next (writeReg (past s t 1) d (e.2 (reg s a) i)))
    ∧ (∀ e ∈ ([(Instr.shli, fun x n => x <<< n.toNat), (Instr.shri, fun x n => x >>> n.toNat),
        (Instr.sari, fun x n => x.sshiftRight n.toNat), (Instr.rotli, fun x n => x.rotateLeft n.toNat)]
        : List ((Tok → Reg → Reg → BitVec 6 → Instr) × (Word → BitVec 6 → Word))),
      ∀ t d a n s, CanIssue s t allSeqs [a] 0 →
        exec (e.1 t d a n) s = .next (writeReg (past s t 1) d (e.2 (reg s a) n)))
    ∧ ∀ t d i s, CanIssue s t allSeqs [] 0 →
        exec (.li t d i) s = .next (writeReg (past s t 1) d (i.signExtend 64)))

/-- MUL, MULH and MULHU (4 cc) and the divisions (36 cc) put their result in flight (R96, R101, R102): division by zero gives
all ones or the dividend, and none of them traps. Of each of these it says which next state it answers, under conditions
on the state and the operands alone: mul, mulh, mulhu, div, divu, rem, remu. -/
def Obligations.MulDivResults : Prop :=
  ∀ e ∈ ([(Instr.mul, 4, fun x y => x * y),
      (Instr.mulh, 4, fun x y => ((x.signExtend 128 * y.signExtend 128) >>> 64).setWidth 64),
      (Instr.mulhu, 4, fun x y => ((x.setWidth 128 * y.setWidth 128) >>> 64).setWidth 64),
      (Instr.div, 36, fun x y => if y = 0 then BitVec.allOnes 64 else x.sdiv y),
      (Instr.divu, 36, fun x y => if y = 0 then BitVec.allOnes 64 else x / y),
      (Instr.rem, 36, fun x y => if y = 0 then x else x.srem y),
      (Instr.remu, 36, fun x y => if y = 0 then x else x % y)]
      : List ((Tok → Reg → SOp → SOp → Instr) × Nat × (Word → Word → Word))),
    ∀ t d a b s, CanIssue s t allSeqs (sopSrcs a ++ sopSrcs b) 1 →
      exec (e.1 t d a b) s
        = .next (flyReg (begun s t (1 + sopLen a + sopLen b)) d (e.2.2 (opv s a) (opv s b)) e.2.1 (pushKey s t) 0)

/-- s0 reads 0 and discards writes: an instruction whose destination is s0 only goes on, and every other destination reads
back what was written to it (R93). -/
def Obligations.RegisterZero : Prop :=
  (∀ s, reg s 0 = 0)
  ∧ (∀ s v, writeReg s 0 v = s)
  ∧ (∀ s d v, d ≠ 0 → reg (writeReg s d v) d = v)
  ∧ ∀ t a b s, CanIssue s t allSeqs (sopSrcs a ++ sopSrcs b) 0 →
      exec (.add t 0 a b) s = .next (past s t (1 + sopLen a + sopLen b))

/-- The frame of the register instructions (R93, R101 to R103) and of BLOOP (R104): whatever next state such an instruction
gives while its quiet span is not full, BLOOP whatever it gives without a trap, only its own sequencer's registers and
issue state may differ, and of the registers only the destination, of BLOOP its counter. The frame of branches, calls and
returns (R104, R106): without a trap they touch no register, no memory and no other agent. -/
def Obligations.RegisterFrame : Prop :=
  (
    (∀ e ∈ ([Instr.add, Instr.sub, Instr.and, Instr.or, Instr.xor, Instr.andn, Instr.min, Instr.max, Instr.minu, Instr.maxu,
        Instr.shl, Instr.shr, Instr.sar, Instr.rotl, Instr.addw, Instr.ceq, Instr.cne, Instr.clt, Instr.cltu, Instr.cle,
        Instr.cleu, Instr.adds1, Instr.adds2, Instr.adds3, Instr.adds4, Instr.csel, Instr.mul, Instr.mulh, Instr.mulhu,
        Instr.div, Instr.divu, Instr.rem, Instr.remu] : List (Tok → Reg → SOp → SOp → Instr)),
      ∀ t d a b s x, spanFull s = false → exec (e t d a b) s = .next x →
        OnlyOwn s x ∧ ∀ r, r ≠ d → reg x r = reg s r)
    ∧ (∀ e ∈ ([Instr.mov, Instr.sextb, Instr.sexth, Instr.sextw, Instr.zextw, Instr.clz, Instr.popc]
        : List (Tok → Reg → SOp → Instr)),
      ∀ t d a s x, spanFull s = false → exec (e t d a) s = .next x → OnlyOwn s x ∧ ∀ r, r ≠ d → reg x r = reg s r)
    ∧ (∀ t d a i s x, spanFull s = false →
        (exec (.addi t d a i) s = .next x ∨ exec (.andi t d a i) s = .next x ∨ exec (.ori t d a i) s = .next x
          ∨ exec (.xori t d a i) s = .next x) →
        OnlyOwn s x ∧ ∀ r, r ≠ d → reg x r = reg s r)
    ∧ (∀ t d a n s x, spanFull s = false →
        (exec (.shli t d a n) s = .next x ∨ exec (.shri t d a n) s = .next x ∨ exec (.sari t d a n) s = .next x
          ∨ exec (.rotli t d a n) s = .next x) →
        OnlyOwn s x ∧ ∀ r, r ≠ d → reg x r = reg s r)
    ∧ (∀ t d i s x, spanFull s = false → exec (.li t d i) s = .next x → OnlyOwn s x ∧ ∀ r, r ≠ d → reg x r = reg s r)
    ∧ ∀ t a l u s x, exec (.bloop t a l u) s = .next x → x.trap = none → OnlySeq s x ∧ ∀ r, r ≠ a → reg x r = reg s r)
  ∧ (
    ∀ i s x, (∃ t a l u, i ∈ [Instr.b t l u, .beqz t a l u, .bnez t a l u, .bltz t a l u, .bgez t a l u, .bgtz t a l u,
        .blez t a l u, .call t l u, .ret t]) ∨ (∃ t a, i ∈ [Instr.jmpr t a, .callr t a]) →
      exec i s = .next x → x.trap = none → OnlySeq s x ∧ ∀ r, reg x r = reg s r)

/-! Control transfer and traps. -/

/-- The conditional branches (R104): not taken they go on, taken they set the program counter to the target, which issues no
earlier than 3 cc later (R107); a taken target outside the image faults ILLEGAL. BLOOP counts its register down and
branches until it is zero; a target that faults leaves the register (R104). Of each of these it says which next state it
answers, under conditions on the state and the operands alone: b, beqz, bnez, bltz, bgez, bgtz, blez, bloop. -/
def Obligations.Branches : Prop :=
  (
    (∀ e ∈ ([(fun t _ l u => Instr.b t l u, [], fun _ => True), (Instr.beqz, [0], fun v => v = 0), (Instr.bnez, [0], fun v => v ≠ 0),
        (Instr.bltz, [0], fun v => v.toInt < 0), (Instr.bgez, [0], fun v => 0 ≤ v.toInt),
        (Instr.bgtz, [0], fun v => 0 < v.toInt), (Instr.blez, [0], fun v => v.toInt ≤ 0)]
        : List ((Tok → Reg → BitVec 24 → BitVec 4 → Instr) × List Nat × (Word → Prop))),
      ∀ t a (l : BitVec 24) (u : BitVec 4) s, CanIssue s t allSeqs (e.2.1.map fun _ => a) 0 →
        (¬ e.2.2 (reg s a) → exec (e.1 t a l u) s = .next (past s t 2))
        ∧ (e.2.2 (reg s a) → l ≠ 0 ∧ l.toNat < (imageOf (cc s)).2.1 →
            exec (e.1 t a l u) s = .next (jumpTo (past s t 2) (l ++ u)))
        ∧ (e.2.2 (reg s a) → ¬(l ≠ 0 ∧ l.toNat < (imageOf (cc s)).2.1) →
            exec (e.1 t a l u) s = .next (takeTrap s s.cur.node s.cur.core (causeHere s 0x01))))
    ∧ ∀ s x, (cs (jumpTo s x)).pc = x ∧ (cs (jumpTo s x)).notBefore = coreCyc s s.cur.node s.cur.core + 3)
  ∧ (
    ∀ t a (l : BitVec 24) (u : BitVec 4) s, CanIssue s t allSeqs [a] 0 →
      (reg s a = 1 → exec (.bloop t a l u) s = .next (writeReg (past s t 2) a 0))
      ∧ (reg s a ≠ 1 → l ≠ 0 ∧ l.toNat < (imageOf (cc s)).2.1 →
          exec (.bloop t a l u) s = .next (jumpTo (writeReg (past s t 2) a (reg s a - 1)) (l ++ u)))
      ∧ (reg s a ≠ 1 → ¬(l ≠ 0 ∧ l.toNat < (imageOf (cc s)).2.1) →
          exec (.bloop t a l u) s = .next (takeTrap s s.cur.node s.cur.core (causeHere s 0x01))))

/-- Calls, returns and computed jumps (R105, R106): a call pushes its continuation on the return stack of 16 entries, RET
takes the last one; an over- or underflow faults RSTACK, a target outside the image or at unit 15 ILLEGAL, and so does a
call, CALL or CALLR, at the end of an END line. Of each of these it says which next state it answers, under conditions on
the state and the operands alone: ret, jmpr, callr, call. -/
def Obligations.CallsAndReturns : Prop :=
  let ok (s : State) (v : Word) : Prop :=
    v.toNat < 2 ^ 28 ∧ v.toNat % 16 ≠ 15 ∧ v.toNat / 16 ≠ 0 ∧ v.toNat / 16 < (imageOf (cc s)).2.1
  let push (s : State) (x : BitVec 28) : State := jumpTo (modCs s fun k => { k with rstack := returnPc k :: k.rstack }) x
  let trap (s : State) (code : Nat) : Out := .next (takeTrap s s.cur.node s.cur.core (causeHere s code))
  (∀ t (l : BitVec 24) (u : BitVec 4) s, CanIssue s t allSeqs [] 0 →
    (endsLine s 2 = true → exec (.call t l u) s = trap s 0x01)
    ∧ (endsLine s 2 = false → ¬(l ≠ 0 ∧ l.toNat < (imageOf (cc s)).2.1) → exec (.call t l u) s = trap s 0x01)
    ∧ (endsLine s 2 = false → l ≠ 0 ∧ l.toNat < (imageOf (cc s)).2.1 →
        (16 ≤ (cs s).rstack.length → exec (.call t l u) s = trap s 0x08)
        ∧ ((cs s).rstack.length < 16 → exec (.call t l u) s = .next (push (past s t 2) (l ++ u)))))
  ∧ (∀ t s, CanIssue s t allSeqs [] 0 →
    ((cs s).rstack = [] → exec (.ret t) s = trap s 0x08)
    ∧ ∀ x r, (cs s).rstack = x :: r →
        exec (.ret t) s = .next (jumpTo (modCs (past s t 1) fun k => { k with rstack := r }) x))
  ∧ (∀ t a s, CanIssue s t allSeqs (sopSrcs a) 0 →
    (¬ ok s (opv s a) → exec (.jmpr t a) s = trap s 0x01)
    ∧ (ok s (opv s a) → exec (.jmpr t a) s = .next (jumpTo (past s t (1 + sopLen a)) ((opv s a).setWidth 28))))
  ∧ ∀ t a s, CanIssue s t allSeqs (sopSrcs a) 0 →
    (endsLine s (1 + sopLen a) = true → exec (.callr t a) s = trap s 0x01)
    ∧ (endsLine s (1 + sopLen a) = false → ¬ ok s (opv s a) → exec (.callr t a) s = trap s 0x01)
    ∧ (endsLine s (1 + sopLen a) = false → ok s (opv s a) → 16 ≤ (cs s).rstack.length → exec (.callr t a) s = trap s 0x08)
    ∧ (endsLine s (1 + sopLen a) = false → ok s (opv s a) → (cs s).rstack.length < 16 →
        exec (.callr t a) s = .next (push (past s t (1 + sopLen a)) ((opv s a).setWidth 28)))

/-- TRAP v faults with code 0xC0 + v and BREAK with 0xFF; both have issued, so the cut finds the program counter at their
continuation, and TRAPADDR is their own address (R108). A value above 31 faults ILLEGAL at the instruction. That BREAK
always traps is the model's reading: R108 gives it to a host debugger where one is attached, and log 27 (DEDUCED) has none
attached. Of each of these it says which next state it answers, under conditions on the state and the operands alone:
trap, brk. -/
def Obligations.TrapAndBreak : Prop :=
  (∀ t a s, CanIssue s t allSeqs (sopSrcs a) 0 →
    ((opv s a).toNat ≤ 31 → exec (.trap t a) s
      = .next (takeTrap (past s t (1 + sopLen a)) s.cur.node s.cur.core (causeHere s (0xC0 + (opv s a).toNat))))
    ∧ (31 < (opv s a).toNat → exec (.trap t a) s = .next (takeTrap s s.cur.node s.cur.core (causeHere s 0x01))))
  ∧ ∀ t s, CanIssue s t allSeqs [] 0 →
    exec (.brk t) s = .next (takeTrap (past s t 1) s.cur.node s.cur.core (causeHere s 0xFF))

/-- Taking a trap outside the handler (R405, R406, R411): while an access of the core is in flight the core is cut and waits,
its results in flight captured with the cycles they still need; with none in flight TRAPCAUSE and TRAPADDR hold the cause,
and without a handler the core is held for the host (R407). In the handler a trap stops it and the host is told (R409).
Entering the trap handler (R409): CTRL alone runs, at unit 0 of line 1 of the image at TRAPVEC, with cleared scalar
registers and return stack and the cut record's address in s1, its constant bank and CBB being those of the cut context;
every other sequencer stays as the cut left it. Faults of a core as events (R405, R410, R372): a recorded fault is taken
on a core that runs, the lowest code and then the lowest agent first, and leaves the list, while its task ends as well as
while it runs; once a fault or a cancellation has ended the task it takes no trap (log 28); on a core in its handler it
stays; a cause cuts a core that runs a task or is ending one, and no other. Of each of these it says which next state it
answers, under conditions on the state and the operands alone: deferredFault, trapCut. -/
def Obligations.TakingATrap : Prop :=
  (
    ∀ s n c k,
      let x := co s n c
      let y := co (takeTrap s n c k) n c
      (inHandler x = true → y.mode = .hostHeld true k)
      ∧ (inHandler x = false → outstanding x = true →
          y.mode = .cutting k ∧ y.inflight = [] ∧ y.cutGsc = gsc s n
          ∧ y.landing = (x.landing ++ x.inflight).map fun r => { r with due := r.due - coreCyc s n c })
      ∧ (inHandler x = false → outstanding x = false →
          y.trapAddr = k.addr ∧ y.trapCause = causeWord k (x.landing.length + x.inflight.length) false
          ∧ (k.vol = false → k.code ≠ 0x0D → bit (nd s n).trapVec 0 = false → y.mode = .hostHeld false k)))
  ∧ (
    ∀ s n c k h l cb cl,
      (readLine s n c (BitVec.ofNat 64 (fld (nd s n).trapVec 47 6 * 64))).1 = .inr h → parseHeader h.toNat = .inr (l, cb, cl) →
      let x := enterHandler s n c k
      (co x n c).mode = .handler
      ∧ (sq x n c .ctrl).pc = 16 ∧ (sq x n c .ctrl).rstack = [] ∧ regRead (sq x n c .ctrl) 1 = cutVa (nd x n) c
      ∧ (∀ r, r ≠ 1 → regRead (sq x n c .ctrl) r = 0)
      ∧ (imageOf (co x n c)).2.1 = l ∧ privileged (co x n c) = true
      ∧ (sq x n c .ctrl).bank = (smGet (co s n c).seqs {} 0).bank ∧ (sq x n c .ctrl).cbb = (smGet (co s n c).seqs {} 0).cbb
      ∧ (co x n c).seqs = (co s n c).seqs)
  ∧ (
    (∀ s n c k, (co s n c).mode = .run → firstCause (co s n c).deferred = some k →
      exec (.deferredFault n c) s
          = .next (takeTrap (modCo s n c fun x => { x with deferred := x.deferred.erase k }) n c k)
      ∧ k ∈ (co s n c).deferred ∧ ∀ x ∈ (co s n c).deferred, k.code < x.code ∨ (k.code = x.code ∧ k.agent ≤ x.agent))
    ∧ (∀ s n c, (co s n c).mode = .handler → exec (.deferredFault n c) s = .next s)
    ∧ (∀ s n c k, (co s n c).mode = .run ∨ (co s n c).mode = .handler → exec (.trapCut n c k) s = .next (takeTrap s n c k))
    ∧ (∀ s n c g t k, (co s n c).mode = .ending g t → firstCause (co s n c).deferred = some k →
        let y := modCo s n c fun x => { x with deferred := x.deferred.erase k }
        exec (.deferredFault n c) s = .next (if g = 0 then takeTrap y n c k else dropFaulted y n c k))
    ∧ (∀ s n c t k, (co s n c).mode = .ending 0 t → exec (.trapCut n c k) s = .next (takeTrap s n c k))
    ∧ ∀ s n c k, (co s n c).mode = .free → exec (.trapCut n c k) s = .next s)

/-! Sequencer, queue and token instructions, and special registers. -/

/-- NOP, SQSTOP, SQWAIT, SQSIG and WAITSTEP (R113, R116, R117): SQSTOP stops its sequencer once all its instructions have
retired, SQWAIT waits for its flags and clears them, SQSIG sets flags from the end of the cc on, WAITSTEP waits for the
step. RDSTEP and RDCYC give the node's step and the core's own cycle after 2 cc, SQID the node, core and sequencer in its
issue cc (R115, R117, R118). Of each of these it says which next state it answers, under conditions on the state and the
operands alone: nop, sqstop, sqwait, sqsig, waitstep, rdstep, rdcyc, sqid. -/
def Obligations.SequencerInstructions : Prop :=
  (
    (∀ t s, CanIssue s t allSeqs [] 0 → exec (.nop t) s = .next (past s t 1))
    ∧ (∀ t s, CanIssue s t allSeqs [] 0 →
        (allRetired s = true → ∃ x, exec (.sqstop t) s = .next x ∧ (cs x).status = .stopped ∧ (cs x).pc = (cs (past s t 1)).pc)
        ∧ (allRetired s = false → exec (.sqstop t) s = .next (setBlocked s)))
    ∧ (∀ t a s, CanIssueWith s t allSeqs (sopSrcs a) 0 ((opv s a).setWidth 16) [] [] →
        exec (.sqwait t a) s = .next (pastWith s t (1 + sopLen a) ((opv s a).setWidth 16) [] []))
    ∧ (∀ t a s, CanIssue s t allSeqs (sopSrcs a) 0 → (opv s a).setWidth 16 ≠ (0 : BitVec 16) →
        exec (.sqsig t a) s
          = .next (later (past s t (1 + sopLen a)) (.flags s.cur.node s.cur.core ((opv s a).setWidth 16))))
    ∧ (∀ s n c m, (co (applyLate s (.flags n c m)) n c).evt = (co s n c).evt ||| m)
    ∧ ∀ t a s, CanIssue s t allSeqs (sopSrcs a) 0 →
        ((opv s a).toNat ≤ gsc s s.cur.node → exec (.waitstep t a) s = .next (past s t (1 + sopLen a)))
        ∧ (gsc s s.cur.node < (opv s a).toNat → exec (.waitstep t a) s = .next (setBlocked s)))
  ∧ (
    ∀ t d s,
      (CanIssue s t allSeqs [] 1 →
        exec (.rdstep t d) s = .next (flyReg (begun s t 1) d (BitVec.ofNat 64 (gsc s s.cur.node)) 2 (pushKey s t) 0)
        ∧ exec (.rdcyc t d) s
            = .next (flyReg (begun s t 1) d (BitVec.ofNat 64 (coreCyc s s.cur.node s.cur.core)) 2 (pushKey s t) 0))
      ∧ (CanIssue s t allSeqs [] 0 →
          exec (.sqid t d) s
            = .next (writeReg (past s t 1) d (BitVec.ofNat 64 (s.cur.node * 1024 + s.cur.core * 4 + seqIdx s.cur.seq)))))

/-- The queue registers (R111, R112): QPUT reserves the tail slot and fills it at retirement, QGET takes the head, QPEEK reads
it, QCNT counts filled and reserved entries; an empty head waits, a head that holds the fault of an LDQ faults with its
code and address (R216), the entry still there, and a producer or consumer of another sequencer faults ILLEGAL. A queue
register is a queue: what QPUT's slot is filled with is read at the head after the entries before it have been taken, and
a take removes exactly the head (R111). Of each of these it says which next state it answers, under conditions on the
state and the operands alone: qput, qget, qpeek, qcnt. -/
def Obligations.QueueInstructions : Prop :=
  (
    (∀ t a b s, CanIssue s t allSeqs (sopSrcs a) 0 → qProducer b.toNat = s.cur.seq → queueRoom s b.toNat = true →
      exec (.qput t a b) s
        = .next (let r := queueReserve (past s t (1 + sopLen a)) b.toNat
                 later r.2 (.qFill s.cur.node s.cur.core b.toNat r.1 (opv s a))))
    ∧ (∀ t d b s v, CanIssue s t allSeqs [] 0 → qConsumer b.toNat = s.cur.seq → queueHead s b.toNat = some (.filled v) →
        exec (.qget t d b) s = .next (writeReg (queuePop (past s t 1) b.toNat) d v)
        ∧ exec (.qpeek t d b) s = .next (writeReg (past s t 1) d v))
    ∧ (∀ t d b s, CanIssue s t allSeqs [] 0 → qConsumer b.toNat = s.cur.seq → queueHead s b.toNat = none →
        exec (.qget t d b) s = .next (setBlocked s) ∧ exec (.qpeek t d b) s = .next (setBlocked s))
    ∧ (∀ t d b s code v, CanIssue s t allSeqs [] 0 → qConsumer b.toNat = s.cur.seq → queueHead s b.toNat = some (.bad code v) →
        exec (.qget t d b) s = .next (takeTrap s s.cur.node s.cur.core (causeAt s code v))
        ∧ exec (.qpeek t d b) s = .next (takeTrap s s.cur.node s.cur.core (causeAt s code v)))
    ∧ (∀ t d b s, mayIssue s = true → qConsumer b.toNat ≠ s.cur.seq → qProducer b.toNat ≠ s.cur.seq →
        exec (.qcnt t d b) s = .next (takeTrap s s.cur.node s.cur.core (causeHere s 0x01)))
    ∧ (∀ t d b s, CanIssue s t allSeqs [] 0 → qConsumer b.toNat = s.cur.seq ∨ qProducer b.toNat = s.cur.seq →
        let x := queueOf (cc s) b.toNat
        let gone := if qProducer b.toNat = s.cur.seq then x.freed else 0
        exec (.qcnt t d b) s
          = .next (writeReg (past s t 1) d
              (BitVec.ofNat 64 (queueFilled x + gone + 256 * (x.entries.length - queueFilled x)))))
    ∧ ∀ t d a b s, CanIssue s t allSeqs [] 0 →
        (qProducer b.toNat ≠ s.cur.seq →
          exec (.qput t a b) s = .next (takeTrap s s.cur.node s.cur.core (causeHere s 0x01)))
        ∧ (qConsumer b.toNat ≠ s.cur.seq →
          exec (.qget t d b) s = .next (takeTrap s s.cur.node s.cur.core (causeHere s 0x01))
          ∧ exec (.qpeek t d b) s = .next (takeTrap s s.cur.node s.cur.core (causeHere s 0x01))))
  ∧ (
    (∀ s q, (queueOf (cc (queuePop s q)) q).entries = (queueOf (cc s) q).entries.tail)
    ∧ (∀ s q, (queueOf (cc (queueReserve s q).2) q).entries = (queueOf (cc s) q).entries ++ [.reserved])
    ∧ ∀ k q v, ∀ l : List QEntry, (queueOf k q).entries = l ++ [.reserved] →
        (queueOf (queueFill k q ((queueOf k q).base + l.length) (.filled v)) q).entries = l ++ [.filled v])

/-- The token instructions (R109, R110): TOKGIVE pushes its count to a partner, TOKTAKE pops one, TOKCNT reads a FIFO; a count
above 16, alone or with the TK field's own token of the same FIFO, faults ILLEGAL. A token popped is gone from its FIFO at
once, and a token pushed is reserved until it lands (R97, R109). Of each of these it says which next state it answers,
under conditions on the state and the operands alone: tokgive, toktake, tokcntIn, tokcntOut. -/
def Obligations.TokenInstructions : Prop :=
  (
    (∀ t a b s, countBad (opv s a).toNat t.push b = false →
      CanIssueWith s t allSeqs (sopSrcs a) 0 0 [] [(b.toNat, (opv s a).toNat)] →
      exec (.tokgive t a b) s = .next (pastWith s t (1 + sopLen a) 0 [] [(b.toNat, (opv s a).toNat)]))
    ∧ (∀ t a b s, countBad (opv s a).toNat t.pop b = false →
      CanIssueWith s t allSeqs (sopSrcs a) 0 0 [(b.toNat, (opv s a).toNat)] [] →
      exec (.toktake t a b) s = .next (pastWith s t (1 + sopLen a) 0 [(b.toNat, (opv s a).toNat)] []))
    ∧ (∀ t a b s, CanIssue s t allSeqs (sopSrcs a) 0 → 16 < (opv s a).toNat →
        exec (.toktake t a b) s = .next (takeTrap s s.cur.node s.cur.core (causeHere s 0x01))
        ∧ exec (.tokgive t a b) s = .next (takeTrap s s.cur.node s.cur.core (causeHere s 0x01)))
    ∧ (∀ t a b s, CanIssue s t allSeqs (sopSrcs a) 0 →
        (countBad (opv s a).toNat t.pop b = true →
          exec (.toktake t a b) s = .next (takeTrap s s.cur.node s.cur.core (causeHere s 0x01)))
        ∧ (countBad (opv s a).toNat t.push b = true →
          exec (.tokgive t a b) s = .next (takeTrap s s.cur.node s.cur.core (causeHere s 0x01))))
    ∧ ∀ t d b s, CanIssue s t allSeqs [] 0 → 1 ≤ b.toNat → b.toNat ≤ 3 →
        exec (.tokcntIn t d b) s
          = .next (writeReg (past s t 1) d (BitVec.ofNat 64 (fifo (cc s) (fifoIn s.cur.seq b.toNat)).n))
        ∧ exec (.tokcntOut t d b) s
          = .next (writeReg (past s t 1) d
              (let f := fifo (cc s) (fifoOut s.cur.seq b.toNat)
               BitVec.ofNat 64 (f.n + f.popped + f.v))))
  ∧ (
    ∀ s t len p, p ∈ [1, 2, 3] →
      let a := fifo (cc s) (fifoIn s.cur.seq p)
      let b := fifo (cc (begun s t len)) (fifoIn s.cur.seq p)
      let c := fifo (cc s) (fifoOut s.cur.seq p)
      let d := fifo (cc (begun s t len)) (fifoOut s.cur.seq p)
      b.n = a.n - (if t.pop.toNat = p then 1 else 0) ∧ d.v = c.v + (if t.push.toNat = p then 1 else 0)
      ∧ b.v = a.v ∧ d.n = c.n)

/-- MFSR reads every special register of R118 and R404 as the rule says; a number that names none faults ILLEGAL, for MTSR
too, and a register reserved to privileged state faults PRIV elsewhere. MTSR writes every writable special register, its
reserved bits dropped (R6, R118, R119, R404); a read-only register ignores the write, RM above 4 and a VTYPE with a
reserved type fault ILLEGAL, and a privileged register faults PRIV outside privileged state. What MTSR writes is what MFSR
reads from the next cc on: the register named changes, and of the core nothing else (R119). Of each of these it says which
next state it answers, under conditions on the state and the operands alone: mfsr, mtsr. -/
def Obligations.SpecialRegisters : Prop :=
  (
    let regs : List (Nat × (State → Word)) :=
      [(0x000, fun s => BitVec.ofNat 64 (s.cur.node * 1024 + s.cur.core * 4 + seqIdx s.cur.seq)),
       (0x001, fun s => let k := cc s
         BitVec.ofNat 64 (128 * b2n k.interlock + 16 * k.rmode + 8 * b2n (inHandler k) + 2 * b2n k.det + b2n (privileged k))),
       (0x002, fun s => (cc s).vtype), (0x003, fun s => (cc s).vwb), (0x004, fun s => (cs s).cbb),
       (0x005, fun s => (cc s).evt.setWidth 64), (0x006, fun s => taskId (cc s)), (0x007, fun s => (ginOf (cc s)).setWidth 64),
       (0x008, fun s => BitVec.ofNat 64 (tenantOf (cc s))), (0x009, fun s => BitVec.ofNat 64 s.cur.node),
       (0x00A, fun s => BitVec.ofNat 64 (gsc s s.cur.node % 2 ^ 32)), (0x00C, fun s => (cc s).mprog),
       (0x020, fun s => (cn s).trapVec), (0x021, fun s => (cc s).trapCause), (0x022, fun s => (cc s).trapAddr),
       (0x023, fun s => (cn s).trapCut), (0x024, fun s => (cn s).saveArea), (0x025, fun s => (cn s).saveLen),
       (0x026, fun s => (cc s).redLimit), (0x030, fun s => (cc s).ptRoot), (0x031, fun s => (cc s).asid),
       (0x040, fun s => (cn s).thermTab)]
    (∀ e ∈ regs, ∀ t d i s, i.toNat = e.1 → e.1 ≠ 0x00A → CanIssue s t allSeqs [] 1 →
      (sregReadPriv e.1 = false ∨ privileged (cc s) = true) →
      exec (.mfsr t d i) s = .next (flyReg (begun s t 1) d (e.2 s) 2 (pushKey s t) 0))
    ∧ (∀ t d i s, i.toNat = 0x00A → CanIssue s t allSeqs [] 1 →
      ∃ x, exec (.mfsr t d i) s = .next x ∧ (cs x).gscHi = some (BitVec.ofNat 32 (gsc s s.cur.node / 2 ^ 32))
        ∧ ∃ r ∈ (cc x).inflight, r.val = (BitVec.ofNat 64 (gsc s s.cur.node % 2 ^ 32)).setWidth 4096)
    ∧ (∀ t d i s h, i.toNat = 0x00B → (cs s).gscHi = some h → CanIssue s t allSeqs [] 1 →
      exec (.mfsr t d i) s = .next (flyReg (begun s t 1) d (h.setWidth 64) 2 (pushKey s t) 0))
    ∧ (∀ t d i s, i.toNat = 0x00B → (cs s).gscHi = none → CanIssue s t allSeqs [] 1 →
      exec (.mfsr t d i) s = .next (flyReg (begun s t 1) d (BitVec.ofNat 64 (gsc s s.cur.node / 2 ^ 32)) 2 (pushKey s t) 0))
    ∧ (∀ t d i s k, k < 16 → i.toNat = 0x10 + k → CanIssue s t allSeqs [] 1 →
      exec (.mfsr t d i) s = .next (flyReg (begun s t 1) d (budgetWord (cn s) k) 2 (pushKey s t) 0))
    ∧ (∀ t d i s, (∀ e ∈ regs, i.toNat ≠ e.1) → i.toNat ≠ 0x00B → ¬(0x10 ≤ i.toNat ∧ i.toNat ≤ 0x1F) → mayIssue s = true →
      exec (.mfsr t d i) s = .next (takeTrap s s.cur.node s.cur.core (causeHere s 0x01))
      ∧ ∀ a, exec (.mtsr t a i) s = .next (takeTrap s s.cur.node s.cur.core (causeHere s 0x01)))
    ∧ ∀ t d i s, mayIssue s = true → 0x20 ≤ i.toNat → i.toNat ≤ 0x25 → privileged (cc s) = false →
      exec (.mfsr t d i) s = .next (takeTrap s s.cur.node s.cur.core (causeHere s 0x03)))
  ∧ (
    let n (s : State) : Nat := s.cur.node
    let c (s : State) : Nat := s.cur.core
    (∀ e ∈ ([(0x003, fun s v => .vwb (n s) (c s) (v &&& 0x1C0)), (0x005, fun s v => .evt (n s) (c s) (v.setWidth 16)),
        (0x020, fun s v => .nodeReg (n s) 0x020 (v &&& 0x0000FFFFFFFFFFC1)),
        (0x023, fun s v => .nodeReg (n s) 0x023 (v &&& 0x0000FFFFFFFFC000)), (0x024, fun s v => .nodeReg (n s) 0x024 v),
        (0x025, fun s v => .nodeReg (n s) 0x025 (v &&& 0xFFFFF)), (0x026, fun s v => .redLimit (n s) (c s) (v &&& 0xFFFFFF)),
        (0x030, fun s v => .ptRoot (n s) (c s) (v &&& 0x000FFFFFFFFFF000)), (0x031, fun s v => .asid (n s) (c s) (v &&& 0x3F)),
        (0x040, fun s v => .nodeReg (n s) 0x040 (v &&& 0x000FFFFFFFFFFFC1))] : List (Nat × (State → Word → Late))),
      ∀ t a i s, i.toNat = e.1 → CanIssue s t allSeqs [a] 0 → (sregWritePriv e.1 = false ∨ privileged (cc s) = true) →
        exec (.mtsr t a i) s = .next (later (past s t 1) (e.2 s (reg s a))))
    ∧ (∀ t a i s, i.toNat = 0x001 → CanIssue s t allSeqs [a] 0 →
      (5 ≤ fld (reg s a) 6 4 → exec (.mtsr t a i) s = .next (takeTrap s (n s) (c s) (causeHere s 0x01)))
      ∧ (fld (reg s a) 6 4 < 5 → privileged (cc s) = false →
          exec (.mtsr t a i) s = .next (later (past s t 1) (.rmode (n s) (c s) (fld (reg s a) 6 4))))
      ∧ (fld (reg s a) 6 4 < 5 → privileged (cc s) = true →
          exec (.mtsr t a i) s
            = .next (later (later (past s t 1) (.rmode (n s) (c s) (fld (reg s a) 6 4))) (.det (n s) (c s) (bit (reg s a) 1)))))
    ∧ (∀ t a i s, i.toNat = 0x002 → CanIssue s t allSeqs [a] 0 →
      (vtypeOk (reg s a) = true → exec (.mtsr t a i) s = .next (later (past s t 1) (.vtype (n s) (c s) (reg s a &&& 0x1F07))))
      ∧ (vtypeOk (reg s a) = false → exec (.mtsr t a i) s = .next (takeTrap s (n s) (c s) (causeHere s 0x01))))
    ∧ (∀ t a i s, i.toNat = 0x004 → CanIssue s t allSeqs [a] 0 →
      exec (.mtsr t a i) s = .next (modCs (past s t 1) fun k => { k with cbb := reg s a &&& 7 }))
    ∧ (∀ t a i s, 0x10 ≤ i.toNat → i.toNat ≤ 0x1F → CanIssue s t allSeqs [a] 0 → privileged (cc s) = true →
      exec (.mtsr t a i) s = .next (later (past s t 1) (.nodeReg (n s) i.toNat (reg s a &&& 0xFFFFFFFFFFFFFFF0))))
    ∧ (∀ t a i s, i.toNat ∈ [0x000, 0x006, 0x007, 0x008, 0x009, 0x00A, 0x00B, 0x00C, 0x021, 0x022] →
      CanIssue s t allSeqs [a] 0 → exec (.mtsr t a i) s = .next (past s t 1))
    ∧ ∀ t a i s, mayIssue s = true → sregWritePriv i.toNat = true → privileged (cc s) = false →
      exec (.mtsr t a i) s = .next (takeTrap s (n s) (c s) (causeHere s 0x03)))
  ∧ (
    ∀ s n c,
      (∀ v, co (applyLate s (.vtype n c v)) n c = { co s n c with vtype := v })
      ∧ (∀ v, co (applyLate s (.vwb n c v)) n c = { co s n c with vwb := v })
      ∧ (∀ v, co (applyLate s (.redLimit n c v)) n c = { co s n c with redLimit := v })
      ∧ (∀ v, co (applyLate s (.ptRoot n c v)) n c = { co s n c with ptRoot := v })
      ∧ (∀ v, co (applyLate s (.asid n c v)) n c = { co s n c with asid := v })
      ∧ (∀ v, co (applyLate s (.rmode n c v)) n c = { co s n c with rmode := v })
      ∧ (∀ v, (nd (applyLate s (.nodeReg n 0x020 v)) n).trapVec = v)
      ∧ (∀ v, (nd (applyLate s (.nodeReg n 0x023 v)) n).trapCut = v)
      ∧ (∀ v, (nd (applyLate s (.nodeReg n 0x024 v)) n).saveArea = v)
      ∧ (∀ v, (nd (applyLate s (.nodeReg n 0x025 v)) n).saveLen = v)
      ∧ ∀ v, (nd (applyLate s (.nodeReg n 0x040 v)) n).thermTab = v)

/-- Loads (R213): what the checks let through is read, the sequencer issues nothing more, and the data comes to the register
later, sign- or zero-extended; a fault of the checks is taken at the instruction, and a wait leaves nothing done. The
address of an F-M instruction: the register plus the signed offset scaled by the access size, modulo 2⁶⁴ (R212). LDQ
(R216): the tail slot of its queue is reserved at issue, the sequencer goes on at once, and the value comes into the slot
later, or POISON that the load has found; a queue that the sequencer does not produce faults ILLEGAL. CBLD (R99) loads n +
1 constants, one entry after the other, into the sequencer's bank and goes on; a constant beyond CLEN faults PERM at its
address with the entries before it loaded, and one that must wait leaves none of it done. That CBLD retires in its issue
cc with every constant read at once is log 15's reading (DEDUCED), not R99's words. Of each of these it says which next
state it answers, under conditions on the state and the operands alone: ldb, ldbu, ldh, ldhu, ldw, ldwu, ldd, ldqB, ldqBu,
ldqH, ldqHu, ldqW, ldqWu, ldqD, cbld. -/
def Obligations.Loads : Prop :=
  (
    (∀ e ∈ ([(Instr.ldb, 1, true), (Instr.ldbu, 1, false), (Instr.ldh, 2, true), (Instr.ldhu, 2, false), (Instr.ldw, 4, true),
        (Instr.ldwu, 4, false), (Instr.ldd, 8, false)] : List ((Tok → Reg → Reg → BitVec 9 → Instr) × Nat × Bool)),
      ∀ t d a o s, CanIssue s t [.ctrl, .load, .store] [a] 0 →
        (∀ k s', loadPre s (memAddr s a o e.2.1) e.2.1 = .fault k s' →
          exec (e.1 t d a o) s = .next (takeTrap s' s.cur.node s.cur.core k))
        ∧ (∀ s', loadPre s (memAddr s a o e.2.1) e.2.1 = .hold s' → exec (e.1 t d a o) s = .next (setBlocked s))
        ∧ ∀ x s', loadPre s (memAddr s a o e.2.1) e.2.1 = .go x s' →
          ∃ y p, exec (e.1 t d a o) s = .next y ∧ (cs y).hold = .load p ∧ (cs y).pc = (cs (begun s' t 1)).pc
            ∧ p.va = memAddr s a o e.2.1 ∧ p.size = e.2.1 ∧ p.signed = e.2.2 ∧ p.reg = some d
            ∧ p.data = x.v.map (BitVec.ofNat 64))
    ∧ (∀ (v : BitVec 64), extend true 1 v.toNat = (v.setWidth 8).signExtend 64 ∧ extend false 1 v.toNat = (v.setWidth 8).setWidth 64
        ∧ extend true 2 v.toNat = (v.setWidth 16).signExtend 64 ∧ extend false 2 v.toNat = (v.setWidth 16).setWidth 64
        ∧ extend true 4 v.toNat = (v.setWidth 32).signExtend 64 ∧ extend false 4 v.toNat = (v.setWidth 32).setWidth 64
        ∧ extend false 8 v.toNat = v))
  ∧ (
    (∀ s a (o : BitVec 9), memAddr s a o 1 = reg s a + o.signExtend 64)
    ∧ (∀ s a (o : BitVec 9), memAddr s a o 2 = reg s a + 2 * o.signExtend 64)
    ∧ (∀ s a (o : BitVec 9), memAddr s a o 4 = reg s a + 4 * o.signExtend 64)
    ∧ (∀ s a (o : BitVec 9), memAddr s a o 8 = reg s a + 8 * o.signExtend 64)
    ∧ ∀ s a o, lineAddr s a o = (reg s a + 128 * o.signExtend 64) &&& ~~~127)
  ∧ (
    ∀ e ∈ ([(Instr.ldqB, 1, true), (Instr.ldqBu, 1, false), (Instr.ldqH, 2, true), (Instr.ldqHu, 2, false), (Instr.ldqW, 4, true),
        (Instr.ldqWu, 4, false), (Instr.ldqD, 8, false)] : List ((Tok → BitVec 5 → Reg → BitVec 9 → Instr) × Nat × Bool)),
      ∀ t d a o s,
        (mayIssue s = true → qProducer d.toNat ≠ s.cur.seq →
          exec (e.1 t d a o) s = .next (takeTrap s s.cur.node s.cur.core (causeHere s 0x01)))
        ∧ (CanIssue s t [.ctrl, .load] [a] 0 → qProducer d.toNat = s.cur.seq → queueRoom s d.toNat = true →
          ((cc s).loads.filter fun p => match p.queue with | some (j, _) => qProducer j == s.cur.seq | none => false).length < 32 →
          (∀ k s', loadFound s (memAddr s a o e.2.1) e.2.1 = .fault k s' →
            exec (e.1 t d a o) s = .next (takeTrap s' s.cur.node s.cur.core k))
          ∧ ∀ x s', loadFound s (memAddr s a o e.2.1) e.2.1 = .go x s' →
          ∃ y p l, exec (e.1 t d a o) s = .next y ∧ (cc y).loads = l ++ [p] ∧ p.va = memAddr s a o e.2.1
            ∧ p.size = e.2.1 ∧ p.signed = e.2.2 ∧ p.reg = none
            ∧ (x.bad = false → p.code = 0 ∧ p.data = x.v.map (BitVec.ofNat 64)) ∧ (x.bad = true → p.code = 0x07)
            ∧ p.queue = some (d.toNat, (queueOf (cc s') d.toNat).base + (queueOf (cc s') d.toNat).entries.length)
            ∧ (queueOf (cc y) d.toNat).entries = (queueOf (cc s') d.toNat).entries ++ [.reserved]
            ∧ (cs y).pc = (cs (begun s' t 1)).pc ∧ (cs y).hold = (cs s').hold))
  ∧ (
    (∀ t a n e s, CanIssue s t allSeqs [a] 0 →
      (∀ u s', cbldFrom (reg s a) e.toNat (n.toNat + 1) s = .go u s' → exec (.cbld t a n e) s = .next (past s' t 1))
      ∧ (∀ k s', cbldFrom (reg s a) e.toNat (n.toNat + 1) s = .fault k s' →
          exec (.cbld t a n e) s = .next (takeTrap s' s.cur.node s.cur.core k))
      ∧ ∀ s', cbldFrom (reg s a) e.toNat (n.toNat + 1) s = .hold s' → exec (.cbld t a n e) s = .next (setBlocked s))
    ∧ (∀ s e i, (imageOf (cc s)).2.2.2 / 8 ≤ i.toNat → cbldOne s e i = .fault (causeAt s 0x06 (constAddr s i)) s)
    ∧ (∀ s e i u s', cbldOne s e i = .go u s' →
        (∀ j, j ≠ e % 256 → smGet (cs s').bank 0 j = smGet (cs s).bank 0 j)
        ∧ ∀ t s1, chk s s.cur.node s.cur.core (constAddr s i) 8 .r = .ok t s1 → (∀ m rl off, t ≠ .remote m rl off) →
            smGet (cs s').bank 0 (e % 256)
              = BitVec.ofNat 64 (readT s1 s.cur.node s.cur.core (some (classOf (cc s))) t 8).v)
    ∧ ∀ k i e s, (∀ u s', cbldOne s e i = .go u s' → cbldFrom i e (k + 1) s = cbldFrom (i + 1) (e + 1) k s')
        ∧ ∀ c s', cbldOne s e i = .fault c s' → cbldFrom i e (k + 1) s = .fault c s')

/-! Scalar memory. -/

/-- Stores (R214, R215, R224): what the checks let through is written at its target, or sent through the window, on a STRONG
page after the release that it is, and the instruction has retired; a fault of the checks is taken at the instruction, and
a wait leaves nothing done. The frame of a store in a scratchpad, the core's own or a gang peer's ring slot (R189, R214,
R243): the bytes stored read back, every other byte of that scratchpad is as before, and nothing else of any core or node
changes but the issue state of the moving sequencer. Of each of these it says which next state it answers, under
conditions on the state and the operands alone: stb, sth, stw, std. -/
def Obligations.Stores : Prop :=
  (
    ∀ e ∈ ([(Instr.stb, 1), (Instr.sth, 2), (Instr.stw, 4), (Instr.std, 8)] : List ((Tok → Reg → Reg → BitVec 9 → Instr) × Nat)),
      ∀ t d a o s, CanIssue s t [.ctrl, .load, .store] [d, a] 0 →
        let va := memAddr s a o e.2
        (∀ k s', accessPre s va e.2 e.2 .w true = .fault k s' →
          exec (e.1 t d a o) s = .next (takeTrap s' s.cur.node s.cur.core k))
        ∧ (∀ s', accessPre s va e.2 e.2 .w true = .hold s' → exec (e.1 t d a o) s = .next (setBlocked s))
        ∧ (∀ x s', accessPre s va e.2 e.2 .w true = .go x s' → strongReady s' x.t = false →
          exec (e.1 t d a o) s = .next (setBlocked s))
        ∧ (∀ x s', accessPre s va e.2 e.2 .w true = .go x s' → strongReady s' x.t = true →
          let p := past s' t 1
          exec (e.1 t d a o) s = .next (match x.t with
            | .remote m rl off => sendStore (strongRelease p x.t) m rl off e.2 va (BitVec.ofNat 1024 ((reg s' d).toNat % 2 ^ (8 * e.2))) false
            | tg => writeT (strongRelease p tg) s.cur.node s.cur.core (some (classOf (cc s'))) tg e.2 (fullMask e.2) (reg s' d).toNat)))
  ∧ (
    ∀ e ∈ ([(Instr.stb, 1), (Instr.sth, 2), (Instr.stw, 4), (Instr.std, 8)] : List ((Tok → Reg → Reg → BitVec 9 → Instr) × Nat)),
      ∀ t d a o s x w off, CanIssue s t [.ctrl, .load, .store] [d, a] 0 →
        accessPre s (memAddr s a o e.2) e.2 e.2 .w true = .go x s → x.t = .spad w off →
        Memory.wf (co s s.cur.node w).spad = true →
        ∃ y, exec (e.1 t d a o) s = .next y
          ∧ memRead (co y s.cur.node w).spad off e.2 = (reg s d).toNat % 2 ^ (8 * e.2)
          ∧ (∀ b, b < off ∨ off + e.2 ≤ b → smGet (co y s.cur.node w).spad 0 b = smGet (co s s.cur.node w).spad 0 b)
          ∧ Memory.wf (co y s.cur.node w).spad = true
          ∧ (w ≠ s.cur.core → (cc y).spad = (cc s).spad)
          ∧ (∀ r, reg y r = reg s r)
          ∧ (∀ q, q ≠ s.cur.seq → sq y s.cur.node s.cur.core q = sq s s.cur.node s.cur.core q)
          ∧ (∀ n, nodeRest (nd y n) = nodeRest (nd s n))
          ∧ (∀ n c, ¬(n = s.cur.node ∧ (c = s.cur.core ∨ c = w)) → co y n c = co s n c)
          ∧ (w ≠ s.cur.core → { co y s.cur.node w with spad := [] } = { co s s.cur.node w with spad := [] })
          ∧ coreRest { cc y with spad := [] } = coreRest { cc s with spad := [] })

/-- A misaligned scalar access faults ALIGN at its address before anything else of it is checked (R198, R212). -/
def Obligations.MisalignedAccess : Prop :=
  ∀ e ∈ ([(Instr.ldh, 2), (Instr.ldhu, 2), (Instr.ldw, 4), (Instr.ldwu, 4), (Instr.ldd, 8), (Instr.sth, 2), (Instr.stw, 4),
      (Instr.std, 8)] : List ((Tok → Reg → Reg → BitVec 9 → Instr) × Nat)),
    ∀ t d a o s, CanIssue s t [.ctrl, .load, .store] [d, a] 0 → (memAddr s a o e.2).toNat % e.2 ≠ 0 →
      exec (e.1 t d a o) s
        = .next (takeTrap s s.cur.node s.cur.core (causeAt s 0x04 (memAddr s a o e.2)))

/-- The memories keep their canonical form and the last write: what is written at a home is read there, every other byte of
that memory is as before, and the other two memories are untouched (R2, R209). -/
def Obligations.HomeMemory : Prop :=
  ∀ d sp a n v, Memory.wf (homeMem d sp) = true →
    let e := homeWrite d sp a n (fullMask n) v
    homeRead e sp a n = v % 2 ^ (8 * n)
    ∧ (∀ b, b < homeAddr d sp a ∨ homeAddr d sp a + n ≤ b → smGet (homeMem e sp) 0 b = smGet (homeMem d sp) 0 b)
    ∧ (∀ sq, sq ≠ sp → homeMem e sq = homeMem d sq)
    ∧ Memory.wf (homeMem e sp) = true

/-- The cache operations (R217): PREF brings its line into L1 or L2 and goes on whatever its checks find, through the window
without an effect; CWB, CINV and CFLUSH act on the line of their address, and do nothing to the scratchpad or through the
window; ZERO stores 128 zero bytes. That CWB and CFLUSH have written their line back as they retire in their issue cc is
log 15's reading (DEDUCED): R217 retires them when the slice accepts the line. A line dropped from L1 is no longer held,
and dropping it without write-back changes no home byte (R202, R217). Of each of these it says which next state it
answers, under conditions on the state and the operands alone: pref, cwb, cinv, cflush, zero. -/
def Obligations.CacheOperations : Prop :=
  (
    (∀ t a o s, CanIssue s t [.ctrl, .load, .store] [a] 0 →
      (∀ k s', chk s s.cur.node s.cur.core (lineAddr s a o) 128 .r = .fault k s' → exec (.pref t a o) s = .next (past s' t 1))
      ∧ (∀ m rl off s', chk s s.cur.node s.cur.core (lineAddr s a o) 128 .r = .ok (.remote m rl off) s' →
          exec (.pref t a o) s = .next (past s' t 1))
      ∧ ∀ sp pa k zp s', chk s s.cur.node s.cur.core (lineAddr s a o) 128 .r = .ok (.mem sp pa k zp) s' →
          bucketHold s' (.mem sp pa k zp) 128 .r = false →
          exec (.pref t a o) s = .next
            (if l1Holds sp k then
               (if (l1Take (cc s') sp pa).isSome then past s' t 1
                else l1Fill (past s' t 1) s.cur.node s.cur.core (some (classOf (cc s'))) sp pa k true)
             else touch (past s' t 1) s.cur.node (some (classOf (cc s'))) sp (pa / 128 * 128) 128 false))
    ∧ (∀ e ∈ ([(Instr.cwb, .r, fun s sp pa => cwbLine s sp pa),
        (Instr.cinv, .w, fun s sp pa => l1Drop s s.cur.node s.cur.core sp pa false),
        (Instr.cflush, .r, fun s sp pa => l1Drop s s.cur.node s.cur.core sp pa true)]
        : List ((Tok → Reg → BitVec 9 → Instr) × Need × (State → Space → Nat → State))),
      ∀ t a o s, CanIssue s t [.ctrl, .load, .store] [a] 0 →
        let la := lineAddr s a o
        let need := if inAperture la then .r else e.2.1
        (∀ k s', chk s s.cur.node s.cur.core la 128 need = .fault k s' →
          exec (e.1 t a o) s = .next (takeTrap s' s.cur.node s.cur.core (causeAt s k la)))
        ∧ ∀ tg s', chk s s.cur.node s.cur.core la 128 need = .ok tg s' →
          exec (e.1 t a o) s = .next (match tg with
            | .mem sp pa _ _ => e.2.2 (past s' t 1) sp pa
            | _ => past s' t 1))
    ∧ ∀ t a o s x s', CanIssue s t [.ctrl, .load, .store] [a] 0 →
        accessPre s (lineAddr s a o) 128 1 .w true = .go x s' → strongReady s' x.t = true →
        let p := past s' t 1
        exec (.zero t a o) s = .next (match x.t with
          | .remote m rl off => sendStore (strongRelease p x.t) m rl off 128 (lineAddr s a o) 0 false
          | tg => writeT (strongRelease p tg) s.cur.node s.cur.core (some (classOf (cc s'))) tg 128 (fullMask 128) 0))
  ∧ (
    ∀ s n c sp pa,
      ((co s n c).l1.Pairwise fun x y => ¬(x.sp = y.sp ∧ x.pa = y.pa)) →
      (l1Take (co (l1Drop s n c sp pa false) n c) sp pa = none)
      ∧ (∀ m, nodeRest (nd (l1Drop s n c sp pa false) m) = nodeRest (nd s m))
      ∧ (l1Take (co (l1Drop s n c sp pa true) n c) sp pa = none))

/-- The block transfers (R218, R219): a reserved bit faults ILLEGAL and a misaligned address ALIGN; what passes every check of
every line becomes an outstanding transfer of the moving sequencer, and the destination register gets the address behind
the last row. That the lines of this node move as it issues is log 15's reading (DEDUCED): R218 and R219 give no time of
each line. Of each of these it says which next state it answers, under conditions on the state and the operands alone:
blkld, blkst, blkrow. -/
def Obligations.BlockTransfers : Prop :=
  ∀ e ∈ ([(Instr.blkld, blkLine false), (Instr.blkst, blkLine true), (Instr.blkrow, blkRowShape)]
      : List ((Tok → Reg → SOp → SOp → Instr) × (Word → Option BlkShape))),
    ∀ t d a b s, CanIssue s t [.load, .store] (sopSrcs a ++ sopSrcs b) 0 →
      (e.2 (opv s b) = none → exec (e.1 t d a b) s = .next (takeTrap s s.cur.node s.cur.core (causeHere s 0x01)))
      ∧ (∀ x, e.2 (opv s b) = some x → (opv s a).toNat % 128 ≠ 0 →
          exec (e.1 t d a b) s = .next (takeTrap s s.cur.node s.cur.core (causeAt s 0x04 (opv s a))))
      ∧ (∀ k s', (blkOp t d a b e.2).pre s = .fault k s' → exec (e.1 t d a b) s = .next (takeTrap s' s.cur.node s.cur.core k))
      ∧ (∀ s', (blkOp t d a b e.2).pre s = .hold s' → exec (e.1 t d a b) s = .next (setBlocked s))
      ∧ ∀ y s', (blkOp t d a b e.2).pre s = .go y s' → ((cc s).blks.filter fun z => z.seq == s.cur.seq).length < 4 →
          ∃ z l w, exec (e.1 t d a b) s = .next z ∧ (cc z).blks = l ++ [w] ∧ e.2 (opv s b) = some y.x
            ∧ w.store = y.x.store ∧ w.off = y.x.off ∧ w.len = 128 * y.x.rowLen * y.x.n ∧ w.seq = s.cur.seq
            ∧ (d ≠ 0 → reg z d = opv s a + BitVec.ofNat 64 y.x.n * y.x.stride)
            ∧ (cs z).pc = (cs (begun s' t (1 + sopLen a + sopLen b))).pc
            ∧ (∀ l ∈ w.lines, y.x.store = false ∧ ∃ m rl off, l.1 = .remote m rl off)

/-! Ordering, atomics, rings and barriers. -/

/-- FENCE (R225, R229): a release hands over the sequencer's earlier stores, writes back and hands over the DETERM buffer; an
acquire drops what L1 holds clean; a release waits for the BLK stores and, at DOMAIN and SYSTEM, the acknowledgements.
QFENCE (R230): a mask of 0 or above 63 faults ILLEGAL; otherwise a join is placed in every queue the mask names, and with
SEQ the sequencer waits for the join; without a free place in each the instruction waits. Of each of these it says which
next state it answers, under conditions on the state and the operands alone: fence, qfence. -/
def Obligations.Fences : Prop :=
  (
    ∀ t a (y : BitVec 5) s, CanIssue s t allSeqs [] 0 →
      let n := s.cur.node
      let c := s.cur.core
      let p := past s t 1
      let open_ := blksDone s n c s.cur.seq = true ∧ acked s n c s.cur.seq a.toNat = true
      (y = 1 → exec (.fence t a y) s = .next (acquireL1 p n c a.toNat true))
      ∧ (y = 2 → open_ → exec (.fence t a y) s = .next (drainDet (releaseL1 p n c a.toNat true) n c))
      ∧ (y = 3 → open_ → exec (.fence t a y) s = .next (acquireL1 (drainDet (releaseL1 p n c a.toNat true) n c) n c a.toNat true))
      ∧ (y = 2 ∨ y = 3 → ¬ open_ → exec (.fence t a y) s = .next (setBlocked s)))
  ∧ (
    ∀ t a sc s, CanIssue s t allSeqs (sopSrcs a) 0 →
      let m := (opv s a).toNat
      (m = 0 ∨ 64 ≤ m → exec (.qfence t a sc) s = .next (takeTrap s s.cur.node s.cur.core (causeHere s 0x01)))
      ∧ (0 < m → m < 64 → joinRoom (cc s) m = true →
          (m % 2 = 0 → ∃ y, exec (.qfence t a sc) s = .next y
            ∧ (cc y).joins = (cc s).joins ++ [⟨256 * (cc s).nextTag + s.cur.core, m, sc.toNat, none, false⟩]
            ∧ (cs y).hold = (cs s).hold
            ∧ (cs y).pc = (cs (past s t (1 + sopLen a))).pc)
          ∧ (m % 2 = 1 → ∃ y, exec (.qfence t a sc) s = .next y
            ∧ (cs y).hold = .join (256 * (cc s).nextTag + s.cur.core) sc.toNat (pushKey s t)
            ∧ (cs y).pc = (cs (begun s t (1 + sopLen a))).pc
            ∧ (1 < m → (cc y).joins
                = (cc s).joins ++ [⟨256 * (cc s).nextTag + s.cur.core, m - 1, sc.toNat, some s.cur.seq, false⟩])))
      ∧ (0 < m → m < 64 → joinRoom (cc s) m = false → exec (.qfence t a sc) s = .next (setBlocked s)))

/-- Atomics (R226, R238, R239): what the checks let through holds its sequencer until the old value comes, which on a DETERM
page is found at issue; a page of host memory faults PERM, a poisoned line of a DETERM page POISON, and a wait leaves
nothing done. What the atomics compute (R238): at 64 bits the integer ones are the functions of the old value and the
operand, and CAS stores its operand only over the value it compares with. Of each of these it says which next state it
answers, under conditions on the state and the operands alone: amoadd, amoand, amoor, amoxor, amomin, amomax, amominu,
amomaxu, amoswap, amofadd, amofmin, amofmax, amocas. -/
def Obligations.Atomics : Prop :=
  (
    let two : List ((Tok → Reg → Reg → Reg → BitVec 1 → BitVec 2 → Instr) × Nat) :=
      [(Instr.amoadd, 0), (Instr.amoand, 1), (Instr.amoor, 2), (Instr.amoxor, 3), (Instr.amomin, 4), (Instr.amomax, 5),
       (Instr.amominu, 6), (Instr.amomaxu, 7), (Instr.amoswap, 8), (Instr.amocas, 12)]
    let one : List ((Tok → Reg → Reg → Reg → BitVec 2 → Instr) × Nat) :=
      [(Instr.amofadd, 9), (Instr.amofmin, 10), (Instr.amofmax, 11)]
    let claim (i : Instr) (k size : Nat) (t : Tok) (d a b : Reg) (o : BitVec 2) (s : State) : Prop :=
      CanIssue s t [.ctrl, .load, .store] [a, b, d] 0 →
        let n := s.cur.node
        let c := s.cur.core
        (∀ k s', accessPre s (reg s a) size size .rw true = .fault k s' → exec i s = .next (takeTrap s' n c k))
        ∧ (∀ s', accessPre s (reg s a) size size .rw true = .hold s' → exec i s = .next (setBlocked s))
        ∧ ∀ x s', accessPre s (reg s a) size size .rw true = .go x s' →
          (∀ pa kd zp, x.t = .mem .host pa kd zp →
            exec i s = .next (takeTrap (keepTlb s s' n c) n c (causeAt s 0x06 (reg s a))))
          ∧ ((∀ pa kd zp, x.t ≠ .mem .host pa kd zp) → isDeterm x.t = true → (atomicT s' n c none x.t k size 0 0).poison = true →
            exec i s = .next (takeTrap (keepTlb s s' n c) n c (causeAt s 0x07 (reg s a))))
          ∧ ((∀ pa kd zp, x.t ≠ .mem .host pa kd zp) →
            (isDeterm x.t = true → (atomicT s' n c none x.t k size 0 0).poison = false) →
            (isStrong s' x.t = true → strongIdle s' = true) →
            (amoRel s' x.t o = true → blksDone s' n c s.cur.seq = true ∧ acked s' n c s.cur.seq (scopeOf c x.t) = true) →
            ∃ y p, exec i s = .next y ∧ (cs y).hold = .atomic p ∧ p.aop = some k ∧ p.va = reg s a ∧ p.size = size
              ∧ p.reg = some d ∧ p.op.toNat = (reg s' b).toNat % 2 ^ (8 * size) ∧ p.cmp.toNat = (reg s' d).toNat % 2 ^ (8 * size)
              ∧ p.data.isSome = isDeterm x.t ∧ (cs y).pc = (cs (begun s' t 1)).pc)
    (∀ e ∈ two, ∀ t d a b z o s, claim (e.1 t d a b z o) e.2 (if z = 0 then 4 else 8) t d a b o s)
    ∧ ∀ e ∈ one, ∀ t d a b o s, claim (e.1 t d a b o) e.2 4 t d a b o s)
  ∧ (
    ∀ (x y z : Word),
      let f (k : Nat) : Word := BitVec.ofNat 64 (atomicNew k 8 x.toNat y.toNat z.toNat)
      f 0 = x + y ∧ f 1 = x &&& y ∧ f 2 = x ||| y ∧ f 3 = x ^^^ y
      ∧ f 4 = (if x.sle y then x else y) ∧ f 5 = (if x.sle y then y else x)
      ∧ f 6 = (if x.ule y then x else y) ∧ f 7 = (if x.ule y then y else x)
      ∧ f 8 = y ∧ f 12 = (if x = z then y else x))

/-- The ring instructions on a ring that the core may use (R243, R244, R246): CLAIM waits for a free slot and gives the
claimed count, WFILL and WFREE wait and give the filled and the free count, PUB and REL move a slot on, STAT and PEEK
read; a ring that the core may not use, or of no member, faults RINGMISUSE, an operand out of range ILLEGAL. That the ring
operand is tested before the bits of operand b, and RNGINIT's order of tests, are log 45's choices: R246 orders neither.
RNGINIT makes a ring of the core's quad whose descriptor stands empty (R245, R246). Of each of these it says which next
state it answers, under conditions on the state and the operands alone: rngclaim, rngpub, rngwfill, rngwfree, rngrel,
rngstat, rngpeek, rnginit. -/
def Obligations.RingInstructions : Prop :=
  (
    (∀ t d a b s code, ringAt s (opv s a) = .inl code → CanIssue s t allSeqs (sopSrcs a ++ sopSrcs b) 1 →
      let trap : Out := .next (takeTrap s s.cur.node s.cur.core (causeHere s code))
      exec (.rngclaim t d a) s = trap ∧ exec (.rngstat t d a) s = trap ∧ exec (.rngwfill t d a b) s = trap
      ∧ exec (.rngwfree t d a b) s = trap ∧ exec (.rngpeek t d a b) s = trap ∧ exec (.rngpub t a b) s = trap
      ∧ exec (.rngrel t a b) s = trap)
    ∧ (∀ s v, (2 ^ 13 ≤ v.toNat → ringAt s v = .inl 0x01)
        ∧ (v.toNat < 32 → ringAt s v = .inr (quadOf s.cur.core, v.toNat)))
    ∧ ∀ t d a b s q r, ringAt s (opv s a) = .inr (q, r) → (opv s b).toNat < 2 ^ 16 →
      let n := s.cur.node
      let c := s.cur.core
      let x := ringOf s n q r
      let y := ringSeen s q r
      let i : BitVec 16 := (opv s b).setWidth 16
      let len := 1 + sopLen a + sopLen b
      let trap : Out := .next (takeTrap s n c (causeHere s 0x0C))
      (CanIssue s t allSeqs (sopSrcs a ++ sopSrcs b) 1 → ringMine s x = false →
        exec (.rngwfill t d a b) s = trap ∧ exec (.rngwfree t d a b) s = trap ∧ exec (.rngpeek t d a b) s = trap
        ∧ exec (.rngpub t a b) s = trap ∧ exec (.rngrel t a b) s = trap)
      ∧ (CanIssue s t allSeqs (sopSrcs a) 1 → ringMine s x = false →
        exec (.rngclaim t d a) s = trap ∧ exec (.rngstat t d a) s = trap)
      ∧ (CanIssue s t allSeqs (sopSrcs a) 1 → ringMine s x = true →
        (1 ≤ freeCount x → 1 ≤ freeCount y →
          exec (.rngclaim t d a) s
            = .next (flyReg (acquireL1 (putRing (begun s t (1 + sopLen a)) q r
                { x with slots := smPut x.slots x.claimed.toNat 1, who := smPut x.who x.claimed.toNat (taskId (cc s)),
                         claimed := x.claimed + 1 }) n c (ringScope s q) false)
                d (x.claimed.setWidth 64) 4 (pushKey s t) 0))
        ∧ (freeCount x = 0 → exec (.rngclaim t d a) s = .next (setBlocked s))
        ∧ exec (.rngstat t d a) s
            = .next (flyReg (begun s t (1 + sopLen a)) d
                (BitVec.ofNat 64 (x.count * 2 ^ 48 + y.claimed.toNat * 2 ^ 32 + y.tail.toNat * 2 ^ 16 + y.head.toNat))
                4 (pushKey s t) 0))
      ∧ (CanIssue s t allSeqs (sopSrcs a ++ sopSrcs b) 1 → ringMine s x = true →
        (¬(1 ≤ dist x.head i ∧ dist x.head i ≤ 32767) → dist i x.head < dist x.tail x.head → dist i y.head < dist y.tail y.head →
          exec (.rngwfill t d a b) s
            = .next (flyReg (acquireL1 (begun s t len) n c (ringScope s q) false) d (BitVec.ofNat 64 (dist x.tail i)) 4
                (pushKey s t) 0))
        ∧ (1 ≤ dist x.head i → dist x.head i ≤ 32767 → exec (.rngwfill t d a b) s = trap)
        ∧ (i ≠ 0 → i.toNat ≤ x.count → i.toNat ≤ freeCount x → i.toNat ≤ freeCount y →
          exec (.rngwfree t d a b) s
            = .next (flyReg (acquireL1 (begun s t len) n c (ringScope s q) false) d (BitVec.ofNat 64 (freeCount x)) 4
                (pushKey s t) 0))
        ∧ (i = 0 ∨ x.count < i.toNat → exec (.rngwfree t d a b) s = trap)
        ∧ (let peer := if x.core = c then 0 else memberOf s n c x.core
           exec (.rngpeek t d a b) s
            = .next (flyReg (begun s t len) d
                (BitVec.ofNat 64 (0xFF * 2 ^ 40 + peer * 2 ^ 19 + x.base + (i.toNat % x.count) * 2 ^ x.slotL2)) 4 (pushKey s t) 0)))
      ∧ (CanIssue s t allSeqs (sopSrcs a ++ sopSrcs b) 0 → ringMine s x = true → blksDone s n c s.cur.seq = true →
        (slotLive x i = true → smGet x.slots 0 i.toNat = 1 →
          exec (.rngpub t a b) s
            = .next (putRing (releaseL1 (past s t len) n c (ringScope s q) false) q r
                (ringSettle { x with slots := smPut x.slots i.toNat 2 })))
        ∧ (slotLive x i = false → exec (.rngpub t a b) s = trap)
        ∧ (dist i x.head < dist x.tail x.head → smGet x.slots 0 i.toNat ≠ 3 →
          exec (.rngrel t a b) s
            = .next (putRing (releaseL1 (past s t len) n c (ringScope s q) false) q r
                (ringSettle { x with slots := smPut x.slots i.toNat 3 })))
        ∧ (dist x.tail x.head ≤ dist i x.head → exec (.rngrel t a b) s = trap)))
  ∧ (
    ∀ t a b s, CanIssue s t allSeqs (sopSrcs a ++ sopSrcs b) 0 →
      let l := opv s b
      let r := fld (opv s a) 4 0
      let x := ringOf s s.cur.node (quadOf s.cur.core) r
      (opv s a).toNat < 32 → fld l 27 24 ≤ 10 → 6 ≤ fld l 23 20 → fld l 23 20 ≤ 13 → fld l 18 0 % 64 = 0 →
      (x.valid = true → x.owner = taskId (cc s) ∧ x.core = s.cur.core ∧ x.claimed = x.head) →
      fld l 18 0 + 2 ^ fld l 27 24 * 2 ^ fld l 23 20 ≤ (cc s).part * 8192 →
      exec (.rnginit t a b) s
        = .next (putRing (past s t (1 + sopLen a + sopLen b)) (quadOf s.cur.core) r
            ⟨true, taskId (cc s), s.cur.core, 0, 0, 0, fld l 27 24, fld l 23 20, fld l 18 0, [], []⟩))

/-- HEAD, TAIL and CLAIMED of a ring stand in that order, at most COUNT apart, and a claim with a free slot, a publication and
a release keep it so, whatever slot they name (R244). -/
def Obligations.RingOrder : Prop :=
  let ok (x : Ring) : Prop := x.countL2 ≤ 10 ∧ dist x.tail x.head ≤ dist x.claimed x.head ∧ dist x.claimed x.head ≤ x.count
  ∀ x, ok x →
    (1 ≤ freeCount x → ok { x with slots := smPut x.slots x.claimed.toNat 1, claimed := x.claimed + 1 })
    ∧ ∀ i v, ok (ringSettle { x with slots := smPut x.slots i v })

/-- The barrier instructions (R247, R248): BARINIT sets the participants of a barrier without arrivals, BARARR arrives and
gives its phase, BARWAIT gives the phase count once its phase has completed and faults RINGMISUSE where the sequencer
never arrived, BARSYNC arrives and waits. At LANE the value is one the spec does not state, and any value may come.
Barriers count (R248, R249): an arrival adds one and joins the phase under way; the last one schedules the completion,
which raises the phase count by one and takes the arrivals of the phase away, of a DOMAIN barrier on every node that takes
part. Of each of these it says which next state it answers, under conditions on the state and the operands alone: bararr,
barwait, barsync, barinit, barrierComplete. -/
def Obligations.BarrierInstructions : Prop :=
  (
    ∀ t d a (l : BitVec 5) s,
      let n := s.cur.node
      let c := s.cur.core
      let lvl := l.toNat
      let id := (opv s a).toNat
      let b := barOf s n lvl (barOwner s n c lvl) id
      let p := begun s t (1 + sopLen a)
      (CanIssue s t allSeqs (sopSrcs a) 0 →
        let k := fld (opv s a) 18 8
        let j := fld (opv s a) 3 0
        1 ≤ lvl → fld (opv s a) 63 19 = 0 → fld (opv s a) 7 4 = 0 → k ≤ barMax lvl → (k ≠ 0 ∨ lvl = 4) →
        ((barOf s n lvl (barOwner s n c lvl) j).arr = 0 →
          exec (.barinit t a l) s
            = .next (putBar (past s t (1 + sopLen a)) n lvl (barOwner s n c lvl) j
                { barOf s n lvl (barOwner s n c lvl) j with part := k }))
        ∧ ((barOf s n lvl (barOwner s n c lvl) j).arr ≠ 0 →
          exec (.barinit t a l) s = .next (takeTrap s n c (causeHere s 0x0C))))
      ∧ (CanIssue s t allSeqs (sopSrcs a) 1 → id < 16 →
        (lvl = 0 →
          (∃ v, exec (.bararr t d a l) s = .next (flyReg { p with free := p.free + 1 } d v 2 (pushKey s t) 0))
          ∧ (∃ v, exec (.barwait t d a l) s = .next (flyReg { p with free := p.free + 1 } d v 2 (pushKey s t) 0))
          ∧ ∃ v, exec (.barsync t d a l) s = .next (flyReg { p with free := p.free + 1 } d v 2 (pushKey s t) 0))
        ∧ (1 ≤ lvl → (lvl = 1 ∨ b.part ≠ 0) → blksDone s n c s.cur.seq = true → acked s n c s.cur.seq (barScope lvl) = true →
          let r := arrive (releaseL1 p n c (barScope lvl) false) n c lvl id s.cur.seq
          exec (.bararr t d a l) s = .next (flyReg r.2 d (r.1.setWidth 64) 2 (pushKey s t) 0)
          ∧ ((lvl = 4 → barLost s n (tenantOf (cc s)) id = false) →
              exec (.barsync t d a l) s
                = .next (modCs r.2 fun k => { k with hold := .barrier lvl (barOwner s n c lvl) id r.1 d (pushKey s t) })))
        ∧ (2 ≤ lvl → b.part = 0 → exec (.bararr t d a l) s = .next (takeTrap s n c (causeHere s 0x0C)))
        ∧ (1 ≤ lvl → smGet (cs s).phases none (16 * lvl + id) = none →
            exec (.barwait t d a l) s = .next (takeTrap s n c (causeHere s 0x0C)))
        ∧ ∀ ph, 1 ≤ lvl → smGet (cs s).phases none (16 * lvl + id) = some ph → phaseDone s n c lvl id s.cur.seq ph = true →
            exec (.barwait t d a l) s
              = .next (flyReg (acquireL1 p n c (barScope lvl) false) d (b.phase.setWidth 64) 2 (pushKey s t) 0)))
  ∧ (
    (∀ s n c lvl id q, 1 ≤ lvl → lvl ≤ 3 →
      let own := barOwner s n c lvl
      let b := barOf s n lvl own id
      let r := arrive s n c lvl id q
      barOf r.2 n lvl own id = { b with arr := b.arr + 1 }
      ∧ (b.arr < b.part → r.1 = b.phase)
      ∧ (b.part ≠ 0 → b.arr + 1 = b.part → (s.now + barLat lvl, Instr.barrierComplete n lvl own id) ∈ r.2.timers))
    ∧ (∀ s n lvl own id, (lvl = 1 ∨ lvl = 2 ∨ lvl = 3) →
      let b := barOf s n lvl own id
      (b.part ≠ 0 → b.part ≤ b.arr →
        ∃ y, exec (.barrierComplete n lvl own id) s = .next y
          ∧ barOf y n lvl own id = { b with phase := b.phase + 1, arr := b.arr - b.part })
      ∧ (b.arr < b.part → exec (.barrierComplete n lvl own id) s = .next s))
    ∧ ∀ s n own id, barAllIn s n 4 own id = true → (barNodes s n own id).Nodup →
        ∃ y, exec (.barrierComplete n 4 own id) s = .next y ∧ ∀ m ∈ barNodes s n own id,
          let b := barOf s m 4 own id
          barOf y m 4 own id = { b with phase := b.phase + 1, arr := b.arr - b.part })

/-! The vector unit. -/

/-- The functions that give a row (R127 to R130, R135 to R143, R147): the value of the lanes that the predicate selects, as
the operands stand at issue, is put in flight for the accumulator row or the relay, due after the function's latency; a
type that the function does not take faults ILLEGAL. VIOTA (R142): a row, after 2 cc for integer types and 4 cc for
floats. A bundle reads every operand before any of its results is written, and its instructions take effect together, in
the order of their slots (R65, R127, R145): each plan is made on the state as it stands before the bundle issues. Of each
of these it says which next state it answers, under conditions on the state and the operands alone: vadd, vsub, vmul,
vfma, vfms, vmin, vmax, vabs, vneg, vdiv, vsqrt, vcpys, viadd, visub, vimul, vimin, vimax, viabs, vand, vor, vxor, vnot,
vshl, vshr, vsar, vrotl, vfclass, vsel, vexp2, vlog2, vrcp, vrsqrt, vtanh, verf, vredadd, vredmax, vredmin, vscan, vshuf,
vbcast, vcvt, vpack, vunpk, vscale, vrnd, vmov, vmget, viota. -/
def Obligations.VectorRows : Prop :=
  (
    ∀ e ∈ ([
        (Instr.vadd, VShape.float2, 4, lane2 (float2 fun x a b => vAdd x.rm a b)),
        (Instr.vsub, VShape.float2, 4, lane2 (float2 fun x a b => vAdd x.rm a (vNeg b))),
        (Instr.vmul, VShape.float2, 4, lane2 (float2 fun _ a b => vMul a b)),
        (Instr.vfma, VShape.float3, 4, lane3 (float3 fun x a b c => vAdd x.rm (vMul a b) c)),
        (Instr.vfms, VShape.float3, 4, lane3 (float3 fun x a b c => vAdd x.rm (vMul a b) (vNeg c))),
        (Instr.vmin, VShape.float2, 2, lane2 (float2 fun _ a b => vMin a b)),
        (Instr.vmax, VShape.float2, 2, lane2 (float2 fun _ a b => vMax a b)),
        (Instr.vabs, VShape.float1, 2, lane1 (float1 fun _ a => vAbs a)),
        (Instr.vneg, VShape.float1, 2, lane1 (float1 fun _ a => vNeg a)),
        (Instr.vdiv, VShape.float2, 8, lane2 (float2 fun _ a b => vDiv a b)),
        (Instr.vsqrt, VShape.float1, 8, lane1 (float1 fun _ a => vSqrt a)),
        (Instr.vcpys, VShape.float2, 2, lane2 (float2 fun _ a b => vCopySign a b)),
        (Instr.viadd, VShape.intSat2, 2, lane2 (int2 fun a b => a + b)),
        (Instr.visub, VShape.intSat2, 2, lane2 (int2 fun a b => a - b)),
        (Instr.vimul, VShape.intSat2, 2, lane2 (int2 fun a b => a * b)),
        (Instr.vimin, VShape.intUns2, 2, lane2 (int2 fun a b => min a b)),
        (Instr.vimax, VShape.intUns2, 2, lane2 (int2 fun a b => max a b)),
        (Instr.viabs, VShape.intSat1, 2, lane1 intAbs), (Instr.vand, VShape.bits2, 2, lane2 (fun _ a b => a &&& b)),
        (Instr.vor, VShape.bits2, 2, lane2 (fun _ a b => a ||| b)),
        (Instr.vxor, VShape.bits2, 2, lane2 (fun _ a b => a ^^^ b)),
        (Instr.vnot, VShape.bits1, 2, lane1 (fun x a => 2 ^ (8 * x.w) - 1 - a)),
        (Instr.vshl, VShape.shift2, 2, laneShift shlLane), (Instr.vshr, VShape.shift2, 2, laneShift shrLane),
        (Instr.vsar, VShape.shift2, 2, laneShift sarLane), (Instr.vrotl, VShape.shift2, 2, laneShift rotlLane),
        (Instr.vfclass, VShape.float1, 2, lane1 (fun x a => classCode (fmtOf x.k x.t) a)),
        (Instr.vsel, VShape.sel, 2, selectRow), (Instr.vexp2, VShape.float1, 8, lane1 (float1 fun _ a => vExp2 a)),
        (Instr.vlog2, VShape.float1, 8, lane1 (float1 fun _ a => vLog2 a)),
        (Instr.vrcp, VShape.float1, 8, lane1 (float1 fun _ a => vRcp a)),
        (Instr.vrsqrt, VShape.float1, 8, lane1 (float1 fun _ a => vRsqrt a)),
        (Instr.vtanh, VShape.float1, 8, lane1 (float1 fun _ a => vTanh a)),
        (Instr.verf, VShape.float1, 8, lane1 (float1 fun _ a => vErf a)),
        (Instr.vredadd, VShape.redAdd, 6, reduceRow redAdd), (Instr.vredmax, VShape.redCmp, 6, reduceRow (redPick true)),
        (Instr.vredmin, VShape.redCmp, 6, reduceRow (redPick false)), (Instr.vscan, VShape.redAdd, 6, scanRow),
        (Instr.vshuf, VShape.shuf, 4, shuffleRow), (Instr.vbcast, VShape.bcast, 2, broadcastRow),
        (Instr.vcvt, VShape.cvt, 4, convertRow), (Instr.vpack, VShape.pack, 4, packRow),
        (Instr.vunpk, VShape.unpk, 4, unpackRow), (Instr.vscale, VShape.float2, 4, scaleRow),
        (Instr.vrnd, VShape.float1, 4, lane1 (float1 fun x a => vRound x.rm a)),
        (Instr.vmov, VShape.mov, 2, lane1 (fun _ a => a)), (Instr.vmget, VShape.mget, 2, maskRow)]
        : List ((FV → Instr) × VShape × Nat × (VCtx → VVal))),
      ∀ f s, CanIssueV s f e.2.1 →
        (typeFits (ctxOf s f) e.2.1 = true →
          ∃ v en, e.2.2.2 (ctxOf s f) = .row v en
            ∧ exec (e.1 f) s = .next (fly (begunV s f) e.2.2.1
                (if f.vd.toNat < 64 then .row (rowOf (cc s) f.vd.toNat) else .none) v en (some 0) (pushKey s f.tk) 0 false))
        ∧ (typeFits (ctxOf s f) e.2.1 = false →
          exec (e.1 f) s = .next (takeTrap s s.cur.node s.cur.core (causeHere s 0x01))))
  ∧ (
    ∀ f s, CanIssueV s f VShape.iota → typeFits (ctxOf s f) VShape.iota = true →
      ∃ v en, iotaRow (ctxOf s f) = .row v en
        ∧ exec (.viota f) s = .next (fly (begunV s f) (if isIntTy (ctxOf s f).t then 2 else 4)
            (if f.vd.toNat < 64 then .row (rowOf (cc s) f.vd.toNat) else .none) v en (some 0) (pushKey s f.tk) 0 false))
  ∧ (
    ∀ (l : List VUnit) s, mayIssue s = true → s.cur.seq = .exec → spanFull s = false →
      (∀ p ∈ [1, 2, 3], bundlePops l p ≤ (fifo (cc s) (fifoIn s.cur.seq p)).n) →
      (∀ p ∈ [1, 2, 3], let x := fifo (cc s) (fifoOut s.cur.seq p); x.n + x.popped + x.v + bundlePushes l p ≤ 16) →
      srcsReady s (l.flatMap unitSrcs) = true → (∀ u ∈ l, interlocked (cc s) u = false) → inflightRoom s l.length = true →
      (∀ u ∈ l, typeFits (vctx s u) u.shape = true ∧ ∃ lat g v en, u.kind = .calc lat g ∧ g (vctx s u) = .row v en) →
      let plan (u : VUnit) : VPlan :=
        match u.kind with
        | .calc lat g => ⟨u, vctx s u, g (vctx s u), [], lat (vctx s u).t⟩
        | _ => ⟨u, vctx s u, .none, [], 0⟩
      runBundle l s = .next (bundleEffects 0 (l.map plan) (takeBundle l s)))

/-- The functions that give a mask or a scalar, and VSETT (R125, R138, R142, R147): a comparison, a mask function and VMSET
put a mask in flight, VMCNT and VEXTR a scalar of EXEC, VSETT writes VTYPE from the next cc on. Of each of these it says
which next state it answers, under conditions on the state and the operands alone: vceq, vcne, vclt, vcle, vcltu, vcleu,
vmand, vmor, vmcnt, vextr, vsett, vmset. -/
def Obligations.VectorMasksAndScalars : Prop :=
  (∀ e ∈ ([
      (Instr.vceq, VShape.cmpAll, 2, compare2 vEq (fun a b => decide (a = b)) false),
      (Instr.vcne, VShape.cmpAll, 2, compare2 (fun a b => !vEq a b) (fun a b => decide (a ≠ b)) false),
      (Instr.vclt, VShape.cmpAll, 2, compare2 vLt (fun a b => decide (a < b)) false),
      (Instr.vcle, VShape.cmpAll, 2, compare2 (fun a b => vLt a b || vEq a b) (fun a b => decide (a ≤ b)) false),
      (Instr.vcltu, VShape.cmpInt, 2, compare2 vLt (fun a b => decide (a < b)) true),
      (Instr.vcleu, VShape.cmpInt, 2, compare2 vLt (fun a b => decide (a ≤ b)) true),
      (Instr.vmand, VShape.maskLogic, 2, maskLogic false), (Instr.vmor, VShape.maskLogic, 2, maskLogic true),
      (Instr.vmset, VShape.mset, 2, anySet)]
      : List ((FV → Instr) × VShape × Nat × (VCtx → VVal))),
    ∀ f s, CanIssueV s f e.2.1 → typeFits (ctxOf s f) e.2.1 = true →
      ∃ v, e.2.2.2 (ctxOf s f) = .mask v
        ∧ exec (e.1 f) s = .next (fly (begunV s f) e.2.2.1 (if f.vd.toNat < 8 then .mask f.vd.toNat else .none)
            (v.setWidth 4096) 1 none (pushKey s f.tk) 0 false))
  ∧ (∀ e ∈ ([
      (Instr.vmcnt, VShape.maskCount, 6, maskCount), (Instr.vextr, VShape.extr, 4, extractLane)]
      : List ((FV → Instr) × VShape × Nat × (VCtx → VVal))),
    ∀ f s, CanIssueV s f e.2.1 → typeFits (ctxOf s f) e.2.1 = true →
      let d : Reg := f.vd.setWidth 5
      ∃ v, e.2.2.2 (ctxOf s f) = .scal v
        ∧ exec (e.1 f) s = .next (fly (modCc (begunV s f) fun k => supersedeAll k .exec d) e.2.2.1
            (if d = 0 then .none else .sreg .exec d) (v.setWidth 4096) 1 none (pushKey s f.tk) 0 false))
  ∧ ∀ f s, CanIssueV s f VShape.sett → typeFits (ctxOf s f) VShape.sett = true →
      let v := vopVal (cs s) f.a
      (vtypeOk v = true → exec (.vsett f) s
        = .next (retirePushes (later (begunV s f) (.vtype s.cur.node s.cur.core (v &&& 0x1F07))) f.tk []))
      ∧ (vtypeOk v = false → exec (.vsett f) s = .next (takeTrap s s.cur.node s.cur.core (causeHere s 0x01)))

/-- Vector loads and stores (R144, R145): all active lanes are checked before any moves; a load puts its row in flight for one
cc, a store hands its lanes over, and a fault is taken at the instruction with nothing of it done. Of each of these it
says which next state it answers, under conditions on the state and the operands alone: vld, vst, vlds, vsts, vgath,
vscat. -/
def Obligations.VectorMemory : Prop :=
  (∀ e ∈ ([(Instr.vld, VShape.load, .unit), (Instr.vlds, VShape.load, .strided), (Instr.vgath, VShape.gath, .gather)]
      : List ((FV → Instr) × VShape × VMode)),
    ∀ f s, CanIssueV s f e.2.1 → typeFits (ctxOf s f) e.2.1 = true →
      let u : VUnit := ⟨f, e.2.1, .load e.2.2⟩
      (∀ k s', memPre u (ctxOf s f) e.2.2 false s = .fault k s' →
        exec (e.1 f) s = .next (takeTrap s' s.cur.node s.cur.core k))
      ∧ (∀ s', memPre u (ctxOf s f) e.2.2 false s = .hold s' → exec (e.1 f) s = .next (setBlocked s))
      ∧ ∀ v en ls lat s', memPre u (ctxOf s f) e.2.2 false s = .go ⟨u, ctxOf s f, .row v en, ls, lat⟩ s' →
        exec (e.1 f) s = .next (fly (begunV s' f) lat
          (if f.vd.toNat < 64 then .row (rowOf (cc s) f.vd.toNat) else .none) v en none (pushKey s f.tk) 0 true))
  ∧ ∀ e ∈ ([(Instr.vst, VShape.store, .unit), (Instr.vsts, VShape.store, .strided), (Instr.vscat, VShape.scat, .gather)]
      : List ((FV → Instr) × VShape × VMode)),
    ∀ f s, CanIssueV s f e.2.1 → typeFits (ctxOf s f) e.2.1 = true →
      let u : VUnit := ⟨f, e.2.1, .store e.2.2⟩
      (∀ k s', memPre u (ctxOf s f) e.2.2 true s = .fault k s' →
        exec (e.1 f) s = .next (takeTrap s' s.cur.node s.cur.core k))
      ∧ (∀ s', memPre u (ctxOf s f) e.2.2 true s = .hold s' → exec (e.1 f) s = .next (setBlocked s))
      ∧ ∀ ls lat s', memPre u (ctxOf s f) e.2.2 true s = .go ⟨u, ctxOf s f, .none, ls, lat⟩ s' →
        let data := match f.c with
          | .vec v => rowLanes (ctxOf s f).w (vecRow (cc s) v.toNat)
          | o => List.replicate (ctxOf s f).n (scalarLane (ctxOf s f) (ctxOf s f).t o)
        exec (e.1 f) s = .next (retirePushes (laneWrites (ctxOf s f).w data ls (begunV s' f)) f.tk [])

/-- The integer lanes (R80, R136): without SAT a result wraps to the type's width, with SAT it is the nearest value the type
holds, signed or, with the unsigned bit, unsigned; VIMIN and VIMAX compare signed or, with that bit, unsigned. -/
def Obligations.IntegerLanes : Prop :=
  ∀ (x : VCtx) (a b : Nat), (x.w = 1 ∨ x.w = 2 ∨ x.w = 4) → a < 2 ^ (8 * x.w) → b < 2 ^ (8 * x.w) →
    let m := 2 ^ (8 * x.w)
    let p := sextN a (8 * x.w)
    let q := sextN b (8 * x.w)
    let clamp (v : Int) : Int := max (-((m / 2 : Nat) : Int)) (min v (((m / 2 : Nat) : Int) - 1))
    (x.f.sat = false → int2 (fun p q => p + q) x a b = (a + b) % m ∧ int2 (fun p q => p - q) x a b = (a + (m - b)) % m
      ∧ int2 (fun p q => p * q) x a b = a * b % m)
    ∧ (x.f.sat = true → x.f.aux.getLsbD 0 = true →
        int2 (fun p q => p + q) x a b = min (a + b) (m - 1) ∧ int2 (fun p q => p - q) x a b = a - b
        ∧ int2 (fun p q => p * q) x a b = min (a * b) (m - 1))
    ∧ (x.f.sat = true → x.f.aux.getLsbD 0 = false →
        sextN (int2 (fun p q => p + q) x a b) (8 * x.w) = clamp (p + q)
        ∧ sextN (int2 (fun p q => p - q) x a b) (8 * x.w) = clamp (p - q)
        ∧ sextN (int2 (fun p q => p * q) x a b) (8 * x.w) = clamp (p * q))
    ∧ (x.f.sat = false → x.f.aux.getLsbD 0 = true →
        int2 (fun p q => min p q) x a b = min a b ∧ int2 (fun p q => max p q) x a b = max a b)
    ∧ (x.f.sat = false → x.f.aux.getLsbD 0 = false →
        sextN (int2 (fun p q => min p q) x a b) (8 * x.w) = min p q
        ∧ sextN (int2 (fun p q => max p q) x a b) (8 * x.w) = max p q)

/-- The frame of a vector function that runs alone (R122, R127): until its result lands no accumulator row, mask, memory,
special register or scalar register changes, and no other core or node is touched. -/
def Obligations.VectorFrame : Prop :=
  ∀ e ∈ ([Instr.vadd, Instr.vsub, Instr.vmul, Instr.vfma, Instr.vfms, Instr.vmin, Instr.vmax, Instr.vabs, Instr.vneg, Instr.vdiv,
      Instr.vsqrt, Instr.vcpys, Instr.viadd, Instr.visub, Instr.vimul, Instr.vimin, Instr.vimax, Instr.viabs, Instr.vand,
      Instr.vor, Instr.vxor, Instr.vnot, Instr.vshl, Instr.vshr, Instr.vsar, Instr.vrotl, Instr.vfclass, Instr.vexp2,
      Instr.vlog2, Instr.vrcp, Instr.vrsqrt, Instr.vtanh, Instr.verf, Instr.vceq, Instr.vcne, Instr.vclt, Instr.vcle,
      Instr.vcltu, Instr.vcleu, Instr.vsel, Instr.vredadd, Instr.vredmax, Instr.vredmin, Instr.vscan, Instr.vshuf,
      Instr.vbcast, Instr.vcvt, Instr.vpack, Instr.vunpk, Instr.vscale, Instr.vrnd, Instr.vmov, Instr.vmget, Instr.viota,
      Instr.vmand, Instr.vmor, Instr.vmset, Instr.vmcnt, Instr.vextr, Instr.vsett] : List (FV → Instr)),
    ∀ f s y, exec (e f) s = .next y → y.trap = none → OnlySeq s y ∧ ∀ r, reg y r = reg s r

/-! The matrix engine. -/

/-- The shadow set (R151, R180): MSETN sets one trip count, MSETS one descriptor word, MSETA the attributes and the adapter
table, MCLRS the reset values, each from the next cc on, and nothing of a queued nest changes with it. Of each of these it
says which next state it answers, under conditions on the state and the operands alone: msetn, msets, mseta, mclrs. -/
def Obligations.ShadowSet : Prop :=
  let n (s : State) : Nat := s.cur.node
  let c (s : State) : Nat := s.cur.core
  let sig (s : State) (f : FE) (l : Late) : State := signal (later (pastE s f) l) f.sig
  (∀ f s, CanIssueE s f [.ctrl, .exec] [f.a, f.b] 0 →
    ((reg s f.a).toNat ≤ 5 → 1 ≤ (reg s f.b).toNat → (reg s f.b).toNat ≤ 2 ^ 24 →
      exec (.msetn f) s = .next (sig s f (.shTc (n s) (c s) (reg s f.a).toNat (reg s f.b).toNat)))
    ∧ ((5 < (reg s f.a).toNat ∨ reg s f.b = 0 ∨ 2 ^ 24 < (reg s f.b).toNat) →
      exec (.msetn f) s = .next (takeTrap s (n s) (c s) (causeHere s 0x01)))
    ∧ (fld (reg s f.a) 63 7 = 0 → fld (reg s f.a) 6 4 ≤ 4 →
      exec (.msets f) s = .next (sig s f (.shSd (n s) (c s) (fld (reg s f.a) 3 0) (fld (reg s f.a) 6 4) (reg s f.b))))
    ∧ (fld (reg s f.a) 63 7 ≠ 0 ∨ 4 < fld (reg s f.a) 6 4 →
      exec (.msets f) s = .next (takeTrap s (n s) (c s) (causeHere s 0x01)))
    ∧ exec (.mseta f) s = .next (sig s f (.shAttr (n s) (c s) (reg s f.a) (reg s f.b))))
  ∧ (∀ f s, CanIssueE s f [.ctrl, .exec] [] 0 → exec (.mclrs f) s = .next (sig s f (.shClr (n s) (c s))))
  ∧ (∀ s n c l k, (co (applyLate s (.shTc n c l k)) n c).shadow = { (co s n c).shadow with tc := smPut (co s n c).shadow.tc l k })
  ∧ (∀ s n c a t, (co (applyLate s (.shAttr n c a t)) n c).shadow = { (co s n c).shadow with attr := a, adtab := t })
  ∧ (∀ s n c, (co (applyLate s (.shClr n c)) n c).shadow = {})
  ∧ ∀ s n c i w v, w ≤ 4 →
      let d := smGet (co (applyLate s (.shSd n c i w v)) n c).shadow.sd {} i
      let e := smGet (co s n c).shadow.sd {} i
      d = { w0 := if w = 0 then v else e.w0, w1 := if w = 1 then v else e.w1, w2 := if w = 2 then v else e.w2,
            w3 := if w = 3 then v else e.w3, w4 := if w = 4 then v else e.w4 }

/-- The queued matrix instructions (R150, R159, R179, R181, R185, R186): a legal one is appended to the queue of four with its
flags, and takes effect there; an illegal operand faults ILLEGAL, a full queue waits. MWAIT, MSTAT and MABORT (R182 to
R184): MWAIT waits until no more than its count of entries is left and gives MPROG, MSTAT reads the counters, and MABORT
waits for the other sequencer's pending matrix instruction (what counts as pending is the model's reading, DEDUCED, log
47), ends a reduction in progress, and drops every queue entry but joins and an ACOPY, ACLR or ADINV that has begun; it
retires in its issue cc where the engine is idle, and else at the end of the last of the retirement under way and the
entries that run on. Of each of these it says which next state it answers, under conditions on the state and the operands
alone: mgo, acopy, aclr, adload, adinv, mwait, mstat, mabort. -/
def Obligations.MatrixQueue : Prop :=
  (
    let put (s : State) (f : FE) (op : MOp) : State := modCc (pastE s f) fun k =>
      { k with nextTag := k.nextTag + 1,
               mq := k.mq ++ [⟨op, f.sig, k.nextTag, false, 0, coreCyc s s.cur.node s.cur.core + 8, 0⟩] }
    let bad (s : State) (code : Nat) : Out := .next (takeTrap s s.cur.node s.cur.core (causeHere s code))
    (∀ f s, CanIssueE s f [.ctrl, .exec] [f.a] 0 →
      let x := (cc s).shadow
      let start := (reg s f.a).toNat
      (nestLegal x start = false → exec (.mgo f) s = bad s 0x01)
      ∧ (nestLegal x start = true → fld (cc s).redLimit 23 0 < nestRed x → exec (.mgo f) s = bad s 0x13)
      ∧ (nestLegal x start = true → nestRed x ≤ fld (cc s).redLimit 23 0 → chainBusy x start = true → exec (.mgo f) s = bad s 0x14)
      ∧ (nestLegal x start = true → nestRed x ≤ fld (cc s).redLimit 23 0 → chainBusy x start = false →
          (cc s).mq.length < 4 → rowDue (cc s) (fun i => namesTile x start (i / 128)) = false →
          exec (.mgo f) s = .next (put s f (.go x start)))
      ∧ (nestLegal x start = true → nestRed x ≤ fld (cc s).redLimit 23 0 → chainBusy x start = false →
          4 ≤ (cc s).mq.length → exec (.mgo f) s = .next (setBlocked s))
      ∧ (fld (reg s f.a) 63 17 = 0 → (cc s).mq.length < 4 →
          exec (.adinv f) s = .next (put s f (.adinv (fld (reg s f.a) 15 0) (bit (reg s f.a) 16))))
      ∧ (fld (reg s f.a) 63 17 ≠ 0 → exec (.adinv f) s = bad s 0x01))
    ∧ ∀ f s, CanIssueE s f [.ctrl, .exec] [f.a, f.b] 0 → (cc s).mq.length < 4 →
      let a := reg s f.a
      let b := reg s f.b
      (fld a 63 25 = 0 → fld a 15 9 = 0 → 1 ≤ b.toNat → fld a 8 0 + b.toNat ≤ 512 → fld a 24 16 + b.toNat ≤ 512 →
        exec (.acopy f) s = .next (put s f (.acopy (fld a 8 0) (fld a 24 16) b.toNat)))
      ∧ (b.toNat = 0 ∨ 512 < fld a 8 0 + b.toNat ∨ 512 < fld a 24 16 + b.toNat → exec (.acopy f) s = bad s 0x01)
      ∧ (1 ≤ b.toNat → a.toNat + b.toNat ≤ 512 → exec (.aclr f) s = .next (put s f (.aclr a.toNat b.toNat)))
      ∧ (b.toNat = 0 ∨ 512 < a.toNat + b.toNat → exec (.aclr f) s = bad s 0x01)
      ∧ (let x := (cc s).shadow
         let legal := fld a 63 16 = 0 ∧ fld b 63 32 = 0 ∧ atMode x < 2
           ∧ formatsGo (atMode x) (sdFmt (atA x)) (sdFmt (atB x)) 4 = true
         (legal → exec (.adload f) s = .next (put s f (.adload (fld a 15 0) (fld b 15 0) (fld b 31 16) x)))
         ∧ (¬ legal → exec (.adload f) s = bad s 0x01)))
  ∧ (
    (∀ f s, CanIssueE s f [.ctrl, .exec] [f.a] 1 →
      let out (w : Word) : Out := .next (flyReg (begunE s f) f.d w 2 (pushKey s f.tk) f.sig)
      (mqCount (cc s) ≤ (reg s f.a).toNat → exec (.mwait f) s = out (cc s).mprog)
      ∧ ((reg s f.a).toNat < mqCount (cc s) → exec (.mwait f) s = .next (setBlocked s))
      ∧ (reg s f.a = 0 → exec (.mstat f) s = out (mstatWord (cc s)))
      ∧ (reg s f.a = 1 → exec (.mstat f) s = out (cc s).mprog)
      ∧ (reg s f.a = 2 → exec (.mstat f) s = out (BitVec.ofNat 64 (cc s).lensHits))
      ∧ (reg s f.a = 3 → exec (.mstat f) s = out (BitVec.ofNat 64 (cc s).lensMiss))
      ∧ (reg s f.a = 4 → exec (.mstat f) s = out (BitVec.ofNat 64 (cc s).replays))
      ∧ (4 < (reg s f.a).toNat → exec (.mstat f) s = .next (takeTrap s s.cur.node s.cur.core (causeHere s 0x01))))
    ∧ (∀ f s, CanIssueE s f [.ctrl, .exec] [] 1 →
        let pending := matSeqs.any fun q => q != s.cur.seq && matrixPending s q
        let y := abortMatrix (begunE s f)
        let going := (cc s).mq.filter runsOn
        let last := (going.map fun e => e.due).foldl max (match (cc s).ret with | some r => r.due | none => 0)
        (pending = true → exec (.mabort f) s = .next (setBlocked s))
        ∧ (pending = false → (cc s).ret = none → going = [] →
            exec (.mabort f) s = .next (signal (retirePushes y f.tk []) f.sig))
        ∧ (pending = false → ((cc s).ret ≠ none ∨ going ≠ []) → exec (.mabort f) s
            = .next (flyReg y 0 0 (last - coreCyc s s.cur.node s.cur.core + 1) (pushKey s f.tk) f.sig)))
    ∧ ∀ s, let y := abortMatrix s
        let stays (e : MEntry) : Prop := (∃ id, e.op = .join id) ∨ (e.begun = true
          ∧ ((∃ d r m, e.op = .acopy d r m) ∨ (∃ r m, e.op = .aclr r m) ∨ ∃ id all, e.op = .adinv id all))
        (cc y).red = none ∧ (cc y).ret = (cc s).ret ∧ (∀ e ∈ (cc y).mq, e ∈ (cc s).mq ∧ stays e)
        ∧ ∀ e ∈ (cc s).mq, stays e → e ∈ (cc y).mq)

/-- The steps of a reduction (R158 to R164): it starts with its tile's rows or zeros before its k-step 0; a k-step adds one
step of every cell and takes its cycles, the last one over ends it, and a retirement writes the working rows into the
tile, 128 rows and no other. Accumulator operations (R150, R185): begun, an ACLR at the head clears exactly its rows and
an ACOPY copies its rows as they stood before any of it was written, and the entry leaves the queue; source rows that an
uncorrectable error has struck fault POISON. Lens fills and replays (R169, R171, R186): an ADLOAD at the head begins its
fill, of ID 0 completes at once; a fill that a reduction waits for is made unless the entry is there, and leaves its list;
and a replay takes at least one listed k-step off the list. Of each of these it says which next state it answers, under
conditions on the state and the operands alone: reductionStart, kStep, reductionRetire, accumulatorOpDone, lensFill,
replay. -/
def Obligations.MatrixSteps : Prop :=
  (
    (∀ s n c e x start, reductionDue s n c = true → turnEntry (co s n c) = some e → e.op = .go x start → atIden x = false →
      (atZinit x = false → accBad (co s n c) (128 * nestTile x (start + startedOf (co s n c) e)) 128 = none) →
      ∃ y r, exec (.reductionStart n c) s = .next y ∧ (co y n c).red = some r
        ∧ r.entry = e.id ∧ r.kk = 0 ∧ r.q = start + startedOf (co s n c) e ∧ r.tile = nestTile x r.q ∧ r.ran = false ∧ r.done = false
        ∧ (∀ i, i < 128 → smGet r.work 0 i = if atZinit x then 0 else smGet (co s n c).acc 0 (128 * r.tile + i))
        ∧ (co y n c).acc = (co s n c).acc)
    ∧ (∀ s n c r x st, kStepDue s n c = true → (co s n c).red = some r → r.done = false → r.tab = [] →
      nestOf (co s n c) r.entry = some (x, st) →
      (∀ work, stepsOver x r = false → mainStep (co s n c) x (nextStep r) = .inr work →
        ∃ y w, exec (.kStep n c) s = .next y ∧ (co y n c).red = some w ∧ w.kk = (if r.ran then r.kk + 1 else r.kk) ∧ w.work = work
          ∧ w.ran = true ∧ w.done = false ∧ w.due = coreCyc s n c + 32)
      ∧ (∀ f, stepsOver x r = false → mainStep (co s n c) x (nextStep r) = .inl f →
        exec (.kStep n c) s = .next (matrixFault s n c f))
      ∧ (stepsOver x r = true → r.replay = [] → (co s n c).ret = none →
        ∃ y w, exec (.kStep n c) s = .next y ∧ (co y n c).ret = some w ∧ w.work = r.work ∧ w.tile = r.tile
          ∧ w.due = coreCyc s n c + 64 ∧ (co y n c).red = none))
    ∧ ∀ s n c r, retireDue s n c = true → (co s n c).ret = some r → smWf 0 (co s n c).acc = true →
      ∃ y, exec (.reductionRetire n c) s = .next y ∧ (co y n c).ret = none
        ∧ (∀ i, i < 128 → smGet (co y n c).acc 0 (128 * r.tile + i) = smGet r.work 0 i)
        ∧ ∀ j, j < 128 * r.tile ∨ 128 * r.tile + 128 ≤ j → smGet (co y n c).acc 0 j = smGet (co s n c).acc 0 j)
  ∧ (
    ∀ s n c e r, accOpDue s n c = true → (co s n c).mq = e :: r → (∀ z ∈ r, z.id ≠ e.id) →
      (e.begun = false → (∀ dst src m, e.op = .acopy dst src m → accBad (co s n c) src m = none) →
        ∃ y z, exec (.accumulatorOpDone n c) s = .next y ∧ (co y n c).mq = z :: r ∧ z.begun = true ∧ z.op = e.op
        ∧ (co y n c).acc = (co s n c).acc)
      ∧ (∀ dst src m k, e.begun = false → e.op = .acopy dst src m → accBad (co s n c) src m = some k →
          exec (.accumulatorOpDone n c) s = .next (matrixFault s n c k))
      ∧ (e.begun = true → smWf 0 (co s n c).acc = true →
          (∀ first m, e.op = .aclr first m → ∃ y, exec (.accumulatorOpDone n c) s = .next y ∧ (co y n c).mq = r
            ∧ ∀ i, smGet (co y n c).acc 0 i = if first ≤ i ∧ i < first + m then 0 else smGet (co s n c).acc 0 i)
          ∧ ∀ dst src m, e.op = .acopy dst src m →
            ∃ y, exec (.accumulatorOpDone n c) s = .next y ∧ (co y n c).mq = r
            ∧ ∀ i, smGet (co y n c).acc 0 i = if dst ≤ i ∧ i < dst + m then smGet (co s n c).acc 0 (i - dst + src)
                else smGet (co s n c).acc 0 i))
  ∧ (
    (∀ s n c e r id kt nt x, lensFillDue s n c = true → (co s n c).red = none → (co s n c).mq = e :: r →
      e.op = .adload id kt nt x → e.begun = false → (∀ z ∈ r, z.id ≠ e.id) →
      (id = 0 → ∃ y, exec (.lensFill n c) s = .next y ∧ (co y n c).mq = r)
      ∧ (id ≠ 0 → ∃ y z, exec (.lensFill n c) s = .next y ∧ (co y n c).mq = z :: r ∧ z.begun = true))
    ∧ (∀ s n c r, lensFillDue s n c = true → (co s n c).red = some r →
        exec (.lensFill n c) s = .next (fillsDue n c r.fills.length s))
    ∧ (∀ k s n c r x st id kt nt due l, (co s n c).red = some r → nestOf (co s n c) r.entry = some (x, st) →
        r.fills = (id, kt, nt, due) :: l → due ≤ coreCyc s n c →
        let there := (qd s n (quadOf c)).lens.any fun l => lensIs l (tenantOf (co s n c)) id kt nt (adGen (tabOf r id))
        let less (z : State) : State := modCo z n c fun k => { k with red := k.red.map fun r => { r with fills := l } }
        (there = true → fillsDue n c (k + 1) s = fillsDue n c k (less s))
        ∧ ∀ s', there = false → fillLens s n c x (tabOf r id) id kt nt = (.inr (), s') →
            fillsDue n c (k + 1) s = fillsDue n c k (less s'))
    ∧ (∀ s n c x ent id kt nt s', fillLens s n c x ent id kt nt = (.inr (), s') →
        ∃ l, (qd s' n (quadOf c)).lens.head? = some l ∧ lensIs l (tenantOf (co s' n c)) id kt nt (adGen ent) = true
          ∧ (qd s' n (quadOf c)).lens.length ≤ max 64 (qd s n (quadOf c)).lens.length)
    ∧ (∀ s n c r x st kk, replayDue s n c = true → (co s n c).red = some r → nestOf (co s n c) r.entry = some (x, st) →
        replayNext s n c x r = some kk → replayMiss s n c x r = [] → exec (.replay n c) s = .next (replayRun s n c x r kk))
    ∧ ∀ s n c r x kk a, (co s n c).red = some r → replayNext s n c x r = some kk → operandA (co s n c) x r.q kk = .inr a →
        (∀ p e, replayEntry s n c x r p = some e → e.bad = false) →
        let y := replayRun s n c x r kk
        (co s n c).replays < (co y n c).replays ∧ ∀ w, (co y n c).red = some w → w.replay.length < r.replay.length)

/-! Copy engine and packets. -/

/-- COPY, COPYI, CPWAIT and CPSTAT (R253 to R256, R263): a block is read by one load; what its checks let through becomes the
last entry of the copy queue and gives the next sequence number; an illegal block or length faults ILLEGAL, an address
that is no multiple of 4 ALIGN; CPWAIT waits for its count, CPSTAT reads the engine's state. The copy engine (R254, R256
to R262): an entry begins only when its flags are there, and with every page checked before a byte moves; pieces never
cross a line of 128 bytes; a piece waits while a bucket of its entry's class is empty; entries complete from the head of
the queue, one count each; a fault of an entry is the engine's, to be taken by its core. That a piece reads its source and
writes its target in one turn, on another node too, is the model's reading (DEDUCED, log 15), and the next piece after one
cc is log 7's time. Of each of these it says which next state it answers, under conditions on the state and the operands
alone: copy, copyi, cpwait, cpstat, copyEntryBegin, copyPiece, copyEntryComplete. -/
def Obligations.Copies : Prop :=
  (
    let n (s : State) : Nat := s.cur.node
    let c (s : State) : Nat := s.cur.core
    (∀ f s, CanIssueE s f [.ctrl] [f.a] 1 →
      (∀ v s' x t, readWhole (reg s f.a) 128 s = .go v s' → blockLegal v = true → copyChecks (blockCmd v) s' = .go x t →
        ((cc s).cq.length < 32 → exec (.copy f) s = .next (copyAccept x f (pastE t f)))
        ∧ (32 ≤ (cc s).cq.length → exec (.copy f) s = .next (setBlocked s)))
      ∧ (∀ v s', readWhole (reg s f.a) 128 s = .go v s' → blockLegal v = false →
        exec (.copy f) s = .next (takeTrap s' (n s) (c s) (causeHere s' 0x01)))
      ∧ (∀ k s', readWhole (reg s f.a) 128 s = .fault k s' → exec (.copy f) s = .next (takeTrap s' (n s) (c s) k))
      ∧ (∀ s', readWhole (reg s f.a) 128 s = .hold s' → exec (.copy f) s = .next (setBlocked s))
      ∧ ((reg s f.a).toNat % 128 ≠ 0 → exec (.copy f) s = .next (takeTrap s (n s) (c s) (causeAt s 0x04 (reg s f.a)))))
    ∧ (∀ f s, CanIssueE s f [.ctrl] [f.a, f.b, f.d] 1 →
      let len := (reg s f.d).toNat
      let legal := len % 4 = 0 ∧ 4 ≤ len ∧ len ≤ 2 ^ 24
      (¬ legal → exec (.copyi f) s = .next (takeTrap s (n s) (c s) (causeHere s 0x01)))
      ∧ (legal → (reg s f.a).toNat % 4 ≠ 0 → exec (.copyi f) s = .next (takeTrap s (n s) (c s) (causeAt s 0x04 (reg s f.a))))
      ∧ (legal → (reg s f.a).toNat % 4 = 0 → (reg s f.b).toNat % 4 ≠ 0 →
          exec (.copyi f) s = .next (takeTrap s (n s) (c s) (causeAt s 0x04 (reg s f.b))))
      ∧ (legal → (reg s f.a).toNat % 4 = 0 → (reg s f.b).toNat % 4 = 0 → (cc s).det = false →
          ((cc s).cq.length < 32 →
            exec (.copyi f) s = .next (copyAccept (copyiCmd (reg s f.a) (reg s f.b) len) f (pastE s f)))
          ∧ (32 ≤ (cc s).cq.length → exec (.copyi f) s = .next (setBlocked s))))
    ∧ (∀ f s x, ∃ e, (cc (copyAccept x f s)).cq = (cc s).cq ++ [e] ∧ e.cmd = x ∧ e.seqNo = (cc s).cAcc + 1 ∧ e.begun = false
        ∧ (cc (copyAccept x f s)).cAcc = (cc s).cAcc + 1)
    ∧ ∀ f s, CanIssueE s f [.ctrl] [f.a] 1 →
      let v := reg s f.a
      let out (w : Word) : Out := .next (flyReg (begunE s f) f.d w 2 (pushKey s f.tk) f.sig)
      let bad : Out := .next (takeTrap s (n s) (c s) (causeHere s 0x01))
      (2 ^ 32 ≤ v.toNat → exec (.cpwait f) s = bad)
      ∧ (v.toNat < 2 ^ 32 → reached (cc s).cCmp (cpTarget (cc s) v) = true → exec (.cpwait f) s = out ((cc s).cCmp.setWidth 64))
      ∧ (v.toNat < 2 ^ 32 → reached (cc s).cCmp (cpTarget (cc s) v) = false → exec (.cpwait f) s = .next (setBlocked s))
      ∧ (v = 0 → exec (.cpstat f) s = out (cpstatWord s (cc s)))
      ∧ (v = 1 → exec (.cpstat f) s = out ((cc s).cAcc.setWidth 64))
      ∧ (v = 2 → exec (.cpstat f) s = out ((cc s).cCmp.setWidth 64))
      ∧ (v = 3 → exec (.cpstat f) s = out (BitVec.ofNat 64 (copyProgress (cc s))))
      ∧ (3 < v.toNat → exec (.cpstat f) s = bad))
  ∧ (
    (∀ s n c e, copyBeginDue s n c = true → copyCancelled s n c = false → copyHead (co s n c) = some e →
      let runs := e.cmd.n1 * e.cmd.n2 * e.cmd.n3
      (e.begun = false → (co s n c).evt &&& e.cmd.bwait ≠ e.cmd.bwait → exec (.copyEntryBegin n c) s = .next s)
      ∧ (e.begun = true ∨ (co s n c).evt &&& e.cmd.bwait = e.cmd.bwait →
        let w := if e.begun then s else modCo s n c fun k => { k with evt := k.evt &&& ~~~e.cmd.bwait }
        let x := modCopy w n c e fun y => { y with begun := true }
        (∀ s', copyPages n c e.cmd 0 runs x = (none, s') →
          ∃ d, exec (.copyEntryBegin n c) s = .next (modCopy s' n c e fun y => { y with checked := true, due := d }))
        ∧ ∀ code a s', copyPages n c e.cmd 0 runs x = (some (code, a), s') →
          exec (.copyEntryBegin n c) s = .next (engFault (keepTlb x s' n c) n c 5 code a 0)))
    ∧ (∀ s n c, copyBeginDue s n c = true → copyCancelled s n c = true →
        exec (.copyEntryBegin n c) s = .next (modCo s n c fun k => { k with cq := k.cq.tail, cCmp := k.cCmp + 1 }))
    ∧ (∀ x d, 0 < x.len0 →
        let p := pieceAt x d
        0 < p.2.2 ∧ p.2.1.toNat % 128 + p.2.2 ≤ 128 ∧ (x.fill = false → p.1.toNat % 128 + p.2.2 ≤ 128)
        ∧ d % x.len0 + p.2.2 ≤ x.len0)
    ∧ (∀ s n c e, copyPieceDue s n c = true → copyHead (co s n c) = some e →
        let p := pieceAt e.cmd e.bytes
        let ag := coreAgent s n c e.cls
        let src : Chk := if e.cmd.fill then .ok (.spad c 0) s else chk s n c p.1 p.2.2 .r
        let fails (s' : State) (code : Nat) (va : Word) : Prop :=
          exec (.copyPiece n c) s = .next (engFault (keepTlb s s' n c) n c 5 code va 0)
        (∀ code s1, src = .fault code s1 → fails s1 code p.1)
        ∧ ∀ a s1, src = .ok a s1 →
          (∀ code va s2, engCheck n c .w true 2 p.2.1 p.2.2 s1 = (some (code, va), s2) → fails s2 code va)
          ∧ ∀ s2 t s3, engCheck n c .w true 2 p.2.1 p.2.2 s1 = (none, s2) → chk s2 n c p.2.1 p.2.2 .w = .ok t s3 →
            let open_ := engHold ag t p.2.2 true s3 = false ∧ (e.cmd.fill = false → engHold ag a p.2.2 false s3 = false)
            let g : EngGot := if e.cmd.fill then ⟨fillBytes e.cmd.pattern p.2.1 p.2.2, false, 0, s3⟩ else engRead ag a p.2.2 s3
            let w := engWrite ag t p.2.2 g.v g.poison g.s
            let empty := (!e.cmd.fill && engEmpty ag a p.2.2 false s3) || engEmpty ag t p.2.2 true s3
            (¬ open_ → exec (.copyPiece n c) s = .next (modCopy s n c e fun x => { x with waitBud := empty }))
            ∧ (open_ → detRoom (co s n c) (detLines [t]) = .conflict → fails s3 0x0B p.2.1)
            ∧ (open_ → detRoom (co s n c) (detLines [t]) = .ok → g.code ≠ 0 → fails g.s g.code p.1)
            ∧ (open_ → detRoom (co s n c) (detLines [t]) = .ok → g.code = 0 → w.1 = 0 →
                ∃ y, exec (.copyPiece n c) s = .next y
                ∧ (∀ sp, homeMem (nd y n) sp = homeMem (nd w.2 n) sp) ∧ (co y n c).spad = (co w.2 n c).spad
                ∧ (co y n c).cq = (co w.2 n c).cq.map fun z => if z.joinId.isNone && z.seqNo == e.seqNo then
                    { z with piece := z.piece + 1, bytes := z.bytes + p.2.2, waitBud := false, due := coreCyc w.2 n c + 1 } else z))
    ∧ ∀ s n c e r, copyDoneDue s n c = true → (co s n c).cq = e :: r →
        ∃ y, exec (.copyEntryComplete n c) s = .next y ∧ (co y n c).cq = r ∧ (co y n c).cCmp = (co s n c).cCmp + 1
          ∧ (e.sig ||| e.cmd.bsig ≠ 0 → y.late = s.late ++ [.flags n c (e.sig ||| e.cmd.bsig)]))

/-- The packet instructions (R292, R293, R298): PBUILD takes the lowest free slot for the stamped template, PSEND queues a
legal packet of a slot with the next sequence number of its channel, PRESUME queues a record again; what their checks
refuse faults. Park retrieval and packet injection (R293, R294, R297, R314, R391): PPARKGET sends its request and waits;
the request takes the oldest record of the tenant's ring; the answer writes the record and the count; without an answer,
or with the node lost, it faults PEERGONE at its own address. The head packet leaves its queue stamped, a program packet
of this node counted by the congestion window toward its DHINT (DEDUCED, log 48), or is dropped where it is cancelled.
Node counters (R278, R295, R296): PCTRR reads the counter that its operand names, PCTRW waits for the first value of it
that has reached its own, PCTRS sets it and PCTRA adds to it, each release after the block stores of its sequencer; an
operand outside the window faults PERM, one above 65,535 ILLEGAL. Of each of these it says which next state it answers,
under conditions on the state and the operands alone: pbuild, psend, presume, packetInjection, parkgetRequest,
pparkgetPeergone, parkgetReply, pparkget, pctrw, pctrr, pctrs, pctra. -/
def Obligations.Packets : Prop :=
  (
    let n (s : State) : Nat := s.cur.node
    let c (s : State) : Nat := s.cur.core
    (∀ f s o, CanIssueE s f [.ctrl] [f.a, f.b, f.d] 1 → spadOff (reg s f.a) 32 = some o → (reg s f.d).toNat < 2 ^ 12 →
      (∀ v i, spadTake s o 288 = .inr v → freeSlot (cc s) = some i →
        let p := buildPacket s (BitVec.ofNat 2304 v) (reg s f.d).toNat (reg s f.b)
        exec (.pbuild f) s
          = .next (flyReg (modCc (begunE s f) fun k => putSlot k i (.built p)) f.d (BitVec.ofNat 64 i) 2 (pushKey s f.tk) f.sig)
        ∧ pSrcn p = s.cur.node % 2 ^ 12 ∧ pDhint p = (reg s f.d).toNat ∧ pTenant p = tenantOf (cc s) % 64 ∧ pK p 0 = reg s f.b)
      ∧ (∀ code, spadTake s o 288 = .inl code →
          exec (.pbuild f) s = .next (takeTrap s (n s) (c s) (causeAt s code (BitVec.ofNat 64 o))))
      ∧ (∀ v, spadTake s o 288 = .inr v → freeSlot (cc s) = none → exec (.pbuild f) s = .next (setBlocked s)))
    ∧ (∀ f s, CanIssueE s f [.ctrl] [f.a] 1 →
      let v := (reg s f.a).toNat
      let trap (code : Nat) : Out := .next (takeTrap s (n s) (c s) (causeHere s code))
      (8 ≤ v → exec (.psend f) s = trap 0x01)
      ∧ (v < 8 → (∀ p, slotOf (cc s) v ≠ .built p) → exec (.psend f) s = trap 0x01)
      ∧ ∀ p, v < 8 → slotOf (cc s) v = .built p →
        let forbidden := pType p = 0 ∧ cfgMask (prismCfg (cn s) (tenantOf (cc s))) 7 = false
        (packetLegal s p = false → exec (.psend f) s = trap 0x01)
        ∧ (packetLegal s p = true → forbidden → exec (.psend f) s = trap 0x06)
        ∧ (packetLegal s p = true → ¬ forbidden →
            ((cc s).pq.length < 16 → exec (.psend f) s = .next (queuePacket f p (some v) none (pastE s f)))
            ∧ (16 ≤ (cc s).pq.length → exec (.psend f) s = .next (setBlocked s))))
    ∧ (∀ f s o v arr, CanIssueE s f [.ctrl] [f.a, f.b] 1 → spadOff (reg s f.a) 32 = some o → (reg s f.b).toNat < 2 ^ 16 →
      inTorus s (fld (reg s f.b) 11 0) = true → spadTake s o 288 = .inr v → spadTake s (o + 296) 1 = .inr arr →
      let p := stampSender s (putFld (putFld (putFld (BitVec.ofNat 2304 v) 159 148 0) 147 140 0) 139 136 0)
      (packetLegal s p = true → pType p = 1 → (cc s).pq.length < 16 →
        exec (.presume f) s
          = .next (queuePacket f p none (some (fld (reg s f.b) 11 0, fld (reg s f.b) 15 12, arr % 8)) (pastE s f)))
      ∧ (packetLegal s p = false ∨ pType p ≠ 1 →
        exec (.presume f) s = .next (takeTrap s (n s) (c s) (causeHere s 0x01))))
    ∧ ∀ f p i r s, ∃ e y, queuePacket f p i r s = y ∧ (cc y).pq = (cc s).pq ++ [e] ∧ e.slot = i ∧ e.resume = r
        ∧ fld e.img 223 192 = (nextSeq (cc s) (packetOrdered p)).toNat
        ∧ nextSeq (cc y) (packetOrdered p) = nextSeq (cc s) (packetOrdered p) + 1
        ∧ nextSeq (cc y) (!packetOrdered p) = nextSeq (cc s) (!packetOrdered p))
  ∧ (
    (∀ f s o, CanIssueE s f [.ctrl] [f.a, f.b] 0 → spadOff (reg s f.a) 128 = some o → (reg s f.b).toNat < 2 ^ 12 →
      let m := (reg s f.b).toNat
      (o + 512 ≤ (cc s).part * 8192 → isLost s s.cur.node m = false → inTorus s m = true →
        ∃ y b, exec (.pparkget f) s = .next y ∧ (cs y).hold = .parkget f.d o m b ∧ b.pc = (cs s).pc
          ∧ underWay y s.cur.node m (.parkgetRequest m s.cur.node s.cur.core (tenantOf (cc s))) = true)
      ∧ (o + 512 ≤ (cc s).part * 8192 → isLost s s.cur.node m = true →
        exec (.pparkget f) s = .next (takeTrap s s.cur.node s.cur.core (causeHere s 0x0E)))
      ∧ ((cc s).part * 8192 < o + 512 →
        exec (.pparkget f) s = .next (takeTrap s s.cur.node s.cur.core (causeAt s 0x05 (BitVec.ofNat 64 o)))))
    ∧ (∀ s n src c t,
        let r := trtOf (nd s n) t
        let a := pBase (prismCfg (nd s n) t) + 512 * (r.parkOut.toNat % pCnt (prismCfg (nd s n) t))
        (r.parkIn = r.parkOut → exec (.parkgetRequest n src c t) s = .next (travel s n src 32 (.parkgetReply src c 0 ⟨0, []⟩)))
        ∧ (r.parkIn ≠ r.parkOut → ∃ y v bad, exec (.parkgetRequest n src c t) s = .next y
            ∧ (trtOf (nd y n) t).parkOut = r.parkOut + 1
            ∧ underWay y n src (.parkgetReply src c (r.parkIn - r.parkOut).toNat ⟨v, bad⟩) = true
            ∧ (a + 512 ≤ (nd s n).dways * 2 ^ 25 → ∀ i, i < 4 → (i ∈ bad ↔ isPoison (nd s n) .deep (a + 128 * i) = true))))
    ∧ (∀ s n c k v bad d off m b, (sq s n c .ctrl).hold = .parkget d off m b →
        let x := if k = 0 then s else bad.foldl (fun s i => poisonT s n c (.spad c (off + 128 * i)))
          (modCo s n c fun q =>
            (upFrom 0 4).foldl (fun q i => spadWrite q (off + 128 * i) 128 (fullMask 128) (v.toNat >>> (1024 * i))) q)
        exec (.parkgetReply n c k ⟨v, bad⟩) s = .next (answerDone (writeRegAt x n c .ctrl d (BitVec.ofNat 64 k)) n c b))
    ∧ (∀ s n c d off m b, (sq s n c .ctrl).hold = .parkget d off m b →
        (b.sent + 10 * Config.frameCc ≤ s.now ∨ isLost s n m = true →
          exec (.pparkgetPeergone n c) s = .next (answerFault s n c b ⟨0x0E, 0, 0, false, false, pcWord b.pc, 0⟩))
        ∧ (s.now < b.sent + 10 * Config.frameCc → isLost s n m = false → exec (.pparkgetPeergone n c) s = .next s))
    ∧ ∀ s n c e, packetDue s n c = true → packetHead (co s n c) = some e →
        ∃ y, exec (.packetInjection n c) s = .next y
          ∧ (cancelled (nd s n) (pTenant e.img) e.gin = true → y = packetLeave s n c e)
          ∧ (co y n c).pDone = (co s n c).pDone + 1
          ∧ (cancelled (nd s n) (pTenant e.img) e.gin = false → pType e.img = 1 → e.resume = none →
              let p := putFld e.img 255 224 (gsc s n)
              (s.now, Instr.progArrival n p 6 none) ∈ y.timers
              ∧ (e.sig = 0 → y = schedule (cwinSend (packetLeave s n c e) n (packetDest s n e) (packetBytes p) true) 0
                  (.progArrival n p 6 none)))
          ∧ (∀ r, cancelled (nd s n) (pTenant e.img) e.gin = false → pType e.img = 1 → e.resume = some r → e.sig = 0 →
              let p := putFld e.img 255 224 (gsc s n)
              y = netSend (packetLeave s n c e) n r.1 1 (pTenant p) (packetBytes p - 32) (.progArrival r.1 p r.2.2 (some r.2.1)))
          ∧ (cancelled (nd s n) (pTenant e.img) e.gin = false → pType e.img ≠ 1 → e.resume = none → e.sig = 0 →
              let p := putFld e.img 255 224 (gsc s n)
              let z := modNd (packetLeave s n c e) n fun d => charge d (pClass p) fun b => { b with msg := drain b.msg (32 * pPlen p) }
              let m := packetDest s n e
              y = launch z n (pTenant p) m (32 * pPlen p) (.dataDelivery m p (arrivalDir s n m))))
  ∧ (
    let n (s : State) : Nat := s.cur.node
    let c (s : State) : Nat := s.cur.core
    (∀ f s i, ctrOperand s (reg s f.a) = .inr i →
      let out (x : State) : Out := .next (flyReg x f.d (ctrAt (cn s) i) 12 (pushKey s f.tk) f.sig)
      let done := blksDone s (n s) (c s) s.cur.seq = true
      (CanIssueE s f [.ctrl] [f.a] 1 → exec (.pctrr f) s = out (acquireL1 (begunE s f) (n s) (c s) 3 false))
      ∧ (CanIssueE s f [.ctrl] [f.a, f.b] 1 →
          (∀ v, ctrWaited (reg s f.b) s i = some v → exec (.pctrw f) s
              = .next (flyReg (acquireL1 (modCc (begunE s f) fun k => { k with ctrWait := none }) (n s) (c s) 3 false) f.d v 12
                  (pushKey s f.tk) f.sig))
          ∧ (ctrWaited (reg s f.b) s i = none → exec (.pctrw f) s = .next (setBlocked (ctrBegin (reg s f.b) i s)))
          ∧ (done → exec (.pctra f) s = out (softCtr (releaseL1 (begunE s f) (n s) (c s) 3 false) (n s) i true (reg s f.b)))
          ∧ (¬ done → exec (.pctra f) s = .next (setBlocked s)))
      ∧ (CanIssueE s f [.ctrl] [f.a, f.b] 0 →
          (done → exec (.pctrs f) s
            = .next (signal (softCtr (releaseL1 (pastE s f) (n s) (c s) 3 false) (n s) i false (reg s f.b)) f.sig))
          ∧ (¬ done → exec (.pctrs f) s = .next (setBlocked s))))
    ∧ (∀ f s code, ctrOperand s (reg s f.a) = .inl code →
        let trap : Out := .next (takeTrap s (n s) (c s) (causeHere s code))
        (CanIssueE s f [.ctrl] [f.a] 1 → exec (.pctrr f) s = trap)
        ∧ (CanIssueE s f [.ctrl] [f.a, f.b] 1 → exec (.pctrw f) s = trap ∧ exec (.pctra f) s = trap ∧ exec (.pctrs f) s = trap))
    ∧ (∀ s t i, ((cc s).ctrWait = none → ctrWaited t s i = if passed (ctrAt (cn s) i) t then some (ctrAt (cn s) i) else none)
        ∧ (∀ w, (cc s).ctrWait = some (i, t, some w) → ctrWaited t s i = some w)
        ∧ ∀ v, (cc s).ctrWait = some (i, t, none) → (cn s).armed = [] → passed v t = true →
          (cc (setCtr s (n s) i v)).ctrWait = some (i, t, some v))
    ∧ (∀ s v, (65536 ≤ v.toNat → ctrOperand s v = .inl 0x01)
        ∧ (v.toNat < 65536 → cwLen (prismCfg (cn s) (tenantOf (cc s))) ≤ v.toNat → ctrOperand s v = .inl 0x06))
    ∧ ∀ s m i v, busyTenant (nd s m) i = none → smWf 0 (nd s m).counters = true →
        ctrAt (nd (softCtr s m i false v) m) i = v ∧ ctrAt (nd (softCtr s m i true v) m) i = ctrAt (nd s m) i + v)

/-! Endpoints and messages. -/

/-- The endpoint instructions (R302, R303, R305, R312): EPOPEN opens a closed endpoint with its image and EPCLOSE closes one
without an operation under way, both for privileged code only; MRECV stores a buffer's descriptor in its ring, at the home
of its line at once (the model's choice, log 45), and posts it, and waits while the class's HBM bucket is empty (R33);
MPOLL reads the status; an operand above 4,095 faults ILLEGAL, a closed endpoint or another tenant's PERM. The message
instructions (R304 to R306, R310, R311): MSEND, MWRITE and MREAD take the endpoint's next sequence number and the last
place of the message queue; TSEND and TWRITE arm the lowest free entry, which fires at once where its threshold has been
reached; TDISARM takes an armed operation back as its cc ends, after every firing of that cc (R311), with a result 2 cc
after its issue, a latency that R311 does not give and the model takes (PRESUMED, log 26); what the checks refuse faults.
Of each of these it says which next state it answers, under conditions on the state and the operands alone: epopen,
epclose, mrecv, mpoll, msend, mwrite, mread, tsend, twrite, tdisarm. -/
def Obligations.Endpoints : Prop :=
  (
    let n (s : State) : Nat := s.cur.node
    let c (s : State) : Nat := s.cur.core
    (∀ f s, CanIssueE s f [.ctrl] [f.a, f.b] 0 → privileged (cc s) = true → (reg s f.a).toNat < 4096 →
      let i := (reg s f.a).toNat
      (∀ v s', readWhole (reg s f.b) 256 s = .go v s' →
        ((epOf (cn s) i).opened = false → epImageOk s v = true →
          ∃ y, exec (.epopen f) s = .next y ∧ (cs y).pc = (cs (pastE s' f)).pc ∧
            let e := epOf (cn y) i
            e.opened = true ∧ (epPlace s' (n s) i = true → e.cached = true) ∧ e.w0 = BitVec.ofNat 64 v
            ∧ e.rqBase = BitVec.ofNat 64 (v >>> 64) ∧ e.sSeq = BitVec.ofNat 32 (v >>> 224) ∧ e.rSeq = BitVec.ofNat 32 (v >>> 192)
            ∧ e.sendPend = 0 ∧ e.errCode = 0)
        ∧ ((epOf (cn s) i).opened = true ∨ epImageOk s v = false →
          exec (.epopen f) s = .next (takeTrap (keepTlb s s' (n s) (c s)) (n s) (c s) (causeHere s 0x01))))
      ∧ (∀ k s', readWhole (reg s f.b) 256 s = .fault k s' → exec (.epopen f) s = .next (takeTrap s' (n s) (c s) k))
      ∧ ∀ s', readWhole (reg s f.b) 256 s = .hold s' → exec (.epopen f) s = .next (setBlocked s))
    ∧ (∀ f s, mayIssue s = true → inHandler (cc s) = false → s.cur.seq = .ctrl → privileged (cc s) = false →
        exec (.epopen f) s = .next (takeTrap s (n s) (c s) (causeHere s 0x03))
        ∧ exec (.epclose f) s = .next (takeTrap s (n s) (c s) (causeHere s 0x03)))
    ∧ (∀ f s e, CanIssueE s f [.ctrl] [f.a] 0 → privileged (cc s) = true → epOperand s (reg s f.a) = .inr e →
      let x := disarmAll s (n s) e
      (epBusy x (n s) e = false → epFired (cn x) e = false →
        ∃ y, exec (.epclose f) s = .next y ∧ (cs y).pc = (cs (pastE s f)).pc
          ∧ (epOf (cn y) e).opened = false ∧ (epOf (cn y) e).cached = false
          ∧ ∀ a ∈ (cn y).armed, ∀ b, a.2 = some b → b.ep ≠ e)
      ∧ (epBusy x (n s) e = true ∨ epFired (cn x) e = true → exec (.epclose f) s = .next (setBlocked x)))
    ∧ (∀ f s i, CanIssueE s f [.ctrl] [f.a, f.b, f.d] 1 → epOperand s (reg s f.a) = .inr i → (reg s f.d).toNat ≤ 2 ^ 24 →
      let q := epOf (cn s) i
      (∀ x s', accessPre s (rqSlot q q.rqPost) 16 16 .w true = .go x s' →
        let dry := hbmHold s' (n s') (c s') (classOf (cc s')) (atHome x.t) 16 true
        (dry = true → exec (.mrecv f) s = .next (setBlocked s))
        ∧ (dry = false → epAvail q < epRing q →
          let e := epOf (cn s') i
          let p := begunE s' f
          let v := (reg s' f.b).toNat + (reg s' f.d).toNat * 2 ^ 64
          let w := match x.t with
            | .remote m rl off => sendStore p m rl off 16 (rqSlot e e.rqPost) (BitVec.ofNat 1024 v) false
            | t => (engWrite (coreAgent p (n p) (c p) (classOf (cc p))) t 16 v false p).2
          exec (.mrecv f) s
            = .next (flyReg (modEp (epNeed w (n w) i) (n w) i fun e => { e with rqPost := e.rqPost + 1 }) f.d
                (e.rqPost.setWidth 64) 2 (pushKey s f.tk) f.sig))
        ∧ (epRing q ≤ epAvail q → exec (.mrecv f) s = .next (setBlocked s)))
      ∧ (∀ s', accessPre s (rqSlot q q.rqPost) 16 16 .w true = .hold s' → exec (.mrecv f) s = .next (setBlocked s))
      ∧ ∀ k s', accessPre s (rqSlot q q.rqPost) 16 16 .w true = .fault k s' →
          exec (.mrecv f) s = .next (takeTrap s' (n s) (c s) k))
    ∧ ∀ f s, CanIssueE s f [.ctrl] [f.a] 1 →
      let e := epOf (cn s) (reg s f.a).toNat
      (4096 ≤ (reg s f.a).toNat → exec (.mpoll f) s = .next (takeTrap s (n s) (c s) (causeHere s 0x01)))
      ∧ ((reg s f.a).toNat < 4096 → e.opened = false ∨ epTenant e ≠ tenantOf (cc s) →
          exec (.mpoll f) s = .next (takeTrap s (n s) (c s) (causeHere s 0x06)))
      ∧ ((reg s f.a).toNat < 4096 → e.opened = true → epTenant e = tenantOf (cc s) →
          exec (.mpoll f) s
            = .next (flyReg (epNeed (begunE s f) (n s) (reg s f.a).toNat) f.d (epStatus e) 12 (pushKey s f.tk) f.sig)))
  ∧ (
    (∀ z ∈ ([(Instr.msend, .send, ⟨false, false, false⟩), (Instr.mwrite, .write, ⟨true, false, false⟩),
        (Instr.mread, .read, ⟨false, true, false⟩)] : List ((FE → Instr) × MsgOp × MsgUse)),
      ∀ f s, CanIssueE s f [.ctrl] [f.a, f.b] 1 →
        (∀ k s', msgPre f z.2.2 s = .fault k s' → exec (z.1 f) s = .next (takeTrap s' s'.cur.node s'.cur.core k))
        ∧ (∀ s', msgPre f z.2.2 s = .hold s' → exec (z.1 f) s = .next (setBlocked s))
        ∧ ∀ e x s', msgPre f z.2.2 s = .go (e, x) s' →
          ((cc s).msgq.length < 32 → (cc s).firedQ = [] →
            let q := (epOf (cn s') e).sSeq
            ∃ y m, exec (z.1 f) s = .next y ∧ (cc y).msgq = (cc s').msgq ++ [m] ∧ m.op = z.2.1 ∧ m.ep = e ∧ m.desc = x
              ∧ m.sseq = q ∧ m.sig = f.sig ∧ m.owner = taskId (cc s') ∧ m.joinId = none
              ∧ (epOf (cn y) e).sSeq = q + 1 ∧ (cs y).pc = (cs (pastE s' f)).pc)
          ∧ (32 ≤ (cc s).msgq.length ∨ (cc s).firedQ ≠ [] → exec (z.1 f) s = .next (setBlocked s)))
    ∧ (∀ z ∈ ([(Instr.tsend, false), (Instr.twrite, true)] : List ((FE → Instr) × Bool)),
      ∀ f s e x s', CanIssueE s f [.ctrl] [f.a, f.b] 1 → msgPre f ⟨z.2, false, true⟩ s = .go (e, x) s' →
        (∀ i, freeArmed (cn s) = some i → freeArmed (cn s') = some i →
          ∃ a : Armed, a.write = z.2 ∧ a.ep = e ∧ a.desc = x ∧ a.core = s'.cur.core ∧ a.count = (cc s').armCount + 1 ∧ a.fired = false
            ∧ a.owner = taskId (cc s') ∧
            let w := modNd (modCc (pastE s' f) fun k => { k with armCount := k.armCount + 1 }) s'.cur.node fun d =>
              { d with armed := smPut d.armed i (some a) }
            let t := flyReg (epNeed w s'.cur.node e) f.d (BitVec.ofNat 64 (i + ((cc s').armCount + 1).toNat * 4096)) 2 none 0
            exec (z.1 f) s = .next (if armedMet (nd t s'.cur.node) a then fireArmed t s'.cur.node i else t))
        ∧ (freeArmed (cn s) = none → exec (z.1 f) s = .next (setBlocked s)))
    ∧ (∀ s n i a, smGet (nd s n).armed none i = some a → a.fired = false → cancelled (nd s n) a.tenant a.gin = false →
        (co s n a.core).msgq.length < 32 → (co s n a.core).firedQ = [] →
        let q := (epOf (nd s n) a.ep).sSeq
        let y := fireArmed s n i
        (co y n a.core).msgq = (co s n a.core).msgq ++ [firedEntry a q] ∧ (nd y n).armed = smDel (nd s n).armed i
        ∧ (epOf (nd y n) a.ep).sSeq = q + 1)
    ∧ ∀ f s, CanIssueE s f [.ctrl] [f.a] 1 →
      let v := reg s f.a
      (2 ^ 32 ≤ v.toNat → exec (.tdisarm f) s = .next (takeTrap s s.cur.node s.cur.core (causeHere s 0x01)))
      ∧ (v.toNat < 2 ^ 32 → exec (.tdisarm f) s
          = .next (later (flyReg (begunE s f) f.d 0 2 (pushKey s f.tk) f.sig) (.tdisarm s.cur.node s.cur.core v f.d)))
      ∧ ∀ n c d w, let y := lateDisarm s n c w d
          (smGet (nd s n).armed none (fld w 11 0) = none → y = s)
          ∧ ∀ a, smGet (nd s n).armed none (fld w 11 0) = some a →
            (a.fired = true ∨ a.count.toNat ≠ fld w 31 12 ∨ a.tenant ≠ tenantOf (co s n c) → y = s)
            ∧ (a.fired = false → a.count.toNat = fld w 31 12 → a.tenant = tenantOf (co s n c) →
                (nd y n).armed = smDel (nd s n).armed (fld w 11 0)
                ∧ (co y n c).inflight = (co s n c).inflight.map fun r => if r.dest == .sreg .ctrl d then { r with val := 1 } else r))

/-- A message leaves its core (R308 to R310, R313): a fired operation that waited enters the queue; the head entry waits for
its endpoint's context, reads its bytes as a load does, is captured where the retransmit store has room, and sets out,
kept until its answer; a cancelled one is dropped; a lost peer fails it. What an answer does at the sender (R301, R308,
R309): an acknowledgement or a read's reply ends its message; a not-ready answer counts and holds it and what was sent
after it until its retry frame, which sends it again with its number; a refusal, a lost peer or 10 frames without a reply
ends it with the code of its endpoint's first failure. That the not-ready count is the sender's, and that an answer
exactly at a frame boundary counts its frames from that boundary, is the model's reading (DEDUCED, log 22). Of each of
these it says which next state it answers, under conditions on the state and the operands alone: messageInjection,
firedEnqueue, readReplyArrival, receiverNotReady, messageRetry, messageAck, messageRefused, messagePeergone. -/
def Obligations.Messages : Prop :=
  (
    (∀ s n c i r a, (co s n c).firedQ = i :: r → (co s n c).msgq.length < 32 → smGet (nd s n).armed none i = some a →
      ∃ y, exec (.firedEnqueue n c) s = .next y ∧ (co y n c).firedQ = r ∧ (co y n c).msgq = (co s n c).msgq ++ [firedEntry a a.sseq]
        ∧ (nd y n).armed = smDel (nd s n).armed i)
    ∧ ∀ s n c e, messageDue s n c = true → msgHead (co s n c) = some e →
      let x := epOf (nd s n) e.ep
      let gone := cancelled (nd s n) e.tenant e.gin
      (gone = true → ∃ y, exec (.messageInjection n c) s = .next y ∧ (nd y n).outMsgs = (nd s n).outMsgs)
      ∧ (gone = false → x.cached = false → ∃ y, exec (.messageInjection n c) s = .next y
          ∧ (epOf (nd y n) e.ep).fetching = true ∧ (s.now + Config.latEndpoint, Instr.endpointFetch n e.ep) ∈ y.timers)
      ∧ (gone = false → x.cached = true →
          let len := dscLen e.desc
          let own := ownAgent s n c e.tenant e.owner e.root e.asid e.cls
          ∀ b s', (if e.op = .read then (.bytes [] [], s) else engLoad own (dscLaddr e.desc) (len / 128 + 3) 0 len [] [] s) = (b, s') →
          let old := (epOf (nd s' n) e.ep).errCode
          (b = .wait → exec (.messageInjection n c) s = .next s)
          ∧ (∀ code va, b = .fault code va → ∃ y, exec (.messageInjection n c) s = .next y ∧ outOf (nd y n) e.ep e.sseq = none
              ∧ (epOf (nd y n) e.ep).errCode = if old = 0 then code else old)
          ∧ ∀ bs ps, b = .bytes bs ps →
            (isLost s' n (epPeer x) = true → ∃ y, exec (.messageInjection n c) s = .next y
              ∧ outOf (nd y n) e.ep e.sseq = none ∧ (epOf (nd y n) e.ep).errCode = if old = 0 then 0x0E else old)
            ∧ (isLost s' n (epPeer x) = false → ∃ y, exec (.messageInjection n c) s = .next y
              ∧ (∃ o ∈ (nd y n).outMsgs, o.msg.op = e.op ∧ o.msg.ep = e.ep ∧ o.msg.sseq = e.sseq ∧ o.msg.dst = epPeer x
                  ∧ o.msg.len = len ∧ o.msg.poison = ps ∧ o.msg.raddr = dscRaddr e.desc
                  ∧ (let fits := e.op ≠ .read ∧ len ≤ retransmitFree (nd s' n)
                     (o.done = true ↔ fits) ∧ (¬ fits → o.msg.data = bs ∧ o.capt = [])
                     ∧ (fits → o.capt = takeRuns len (freeRunsFrom 0 (captures (nd s' n))))))
              ∧ (shutterTakes s' n e.tenant (epPeer x) = false → ∃ w i, w.ep = e.ep ∧ w.sseq = e.sseq ∧ w.dst = epPeer x
                  ∧ i = (match e.op with
                    | .send => Instr.messageArrival w.dst w
                    | .write => .remoteWriteArrival w.dst w
                    | .read => .remoteReadRequest w.dst w)
                  ∧ underWay y n (epPeer x) i = true))))
  ∧ (
    (∀ s n i q o, outOf (nd s n) i q = some o →
      (∃ y, exec (.messageAck n i q) s = .next y ∧ outOf (nd y n) i q = none ∧ (epOf (nd y n) i).errCode = (epOf (nd s n) i).errCode)
      ∧ (∀ code, ∃ y, exec (.messageRefused n i q code) s = .next y ∧ outOf (nd y n) i q = none
          ∧ (epOf (nd y n) i).errCode = if (epOf (nd s n) i).errCode = 0 then code else (epOf (nd s n) i).errCode)
      ∧ (isLost s n o.msg.dst = true → ∃ y, exec (.messagePeergone n i q) s = .next y ∧ outOf (nd y n) i q = none
          ∧ (epOf (nd y n) i).errCode = if (epOf (nd s n) i).errCode = 0 then 0x0E else (epOf (nd s n) i).errCode)
      ∧ (isLost s n o.msg.dst = false → (o.held = 0 ∨ o.held = 2) → o.sent + 10 * Config.frameCc ≤ s.now →
          (∀ p ∈ waitingPackets (nd s n), ∀ w, msgOfEvent p.what = some w → ¬ (p.src = n ∧ w.ep = i ∧ w.sseq = q)) →
          ∃ y, exec (.messagePeergone n i q) s = .next y ∧ outOf (nd y n) i q = none
          ∧ (epOf (nd y n) i).errCode = if (epOf (nd s n) i).errCode = 0 then 0x0E else (epOf (nd s n) i).errCode)
      ∧ (isLost s n o.msg.dst = false → s.now < o.sent + 10 * Config.frameCc → exec (.messagePeergone n i q) s = .next s)
      ∧ ∀ k, o.held ≠ 3 → ∃ y x, exec (.receiverNotReady n i q k) s = .next y ∧ outOf (nd y n) i q = some x ∧ x.held = 1
          ∧ x.due = (gscCc s n + Config.frameCc - 1) / Config.frameCc + k ∧ x.msg = o.msg ∧ epHeld (nd y n) i = true
          ∧ (epOf (nd y n) i).rnrCnt = min ((epOf (nd s n) i).rnrCnt + 1) 65535)
    ∧ (∀ s n i q, outOf (nd s n) i q = none →
        exec (.messageAck n i q) s = .next s ∧ (∀ code, exec (.messageRefused n i q code) s = .next s)
        ∧ exec (.messagePeergone n i q) s = .next s ∧ ∀ k, exec (.receiverNotReady n i q k) s = .next s)
    ∧ (∀ s n m o s' p, outOf (nd s n) m.ep m.sseq = some o →
        engStore { ownAgent s n o.core o.msg.tenant o.owner o.root o.asid o.cls with begun := true } m.laddr m.poison
          (m.len / 128 + 3) 0 m.data s = (p, s') →
        ∃ y, exec (.readReplyArrival n m) s = .next y ∧ outOf (nd y n) m.ep m.sseq = none
          ∧ (p = none → (epOf (nd y n) m.ep).errCode = (epOf (nd s' n) m.ep).errCode)
          ∧ ∀ f, p = some f → (epOf (nd s' n) m.ep).errCode = 0 → (epOf (nd y n) m.ep).errCode = f.1)
    ∧ ∀ s n i o, retryDue s n i = some o →
        ∃ y, exec (.messageRetry n i) s = .next y
          ∧ (∀ x ∈ (nd y n).outMsgs, x.msg.ep = i → x.msg.sseq = o.msg.sseq → x.held ≠ 1)
          ∧ (shutterTakes s n o.msg.tenant o.msg.dst = false → ∃ w j, w.ep = i ∧ w.sseq = o.msg.sseq ∧ w.dst = o.msg.dst
              ∧ j = (match o.msg.op with
                | .send => Instr.messageArrival w.dst w
                | .write => .remoteWriteArrival w.dst w
                | .read => .remoteReadRequest w.dst w)
              ∧ underWay y n o.msg.dst j = true))

/-- What a peer does with a message (R301, R302, R305 to R307, R309): a closed endpoint or another tenant's refuses it PERM;
one whose context is not cached keeps it until the fetch; a send without a posted buffer is answered not-ready, one with a
buffer is written to it; a write whose pages are there is performed, a read answered; and the next number is then awaited.
That a message behind one answered not-ready is dropped here, to be sent again after it, and that answers and a read's
reply take the way of R318 or of a send queue, is the model's reading (DEDUCED, log 22). Of each of these it says which
next state it answers, under conditions on the state and the operands alone: messageArrival, remoteWriteArrival,
remoteReadRequest, endpointFetch. -/
def Obligations.MessageArrivals : Prop :=
  (∀ z ∈ ([(Instr.messageArrival, .send), (Instr.remoteWriteArrival, .write), (Instr.remoteReadRequest, .read)]
      : List ((Nat → Msg → Instr) × MsgOp)), ∀ n m s, m.op = z.2 →
    let e := epOf (nd s n) m.peer
    (e.opened = false ∨ epTenant e ≠ m.tenant →
      exec (z.1 n m) s = .next (launch s n m.tenant m.src 0 (.messageRefused m.src m.ep m.sseq 0x06)))
    ∧ (e.opened = true → epTenant e = m.tenant →
      (∀ q, e.rnrAt = some q → seqEarlier q m.sseq = true → exec (z.1 n m) s = .next s)
      ∧ ((∀ q, e.rnrAt = some q → seqEarlier q m.sseq = false) → e.cached = false →
        (missCount (nd s n) < 256 → ∃ y, exec (z.1 n m) s = .next y
          ∧ (epOf (nd y n) m.peer).miss = e.miss ++ [m] ∧ (epOf (nd y n) m.peer).fetching = true)
        ∧ (256 ≤ missCount (nd s n) → exec (z.1 n m) s = .next (notReady s n m 1)))))
  ∧ (∀ s n m k, let y := notReady s n m k
      (shutterTakes s n m.tenant m.src = false → underWay y n m.src (.receiverNotReady m.src m.ep m.sseq k) = true)
      ∧ (epOf (nd y n) m.peer).rnrAt = some (match (epOf (nd s n) m.peer).rnrAt with
          | some p => if seqEarlier m.sseq p then m.sseq else p
          | none => m.sseq)
      ∧ (epOf (nd y n) m.peer).rSeq = (epOf (nd s n) m.peer).rSeq)
  ∧ (∀ n m s,
    let e := epOf (nd s n) m.peer
    e.opened = true → e.cached = true → epTenant e = m.tenant → (∀ q, e.rnrAt = some q → seqEarlier q m.sseq = false) →
    let x := modEp s n m.peer fun e => { e with used := s.now }
    let a := peerAgent (nd s n) n m
    (m.op = .send → epAvail e = 0 → exec (.messageArrival n m) s = .next (notReady x n m 2))
    ∧ (m.op = .send → epAvail e ≠ 0 → rctrBad s n m = true → exec (.messageArrival n m) s = .next (refused x n m 0x06))
    ∧ (∀ s1 bs s2 s3, m.op = .send → epAvail e ≠ 0 → rctrBad s n m = false →
        let va := rqSlot e e.rqTake
        let blen := bitsOf (bytesVal bs) 95 64
        let take := min m.len blen
        let buf : Word := BitVec.ofNat 64 (bytesVal bs)
        let res := m.len + (if blen < m.len then 2 ^ 30 else 0) + 2 ^ 31
        engPages a .w false 2 va 16 x = (none, s1) → engLoad a va 3 0 16 [] [] s1 = (.bytes bs [], s2) →
        engPages a .w false 2050 buf take s2 = (none, s3) →
        exec (.messageArrival n m) s
          = .next (performed (takeDone (engStore a (va + 12) [] 3 0 (valBytes 4 res)
              (engStore a buf m.poison (take / 128 + 3) 0 (m.data.take take) s3).2).2 n m) n m))
    ∧ (∀ s', m.op = .write → m.raddr.toNat < 2 ^ 60 → engPages a .w true 2050 m.raddr m.len x = (none, s') →
      (rctrBad s' n m = false →
        exec (.remoteWriteArrival n m) s
          = .next (performed (engStore a m.raddr m.poison (m.len / 128 + 3) 0 m.data s').2 n m))
      ∧ (rctrBad s' n m = true → exec (.remoteWriteArrival n m) s = .next (refused s' n m 0x06)))
    ∧ ∀ s' s'' bs ps, m.op = .read → m.raddr.toNat < 2 ^ 60 → engPages a .r true 2050 m.raddr m.len x = (none, s') →
      engLoad a m.raddr (m.len / 128 + 3) 0 m.len [] [] s' = (.bytes bs ps, s'') →
      exec (.remoteReadRequest n m) s
        = .next (launch (performed s'' n m) n m.tenant m.src m.len
            (.readReplyArrival m.src { m with data := bs, poison := ps })))
  ∧ (∀ s n m, let y := performed s n m
      (epOf (nd y n) m.peer).rSeq = m.sseq + 1
      ∧ (∀ q, (epOf (nd y n) m.peer).rnrAt = some q ↔ (epOf (nd s n) m.peer).rnrAt = some q ∧ seqEarlier m.sseq q = true)
      ∧ (m.op ≠ .read → shutterTakes s n m.tenant m.src = false →
          underWay y n m.src (.messageAck m.src m.ep m.sseq) = true))
  ∧ ∀ s n i, (epOf (nd s n) i).fetching = true →
      (epPlace s n i = true → ∃ y, exec (.endpointFetch n i) s = .next y
        ∧ (epOf (nd y n) i).cached = true ∧ (epOf (nd y n) i).fetching = false ∧ (epOf (nd y n) i).miss = [])
      ∧ (epPlace s n i = false → exec (.endpointFetch n i) s = .next (schedule s 1 (.endpointFetch n i)))

/-! Leases and the shutter. -/

/-- The lease instructions (R334 to R338): without EN they fault PERM; LEASE places a pending request in the lowest free entry
and tells its line's arbiter; LREL gives back, and frees an entry that is pending or refused; LQRY and LWAIT read an
entry's status, LWAIT once it is ready; a handle of another tenant faults PERM. What an arbiter decides (R319, R322 to
R324): a request for which enough indices are free on its whole circuit gets exactly its count of them, joining at the
next boundary, and none of them is in use on any segment of the circuit; one for which free and revocable ones reach its
minimum gets all the free ones at the next boundary and the first of the revocable ones at the boundary after, which leave
their holders then; one for which they do not waits, or is refused once it is aged. A message of a node is noted, and a
decision is entered at the node that asked, without the indices that have left use since. Of each of these it says which
next state it answers, under conditions on the state and the operands alone: lease, lrel, lqry, lwait, leaseCtlArrival,
leaseDecisionArrival. -/
def Obligations.Leases : Prop :=
  (
    let n (s : State) : Nat := s.cur.node
    let trap (s : State) (code : Nat) : Out := .next (takeTrap s s.cur.node s.cur.core (causeHere s code))
    let out (s : State) (f : FE) (w : Word) : Out :=
      .next (flyReg (readStatus (begunE s f) (reg s f.a)) f.d w 12 (pushKey s f.tk) f.sig)
    (∀ i ∈ ([Instr.lease, Instr.lrel, Instr.lqry, Instr.lwait, Instr.shutw, Instr.shutgo] : List (FE → Instr)), ∀ f s,
      CanIssueE s f [.ctrl] [f.a, f.b] 1 → leaseEn (leaseWord s) = false → exec (i f) s = trap s 0x06)
    ∧ (∀ f s, CanIssueE s f [.ctrl] [f.a] 1 → leaseEn (leaseWord s) = true →
      (leaseRequest s (reg s f.a) = none → exec (.lease f) s = trap s 0x01)
      ∧ (∀ l, leaseRequest s (reg s f.a) = some l → l.timed = true → leaseShut (leaseWord s) = false →
          exec (.lease f) s = trap s 0x06)
      ∧ ∀ l, leaseRequest s (reg s f.a) = some l → (l.timed = true → leaseShut (leaseWord s) = true) →
        (∀ i, freeLease (cn s) = some i →
          let serial := ((cn s).leaseCnt + 1) % 2 ^ 24
          let arb := arbiterOf (n s) l.dim
          ∃ y e, exec (.lease f) s = .next y ∧ smGet (cn y).leases none i = some e ∧ e.state = 0 ∧ e.serial = serial
            ∧ e.tenant = l.tenant ∧ e.held = 0 ∧ (cs y).pc = (cs (begunE s f)).pc
            ∧ underWay y (n s) arb (.leaseCtlArrival arb { l with entry := i, serial := serial }) = true)
        ∧ (freeLease (cn s) = none → exec (.lease f) s = .next (setBlocked s)))
    ∧ (∀ f s, CanIssueE s f [.ctrl] [f.a, f.b] 0 → leaseEn (leaseWord s) = true →
      let v := reg s f.a
      let p := pastE s f
      let k := (reg s f.b).toNat
      (640 < k → exec (.lrel f) s = trap s 0x01)
      ∧ (k ≤ 640 → foreignHandle s v = true → exec (.lrel f) s = trap s 0x06)
      ∧ (k ≤ 640 → handleEntry s v = none → exec (.lrel f) s = .next (signal p f.sig))
      ∧ ∀ e, k ≤ 640 → foreignHandle s v = false → handleEntry s v = some e →
        (e.state = 0 → exec (.lrel f) s
          = .next (signal (tellArbiter (freeEntry p v) { e.req with release := true, count := 0 }) f.sig))
        ∧ (e.state = 3 → exec (.lrel f) s = .next (signal (freeEntry p v) f.sig))
        ∧ (e.state ≠ 0 → e.state ≠ 3 → exec (.lrel f) s
          = .next (signal (tellArbiter p { e.req with release := true, count := k }) f.sig)))
    ∧ (∀ f s, CanIssueE s f [.ctrl] [f.a, f.b] 1 → leaseEn (leaseWord s) = true →
      let v := reg s f.a
      (reg s f.b = 0 → foreignHandle s v = false → exec (.lqry f) s = out s f (leaseStatus (handleEntry s v)))
      ∧ (reg s f.b = 0 → foreignHandle s v = true → exec (.lqry f) s = trap s 0x06)
      ∧ (reg s f.b = 1 → 5 < v.toNat → exec (.lqry f) s = trap s 0x01)
      ∧ (reg s f.b = 2 → v ≠ 0 → exec (.lqry f) s = trap s 0x01)
      ∧ (reg s f.b = 1 → v.toNat ≤ 5 →
          exec (.lqry f) s = .next (flyReg (begunE s f) f.d (BitVec.ofNat 64 (smGet (cn s).pools 0 v.toNat)) 12 (pushKey s f.tk) f.sig))
      ∧ (reg s f.b = 2 → v = 0 → exec (.lqry f) s = .next (flyReg (begunE s f) f.d (leaseWord s) 12 (pushKey s f.tk) f.sig))
      ∧ (2 < (reg s f.b).toNat → exec (.lqry f) s = trap s 0x01))
    ∧ ∀ f s, CanIssueE s f [.ctrl] [f.a] 1 → leaseEn (leaseWord s) = true →
      let v := reg s f.a
      (foreignHandle s v = true → exec (.lwait f) s = trap s 0x06)
      ∧ (foreignHandle s v = false → leaseReady (handleEntry s v) = true →
          exec (.lwait f) s = out s f (leaseStatus (handleEntry s v)))
      ∧ (foreignHandle s v = false → leaseReady (handleEntry s v) = false → exec (.lwait f) s = .next (setBlocked s)))
  ∧ (
    (∀ ext guar f t r, r.count ≤ 640 →
      let u := freeAlong ext t r.plus r.lo r.hops
      let y := decideOne ext guar f t r
      (r.count ≤ idxCount u → ∃ h, y.1.holdings = t.holdings ++ [h] ∧ y.2 = false ∧ h.tenant = some r.tenant ∧ h.src = r.src
          ∧ h.serial = r.serial ∧ h.plus = r.plus ∧ h.lo = r.lo ∧ h.hops = r.hops ∧ h.idx = 0 ∧ h.join2 = 0
          ∧ idxCount h.join1 = r.count
          ∧ (∀ i, bit h.join1 i = true → ∀ seg ∈ segsOf ext r.lo r.hops r.plus, bit (freeOn ext t r.plus seg) i = true)
          ∧ y.1.requests = t.requests.filter fun x => !sameReq x r)
      ∧ (idxCount u < r.count → idxCount u + (revocable ext guar t r (isAged r f) u).length < r.min →
          y.1.holdings = t.holdings ∧ y.2 = isAged r f
          ∧ (isAged r f = false → y.1 = t))
      ∧ (let v := revocable ext guar t r (isAged r f) u
         let take := v.take (r.count - idxCount u)
         idxCount u < r.count → r.min ≤ idxCount u + v.length →
          y.2 = false ∧ y.1.requests = (t.requests.filter fun x => !sameReq x r) ∧ y.1.holdings.length = t.holdings.length + 1
          ∧ (∃ h, y.1.holdings.getLast? = some h ∧ h.tenant = some r.tenant ∧ h.src = r.src ∧ h.serial = r.serial ∧ h.idx = 0
              ∧ h.join1 = u ∧ ∀ i, i < 640 → (bit h.join2 i = true ↔ ∃ x ∈ take, x.1 = i))
          ∧ ∀ k, k < t.holdings.length →
              let a := nth t.holdings k default
              let b := nth y.1.holdings k default
              b.tenant = a.tenant ∧ b.idx = a.idx ∧ b.join1 = a.join1 ∧ b.rev1 = a.rev1
              ∧ ∀ i, i < 640 → (bit b.rev2 i = true ↔ bit a.rev2 i = true ∨ ∃ x ∈ take, x.1 = i ∧ k ∈ x.2)))
    ∧ (∀ s n l, ∃ y, exec (.leaseCtlArrival n l) s = .next y
        ∧ (l.release = false → (lineOf y n l.dim).requests = (lineOf s n l.dim).requests ++ [l]
            ∧ (lineOf y n l.dim).holdings = (lineOf s n l.dim).holdings)
        ∧ (l.release = true → (lineOf y n l.dim).releases = (lineOf s n l.dim).releases ++ [l]
            ∧ (lineOf y n l.dim).requests = (lineOf s n l.dim).requests.filter fun r => !sameReq r l))
    ∧ ∀ s n d,
        (∀ e, smGet (nd s n).leases none d.entry = some e → e.serial = d.serial →
          ∃ y x, exec (.leaseDecisionArrival n d) s = .next y ∧ smGet (nd y n).leases none d.entry = some x
            ∧ x.held = e.held ∧ x.state = (if d.state = 3 then 3 else 1)
            ∧ (d.state ≠ 3 → x.next = d.mask1 &&& ~~~(goneOn s n e.req) ∧ x.eff1 = d.frame1
                ∧ x.after = d.mask2 &&& ~~~(goneOn s n e.req) ∧ x.eff2 = d.frame2 ∧ x.ends = d.ends))
        ∧ ((∀ e, smGet (nd s n).leases none d.entry = some e → e.serial ≠ d.serial) →
          exec (.leaseDecisionArrival n d) s = .next s))

/-- The shutter table (R327, R328, R339, R340): SHUTW writes a slot of the shadow copy, which makes its tenant the owner;
SHUTGO schedules rotations or stops them; at their step the shadow is loaded and the rotations run; an illegal slot or
operand faults ILLEGAL, another owner or SHUT clear PERM. Of each of these it says which next state it answers, under
conditions on the state and the operands alone: shutterRotationStart, shutterSlot, shutw, shutgo. -/
def Obligations.ShutterTable : Prop :=
  let n (s : State) : Nat := s.cur.node
  let trap (s : State) (code : Nat) : Out := .next (takeTrap s s.cur.node s.cur.core (causeHere s code))
  (∀ f s, CanIssueE s f [.ctrl] [f.a, f.b] 1 → leaseEn (leaseWord s) = true →
    let b := reg s f.b
    let legal := (reg s f.a).toNat < 16 ∧ 1250 ≤ slotDur b ∧ fld b 47 25 = 0 ∧ ∀ d, d < 6 → slotDist b d ≠ 0 → hasLink s d = true
    (leaseShut (leaseWord s) = false → exec (.shutw f) s = trap s 0x06 ∧ exec (.shutgo f) s = trap s 0x06)
    ∧ (leaseShut (leaseWord s) = true → ¬ legal → exec (.shutw f) s = trap s 0x01)
    ∧ (leaseShut (leaseWord s) = true → legal → shutterMine s = false → exec (.shutw f) s = trap s 0x06)
    ∧ (leaseShut (leaseWord s) = true → legal → shutterMine s = true →
        exec (.shutw f) s = .next (signal (modSh (pastE s f) (n s) fun x =>
          { x with owner := some (tenantOf (cc s)), shadow := smPut x.shadow (reg s f.a).toNat b, last := frameOf s (n s) }) f.sig)))
  ∧ (∀ f s, CanIssueE s f [.ctrl] [f.a, f.b] 1 → leaseEn (leaseWord s) = true → leaseShut (leaseWord s) = true →
    let b := reg s f.b
    let bad := fld b 63 17 ≠ 0 ∨ (bit b 16 = true ∧ (reg s f.a ≠ 0 ∨ fld b 15 0 ≠ 0))
    (bad → exec (.shutgo f) s = trap s 0x01)
    ∧ (¬ bad → shutterMine s = false → exec (.shutgo f) s = trap s 0x06))
  ∧ (∀ f s, CanIssueE s f [.ctrl] [f.a, f.b] 1 → leaseEn (leaseWord s) = true → leaseShut (leaseWord s) = true →
    shutterMine s = true →
    let b := reg s f.b
    let sh := (cn s).shutter
    (b = 0x10000 → reg s f.a = 0 →
      exec (.shutgo f) s = .next (flyReg (if sh.owner.isNone then begunE s f
        else shutterEnd (modSh (begunE s f) (n s) fun y => { y with last := frameOf s (n s) }) (n s)) f.d 0 12 (pushKey s f.tk) f.sig))
    ∧ (b.toNat < 2 ^ 16 → slotDur (smGet sh.shadow 0 0) ≠ 0 →
        ∃ y t, exec (.shutgo f) s = .next y ∧ (cn y).shutter.runs = sh.runs ++ [(t, b.toNat)]
          ∧ (sh.started = none → t = (reg s f.a).toNat) ∧ (reg s f.a).toNat ≤ t
          ∧ (s.now + stepDelay s (n s) t, Instr.shutterRotationStart (n s)) ∈ y.timers)
    ∧ (b.toNat < 2 ^ 16 → slotDur (smGet sh.shadow 0 0) = 0 → exec (.shutgo f) s = trap s 0x01))
  ∧ (∀ s m,
      let x := (nd s m).shutter
      (∀ r l, takeFirst (fun r : Nat × Nat => decide (r.1 ≤ gsc s m)) x.runs = some (r, l) →
        (∀ e, runEnd { x with active := x.shadow, started := some r } = some e → gsc s m < e) →
        ∃ y, exec (.shutterRotationStart m) s = .next y ∧ (nd y m).shutter.started = some r
          ∧ (nd y m).shutter.active = x.shadow ∧ (nd y m).shutter.runs = l ∧ (nd y m).shutter.owner = x.owner)
      ∧ (x.runs = [] → exec (.shutterRotationStart m) s = .next s)
      ∧ ∀ r l, x.runs = r :: l → takeFirst (fun r : Nat × Nat => decide (r.1 ≤ gsc s m)) x.runs = none →
          exec (.shutterRotationStart m) s = .next (schedule s (max 1 (stepDelay s m r.1)) (.shutterRotationStart m)))
  ∧ ∀ s m,
      let x := (nd s m).shutter
      (x.started = none → exec (.shutterSlot m) s = .next s)
      ∧ (x.started ≠ none → x.runs = [] → (∀ e, runEnd x = some e → gsc s m < e) →
          ∃ y, exec (.shutterSlot m) s = .next y ∧ (nd y m).shutter.started = x.started ∧ (nd y m).shutter.owner = x.owner)
      ∧ (x.runs = [] → ∀ e, runEnd x = some e → e ≤ gsc s m →
          ∃ y, exec (.shutterSlot m) s = .next y ∧ (nd y m).shutter.started = none ∧ (nd y m).shutter.owner = none)

/-! Collectives. -/

/-- COMMDEF, CTSET, CTREADY, CTWAIT and CTDROP (R342, R360 to R364): S[D] follows their retirement by 2 cc; COMMDEF stands at
issue for the cycles that R361 gives with 'about', which the model takes exactly (log 7), and what its checks let through
defines a communicator; CTSET sets an entry, CTREADY makes it READY behind the joins of the collective queue, CTWAIT waits
until it is neither READY nor RUNNING and reads its status, and CTDROP drops it; an operand above its table faults
ILLEGAL, an illegal descriptor, image or entry too. The collective engine (R351, R352, R354, R356, R357): entries of a
collective start together; a leader's next chunk takes its slots, grants its partners and starts its clock, one whose
reads had to wait being read first; a grant lets a partial go up and is held where it comes early; a chunk that no entry
expects fails its sender; an entry with every chunk done is DONE; an abort ends an entry, and a partner that is lost or
has been silent for 10 frames fails it. That a grant held early keeps its collective's identity, that a chunk is
acknowledged in the cc of its arrival, and that an abort names the entry alone, is the model's reading (DEDUCED, log 23).
Of each of these it says which next state it answers, under conditions on the state and the operands alone: commdef,
ctset, ctready, ctwait, ctdrop, collectiveStart, chunkReserve, chunkGrant, chunkArrival, chunkSweep, collEntryDone,
collectiveAbort, collectivePeergone. -/
def Obligations.Collectives : Prop :=
  (
    let n (s : State) : Nat := s.cur.node
    let c (s : State) : Nat := s.cur.core
    let trap (s : State) (code : Nat) : Out := .next (takeTrap s s.cur.node s.cur.core (causeHere s code))
    (∀ f s t, CanIssueE s f [.ctrl] [f.a, f.b] 1 → (cc s).commWait = some t → coreCyc s (n s) (c s) < t →
      exec (.commdef f) s = .next (setBlocked s))
    ∧ (∀ f s, CanIssueE s f [.ctrl] [f.a, f.b] 1 → (∀ t, (cc s).commWait = some t → t ≤ coreCyc s (n s) (c s)) →
      let slot := (reg s f.b).toNat
      (64 ≤ slot → exec (.commdef f) s = trap s 0x01)
      ∧ (slot < 64 → (reg s f.a).toNat % 64 ≠ 0 →
          exec (.commdef f) s = .next (takeTrap s (n s) (c s) (causeAt s 0x04 (reg s f.a))))
      ∧ (∀ s', slot < 64 → (reg s f.a).toNat % 64 = 0 → readDesc (reg s f.a) s = .hold s' →
          exec (.commdef f) s = .next (setBlocked s))
      ∧ (∀ k s', slot < 64 → (reg s f.a).toNat % 64 = 0 → readDesc (reg s f.a) s = .fault k s' →
          exec (.commdef f) s = .next (takeTrap (keepTlb s s' (n s) (c s)) (n s) (c s) k))
      ∧ ∀ bs s', slot < 64 → (reg s f.a).toNat % 64 = 0 → readDesc (reg s f.a) s = .go bs s' →
        let bad (code : Nat) : Prop := exec (.commdef f) s = .next (takeTrap (keepTlb s s' (n s) (c s)) (n s) (c s) (causeHere s code))
        (parseComm s (tenantOf (cc s)) bs = none → bad 0x01)
        ∧ ∀ x, parseComm s (tenantOf (cc s)) bs = some x →
          (∀ old, commOf (cn s) slot = some old → commIdle (cn s) slot = false →
            (old.owner ≠ x.owner → bad 0x06) ∧ (old.owner = x.owner → old.ident ≠ x.ident → bad 0x01))
          ∧ (commIdle (cn s) slot = true ∨ (∀ old, commOf (cn s) slot = some old → old.owner = x.owner ∧ old.ident = x.ident) →
            ((cc s).commWait = none → exec (.commdef f) s
              = .next (setBlocked (modCc s fun k => { k with commWait := some (coreCyc s (n s) (c s) + (8 + x.nr / 16) - 1) })))
            ∧ ((cc s).commWait ≠ none →
              let y := modCn (pastE s' f) fun d => { d with comms := smPut d.comms slot (some x) }
              exec (.commdef f) s
                = .next (flyReg (signal (modCc y fun k => { k with commWait := none }) f.sig) f.d x.ident 2 none 0))))
    ∧ (∀ f s e, CanIssueE s f [.ctrl] [f.a, f.b] 0 → tileOperand s (reg s f.a) = .inr e →
      ∀ v s', readWhole (reg s f.b) 64 s = .go v s' →
      let x : BitVec 512 := BitVec.ofNat 512 v
      let st := (tileOf (cn s) e).state
      let bad (k : Cause) : Prop := exec (.ctset f) s = .next (takeTrap (keepTlb s s' (n s) (c s)) (n s) (c s) k)
      let legal := st ≠ 2 ∧ st ≠ 3 ∧ tileLegal s x = true
      let lsrc : Word := BitVec.ofNat 64 (fld x 351 288)
      let raddr : Word := BitVec.ofNat 64 (fld x 415 352)
      (¬ legal → bad (causeHere s 0x01))
      ∧ (legal → lsrc.toNat % 128 ≠ 0 → bad (causeAt s 0x04 lsrc))
      ∧ (legal → lsrc.toNat % 128 = 0 → raddr.toNat % 128 ≠ 0 → bad (causeAt s 0x04 raddr))
      ∧ (legal → lsrc.toNat % 128 = 0 → raddr.toNat % 128 = 0 →
          ∃ y, exec (.ctset f) s = .next y ∧ (cs y).pc = (cs (pastE s' f)).pc ∧
            let t := tileOf (cn y) e
            t.img = x ∧ t.state = 1 ∧ t.tenant = tenantOf (cc s') ∧ t.gin = ginOf (cc s') ∧ t.cdone = 0 ∧ t.runs = []))
    ∧ (∀ f s e, CanIssueE s f [.ctrl] [f.a] 0 → tileOperand s (reg s f.a) = .inr e →
      (readyLegal s e = false → exec (.ctready f) s = trap s 0x01)
      ∧ (readyLegal s e = true → collRoom (cc s) = true → blksDone s (n s) (c s) s.cur.seq = true →
          acked s (n s) (c s) s.cur.seq 3 = true → (∀ q ∈ (cc s).collq, q.joinId = none) →
          ∃ y q, exec (.ctready f) s = .next y ∧ q ∈ (cc y).collq ∧ q.entry = e ∧ q.done = false ∧ q.waiting = false
            ∧ (tileOf (cn y) e).state = 2 ∧ (tileOf (cn y) e).owner = taskId (cc s) ∧ (tileOf (cn y) e).core = c s)
      ∧ (readyLegal s e = true → collRoom (cc s) = false → exec (.ctready f) s = .next (setBlocked s)))
    ∧ (∀ f s e, CanIssueE s f [.ctrl] [f.a] 1 → tileOperand s (reg s f.a) = .inr e →
      let t := tileOf (cn s) e
      let b := pastE s f
      (t.state = 2 ∨ t.state = 3 → exec (.ctwait f) s = .next (setBlocked s))
      ∧ (t.state ≠ 2 → t.state ≠ 3 → exec (.ctwait f) s
          = .next (flyReg (signal (if t.state = 4 then acquireL1 b (n s) (c s) 3 true else b) f.sig) f.d (tileStatus t) 2 none 0))
      ∧ ∃ y, exec (.ctdrop f) s = .next (flyReg (signal y f.sig) f.d (BitVec.ofNat 64 t.state) 2 none 0)
          ∧ (t.state = 1 → (tileOf (cn y) e).state = 0)
          ∧ (t.state = 2 ∨ t.state = 3 → (tileOf (cn y) e).state = 6)
          ∧ (t.state ≠ 1 → t.state ≠ 2 → t.state ≠ 3 → y = b))
    ∧ ∀ f s code, CanIssueE s f [.ctrl] [f.a, f.b] 1 → tileOperand s (reg s f.a) = .inl code →
        exec (.ctset f) s = trap s code ∧ exec (.ctready f) s = trap s code ∧ exec (.ctwait f) s = trap s code
        ∧ exec (.ctdrop f) s = trap s code)
  ∧ (
    (∀ s n e, (collStartDue (nd s n) n e = false → exec (.collectiveStart n e) s = .next s)
      ∧ (collStartDue (nd s n) n e = true → (nd s n).lost = [] →
          ∃ y, exec (.collectiveStart n e) s = .next y ∧
            let t := tileOf (nd y n) e
            t.state = 3 ∧ t.nextK = 0 ∧ t.cdone = 0 ∧ t.img = (tileOf (nd s n) e).img))
    ∧ (∀ s n e, (reserveDue (nd s n) e = false → exec (.chunkReserve n e) s = .next s)
      ∧ (∀ k, unreadRun (nd s n) (tileOf (nd s n) e) = some k → exec (.chunkReserve n e) s = .next (readRun s n e k))
      ∧ (unreadRun (nd s n) (tileOf (nd s n) e) = none → reserveRoom (nd s n) e = true →
          let t := tileOf (nd s n) e
          ∃ y, exec (.chunkReserve n e) s = .next y ∧ (tileOf (nd y n) e).nextK = t.nextK + 1
            ∧ (∃ at_, (at_, Instr.collectivePeergone n e) ∈ y.timers)
            ∧ ∀ j ∈ needed (nd s n) t,
                let m := groupNode (tileComm (nd s n) t) ((tileEvents (nd s n) t).getD j ⟨true, 0⟩).g
                underWay y n m (.chunkGrant m (tPeer t j) t.ident (tTile t) t.nextK) = true))
    ∧ (∀ s n e ident tile k,
        let t := tileOf (nd s n) e
        let mine := t.state = 3 ∧ t.ident = ident ∧ tTile t = tile
        (∀ r, mine → runOf t k = some r →
          exec (.chunkGrant n e ident tile k) s = .next (sendUp (modRun (hearFrom s n e (sendEvent (tileEvents (nd s n) t))) n e k fun r =>
            { r with granted := true }) n e k))
        ∧ (¬ mine ∨ runOf t k = none → ∃ y, exec (.chunkGrant n e ident tile k) s = .next y
            ∧ (tileOf (nd y n) e).grants = t.grants ++ [(ident, tile, k)]))
    ∧ (∀ s n x,
        let t := tileOf (nd s n) x.entry
        (t.state = 0 ∨ t.state = 4 ∨ chunkEvent (nd s n) t x = none →
          exec (.chunkArrival n x) s = .next (failColl s x.src x.sentry 0x06))
        ∧ ∀ j, chunkEvent (nd s n) t x = some j → t.state ≠ 0 → t.state ≠ 4 →
          (5 ≤ t.state → exec (.chunkArrival n x) s = .next s)
          ∧ (t.state < 4 → runOf t x.chunk = none → ∃ y, exec (.chunkArrival n x) s = .next y
              ∧ (tileOf (nd y n) x.entry).early = t.early ++ [x])
          ∧ ∀ r, t.state < 4 → runOf t x.chunk = some r →
              exec (.chunkArrival n x) s = .next (takeChunk (ackChunk (hearFrom s n x.entry (some j)) x) n x.entry j x))
    ∧ (∀ s n e k r, sweepDue s n e k = true →
        let t := tileOf (nd s n) e
        runOf t k = some r →
        (r.swept = true → exec (.chunkSweep n e k) s = .next (pushRun s n e k))
        ∧ (r.swept = false →
            let v := sweepVal (nd s n) t r
            let z := modNd s n fun d => { d with staging := d.staging - (r.slots - 1) }
            let up := sendEvent (tileEvents (nd z n) t)
            let x := modRun z n e k fun r =>
              awaits z up { r with swept := true, slots := 1, val := v.1, pres := v.2, own := [], recv := [] }
            exec (.chunkSweep n e k) s = .next (if up.isNone then takeFinal x n e k v else sendUp x n e k)))
    ∧ (∀ s n e, (collDoneDue (nd s n) e = true → ∃ y, exec (.collEntryDone n e) s = .next y ∧ (tileOf (nd y n) e).state = 4
          ∧ (tileOf (nd y n) e).runs = [])
        ∧ (collDoneDue (nd s n) e = false → exec (.collEntryDone n e) s = .next s))
    ∧ (∀ s n e, (tileLive (tileOf (nd s n) e) = true → ∃ y, exec (.collectiveAbort n e) s = .next y
          ∧ (tileOf (nd y n) e).state = 6 ∧ (tileOf (nd y n) e).runs = [])
        ∧ (tileLive (tileOf (nd s n) e) = false → exec (.collectiveAbort n e) s = .next s))
    ∧ ∀ s n e,
        let t := tileOf (nd s n) e
        (t.state ≠ 3 → exec (.collectivePeergone n e) s = .next s)
        ∧ (t.state = 3 → (∃ m ∈ partners (nd s n) t, isLost s n m = true)
            ∨ (∃ r ∈ t.runs, ∃ j ∈ waitsOn (nd s n) t r,
                max (smGet r.since 0 j) (smGet t.heard 0 j) + 10 * Config.frameCc ≤ s.now) → ∃ y, exec (.collectivePeergone n e) s = .next y
            ∧ (tileOf (nd y n) e).state = 5 ∧ (tileOf (nd y n) e).fcode = 0x0E))

/-! Tasks and system instructions. -/

/-- The TASK instructions (R392 to R399): SPAWN posts a child that its checks let through and gives its index; TWAIT waits for
its group and takes it away; TEND and MERGE end the task once its open group is complete; SUCCADD notes a successor; YIELD
asks to leave for a higher level; CANCEL puts a pair on the list or takes it off; TSELF reads the task; GANGJOIN waits
until its gang has formed. That CANCEL acts at once on its own node and in the fabric's time on the others, and that a
CLEAR on the domain acts at once on all, is the model's reading (DEDUCED, log 35). Of each of these it says which next
state it answers, under conditions on the state and the operands alone: spawn, merge, tend, twait, succadd, cancel, yield,
tself, gangjoin. -/
def Obligations.TaskInstructions : Prop :=
  let n (s : State) : Nat := s.cur.node
  let c (s : State) : Nat := s.cur.core
  let trap (s : State) (code : Nat) : Out := .next (takeTrap s s.cur.node s.cur.core (causeHere s code))
  let out (s t : State) (f : FE) (w : Word) : Out := .next (flyReg t f.d w 2 (pushKey s f.tk) f.sig)
  (∀ f s, CanIssueE s f [.ctrl] [f.a] 1 →
    (∀ p s', spawnPre (reg s f.a) s = .go p s' →
      (spawnHold s' p = false → exec (.spawn f) s = out s (spawnDo (begunE s' f) p) f (BitVec.ofNat 64 p.k))
      ∧ (spawnHold s' p = true → exec (.spawn f) s = .next (setBlocked s)))
    ∧ (∀ k s', spawnPre (reg s f.a) s = .fault k s' → exec (.spawn f) s = .next (takeTrap s' s'.cur.node s'.cur.core k))
    ∧ (∀ s', spawnPre (reg s f.a) s = .hold s' → exec (.spawn f) s = .next (setBlocked s))
    ∧ (tselfWaits s (reg s f.a) = true → exec (.tself f) s = .next (setBlocked s))
    ∧ (tselfWaits s (reg s f.a) = false →
        (∀ w, tselfWord s (reg s f.a) = some w → exec (.tself f) s = out s (begunE s f) f w)
        ∧ (tselfWord s (reg s f.a) = none → exec (.tself f) s = trap s 0x01)))
  ∧ (∀ f s, CanIssueE s f [.ctrl] [] 1 →
    (openGroup s = none → exec (.twait f) s = trap s 0x01)
    ∧ ∀ r g, openGroup s = some (r, g) →
      (g.spawned < g.n → exec (.twait f) s = trap s 0x01)
      ∧ (g.n ≤ g.spawned → g.fault = none → g.done = false → exec (.twait f) s = .next (setBlocked s))
      ∧ (g.n ≤ g.spawned → g.fault = none → g.done = true → exec (.twait f) s
          = out s (modTask (closeGroup (acquireL1 (begunE s f) (n s) (c s) 3 true) (n s) r) (n s) (c s) fun t => { t with group := none })
              f (BitVec.ofNat 64 g.n)))
  ∧ (∀ i ∈ ([(Instr.tend, false), (Instr.merge, true)] : List ((FE → Instr) × Bool)), ∀ f s, CanIssueE s f [.ctrl] [] 0 →
    let t := taskOf (cc s)
    let wrong := if i.2 then t.parent = 0 ∨ t.views = 0 else t.parent ≠ 0 ∧ t.views ≠ 0
    (wrong → exec (i.1 f) s = trap s 0x01)
    ∧ (¬ wrong → (openGroup s = none ∨ ∃ r g, openGroup s = some (r, g) ∧ g.fault = none ∧ g.done = true) →
        ∃ y, exec (i.1 f) s = .next y ∧ (cc y).mode = .ending 0 5 ∧ (cc y).task = (cc s).task ∧ (cs y).pc = (cs s).pc)
    ∧ ∀ r g, ¬ wrong → openGroup s = some (r, g) → g.fault = none → g.done = false → exec (i.1 f) s = .next (setBlocked s))
  ∧ (∀ f s, CanIssueE s f [.ctrl] [f.a] 0 →
    let v := reg s f.a
    (v.toNat % 128 ≠ 0 → exec (.succadd f) s = .next (takeTrap s (n s) (c s) (causeAt s 0x04 v)))
    ∧ (v.toNat % 128 = 0 → 16 ≤ (taskOf (cc s)).succ.length → exec (.succadd f) s = trap s 0x01)
    ∧ ∀ u s', v.toNat % 128 = 0 → (taskOf (cc s)).succ.length < 16 →
      unitAt s (n s) (tenantOf (cc s)) v 128 .w = (.inr u, s') →
      exec (.succadd f) s
        = .next (signal (modTask (pastE s' f) (n s) (c s) fun t => { t with succ := t.succ ++ [v] }) f.sig))
  ∧ (∀ f s, CanIssueE s f [.ctrl] [] 0 →
    exec (.yield f) s = .next (signal (if (taskOf (cc s)).level < pickLevel (cn s) (c s) then requestPreempt (pastE s f) (n s) (c s) 2
      else pastE s f) f.sig))
  ∧ (∀ f s, CanIssueE s f [.ctrl] [f.a, f.b] 0 →
    let t := tenantOf (cc s)
    let g : BitVec 32 := (reg s f.a).setWidth 32
    let roomy := (cn s).cancels.length < 64
    let others := (domainNodes s (n s)).filter fun m => m != n s
    (2 ^ 32 ≤ (reg s f.a).toNat ∨ 4 ≤ (reg s f.b).toNat → exec (.cancel f) s = trap s 0x01)
    ∧ ((reg s f.a).toNat < 2 ^ 32 → reg s f.b = 0 → roomy →
        ∃ y, exec (.cancel f) s = .next y ∧ y = signal (addCancel (pastE s f) (n s) t g) f.sig ∧ cancelled (cn y) t g = true)
    ∧ ((reg s f.a).toNat < 2 ^ 32 → reg s f.b = 1 → roomy →
        ∃ y, exec (.cancel f) s = .next y ∧ cancelled (cn y) t g = true
          ∧ ∀ m ∈ others, underWay y (n s) m (.cancelToken m t g) = true)
    ∧ ((reg s f.a).toNat < 2 ^ 32 → (reg s f.b).toNat < 2 → ¬ roomy → exec (.cancel f) s = .next (setBlocked s))
    ∧ ((reg s f.a).toNat < 2 ^ 32 → reg s f.b = 2 → exec (.cancel f) s = .next (signal (clearCancel (pastE s f) (n s) t g) f.sig))
    ∧ ((reg s f.a).toNat < 2 ^ 32 → reg s f.b = 3 → exec (.cancel f) s
        = .next (signal (others.foldl (fun s m => clearCancel s m t g) (clearCancel (pastE s f) (n s) t g)) f.sig)))
  ∧ ∀ f s, CanIssueE s f [.ctrl] [f.a, f.b] 1 →
    (∀ g s', gangPre (reg s f.a) (reg s f.b) s = .go g s' →
      exec (.gangjoin f) s = out s (modTask (begunE s' f) (n s) (c s) fun t => { t with waitGang := none }) f (BitVec.ofNat 64 g))
    ∧ (∀ s', gangPre (reg s f.a) (reg s f.b) s = .hold s' → exec (.gangjoin f) s = .next (setBlocked s'))
    ∧ ∀ k s', gangPre (reg s f.a) (reg s f.b) s = .fault k s' → exec (.gangjoin f) s = .next (takeTrap s' s'.cur.node s'.cur.core k)

/-- The SYS instructions that return from a trap and move contexts (R424 to R426): TRET, CTXSAVE and CTXLOAD are illegal
outside the handler; TRET resumes the context, ends, requeues, reruns or cancels its task; CTXSAVE and CTXLOAD store and
load a context of an area that passes every check, and fault SAVEAREA with the failing check otherwise. The other SYS
instructions (R423, R427 to R433): TLBINV removes translations from every TLB and the walk cache of the die and stands at
issue until what used them is performed, with DOMAIN until every other node has answered too; which accesses it waits for,
the DETERM stores not yet published among them, is the model's reading (DEDUCED, log 49), and so is what RETAIN and WAKE
count (DEDUCED, log 31); ATTN posts a record where the ring has room; TNSET and BUDSET write a word from the next cc on
and give the old one; THERMRD reads a quad's level; RETAIN and WAKE mark slices; all but ATTN and THERMRD fault PRIV
outside privileged state. Of each of these it says which next state it answers, under conditions on the state and the
operands alone: tret, ctxsave, ctxload, tlbinv, attn, tnset, budset, thermrd, retain, wake. -/
def Obligations.SystemInstructions : Prop :=
  (
    let n (s : State) : Nat := s.cur.node
    let c (s : State) : Nat := s.cur.core
    let can (s : State) (f : FE) (srcs : List Reg) (fly : Nat) : Prop :=
      CanIssueWith s f.tk [.ctrl] srcs fly f.wait [] [] ∧ inHandler (cc s) = true ∧ privileged (cc s) = true
    let trap (s : State) (code : Nat) : Out := .next (takeTrap s s.cur.node s.cur.core (causeHere s code))
    (∀ i ∈ ([Instr.tret, Instr.ctxsave, Instr.ctxload] : List (FE → Instr)), ∀ f s, mayIssue s = true → inHandler (cc s) = false →
      exec (i f) s = trap s 0x01)
    ∧ (∀ f s, can s f [f.a, f.b] 0 →
      let a := (reg s f.a).toNat
      let legal := a ≤ 4 ∧ (reg s f.b).toNat < 256 ∧ (a = 2 → (cc s).saved ≠ none)
      (¬ legal → exec (.tret f) s = trap s 0x01)
      ∧ (legal → exec (.tret f) s
          = .next (dispose (signal (pastE s f) f.sig) (n s) (c s) a (reg s f.b).toNat (s.now + 4))))
    ∧ (∀ s m k a code t0,
        let y := dispose s m k a code t0
        (a = 0 → (co y m k).mode = .run ∧ (co y m k).resumeAt = t0 ∧ (co y m k).landing.length = (co s m k).landing.length)
        ∧ (a = 1 → (co y m k).mode = .ending (if code = 0 then fld (co s m k).trapCause 7 0 else code) 6)
        ∧ (a = 2 → (co y m k).mode = .ending 1 4 ∧ (co y m k).cq = [] ∧ (co y m k).mq = [])
        ∧ (a = 3 → (co y m k).mode = .ending 1 2 ∧ (co y m k).cq = [] ∧ (co y m k).mq = [])
        ∧ (4 ≤ a → (co y m k).mode = .ending 0x0D 7)
        ∧ (co y m k).task = (co s m k).task)
    ∧ (∀ f s, can s f [f.a, f.b] 1 →
      let va := reg s f.a
      (va.toNat % 65536 ≠ 0 → exec (.ctxsave f) s = .next (takeTrap s (n s) (c s) (causeAt s 0x04 va)))
      ∧ (va.toNat % 65536 = 0 → (cc s).winOut ≠ [] → exec (.ctxsave f) s = .next (setBlocked s))
      ∧ (va.toNat % 65536 = 0 → (cc s).winOut = [] →
          (∀ code s', saveContext s (n s) (c s) va (reg s f.b).toNat = (.inl code, s') →
            exec (.ctxsave f) s = .next (takeTrap s' (n s) (c s) { causeAt s' 0x12 va with sub := code }))
          ∧ ∀ u s', saveContext s (n s) (c s) va (reg s f.b).toNat = (.inr u, s') →
            exec (.ctxsave f) s = .next (flyReg
              (modCc (begunE s' f) fun k => { k with saved := some va, trapCause := k.trapCause ||| 0x800000 }) f.d
              (BitVec.ofNat 64 (areaNeed (cc s'))) 2 (pushKey s f.tk) f.sig)))
    ∧ ∀ f s, can s f [f.a] 0 →
      let va := reg s f.a
      ((cc s).saved = none → exec (.ctxload f) s = trap s 0x01)
      ∧ ((cc s).saved ≠ none → va.toNat % 65536 ≠ 0 → exec (.ctxload f) s = .next (takeTrap s (n s) (c s) (causeAt s 0x04 va)))
      ∧ (∀ k s', ctxloadPre va s = .fault k s' → exec (.ctxload f) s = .next (takeTrap s' s'.cur.node s'.cur.core k))
      ∧ ∀ x s', ctxloadPre va s = .go x s' →
        exec (.ctxload f) s = .next (signal (dropArea (ctxloadDo (pastE s' f) x) (n s) (some (c s)) va) f.sig))
  ∧ (
    let n (s : State) : Nat := s.cur.node
    let can (s : State) (f : FE) (srcs : List Reg) (fly : Nat) : Prop := CanIssueWith s f.tk [.ctrl] srcs fly f.wait [] []
    let trap (s : State) (code : Nat) : Out := .next (takeTrap s s.cur.node s.cur.core (causeHere s code))
    let out (s t : State) (f : FE) (w : Word) (lat : Nat) : Out := .next (flyReg t f.d w lat (pushKey s f.tk) f.sig)
    (∀ i ∈ ([Instr.tlbinv, Instr.tnset, Instr.budset, Instr.retain, Instr.wake] : List (FE → Instr)), ∀ f s, mayIssue s = true →
      s.cur.seq = .ctrl → privileged (cc s) = false → exec (i f) s = trap s 0x03)
    ∧ (∀ f s, can s f [f.a, f.b] 0 → privileged (cc s) = true →
      let b := reg s f.b
      let others := if bit b 12 then (domainNodes s (n s)).filter fun m => m != n s else []
      let x := tlbBegin s b (reg s f.a)
      let retires (y : State) : Prop :=
        exec (.tlbinv f) s = .next (signal (modCc (pastE y f) fun k => { k with tlbWait := none }) f.sig)
      (tlbinvOk b = false → exec (.tlbinv f) s = trap s 0x01)
      ∧ (tlbinvOk b = true → (cc s).tlbWait = none → others.any (isLost s (n s)) = true → exec (.tlbinv f) s = trap s 0x0E)
      ∧ (tlbinvOk b = true → (cc s).tlbWait = none → others.any (isLost s (n s)) = false →
          ∃ w, (cc x).tlbWait = some w ∧ w.left = others ∧ w.gone = false
            ∧ (others = [] → tlbQuiet x (n s) w.due w.dets = true → retires x)
            ∧ (others ≠ [] ∨ tlbQuiet x (n s) w.due w.dets = false → exec (.tlbinv f) s = .next (setBlocked x)))
      ∧ (∀ m ∈ others, underWay x (n s) m (.remoteTlbinv m (n s) s.cur.core (fld b 5 0) (fld b 9 8) (reg s f.a)) = true)
      ∧ ∀ w, tlbinvOk b = true → (cc s).tlbWait = some w →
          (w.gone = true → exec (.tlbinv f) s = trap s 0x0E)
          ∧ (w.gone = false → w.left = [] → tlbQuiet s (n s) w.due w.dets = true → retires s)
          ∧ (w.gone = false → w.left ≠ [] ∨ tlbQuiet s (n s) w.due w.dets = false → exec (.tlbinv f) s = .next (setBlocked s)))
    ∧ (∀ s m asid mode va, let d := nd (tlbRemove s m asid mode va) m
        (∀ p ∈ d.walks, walkHit asid mode va p = false) ∧ (∀ x ∈ d.cores, ∀ e ∈ x.2.tlb, tlbHit asid mode va e = false) ∧ (∀ x ∈ d.quads, ∀ e ∈ x.2.tlb, tlbHit asid mode va e = false))
    ∧ (∀ f s, can s f [f.a, f.b] 0 →
      let room := ((cn s).attHead - (cn s).attTail).toNat < 64
      (2 ^ 16 ≤ (reg s f.a).toNat → exec (.attn f) s = trap s 0x01)
      ∧ ((reg s f.a).toNat < 2 ^ 16 → room →
          exec (.attn f) s = .next (signal (postAttn (pastE s f) (n s) 0 s.cur.core (reg s f.a).toNat (reg s f.b)) f.sig))
      ∧ ((reg s f.a).toNat < 2 ^ 16 → ¬ room → exec (.attn f) s = .next (setBlocked s)))
    ∧ (∀ f s, can s f [f.a, f.b] 1 → privileged (cc s) = true →
      let a := reg s f.a
      let t := fld a 5 0
      let w := fld a 10 8
      let new := tnWord w (reg s f.b)
      (a &&& ~~~(0x73F : Word) ≠ 0 ∨ new = none → exec (.tnset f) s = trap s 0x01)
      ∧ (∀ v, a &&& ~~~(0x73F : Word) = 0 → new = some v →
          exec (.tnset f) s = out s (later (begunE s f) (.tnWord (n s) t w v)) f (tnOld (cn s) t w) 2)
      ∧ (a.toNat < 16 → exec (.budset f) s
          = out s (later (begunE s f) (.nodeReg (n s) (0x10 + a.toNat) (reg s f.b &&& 0xFFFFFFFFFFFFFFF0))) f
              (budgetWord (cn s) a.toNat) 2)
      ∧ (16 ≤ a.toNat → exec (.budset f) s = trap s 0x01)
      ∧ (let count := (reg s f.b).toNat
         (count = 0 ∨ 512 < count ∨ 512 < a.toNat + count → exec (.retain f) s = trap s 0x01 ∧ exec (.wake f) s = trap s 0x01)
         ∧ (1 ≤ count → a.toNat + count ≤ 512 →
            let r := (upFrom a.toNat count).foldl (retainOne (n s)) (0, begunE s f)
            let k := (upFrom a.toNat count).foldl (wakeOne (n s)) (0, begunE s f)
            exec (.retain f) s = out s r.2 f (BitVec.ofNat 64 r.1) 2 ∧ exec (.wake f) s = out s k.2 f (BitVec.ofNat 64 k.1) 2)))
    ∧ ∀ f s, can s f [f.a] 1 →
      ((reg s f.a).toNat < 64 → exec (.thermrd f) s = out s (begunE s f) f (thermWord (qd s (n s) (reg s f.a).toNat)) 12)
      ∧ (64 ≤ (reg s f.a).toNat → exec (.thermrd f) s = trap s 0x01))

/-! Dispatch, the end of tasks, and the host. -/

/-- Launch, placement, stealing and preloading (R369, R370, R376, R378, R379, R421): a launch is posted where its queue is
enabled and its address aligned, and counted as dropped otherwise; a placement or steal takes the entry that the rule
picks and gives it to the core; a task starts with its own bank and empty queues and tokens; a preload only empties ways
that hold no line. That a placement takes effect at once, its core resuming after Config.latPlace, is the model's reading
(DEDUCED, log 32) with log 7's times, and when a preload occurs is log 13's. Of each of these it says which next state it
answers, under conditions on the state and the operands alone: taskPlacement, steal, preload, launch. -/
def Obligations.TaskPlacement : Prop :=
  (∀ s n q va,
    let x := dqOf (nd s n) q
    ((nd s n).phase ≠ 4 → exec (.launch n q va) s = .next s)
    ∧ ((nd s n).phase = 4 → q < 16 → dqEn x = false ∨ va.toNat % 128 ≠ 0 → ∃ y, exec (.launch n q va) s = .next y
        ∧ (dqOf (nd y n) q).dropped = min (x.dropped + 1) 65535)
    ∧ ((nd s n).phase = 4 → q < 16 → dqEn x = true → va.toNat % 128 = 0 →
        exec (.launch n q va) s = .next (post s n (dqTenant x) q va true)))
  ∧ (∀ s n c q lv i e, placeOpen s n = true → gangDue (nd s n) c = none → placeDue (nd s n) c = true →
      pick (nd s n) c = some (q, lv, i) → (deqOf (qd s n (quadOf c)) q lv)[i]? = some e →
      let l := deqOf (qd s n (quadOf c)) q lv
      let x := modQd (putDeq s n (quadOf c) q lv (delNth l i)) n (quadOf c) fun y => { y with lastDq := q }
      exec (.taskPlacement n c) s = .next (placeEntry x n c e Config.latPlace))
  ∧ (∀ s n c q, placeOpen s n = true → gangDue (nd s n) c = some q → exec (.taskPlacement n c) s = .next (placeGang s n q))
  ∧ (∀ s n q c dq v lv i e, placeOpen s n = true → stealCore (nd s n) q = some c → stealPlan (nd s n) q = some (dq, v, lv, i) →
      (deqOf (qd s n v) dq lv)[i]? = some e →
      let l := deqOf (qd s n v) dq lv
      let x := modQd (putDeq s n v dq lv (delNth l i)) n q fun y => { y with lastVictim := v, lastSteal := dq }
      exec (.steal n q) s = .next (placeEntry x n c e (Config.latSteal + Config.latPlace)))
  ∧ (∀ s n c e t lines cbase clen lat,
      let y := co (startTask s n c e t lines cbase clen lat) n c
      y.mode = .run ∧ y.seqs = startSeqs t ∧ y.part = ctlSpad (tcbCtl t) ∧ y.evt = 0 ∧ y.fifos = [] ∧ y.queues = []
      ∧ y.acc = [] ∧ y.inflight = [] ∧ y.landing = [] ∧ y.det = ctlDet (tcbCtl t) ∧ tenantOf y = ctlTenant (tcbCtl t)
      ∧ imageOf y = (tcbImage t, lines, cbase, clen) ∧ taskId y = e.tcb)
  ∧ (∀ t k, k < 4 →
      (tcbEntry t k = 0xFFFFFFFF → (smGet (startSeqs t) {} k).status = .idle)
      ∧ (tcbEntry t k ≠ 0xFFFFFFFF → (smGet (startSeqs t) {} k).status = .running
          ∧ (smGet (startSeqs t) {} k).pc = pcOf (tcbEntry t k) 0 ∧ regRead (smGet (startSeqs t) {} k) 1 = tcbArgs t
          ∧ ∀ r, r ≠ 1 → regRead (smGet (startSeqs t) {} k) r = 0))
  ∧ ∀ s n c e, nextEntry (nd s n) c = some e → (co s n c).mode = .run → (co s n c).pre = none →
      ∃ y, exec (.preload n c) s = .next y ∧ (co y n c).l1 = (co s n c).l1
        ∧ ((co y n c).pre = none ∨ ∃ w, (co y n c).pre = some (e.tenant, e.tcb, w)
            ∧ ∀ i ∈ w, (co s n c).part ≤ i ∧ ∀ l ∈ (co s n c).l1, l.way ≠ i)

/-- How a task leaves its core (R33, R371, R372, R391, R415, R416, R420, R453): a task that ends, its release made, leaves a
free core; a pre-emption that is due cuts the core at its quiet point; a saved context leaves a free core and takes the
pool's next area; a class without core-cycles is asked to leave; the host's actions dispose of a context it holds and do
nothing otherwise. AGENT 8 of a voluntary and of a quiet cut is log 33, the release before a save log 34, and that
BUDGET_EXHAUSTED does nothing of itself for an activity other than core-cycles log 37: all three the model's readings
(DEDUCED). The merge engines and remote translations (R384, R386, R427): a step that applies every view makes its range
complete, and the final fold the group; a fault stops the group with its code and address; a node that is told to
invalidate removes what matches, and answers once what used it is performed; an answer is noted with the TLBINV that waits
for it, and 10 frames without one, or a lost node, end the wait. Of each of these it says which next state it answers,
under conditions on the state and the operands alone: budgetExhausted, cancelToken, preemptionCut, contextSave,
taskRetire, corectlResume, corectlEnd, corectlRequeue, corectlRerun, corectlCancel, corectlSaveq, retentionEntryDone,
retentionExitDone, remoteTlbinv, tlbinvPeergone, mergeStep, tlbinvAnswer. -/
def Obligations.TaskEnds : Prop :=
  (
    (∀ s n c code st t, retireTaskDue s n c = true → (co s n c).mode = .ending code st → (co s n c).task = some t →
      let x := endRelease s n c ((st == 5 && t.views != 0) || st == 4)
      ((co x n c).detBuf = [] → ∃ y, exec (.taskRetire n c) s = .next y ∧ (co y n c).mode = .free ∧ (co y n c).task = none)
      ∧ ((co x n c).detBuf ≠ [] → exec (.taskRetire n c) s = .next x))
    ∧ (∀ s n c, preemptDue s n c = true →
        let w := (co s n c).preempt.getD 0
        let x := modCo s n c fun k => { k with preempt := none }
        (betweenEmpty (co s n c) = true → exec (.preemptionCut n c) s = .next (takeTrap x n c ⟨0x0A, w, 8, false, true, 0, 0⟩))
        ∧ (betweenEmpty (co s n c) = false →
            exec (.preemptionCut n c) s = .next (takeTrap x n c ⟨0x0F, 1, 8, false, false, 0, 0⟩)))
    ∧ (∀ s n c t, saveDue s n c = true → (co s n c).task = some t →
        let x := endRelease s n c true
        let va := (nd x n).saveArea
        (co x n c).detBuf = [] →
        (va = 0 → exec (.contextSave n c) s = .next (abandonSave x n c 0 0))
        ∧ ∀ chain x1 u x2, va ≠ 0 → devRead x n (some c) (va + 16) 8 = (.inr chain, x1) →
            saveContext x1 n c va (nd x1 n).saveLen.toNat = (.inr u, x2) →
            ∃ y, exec (.contextSave n c) s = .next y ∧ (co y n c).mode = .free ∧ (nd y n).saveArea = BitVec.ofNat 64 chain)
    ∧ (∀ s n k, (∀ act, act ≠ 0 → exec (.budgetExhausted n k act) s = .next s)
        ∧ ((bucketOf (nd s n) k).cyc ≠ some 0 → exec (.budgetExhausted n k 0) s = .next s)
        ∧ ((bucketOf (nd s n) k).cyc = some 0 → ∃ y, exec (.budgetExhausted n k 0) s = .next y
            ∧ ∀ c, (co s n c).mode = .run → (co s n c).task ≠ none → classOf (co s n c) = k → (co y n c).preempt ≠ none))
    ∧ (∀ s n t g, exec (.cancelToken n t g) s = .next (addCancel s n t g)
        ∧ (cancelled (nd s n) t g = true ∨ (nd s n).cancels.length < 64 → cancelled (nd (addCancel s n t g) n) t g = true)
        ∧ (cancelled (nd s n) t g = false → 64 ≤ (nd s n).cancels.length →
            (nd (addCancel s n t g) n).cancelWait = (nd s n).cancelWait ++ [(t, g)]))
    ∧ ∀ s n c,
        (∀ h k, (co s n c).mode = .hostHeld h k →
          exec (.corectlResume n c) s = .next (dispose s n c 0 0 (s.now + 4))
          ∧ (∀ code, exec (.corectlEnd n c code) s = .next (dispose s n c 1 (code % 256) (s.now + 4)))
          ∧ ((co s n c).saved ≠ none → exec (.corectlRequeue n c) s = .next (dispose s n c 2 0 (s.now + 4)))
          ∧ ((co s n c).saved = none → exec (.corectlRequeue n c) s = .next s)
          ∧ exec (.corectlRerun n c) s = .next (dispose s n c 3 0 (s.now + 4))
          ∧ exec (.corectlCancel n c) s = .next (dispose s n c 4 0 (s.now + 4))
          ∧ exec (.corectlSaveq n c) s = .next (modCo s n c fun x => { x with mode := .saving, saveHeld := some (h, k) }))
        ∧ ((∀ h k, (co s n c).mode ≠ .hostHeld h k) → (∀ code, exec (.corectlEnd n c code) s = .next s) ∧ ∀ i ∈ [Instr.corectlResume n c, .corectlRequeue n c, .corectlRerun n c,
            .corectlCancel n c, .corectlSaveq n c], exec i s = .next s))
  ∧ (
    (∀ s n r x, mergeDue s n r = true → groupOfRec (nd s n) r = some x →
      (∀ a m b, dueStep x.complete 13 0 (x.n - 1) = some (a, m, b) →
        let i := smGet x.at_ 0 (4096 * a + b)
        let z := mergeViews n (stepCore x a m b) x (viewVa x.marea x.table a) (viewVa x.marea x.table m) (x.table.drop i) i s
        ∃ y g, exec (.mergeStep n r) s = .next y ∧ groupOfRec (nd y n) r = some g ∧ g.fault = (z.2.1)
          ∧ (z.2.1 = none → (a, b) ∈ g.complete))
      ∧ (dueStep x.complete 13 0 (x.n - 1) = none →
        let base (i : Nat) : Word := match x.table[i]? with | some v => vBase v | none => 0
        let z := mergeViews n (smGet x.who 0 (x.n - 1)) x base (viewVa x.marea x.table 0) (x.table.drop x.fold) x.fold s
        ∃ y g, exec (.mergeStep n r) s = .next y ∧ groupOfRec (nd y n) r = some g ∧ g.fault = z.2.1 ∧ (z.2.1 = none → g.done = true)))
    ∧ (∀ s n src k asid mode va,
        let x := tlbRemove s n asid mode va
        let a : TlbAsk := ⟨src, k, pendingUntil s n, detsUnder (nd s n) asid mode va⟩
        exec (.remoteTlbinv n src k asid mode va) s = .next (tlbAnswers (modNd x n fun d => { d with tlbAsks := d.tlbAsks ++ [a] }) n)
        ∧ ((nd s n).tlbAsks = [] →
          (tlbQuiet x n a.due a.dets = true → ∃ y, exec (.remoteTlbinv n src k asid mode va) s = .next y ∧ (nd y n).tlbAsks = []
            ∧ underWay y n src (.tlbinvAnswer src k n) = true)
          ∧ (tlbQuiet x n a.due a.dets = false → ∃ y, exec (.remoteTlbinv n src k asid mode va) s = .next y
            ∧ (nd y n).tlbAsks = [a])))
    ∧ (∀ s n c m w, (co s n c).tlbWait = some w →
        (m ∉ (co s n c).tlbOwed → ∃ y v, exec (.tlbinvAnswer n c m) s = .next y ∧ (co y n c).tlbWait = some v
            ∧ v.left = (w.left.filter fun x => x != m) ∧ v.gone = w.gone ∧ (co y n c).tlbOwed = (co s n c).tlbOwed)
        ∧ (m ∈ (co s n c).tlbOwed → ∃ y, exec (.tlbinvAnswer n c m) s = .next y ∧ (co y n c).tlbWait = some w
            ∧ (co y n c).tlbOwed = (co s n c).tlbOwed.erase m))
    ∧ (∀ s n c w, (co s n c).tlbWait = some w →
        ∃ y v, exec (.tlbinvPeergone n c) s = .next y ∧ (co y n c).tlbWait = some v ∧ v.left = w.left
          ∧ (v.gone = true ↔ w.gone = true ∨ (w.left ≠ [] ∧ (w.sent + 10 * Config.frameCc ≤ s.now ∨ w.left.any (isLost s n) = true))))
    ∧ ∀ s n i,
        let x := slcOf (nd s n) i
        (x.state = 1 → slcWakes x = false → ∃ y, exec (.retentionEntryDone n i) s = .next y ∧ (slcOf (nd y n) i).state = 2)
        ∧ (x.state = 1 → slcWakes x = true → exec (.retentionEntryDone n i) s = .next (beginExit s n i))
        ∧ (x.state ≠ 1 → exec (.retentionEntryDone n i) s = .next s)
        ∧ (x.state = 3 → ∃ y, exec (.retentionExitDone n i) s = .next y ∧ (slcOf (nd y n) i).state = 0)
        ∧ (x.state ≠ 3 → exec (.retentionExitDone n i) s = .next s))

/-- Start-up (R447 to R449, R454, R455): BOOT takes the image, the ROM checks and measures it, BRINGUP gives maps and clear
memories or fails, START checks the registers and opens the node, and a request gives a signed report; each step acts in
its own phase only. A module reset leaves the node it is for, or every node, in PHASE 0 with nothing under way, and host
memory as it was. That FWLEN and FWADDR out of range fail with 0x01, that ROM check and BRINGUP happen at once, that
ATTREQ acts from PHASE 3 on, and which node a reset is for, is the model's reading (DEDUCED, log 36); whether a read over
CXL.mem or a BRINGUP fails is a free value (log 11), the keys and what is signed with them are log 9's, and the signing
time is log 7's. Of each of these it says which next state it answers, under conditions on the state and the operands
alone: moduleReset, romCheck, bringup, start, attestationReport, boot, attreq. -/
def Obligations.StartUp : Prop :=
  (∀ s n,
    let d := nd s n
    let len := d.fwLen.toNat
    let legal := 4096 ≤ len ∧ len ≤ 2 ^ 24 ∧ d.fwAddr.toNat % 4096 = 0
    (d.phase ≠ 0 → d.phase ≠ 15 → exec (.boot n) s = .next s)
    ∧ (d.phase = 0 ∨ d.phase = 15 → ¬ legal → exec (.boot n) s = .next (failStart s n 0x01))
    ∧ (d.phase = 0 ∨ d.phase = 15 → legal → ∃ y, exec (.boot n) s = .next y ∧ (nd y n).phase = 1 ∧ (nd y n).fail = 0
        ∧ (nd y n).fw = memBytes d.host d.fwAddr.toNat len ∧ (s.now, Instr.romCheck n) ∈ y.timers)
    ∧ (d.phase ≠ 1 → exec (.romCheck n) s = .next s)
    ∧ (∀ code, d.phase = 1 → fwFault d.fw = some code →
        exec (.romCheck n) s
          = .next (failStart { s with free := s.free + 1 } n (if Config.cxlReadFails s.free then 0x01 else code)))
    ∧ (d.phase = 1 → fwFault d.fw = none → ∃ y, exec (.romCheck n) s = .next y
        ∧ (Config.cxlReadFails s.free = true → y = failStart { s with free := s.free + 1 } n 0x01)
        ∧ (Config.cxlReadFails s.free = false → (nd y n).phase = 2
            ∧ (nd y n).m0 = BitVec.ofNat 512 (bytesVal (sha512 d.fw)) ∧ (s.now, Instr.bringup n) ∈ y.timers))
    ∧ (d.phase ≠ 2 → exec (.bringup n) s = .next s)
    ∧ (d.phase = 2 → ∃ y, exec (.bringup n) s = .next y
        ∧ let bad := 0x10 ≤ Config.bringupFail n ∧ Config.bringupFail n ≤ 0x13
          (bad → y = failStart s n (Config.bringupFail n))
          ∧ (¬ bad → (nd y n).phase = 3 ∧ (nd y n).gscOn = true ∧ (nd y n).hbm = [] ∧ (nd y n).deep = [] ∧ (nd y n).hbmPoison = []
              ∧ (nd y n).qmap.length = 64 ∧ (nd y n).qmap.Nodup ∧ (∀ p ∈ (nd y n).qmap, p < 66) ∧ (nd y n).smap.length = 512
              ∧ (nd y n).spareS ≤ 8))
    ∧ (d.phase ≠ 3 → exec (.start n) s = .next s)
    ∧ (d.phase = 3 → startOk d = false → exec (.start n) s = .next (failStart s n 0x20))
    ∧ (d.phase = 3 → startOk d = true → ∃ y, exec (.start n) s = .next y ∧ (nd y n).phase = 4
        ∧ (nd y n).startFrame = frameOf s n + 1
        ∧ (nd y n).m1 = BitVec.ofNat 512 (bytesVal (sha512 (valBytes 64 d.m0.toNat ++ measured d))))
    ∧ (d.attBusy = true ∨ d.phase < 3 → exec (.attreq n) s = .next s)
    ∧ (d.attBusy = false → 3 ≤ d.phase → ∃ y, exec (.attreq n) s = .next y ∧ (nd y n).attBusy = true ∧ (nd y n).attDone = false
        ∧ (s.now + Config.latSign, Instr.attestationReport n) ∈ y.timers)
    ∧ (d.attBusy = false → exec (.attestationReport n) s = .next s)
    ∧ (d.attBusy = true → ∃ y g salt, exec (.attestationReport n) s = .next y ∧ (nd y n).attBusy = false ∧ (nd y n).attDone = true
        ∧ (nd y n).report = reportBody s n ++ valBytes 512 g ∧ salt.length = 64
        ∧ g ^ Config.identity.exponent % Config.identity.modulus = beVal (pssEncode (reportBody s n) salt)))
  ∧ (∀ s n code, (nd (failStart s n code) n).phase = 15 ∧ (nd (failStart s n code) n).fail = code)
  ∧ (∀ s, s.resetOf = none → ∃ y, exec .moduleReset s = .next y ∧ y.timers = [] ∧ y.late = [] ∧ y.ready = [] ∧ y.air = []
      ∧ ∀ n, (∀ c, c < 256 → coreCyc y n c = 0) ∧ (nd y n).phase = 0 ∧ (nd y n).cores = [] ∧ (nd y n).gscOn = false
        ∧ (nd y n).troot = [] ∧ (nd y n).host = (nd s n).host)
  ∧ ∀ s n, s.resetOf = some n → ∃ y, exec .moduleReset s = .next y ∧ (∀ c, c < 256 → coreCyc y n c = 0)
      ∧ (nd y n).phase = 0 ∧ (nd y n).cores = [] ∧ (nd y n).gscOn = false ∧ (nd y n).troot = [] ∧ (nd y n).host = (nd s n).host
      ∧ (∀ m, m ≠ n → nd y m = nd s m)
      ∧ ∀ t, t ∈ y.timers ↔ t ∈ s.timers ∧ eventNode t.2 ≠ some n

/-- What the host and the environment do to a node that runs (R209, R269, R318, R444, R445, R447, R450 to R452): register
writes reach the register window in their phases, memory writes the home, a lost node is lost to every node of the torus,
a corrected error is counted and an uncorrectable one poisons where it strikes, and a lost link module costs bandwidth
only. That NODELOST is ignored outside PHASE 3 and 4 is log 36, and that a corrected error changes nothing but its count
log 38: the model's readings (DEDUCED). The frame boundary (R32, R33, R35, R377, R430, R456): every class's budgets are
full again, the quads latch their heat from their sensors, and an entry that has waited eight frames moves to the head of
the next level. How the hysteresis of the heat levels is read is log 37 (DEDUCED). Of each of these it says which next
state it answers, under conditions on the state and the operands alone: nodelost, shutclr, tenantConfigWrite,
registerWrite, hostMemoryAccess, uncorrectableError, ucieModuleLoss, frameBoundary. -/
def Obligations.HostEvents : Prop :=
  (
    (∀ s n off size v,
      (size ≠ 8 ∨ off % 8 ≠ 0 → exec (.registerWrite n off size v) s = .next s)
      ∧ (off % 8 = 0 → exec (.registerWrite n off 8 v) s = .next (windowWrite s n off v)))
    ∧ (∀ s n v, (nd s n).phase = 3 →
        (nd (windowWrite s n 0x28 v) n).dways = v.toNat % 32 ∧ (nd (windowWrite s n 0x30 v) n).epHome = v
        ∧ (nd (windowWrite s n 0x38 v) n).dspill = v ∧ (nd (windowWrite s n 0x40 v) n).retIdle = v &&& 0xFFFF)
    ∧ (∀ s n v, (nd s n).phase = 4 → windowWrite s n 0x28 v = s ∧ windowWrite s n 0x30 v = s ∧ windowWrite s n 0x38 v = s)
    ∧ (∀ s n t w v,
        (((nd s n).phase ≠ 3 ∧ (nd s n).phase ≠ 4) ∨ 64 ≤ t ∨ tnWord w v = none → exec (.tenantConfigWrite n t w v) s = .next s)
        ∧ ∀ x, (nd s n).phase = 3 ∨ (nd s n).phase = 4 → t < 64 → tnWord w v = some x →
            exec (.tenantConfigWrite n t w v) s = .next (later s (.tnWord n t w x)))
    ∧ (∀ s n pa st bs, 2 ^ 39 < pa + bs.length → exec (.hostMemoryAccess n pa st bs) s = .next s)
    ∧ (∀ s n pa bs, pa + bs.length ≤ 2 ^ 39 → ∃ y, exec (.hostMemoryAccess n pa false bs) s = .next y
        ∧ ∀ sp, homeMem (nd y n) sp = homeMem (nd s n) sp)
    ∧ (∀ s n pa bs, pa + bs.length ≤ 2 ^ 39 → pa % 128 + bs.length ≤ 128 → Memory.wf (nd s n).hbm = true →
        ∃ y, exec (.hostMemoryAccess n pa true bs) s = .next y ∧ homeRead (nd y n) .hbm pa bs.length = bytesVal bs
          ∧ (∀ b, b < homeAddr (nd s n) .hbm pa ∨ homeAddr (nd s n) .hbm pa + bs.length ≤ b →
              smGet (homeMem (nd y n) .hbm) 0 b = smGet (homeMem (nd s n) .hbm) 0 b))
    ∧ (∀ s n m, ((nd s n).phase ≠ 3 → (nd s n).phase ≠ 4 → exec (.nodelost n m) s = .next s)
        ∧ ((nd s n).phase = 3 ∨ (nd s n).phase = 4 → ∃ y, exec (.nodelost n m) s = .next y ∧ ∀ k ∈ allNodes s, isLost y k m = true))
    ∧ (∀ s n, ((nd s n).shutter.started = none → ∃ y, exec (.shutclr n) s = .next y ∧ (nd y n).shutter.owner = none
            ∧ (nd y n).shutter.runs = [] ∧ (nd y n).shutter.shadow = [])
        ∧ ((nd s n).shutter.started ≠ none → ∃ y, exec (.shutclr n) s = .next y ∧ (nd y n).shutter.runs = []
            ∧ ∃ t k, (nd y n).shutter.started = some (t, k)))
    ∧ (∀ s n site c x, ∃ y, exec (.uncorrectableError n site c x true) s = .next y ∧ y = modNd s n fun d =>
          { d with eccCnt := if d.eccCnt = BitVec.allOnes 64 then d.eccCnt else d.eccCnt + 1 })
    ∧ (∀ s n, (∀ site c x, exec (.uncorrectableError n site c x false) s = .next (errorAt s n site c x))
        ∧ (∀ c off, smGet (co (errorAt s n .spad c off) n c).spadPoison false (off / 128) = true)
        ∧ (∀ c row, smGet (co (errorAt s n .acc c row) n c).accPoison false row = true)
        ∧ (∀ sp c pa, errorAt s n (.home sp) c pa = modNd s n fun d => setPoison d sp pa true)
        ∧ ∀ c sp pa, errorAt s n (.l1 sp) c pa = modCo s n c fun k => l1Error k sp pa)
    ∧ ∀ s n k, ∃ y, exec (.ucieModuleLoss n k) s = .next y ∧ k ∈ (nd y n).ucie
        ∧ ∀ m, { nd y m with ucie := [] } = { nd s m with ucie := [] })
  ∧ (
    (∀ s n, ∃ y, exec (.frameBoundary n) s = .next y ∧ (nd y n).frame = frameOf s n
      ∧ (∀ k, k < 16 → bucketOf (nd y n) k = refill (budgetWord (nd s n) k))
      ∧ (bit (nd s n).thermTab 0 = false → ∀ q, q < 64 →
          (qd y n q).heat = nextHeat ⟨85, 95, 105, 2⟩ (qd s n q).heat (qd s n q).sensor ∧ (qd y n q).temp = (qd s n q).sensor))
    ∧ (∀ t old temp, t.warm < t.hot → t.hot < t.lim → old ≤ 3 →
        nextHeat t old temp ≤ 3
        ∧ (t.lim ≤ temp → nextHeat t old temp = 3)
        ∧ (threshold t old ≤ temp + t.hyst → old ≤ nextHeat t old temp)
        ∧ old - 1 ≤ nextHeat t old temp)
    ∧ ∀ l e, (∀ x ∈ l, x.wait < 7) →
        agePending l = l.map older
        ∧ (7 ≤ e.wait → e.level < 3 → agePending (l ++ [e]) = { e with wait := 0, level := e.level + 1 } :: l.map older)
        ∧ (7 ≤ e.wait → 3 ≤ e.level → agePending (l ++ [e]) = l.map older ++ [{ older e with aged := true }]))

/-! Results that land, accesses that complete, and what a core fetches. -/

/-- Results land (R96, R129, R413, R414): every due result of its kind leaves the list of results in flight, and the one due
result takes its destination: a register, the bytes of a row that its enables name, or a mask register; the landing buffer
lands on a core that runs, and INTERLOCK is set after that cc exactly while it still holds a result. Of each of these it
says which next state it answers, under conditions on the state and the operands alone: vectorResultLanding,
scalarResultWrite, landingBufferLand. -/
def Obligations.Landings : Prop :=
  (∀ s n c, ∃ y, exec (.scalarResultWrite n c) s = .next y
      ∧ (∀ r, r ∈ (co y n c).inflight ↔ r ∈ (co s n c).inflight ∧ ¬ (r.due ≤ coreCyc s n c ∧ isVecResult r = false))
      ∧ ∀ r q d, dueResults s n c false = [r] → r.dest = .sreg q d →
          sq y n c q = regWrite (sq s n c q) d (r.val.setWidth 64))
  ∧ (∀ s n c, ∃ y, exec (.vectorResultLanding n c) s = .next y
      ∧ (∀ r, r ∈ (co y n c).inflight ↔ r ∈ (co s n c).inflight ∧ ¬ (r.due ≤ coreCyc s n c ∧ isVecResult r = true))
      ∧ ∀ r, dueResults s n c true = [r] →
          (∀ i, r.dest = .row i →
            (co y n c).acc = smSet (co s n c).acc 0 i (mergeRow (smGet (co s n c).acc 0 i) r.val r.en))
          ∧ (∀ m, r.dest = .mask m → (co y n c).masks = smSet (co s n c).masks 0 m (r.val.setWidth 512)))
  ∧ (∀ s n c, (co s n c).mode ≠ .run → exec (.landingBufferLand n c) s = .next s)
  ∧ (∀ s n c, (co s n c).mode = .run → ∃ y, exec (.landingBufferLand n c) s = .next y
      ∧ (∀ r, r ∈ (co y n c).landing ↔ r ∈ (co s n c).landing ∧ ¬ r.due ≤ coreCyc s n c)
      ∧ Late.interlock n c ∈ y.late
      ∧ ∀ r q d, dueLanding s n c = [r] → r.dest = .sreg q d → r.relay = none →
          sq y n c q = regWrite (sq s n c q) d (r.val.setWidth 64))
  ∧ ∀ s n c, (co (applyLate s (.interlock n c)) n c).interlock = !(co s n c).landing.isEmpty

/-- Loads and block transfers complete (R213, R216, R219, R410): the data of LD is extended and written and the sequencer goes
on, or its fault takes the issue back and stands among the faults of the cc; an LDQ fills its slot with its data or its
fault; a block transfer retires at its time once the lines of other nodes have arrived. That it moves each line of its own
node, with its poison, as it issues is the model's reading (DEDUCED, log 15). Atomics complete (R196, R238, R239, R242):
at the memory port the old value is read and the new one written, with the A bit of the page, or a poisoned line leaves
everything and faults POISON; the old value, extended, is written and the sequencer goes on. Of each of these it says
which next state it answers, under conditions on the state and the operands alone: loadDataReturn, ldqFill, blkRetire,
atomicPerform, atomicReturn. -/
def Obligations.Completions : Prop :=
  (
    (∀ s n c q p v, (sq s n c q).hold = .load p → p.data = some v →
      (p.code = 0 → (co s n c).mode = .run → ∃ y, exec (.loadDataReturn n c q) s = .next y ∧ (sq y n c q).hold = .none
        ∧ (sq y n c q).pc = (sq s n c q).pc
        ∧ ∀ d, p.reg = some d → (sq y n c q).regs = (regWrite (sq s n c q) d (extend p.signed p.size v.toNat)).regs)
      ∧ (p.code ≠ 0 → (co s n c).mode = .handler → exec (.loadDataReturn n c q) s
            = .next (takeTrap (unissue s n c q p) n c ⟨p.code, 0, seqIdx q, false, false, p.va, 0⟩))
      ∧ (p.code ≠ 0 → (co s n c).mode = .run → exec (.loadDataReturn n c q) s
            = .next (modCo (unissue s n c q p) n c fun x =>
                { x with deferred := x.deferred ++ [⟨p.code, 0, seqIdx q, false, false, p.va, 0⟩] })
          ∧ (sq (unissue s n c q p) n c q).pc = p.pc ∧ (sq (unissue s n c q p) n c q).regs = (sq s n c q).regs))
    ∧ (∀ s n c tag p rest q i v, takeFirst (fun x => x.tag == tag) (co s n c).loads = some (p, rest) → p.queue = some (q, i) →
        p.data = some v → (co s n c).mode = .run → ∃ y, exec (.ldqFill n c tag) s = .next y ∧ (co y n c).loads = rest
          ∧ queueOf (co y n c) q = queueOf (queueFill (co s n c) q i
              (if p.code = 0 then .filled (extend p.signed p.size v.toNat) else .bad p.code p.va)) q)
    ∧ (∀ s n c tag, takeFirst (fun b => b.tag == tag) (co s n c).blks = none → exec (.blkRetire n c tag) s = .next s)
    ∧ (∀ s n c tag b rest, takeFirst (fun b => b.tag == tag) (co s n c).blks = some (b, rest) →
        (b.lines ≠ [] ∨ s.now < b.due → exec (.blkRetire n c tag) s = .next s)
        ∧ (b.lines = [] → b.due ≤ s.now → (co s n c).mode = .run → ∃ y, exec (.blkRetire n c tag) s = .next y
            ∧ (co y n c).blks = rest ∧ (b.tok = none → y = modCo s n c fun k => { k with blks := rest })))
    ∧ ∀ s tag t off va, (∀ m rl o, t ≠ .remote m rl o) →
        let n := s.cur.node
        let c := s.cur.core
        let cls := some (classOf (cc s))
        let w := writeT (strongRelease s t) n c cls t 128 (fullMask 128) (spadRead (cc s) off 128)
        let g := readT (strongAcquire s t) n c cls t 128
        let x := modCo g.s n c fun k => spadWrite k off 128 (fullMask 128) g.v
        blkMove true tag s ((t, off), va) = (if spadPoisoned (cc s) off then poisonT w n c t else w)
        ∧ blkMove false tag s ((t, off), va) = (if g.poison then poisonT x n c (.spad c off) else x))
  ∧ (
    (∀ s n c q p k, (sq s n c q).hold = .atomic p → p.aop = some k → p.data = none →
      let g := atomicT s n c (some (classOf (co s n c))) p.tgt k p.size p.op.toNat p.cmp.toNat
      let r : PendAcc := { p with data := some (BitVec.ofNat 64 g.v), code := if g.poison then 0x07 else 0 }
      exec (.atomicPerform n c q) s
        = .next (schedule (modSq (if g.poison then g.s else setABit g.s n c p.aBit) n c q fun x => { x with hold := .atomic r }) 0
            (.atomicReturn n c q)))
    ∧ (∀ s n c q p v, (sq s n c q).hold = .atomic p → p.data = some v → p.code = 0 → (co s n c).mode = .run →
        ∃ y, exec (.atomicReturn n c q) s = .next y ∧ (sq y n c q).hold = .none
          ∧ (∀ d, p.reg = some d → (sq y n c q).regs = (regWrite (sq s n c q) d (extend p.signed p.size v.toNat)).regs)
          ∧ (p.acq = false → (co y n c).l1 = (co s n c).l1))
    ∧ (∀ s n c q p v, (sq s n c q).hold = .atomic p → p.data = some v → p.code ≠ 0 → (co s n c).mode = .run →
        exec (.atomicReturn n c q) s = .next (modCo (unissue s n c q p) n c fun x =>
          { x with deferred := x.deferred ++ [⟨p.code, 0, seqIdx q, false, false, p.va, 0⟩] }))
    ∧ (∀ s n c q p v, (sq s n c q).hold = .atomic p → p.data = some v → p.code ≠ 0 → (co s n c).mode = .handler →
        exec (.atomicReturn n c q) s
          = .next (takeTrap (unissue s n c q p) n c ⟨p.code, 0, seqIdx q, false, false, p.va, 0⟩))
    ∧ ∀ s n c cls off k size x z, spadPoisoned (co s n c) off = false →
        let g := atomicT s n c cls (.spad c off) k size x z
        g.v = spadRead (co s n c) off size ∧ g.poison = false
        ∧ co g.s n c = spadWrite (co s n c) off size (fullMask size) (atomicNew k size (spadRead (co s n c) off size) x z))

/-- Window accesses (R190, R215, R238): an access is performed at its target under the caller's ASID and its answer, with the
data or the fault found there, travels back; one that faults leaves the target as it was (R196); a poisoned line of a ZP
page loads zeros and is counted (R210). An acknowledgement releases its store, with a deferred fault where the store was
dropped; an answer reaches the instruction that waits for it; ten frames without one fault PEERGONE. Of each of these it
says which next state it answers, under conditions on the state and the operands alone: windowAccess, windowReply,
windowPeergone. -/
def Obligations.WindowAccesses : Prop :=
  (∀ s n r, exec (.windowAccess n r) s
      = .next (netSend (performWindow s n r).1 n r.src (if r.relaxed then 1 else 0) r.asid (winReplyBytes r.op r.size - 32)
          (.windowReply r.src (performWindow s n r).2)))
  ∧ (∀ s n r,
    let ask (k : Need) := chkLocal s n none (smGet (nd s n).troot 0 r.asid) r.asid r.off r.size k true
    let own (z : State) (sp : Space) (pa : Nat) := if r.src = n then l1Drop z n r.core sp pa true else z
    let rep (code v : Nat) := Claims.winRep n r code v
    (∀ code z, r.op = .load → ask .r = .fault code z → performWindow s n r = (s, rep code 0))
    ∧ (∀ code z, r.op = .store → ask .w = .fault code z → performWindow s n r = (s, rep code 0))
    ∧ (∀ code z op v c a b, r.op = .atomic op v c a b → ask .rw = .fault code z → performWindow s n r = (s, rep code 0))
    ∧ (∀ sp pa k zp z, r.op = .load → ask .r = .ok (.mem sp pa k zp) z →
        let x := own z sp pa
        let y := touch x n (some r.cls) sp pa r.size false
        (isPoison (nd x n) sp pa = false → performWindow s n r = (y, rep 0 (homeRead (nd y n) sp pa r.size)))
        ∧ (isPoison (nd x n) sp pa = true → zp = true → performWindow s n r = (addPoisonZ y r.src r.core, rep 0 0))
        ∧ (isPoison (nd x n) sp pa = true → zp = false → r.poison = false →
            performWindow s n r = (s, { rep 0 0 with poison := true })))
    ∧ (∀ sp pa k zp z, r.op = .store → ask .w = .ok (.mem sp pa k zp) z →
        let x := touch (own z sp pa) n (some r.cls) sp pa r.size true
        let y := modNd x n fun d => homeWrite d sp pa r.size (fullMask r.size) r.data.toNat
        performWindow s n r = (if r.poison then modNd y n fun d => setPoison d sp pa true else y, rep 0 0))
    ∧ ∀ sp pa k zp z op v c a b, r.op = .atomic op v c a b → ask .rw = .ok (.mem sp pa k zp) z →
        let w := own z sp pa
        (sp = .host → performWindow s n r = (s, rep 0x06 0))
        ∧ (sp ≠ .host → isPoison (nd w n) sp pa = true → performWindow s n r = (s, { rep 0x07 0 with poison := true }))
        ∧ (sp ≠ .host → isPoison (nd w n) sp pa = false →
            let x := touch (touch w n (some r.cls) sp pa r.size false) n (some r.cls) sp pa r.size true
            let old := homeRead (nd x n) sp pa r.size
            performWindow s n r = (modNd x n fun d => homeWrite d sp pa r.size (fullMask r.size)
                (atomicNew op r.size old v.toNat c.toNat), rep 0 old)))
  ∧ (∀ s n r w rest, r.isStore = true → takeFirst (fun w => w.tag == r.tag) (co s n r.core).winOut = some (w, rest) →
      ∃ y, exec (.windowReply n r) s = .next y ∧ (co y n r.core).winOut = rest
        ∧ (r.code = 0 → (co y n r.core).deferred = (co s n r.core).deferred)
        ∧ (r.code ≠ 0 → (co y n r.core).deferred
            = (co s n r.core).deferred ++ [⟨r.code, 0, seqIdx w.seq, true, false, w.addr, 0⟩]))
  ∧ (∀ s n r, r.isStore = false →
      let c := r.core
      let code := if r.code ≠ 0 then r.code else if r.poison then 0x07 else 0
      let z := if r.code = 0 then winAcquire s n c r.node (r.addr.toNat % 2 ^ 48) else s
      (∀ p, (sq s n c r.seq).hold = .load p → p.tag = r.tag →
        exec (.windowReply n r) s = .next (schedule (modSq z n c r.seq fun x =>
          { x with hold := .load { p with data := some (r.data.setWidth 64), code := code } }) 0 (.loadDataReturn n c r.seq)))
      ∧ (∀ p, (sq s n c r.seq).hold = .atomic p → p.tag = r.tag →
        exec (.windowReply n r) s = .next (schedule (modSq z n c r.seq fun x =>
          { x with hold := .atomic { p with data := some (r.data.setWidth 64), code := code } }) 0 (.atomicReturn n c r.seq)))
      ∧ ((∀ p, (sq s n c r.seq).hold = .load p ∨ (sq s n c r.seq).hold = .atomic p → p.tag ≠ r.tag) →
          (∀ p ∈ (co s n c).loads, p.tag = r.tag →
            exec (.windowReply n r) s = .next (schedule (modCo z n c fun k => { k with loads := k.loads.map fun p =>
              if p.tag == r.tag then { p with data := some (r.data.setWidth 64), code := code } else p }) 0 (.ldqFill n c r.tag)))
          ∧ ((∀ p ∈ (co s n c).loads, p.tag ≠ r.tag) → exec (.windowReply n r) s = .next (blkReply z n c r.tag r))))
  ∧ (∀ s n c tag q p, (allSeqs.find? fun q => match (sq s n c q).hold with
        | .load p => p.tag == tag && p.data.isNone
        | .atomic p => p.tag == tag && p.data.isNone
        | _ => false) = some q →
      (sq s n c q).hold = .load p ∨ (sq s n c q).hold = .atomic p → (co s n c).mode = .run →
      exec (.windowPeergone n c tag) s = .next (modCo (unissue s n c q p) n c fun x =>
        { x with deferred := x.deferred ++ [⟨0x0E, 0, seqIdx q, false, false, p.va, 0⟩] }))
  ∧ ∀ s n c tag w rest, (allSeqs.find? fun q => match (sq s n c q).hold with
        | .load p => p.tag == tag && p.data.isNone
        | .atomic p => p.tag == tag && p.data.isNone
        | _ => false) = none →
      takeFirst (fun w => w.tag == tag) (co s n c).winOut = some (w, rest) →
      ∃ y, exec (.windowPeergone n c tag) s = .next y ∧ (co y n c).winOut = rest
        ∧ (co y n c).deferred = (co s n c).deferred ++ [⟨0x0E, 0, seqIdx w.seq, true, false, w.addr, 0⟩]

/-- Line fetch (R40, R46, R48): a running sequencer that does not hold the line of its program counter needs it; a line that
is read whole, whose link word names the sequencer and a count below 15, is ready; another sequencer's line faults
WRONG_SEQ and a count of 15 ILLEGAL at the point about to execute, a read that is refused faults at the line's address,
and a line outside the image is ILLEGAL (log 46); that WRONG_SEQ stands before ILLEGAL where a link word breaks both rules
is the model's choice (DESIGN CHOICE, log 45). With an empty HBM bucket the fetch waits (R33). A sequencer that needs no
line is left alone. Of each of these it says which next state it answers, under conditions on the state and the operands
alone: lineFetch. -/
def Obligations.LineFetch : Prop :=
  (∀ s n c q, (co s n c).mode = .run → (co s n c).resumeAt ≤ s.now →
    (sq s n c q).status = .running ∨ (sq s n c q).status = .blocked →
    let idx := (sq s n c q).pc.toNat / 16
    ((sq s n c q).line = .none → lineWanted s n c q = some idx)
    ∧ (∀ i bits, (sq s n c q).line = .ready i bits → lineWanted s n c q = if i = idx then none else some idx)
    ∧ ∀ i code addr, (sq s n c q).line = .bad i code addr → lineWanted s n c q = if i = idx then none else some idx)
  ∧ (∀ s n c q idx, lineWanted s n c q = some idx →
    let img := imageOf (co s n c)
    let va := img.1 + BitVec.ofNat 64 (64 * idx)
    let at_ := pcWord (sq s n c q).pc
    let got (z : State) (l : LineBuf) := modSq z n c q fun k => { k with line := l }
    (idx = 0 ∨ img.2.1 ≤ idx → exec (.lineFetch n c q) s = .next (got s (.bad idx 0x01 at_)))
    ∧ (1 ≤ idx → idx < img.2.1 →
        (fetchHold s n c va = true → exec (.lineFetch n c q) s = .next s)
        ∧ (fetchHold s n c va = false →
            (∀ bits z, readLine s n c va = (.inr bits, z) →
              (fld bits 31 30 ≠ seqIdx q → exec (.lineFetch n c q) s = .next (got z (.bad idx 0x02 at_)))
              ∧ (fld bits 31 30 = seqIdx q → fld bits 27 24 = 15 →
                  exec (.lineFetch n c q) s = .next (got z (.bad idx 0x01 at_)))
              ∧ (fld bits 31 30 = seqIdx q → fld bits 27 24 ≠ 15 →
                  exec (.lineFetch n c q) s = .next (got z (.ready idx bits))))
            ∧ (∀ code z, readLine s n c va = (.inl code, z) →
                exec (.lineFetch n c q) s = .next (got z (.bad idx code va))))))
  ∧ ∀ s n c q, lineWanted s n c q = none → exec (.lineFetch n c q) s = .next s

/-! The router, the prism and the links. -/

/-- The top of a packet's stack and the entries below it (R266). -/
def Sys2Proof.Claims.top (h : Hop) (i : Nat) : Word := pStack h.img (pSdep h.img - 1 - i)
/-- A packet with its `k` top entries popped (R268). -/
def Sys2Proof.Claims.less (h : Hop) (k : Nat) : PImage := (popMany k h.img).2
/-- A prism instruction about to execute (R272, R273): its context holds a packet, the mask bit it needs is set, and the
entries it pops and those it pushes are there. -/
structure Sys2Proof.Claims.Hopping (s : State) (h : Hop) (pops pushes : Nat) (need : Option Nat) : Prop where
  here : curHop s = some h
  mask : ∀ b, need = some b → cfgMask h.cfg b = true
  deep : pops ≤ pSdep h.img
  fits : pSdep h.img - pops + pushes ≤ 8
/-- The hop once its instruction has executed: a step counted, the packet changed, the index moved, and the next instruction
due after `delay` cc (R272, R275). -/
def Sys2Proof.Claims.hopOn (z : State) (h : Hop) (img : PImage) (nxt delay : Nat) : State :=
  schedule (putHop z z.cur.node z.cur.ctx { h with img := img, steps := h.steps + 1, prev := h.pc, pc := nxt }) delay
    (.progHop z.cur.node z.cur.ctx)
/-- A hop whose instruction faulted: the step counted, the packet parked as the instruction found it (R273, R285). -/
def Sys2Proof.Claims.parked (s : State) (h : Hop) (code : Nat) : State :=
  parkHop (chargeStep s h) { h with steps := h.steps + 1 } code h.pc

/-- The router between packets (R271, R283, R287, R294, R314): an arriving program packet waits for a context; a notice adds
to its tenant's counter or is counted as lost; a delivery waits for room, reserves the next slot, and at last counts up
and frees its context, or is dropped with a notice once its time is over; a DATA packet is delivered or dropped; an
acknowledgement shrinks what is outstanding and sets the window once a round trip; the window is open to relaxed bytes
that it has room for, and to any where nothing is outstanding. Which instruction of a program a hop executes (R272, R273):
the one at its index, decoded from the packet's own bytes, unless the index has passed the last, which parks it with
FETCH_CHECK, or 32 steps have been made, which parks it with LOOPS; a context that delivers, or is free, executes none.
The tenant's configuration block is read at the hop's start. Of each of these it says which next state it answers, under
conditions on the state and the operands alone: ackReceive, progArrival, dataDelivery, deliveryReserve,
deliveryCountAdvance, deliveryTimeout, notice, progHop. -/
def Obligations.Router : Prop :=
  (
    (∀ s n p arr idx, ∃ y, exec (.progArrival n p arr idx) s = .next y
        ∧ (nd y n).arrivals = (nd s n).arrivals ++ [⟨p, arr, idx, s.now, if idx.isSome then 6 else arr⟩] ∧ (nd y n).hops = (nd s n).hops)
    ∧ (∀ s n t i drop,
        let c := prismCfg (nd s n) t
        (cwLen c ≤ i → ∃ y, exec (.notice n t i drop) s = .next y ∧ (nd y n).counters = (nd s n).counters
          ∧ (trtOf (nd y n) t).lost.toNat = min ((trtOf (nd s n) t).lost.toNat + 1) (2 ^ 64 - 1))
        ∧ (i < cwLen c → exec (.notice n t i drop) s
            = .next (addCtr s n (cwBase c + i) (if drop then 0x100000000 else 1))))
    ∧ (∀ s n k h, hopOf (nd s n) k = some h → h.stage = 1 →
        let p := resOf (nd s n) h.cfg (pTenant h.img)
        (ringRoom (nd s n) h = true → ∃ y, exec (.deliveryReserve n k) s = .next y
          ∧ (trtOf (nd y n) (pTenant h.img)).res = some (p + 1).toNat
          ∧ hopOf (nd y n) k = some { h with stage := 2, slot := p.toNat, ready := s.now + Config.latNear })
        ∧ (ringRoom (nd s n) h = false → exec (.deliveryReserve n k) s = .next s)
        ∧ (h.until_ < frameOf s n → exec (.deliveryTimeout n k) s = .next (sendNotice (endHop s n k) n h.img true))
        ∧ (frameOf s n ≤ h.until_ → exec (.deliveryTimeout n k) s = .next s))
    ∧ (∀ s n k h, hopOf (nd s n) k = some h →
        (advanceDue s n h = false → exec (.deliveryCountAdvance n k) s = .next s)
        ∧ (advanceDue s n h = true → (trtOf (nd s n) (pTenant h.img)).waiting = [] → smWf 0 (nd s n).counters = true →
            smWf none (nd s n).hops = true → ∃ y, exec (.deliveryCountAdvance n k) s = .next y
              ∧ ctrAt (nd y n) (prodCtr h.cfg) = BitVec.ofNat 64 h.slot + 1 ∧ hopOf (nd y n) k = none))
    ∧ (∀ s n p arr,
        let c := prismCfg (nd s n) (pTenant p)
        (deliveryBar c ≠ none → exec (.dataDelivery n p arr) s = .next (sendNotice s n p true))
        ∧ (deliveryBar c = none → ∃ y h, exec (.dataDelivery n p arr) s = .next y
            ∧ hopOf (nd y n) (8 + (nd s n).nextDel) = some h ∧ h.img = p ∧ h.stage = 1 ∧ h.cfg = c
            ∧ h.until_ = frameOf s n + 1))
    ∧ ∀ s n m b g,
        let w := cwinOf (nd s n) m
        let rtt := gsc s n - g
        let grown := if 1250 < rtt then w.w * (rtt + 1250) / (2 * rtt) else w.w + 4096
        let v : CWin := if w.last = 0 ∨ w.last < g then
            { w with out := w.out - b, w := min (max (grown / 128 * 128) 1024) 1048576, last := gsc s n }
          else { w with out := w.out - b }
        let z := modNd s n fun d => { d with cwin := smPut d.cwin m v }
        exec (.ackReceive n m b g) s = .next z
        ∧ (cwinOpen (nd s n) n m b true = true ↔ n = m ∨ w.out = 0 ∨ w.out + b ≤ w.w))
  ∧ (
    ∀ s n k,
      let z : State := { s with cur := { s.cur with node := n, ctx := k } }
      (hopOf (nd s n) k = none → exec (.progHop n k) s = .next z)
      ∧ ∀ h0, hopOf (nd s n) k = some h0 →
        let h : Hop := if h0.cfg = [] then { h0 with cfg := prismCfg (nd s n) (pTenant h0.img) } else h0
        let y := putHop z n k h
        (h.stage ≠ 0 → exec (.progHop n k) s = .next y)
        ∧ (h.stage = 0 → pNim1 h.img < h.pc → exec (.progHop n k) s = .next (parkHop y h 0x44 h.prev))
        ∧ (h.stage = 0 → h.pc ≤ pNim1 h.img → 32 ≤ h.steps → exec (.progHop n k) s = .next (parkHop y h 0x41 h.pc))
        ∧ ∀ i, h.stage = 0 → h.pc ≤ pNim1 h.img → h.steps < 32 → decodePrism (pInstr h.img h.pc) = some i →
            curHop y = some h ∧ ∃ t, exec (.progHop n k) s = .next t ∧ exec i y = .next t)

/-- The stack of a packet (R266, R268): a push writes the entry at SDEP and counts up, a pop gives the entry below SDEP,
clears it and counts down, and neither touches another entry or an instruction. -/
def Obligations.PacketStack : Prop :=
  (∀ p v, pSdep p < 8 → pSdep (pushStack p v) = pSdep p + 1 ∧ pStack (pushStack p v) (pSdep p) = v
    ∧ (∀ i, i < 8 → i ≠ pSdep p → pStack (pushStack p v) i = pStack p i) ∧ ∀ i, i < 16 → pInstr (pushStack p v) i = pInstr p i)
  ∧ ∀ p, 0 < pSdep p → pSdep p ≤ 8 → (popStack p).1 = pStack p (pSdep p - 1) ∧ pSdep (popStack p).2 = pSdep p - 1
    ∧ pStack (popStack p).2 (pSdep p - 1) = 0
    ∧ (∀ i, i < 8 → i ≠ pSdep p - 1 → pStack (popStack p).2 i = pStack p i)
    ∧ ∀ i, i < 16 → pInstr (popStack p).2 i = pInstr p i

/-- The computing instructions of the prism (R274, R277): a, b → a op b with b on top, shifts by 64 or more giving 0, the
constants and payload words pushed or written, branches and ENTRY. The instructions on counters and on the tenant's window
of the deep store (R278, R279): the old value is pushed; CTRADD adds to the counter, SWADD adds to the word, SWCAS writes
its top entry over a word equal to the entry below. Of each of these it says which next state it answers, under conditions
on the state and the operands alone: pshi, pshk, popk, cmp, get, brz, brnz, jmp, pldw, pstw, entry, dup, drops, swap,
over, prismAdd, prismSub, prismAnd, prismOr, prismXor, prismShl, prismShr, ctrld, ctradd, swld, swadd, swcas. -/
def Obligations.PrismValues : Prop :=
  (
    (∀ e ∈ ([(Instr.prismAdd, fun a b => a + b), (Instr.prismSub, fun a b => a - b), (Instr.prismAnd, fun a b => a &&& b),
        (Instr.prismOr, fun a b => a ||| b), (Instr.prismXor, fun a b => a ^^^ b), (Instr.prismShl, fun a b => a <<< b.toNat),
        (Instr.prismShr, fun a b => a >>> b.toNat), (Instr.cmp 0, fun a b => if a = b then 1 else 0),
        (Instr.cmp 1, fun a b => if a = b then 0 else 1), (Instr.cmp 2, fun a b => if a.slt b then 1 else 0),
        (Instr.cmp 3, fun a b => if a.ult b then 1 else 0), (Instr.cmp 4, fun a b => if a.slt b then 0 else 1),
        (Instr.cmp 5, fun a b => if a.ult b then 0 else 1), (Instr.cmp 6, fun _ _ => 0), (Instr.cmp 7, fun _ _ => 1)]
        : List (Instr × (Word → Word → Word))),
      ∀ s h, Hopping s h 2 1 none →
        exec e.1 s = .next (hopOn (chargeStep s h) h (pushStack (less h 2) (e.2 (top h 1) (top h 0))) (h.pc + 1) 1))
    ∧ (∀ s h, Hopping s h 0 1 none →
        let go (v : Word) : Out := .next (hopOn (chargeStep s h) h (pushStack h.img v) (h.pc + 1) 1)
        (∀ v, exec (.pshi v) s = go (v.signExtend 64)) ∧ (∀ n, exec (.pshk n) s = go (pK h.img n.toNat))
        ∧ (∀ d e, exec (.get d e) s = go (getVal (chargeStep s h) { h with steps := h.steps + 1 } d.toNat e.toNat))
        ∧ ∀ w, w.toNat < 4 * pPlen h.img → exec (.pldw w) s = go (pPayload h.img w.toNat))
    ∧ (∀ s h, Hopping s h 1 0 none →
        let go (p : PImage) (nxt : Nat) : Out := .next (hopOn (chargeStep s h) h p nxt 1)
        (∀ n, exec (.popk n) s = go (setK (less h 1) n.toNat (top h 0)) (h.pc + 1))
        ∧ exec .drops s = go (less h 1) (h.pc + 1)
        ∧ (∀ t, exec (.brz t) s = go (less h 1) (if top h 0 = 0 then t.toNat else h.pc + 1))
        ∧ (∀ t, exec (.brnz t) s = go (less h 1) (if top h 0 = 0 then h.pc + 1 else t.toNat))
        ∧ ∀ w, w.toNat < 4 * pPlen h.img →
            exec (.pstw w) s = go (setPayload (less h 1) w.toNat (top h 0)) (h.pc + 1))
    ∧ (∀ s h, Hopping s h 1 2 none → exec .dup s
        = .next (hopOn (chargeStep s h) h (pushStack (pushStack (less h 1) (top h 0)) (top h 0)) (h.pc + 1) 1))
    ∧ (∀ s h, Hopping s h 2 2 none → exec .swap s
        = .next (hopOn (chargeStep s h) h (pushStack (pushStack (less h 2) (top h 0)) (top h 1)) (h.pc + 1) 1))
    ∧ (∀ s h, Hopping s h 2 3 none → exec .over s = .next (hopOn (chargeStep s h) h
        (pushStack (pushStack (pushStack (less h 2) (top h 1)) (top h 0)) (top h 1)) (h.pc + 1) 1))
    ∧ ∀ s h, Hopping s h 0 0 none →
        (∀ t, exec (.jmp t) s = .next (hopOn (chargeStep s h) h h.img t.toNat 1))
        ∧ ∀ t, exec (.entry t) s = .next (hopOn (chargeStep s h) h (putFld h.img 111 108 t.toNat) (h.pc + 1) 1))
  ∧ (
    (∀ s h, Hopping s h 1 1 (some 0) → (top h 0).toNat < cwLen h.cfg →
      exec .ctrld s = .next (hopOn (chargeStep s h) h
        (pushStack (less h 1) (ctrAt (nd s s.cur.node) (cwBase h.cfg + (top h 0).toNat))) (h.pc + 1) 2))
    ∧ (∀ s h, Hopping s h 2 1 (some 1) → (top h 1).toNat < cwLen h.cfg →
        let i := cwBase h.cfg + (top h 1).toNat
        exec .ctradd s = .next (hopOn (softCtr (chargeStep s h) s.cur.node i true (top h 0)) h
          (pushStack (less h 2) (ctrAt (nd s s.cur.node) i)) (h.pc + 1) 2))
    ∧ ∀ e ∈ ([(Instr.swld, 1, 2, fun _ old => old), (Instr.swadd, 2, 3, fun h old => old + top h 0),
          (Instr.swcas, 3, 3, fun h old => if old = top h 1 then top h 0 else old)]
          : List (Instr × Nat × Nat × (Hop → Word → Word))),
        ∀ s h, Hopping s h e.2.1 1 (some e.2.2.1) → (top h (e.2.1 - 1)).toNat < rwLen (nd s s.cur.node) h.cfg →
          let a := rwBase h.cfg + 8 * (top h (e.2.1 - 1)).toNat
          let z := touch (chargeStep s h) s.cur.node none .deep a 8 true
          let old : Word := BitVec.ofNat 64 (homeRead (nd z s.cur.node) .deep a 8)
          isPoison (nd z s.cur.node) .deep a = false →
          exec e.1 s = .next (hopOn
            (modNd z s.cur.node fun d => homeWrite d .deep a 8 (fullMask 8) (e.2.2.2 h old).toNat) h
            (pushStack (less h e.2.1) old) (h.pc + 1) (Config.latNear + sliceDelay (chargeStep s h) s.cur.node .deep a)))

/-- The instructions that give a packet its direction, and those that end its hop or copy it (R280 to R284): FWD spends a hop
and leaves toward DIR, or delivers where DIR is LOCAL; CLONE sends a copy and goes on; DLVR delivers; PARK parks; DROP and
DROP.N free the context, the latter with a notice. Of each of these it says which next state it answers, under conditions
on the state and the operands alone: clone, dirset, dirmin, dirminNa, dirsetStack, dirto, dirtoStack, fwd, dlvr, park,
drop, dropN. -/
def Obligations.PrismMoves : Prop :=
  (∀ s h, Hopping s h 0 0 none →
    let z := chargeStep s h
    let h' : Hop := { h with steps := h.steps + 1 }
    let n := s.cur.node
    let turn (d : Nat) : Out := .next (hopOn z h (setDir h.img d) (h.pc + 1) 1)
    let leave (z : State) : Out := .next (endHop z n s.cur.ctx)
    (∀ d, exec (.dirset d) s = turn d.toNat) ∧ (exec .dirto s = turn (dirTo s n (pDhint h.img)))
    ∧ (∀ m, cfgMask h.cfg 6 = true → exec (.dirmin m) s = turn (minDir z h' m.toNat false)
        ∧ exec (.dirminNa m) s = turn (minDir z h' m.toNat true))
    ∧ (pDir h.img < 6 → cfgMask h.cfg 7 = true → 0 < pHopb h.img → hasLink s (pDir h.img) = true →
        exec .fwd s = leave (sendToward z n (pDir h.img) (hopSpent h.img)))
    ∧ (pDir h.img = 6 → deliveryBar h.cfg = none → exec .fwd s = .next (beginDelivery z n s.cur.ctx h'))
    ∧ (deliveryBar h.cfg = none → exec .dlvr s = .next (beginDelivery z n s.cur.ctx h'))
    ∧ exec .park s = .next (parked s h 0) ∧ exec .drop s = leave z ∧ exec .dropN s = leave (sendNotice z n h.img true)
    ∧ ∀ d : BitVec 3,
        let to_ := if d = 7 then pDir h.img else d.toNat
        let p := putFld h.img 119 116 (pClb h.img - 1)
        cfgMask h.cfg 4 = true → cfgMask h.cfg 7 = true → to_ < 6 → hasLink s to_ = true → 0 < pClb h.img → 0 < pHopb h.img →
        exec (.clone d) s = .next (hopOn (sendToward z n to_
          (hopSpent (setDir (putFld (putFld p 82 82 1) 115 112 (min (pCdep p + 1) 15)) to_))) h p (h.pc + 1) 1))
  ∧ ∀ s h, Hopping s h 1 0 none →
      exec .dirsetStack s = .next (hopOn (chargeStep s h) h (setDir (less h 1) (fld (top h 0) 2 0)) (h.pc + 1) 1)
      ∧ exec .dirtoStack s
          = .next (hopOn (chargeStep s h) h (setDir (less h 1) (dirTo s s.cur.node (fld (top h 0) 11 0))) (h.pc + 1) 1)

/-- Where a prism instruction parks its packet (R273, R278 to R285): a mask bit that is clear gives REFUSED, a stack that is
too short or too full gives STACK, a counter, word or payload outside the window WINDOW, a direction without a link
REFUSED, no hop left HOPS and no clone left CLONES; a HOPS fault with EXH set drops the packet with a notice instead, and
every other fault parks (R288). -/
def Obligations.PrismFaults : Prop :=
  (∀ m, ∀ e ∈ ([(Instr.ctrld, 0), (.ctradd, 1), (.swld, 2), (.swadd, 3), (.swcas, 3), (.dirmin m, 6), (.dirminNa m, 6)]
      : List (Instr × Nat)),
    ∀ s h, curHop s = some h → cfgMask h.cfg e.2 = false → exec e.1 s = .next (parked s h 0x42))
  ∧ (∀ v n c g t, ∀ e ∈ ([(Instr.pshi v, 0, 1), (.pshk n, 0, 1), (.get c g, 0, 1), (.dup, 1, 2), (.swap, 2, 2), (.over, 2, 3),
        (.prismAdd, 2, 1), (.prismSub, 2, 1), (.prismAnd, 2, 1), (.prismOr, 2, 1), (.prismXor, 2, 1), (.prismShl, 2, 1),
        (.prismShr, 2, 1), (.cmp c, 2, 1), (.popk n, 1, 0), (.drops, 1, 0), (.brz t, 1, 0), (.brnz t, 1, 0),
        (.dirsetStack, 1, 0), (.dirtoStack, 1, 0), (.pldw t, 0, 1), (.pstw t, 1, 0)] : List (Instr × Nat × Nat)),
      ∀ s h, curHop s = some h → pSdep h.img < e.2.1 ∨ 8 < pSdep h.img - e.2.1 + e.2.2 →
        exec e.1 s = .next (parked s h 0x43))
  ∧ (∀ s h, Hopping s h 1 1 (some 0) → cwLen h.cfg ≤ (top h 0).toNat → exec .ctrld s = .next (parked s h 0x46))
  ∧ (∀ s h, Hopping s h 2 1 (some 1) → cwLen h.cfg ≤ (top h 1).toNat → exec .ctradd s = .next (parked s h 0x46))
  ∧ (∀ s h, Hopping s h 1 1 (some 2) → rwLen (nd s s.cur.node) h.cfg ≤ (top h 0).toNat →
      exec .swld s = .next (parked s h 0x46))
  ∧ (∀ s h w, Hopping s h 0 1 none → 4 * pPlen h.img ≤ w.toNat → exec (.pldw w) s = .next (parked s h 0x46))
  ∧ (∀ s h w, Hopping s h 1 0 none → 4 * pPlen h.img ≤ w.toNat → exec (.pstw w) s = .next (parked s h 0x46))
  ∧ (∀ s h, Hopping s h 0 0 none →
      (pDir h.img = 7 ∨ (pDir h.img < 6 ∧ (hasLink s (pDir h.img) = false ∨ cfgMask h.cfg 7 = false)) →
        exec .fwd s = .next (parked s h 0x42))
      ∧ (pDir h.img < 6 → hasLink s (pDir h.img) = true → cfgMask h.cfg 7 = true → pHopb h.img = 0 →
          exec .fwd s = .next (parked s h 0x40))
      ∧ (∀ code, deliveryBar h.cfg = some code → exec .dlvr s = .next (parked s h code))
      ∧ ∀ d : BitVec 3, d.toNat < 6 → hasLink s d.toNat = true → cfgMask h.cfg 4 = true → cfgMask h.cfg 7 = true →
          (pClb h.img = 0 → exec (.clone d) s = .next (parked s h 0x45))
          ∧ (0 < pClb h.img → pHopb h.img = 0 → exec (.clone d) s = .next (parked s h 0x40)))
  ∧ ∀ s h fidx,
      (pExh h.img = true → parkHop s h 0x40 fidx = sendNotice (endHop s s.cur.node s.cur.ctx) s.cur.node h.img true)
      ∧ ∀ code, code ≠ 0x40 ∨ pExh h.img = false →
          parkHop s h code fidx = parkPacket (endHop s s.cur.node s.cur.ctx) s.cur.node h.cfg h.img code fidx h.arr h.steps

/-- Links (R319, R330, R331, R333): a flit whose parity corrects it and whose CRC passes is accepted: the payload of a data
flit next in its order joins its packet, a program packet that is whole waits for a context, a DATA packet at its node is
delivered; a reserved one is counted and discarded, a MORE flit is a request and an ALIGN flit an alignment; one whose
parity cannot correct it, or whose CRC fails, asks for more parity, then for a resend; a request sends the parity it names
or the flit again, and the third resend on a wavelength in a frame retires it; a failure retires its wavelengths; a node
steers its GSC toward its parent's by one cc. That a reserved flit is discarded and that a third request asks for the
resend is log 17, the GSC's move by one cc log 18, and the buffer of 8,192 flits, the flit that a MORE names, the places
in the payload of MORE and ALIGN and the mark of a resumed packet log 48: the model's readings (DEDUCED and DESIGN
CHOICE). Of each of these it says which next state it answers, under conditions on the state and the operands alone:
flitReceive, linkFailure, moreRequest, alignFlit. -/
def Obligations.Links : Prop :=
  (∀ s n f d, f.data ≠ [] → rsDecode f.data (f.parity.take 20) = some d → crcOk d = true →
    let h := flitHead d
    let l := linkOf (nd s n) f.dir
    let p := (d.drop 8).take 128
    let id := flitCh h * 2 ^ 24 + flitLseq h
    (8 ≤ flitFt h ∨ flitCh h = 3 → ∃ y, exec (.flitReceive n f) s = .next y ∧ (nd y n).badFlits = (nd s n).badFlits + 1
      ∧ (linkOf (nd y n) f.dir).got = l.got)
    ∧ (flitFt h = 6 → flitCh h ≠ 3 → exec (.flitReceive n f) s
        = exec (.moreRequest n f.dir id (bytesVal (p.take 1))) (modLink s n f.dir fun l => l))
    ∧ (flitFt h = 4 → flitCh h ≠ 3 → exec (.flitReceive n f) s
        = exec (.alignFlit n (peerOf s n f.dir) (bytesVal (p.take 8)) (bytesVal ((p.drop 8).take 1))) (modLink s n f.dir fun l => l))
    ∧ (flitFt h ≤ 3 → flitCh h ≠ 3 → l.early = [] → smGet l.expect 0 (flitCh h) = flitLseq h →
        let bytes := if flitFt h = 0 ∨ flitFt h = 3 then p else smGet l.asm [] (flitCh h) ++ p
        let img := packetImage bytes
        ∃ y, exec (.flitReceive n f) s = .next y
          ∧ smGet (linkOf (nd y n) f.dir).expect 0 (flitCh h) = (flitLseq h + 1) % 2 ^ 24
          ∧ (linkOf (nd y n) f.dir).room = min (l.room + flitCred h) 8192
          ∧ (flitFt h ≤ 1 → smGet (linkOf (nd y n) f.dir).asm [] (flitCh h) = bytes)
          ∧ (2 ≤ flitFt h → flitCh h = 2 → (linkOf (nd y n) f.dir).got = l.got ++ [(flitCh h, bytes)])
          ∧ (2 ≤ flitFt h → flitCh h ≤ 1 → pType img = 1 → isResumed img = false →
              ∃ a, (nd y n).arrivals = (nd s n).arrivals ++ [a] ∧ a.idx = none ∧ a.cc = s.now ∧ a.via = f.dir
              ∧ (f.dir < 8 → a.arr = f.dir) ∧ a.img = img
              ∧ ∀ i, i < 8 * packetBytes img → a.img.getLsbD i = (BitVec.ofNat 2304 (bytesVal bytes)).getLsbD i)
          ∧ (2 ≤ flitFt h → flitCh h ≤ 1 → pType img = 1 → isResumed img = true → fld img 159 148 = n →
              ∃ a, (nd y n).arrivals = (nd s n).arrivals ++ [a] ∧ a.idx = some (fld img 139 136) ∧ a.cc = s.now
              ∧ a.arr = fld img 142 140 ∧ a.img = resumeClear img)
          ∧ (2 ≤ flitFt h → flitCh h ≤ 1 → pType img = 0 → pDhint img = n →
              deliveryBar (prismCfg (nd s n) (pTenant img)) = none →
              ∃ k, hopOf (nd y n) (8 + (nd s n).nextDel) = some k ∧ k.img = img ∧ k.stage = 1)))
  ∧ (∀ s n f, let g : Flit := { f with parity := f.parity.take 20 }
      f.data ≠ [] → (∀ d, rsDecode g.data g.parity = some d → crcOk d = false) → linkUp s f.dir = true →
      let id := askedFlit s n g
      ∃ z, exec (.flitReceive n f) s = .next (schedule z (flightCc s n f.dir) (.flitReceive (peerOf s n f.dir)
          (makeFlit (backKey n f.dir) 639 (flitHeader 6 (id / 2 ^ 24) (id % 2 ^ 24) 0 0) (valBytes 1 1))))
        ∧ (linkOf (nd z n) f.dir).kept = (linkOf (nd s n) f.dir).kept ++ [(id, g)])
  ∧ (∀ s n f id k0 rest, f.data = [] →
      takeFirst (fun e : Nat × Flit => e.2.wave == f.wave) (linkOf (nd s n) f.dir).kept = some ((id, k0), rest) →
      let g : Flit := { k0 with parity := k0.parity ++ f.parity }
      let inc := if g.parity.length < 42 then 1 else if g.parity.length < 64 then 2 else 3
      (∀ d, rsDecode g.data g.parity = some d → crcOk d = false) → linkUp s f.dir = true →
      ∃ z, exec (.flitReceive n f) s = .next (schedule z (flightCc s n f.dir) (.flitReceive (peerOf s n f.dir)
          (makeFlit (backKey n f.dir) 639 (flitHeader 6 (id / 2 ^ 24) (id % 2 ^ 24) 0 0) (valBytes 1 inc))))
        ∧ (inc ≤ 2 → (linkOf (nd z n) f.dir).kept = rest ++ [(id, g)])
        ∧ (inc = 3 → (linkOf (nd z n) f.dir).kept = rest
            ∧ (linkOf (nd z n) f.dir).asked = (linkOf (nd s n) f.dir).asked ++ [id]))
  ∧ (∀ s n key q inc c l f, ((linkOf (nd s n) key).replay.find? fun e => e.1 == q / 2 ^ 24 && e.2.1 == q % 2 ^ 24)
        = some (c, l, f) →
      let dir := physDir s n key
      let send (z : State) (data parity : List Byte) : State :=
        schedule z (flightCc s n key) (.flitReceive (peerOf s n key) ⟨f.dir, f.wave, data, parity⟩)
      (inc = 1 → exec (.moreRequest n key q inc) s = .next (send s [] ((f.parity.drop 20).take 22)))
      ∧ (inc = 2 → exec (.moreRequest n key q inc) s = .next (send s [] (f.parity.drop 42)))
      ∧ (inc = 3 → ∃ z, exec (.moreRequest n key q inc) s = .next (send z f.data (f.parity.take 20))
          ∧ smGet (linkOf (nd z n) dir).resends 0 f.wave = smGet (linkOf (nd s n) dir).resends 0 f.wave + 1
          ∧ (nd z n).resendC.toNat = min ((nd s n).resendC.toNat + 1) (2 ^ 64 - 1)
          ∧ (2 ≤ smGet (linkOf (nd s n) dir).resends 0 f.wave →
              (linkOf (nd z n) dir).dead = (linkOf (nd s n) dir).dead ||| BitVec.twoPow 640 f.wave)))
  ∧ (∀ s n dir w, ∃ y, exec (.linkFailure n dir w) s = .next y
      ∧ (linkOf (nd y n) dir).dead = (linkOf (nd s n) dir).dead ||| w)
  ∧ (∀ s n src g ph, (nd s n).gscOn = false → exec (.alignFlit n src g ph) s = .next s)
  ∧ ∀ s n src g ph,
      let theirs := 4 * g + ph / 64 + Config.latHop
      (nd s n).gscOn = true → dirTo s n 0 < 6 → neighbour s n (dirTo s n 0) = src →
      gscCc s n < theirs → theirs ≤ gscCc s n + 4 → (nd s n).steerAt + 10000 ≤ s.now →
      ∃ y, exec (.alignFlit n src g ph) s = .next y ∧ gscCc y n = gscCc s n + 1 ∧ (nd y n).attn = (nd s n).attn

/-! Steps, decoding, reset. -/

/-- A step runs the decoded instruction (R44, R62 to R65, R95): at a live sequencer whose line is fetched, the step is exec of
the instruction that the units from the program counter on decode to, for EXEC of a bundle of one likewise; without its
line it waits; an event's turn is exec of the event, and a step without a turn begins the next cc. That an ill-formed
event, which no agent makes, stops the step is the model's reading (DEDUCED, log 40). -/
def Obligations.StepRunsDecoded : Prop :=
  (∀ s n c q r idx bits, s.ready = .seq n c q :: r →
    let z : State := { s with ready := r, cur := { node := n, core := c, seq := q, slot := 0, ctx := 0 } }
    seqLive z = true → (cs z).hold = .none → (cs z).line = .ready idx bits → (cs z).pc.toNat / 16 = idx →
    (cs z).past = false →
    let us := lineUnits bits ((cs z).pc.toNat % 16)
    (∀ i len, q ≠ .exec → decodeUnits us = .ok i len → step s = exec i.instr z)
    ∧ (∀ i len, q = .exec → decodeGroup us = .single i len → step s = exec i.instr z)
    ∧ ∀ f v len, q = .exec → decodeGroup us = .bundle [(f, v)] len → step s = exec (Code.v f v).instr z)
  ∧ (∀ s n c q r, s.ready = .seq n c q :: r →
    let z : State := { s with ready := r, cur := { node := n, core := c, seq := q, slot := 0, ctx := 0 } }
    seqLive z = true → (cs z).hold = .none → (cs z).line = .none → step s = .next (setBlocked z))
  ∧ (∀ s i r, s.ready = .ev i :: r → wellFormed i = true → step s = exec i { s with ready := r })
  ∧ (∀ s i r, s.ready = .ev i :: r → wellFormed i = false → step s = .fault .illFormed)
  ∧ ∀ s, s.ready = [] → step s = .next (tick s)

/-- Words written out from the encoding tables decode to the instructions they stand for (R49, R53 to R62, R274). -/
def Obligations.DecodeWords : Prop :=
  decodeUnits [0x04068510] = .ok (.one (.add ⟨0, 0⟩ 3 (.reg 1) (.reg 2))) 1
  ∧ decodeUnits [0x04070510, 0x12345678] = .ok (.one (.add ⟨0, 0⟩ 3 (.bank 1) (.reg 2))) 1
  ∧ decodeUnits [0x05C68B80, 0xFFFF0000] = .ok (.one (.add ⟨1, 3⟩ 3 (.reg 2) (.ext 0xFFFF0000))) 2
  ∧ decodeUnits [0x80000000, 0x00000530] = .ok (.one (.b ⟨0, 0⟩ 5 3)) 2
  ∧ decodeUnits [0x88004020, 0x01000000] = .ok (.v .vadd ⟨⟨0, 0⟩, false, 1, .vec 1, .vec 2, .vec 0, 0, 0, 0, false, 0⟩) 2
  ∧ decodeUnits [0xBC022000, 0x00030004] = .ok (.e .lease ⟨⟨0, 0⟩, 1, 2, 0, 3, 4⟩) 2
  ∧ decodeUnits [0xFC000000] = .illegal
  ∧ decodePrism 0x07FF = some (.pshi 0x7FF) ∧ decodePrism 0x2000 = some .prismAdd ∧ decodePrism 0x6073 = some (.get 7 3)
  ∧ decodePrism 0xC800 = some .fwd ∧ decodePrism 0xE001 = some .dropN

/-- What the spec gives for the state after reset (R123, R248, R269, R278, R314, R447): start-up has not begun, no core runs a
task, VTYPE holds its reset value, counters, configuration blocks and participant counts are 0, and every congestion
window is 16 KiB. -/
def Obligations.ResetValues : Prop :=
  ∀ n c,
    let d := nd State.reset n
    d.phase = 0 ∧ d.fail = 0 ∧ (co State.reset n c).mode = .free ∧ (co State.reset n c).vtype = 0x1101
    ∧ (∀ i, ctrAt d i = 0) ∧ (∀ t w, prismWordOf d t w = 0) ∧ (∀ m, (cwinOf d m).w = 16384)
    ∧ ∀ lvl own id, (barOf State.reset n lvl own id).part = 0

/-- No instruction and no event stops the machine: every fault of the spec is a trap, which is a next state (R405), and a step
stops only on an event that no agent can make. -/
def Obligations.NeverStops : Prop :=
  (∀ i s, ∃ t, exec i s = .next t)
  ∧ ∀ s, (∀ i r, s.ready = .ev i :: r → wellFormed i = true) → ∃ t, step s = .next t

/-- Decode and encode agree (R49 to R65, R134): the units of a well-formed instruction of a core decode to it, with every
operand at every value that the encoding admits, whatever units follow, and their number is its length. The same for the
words of the prism (R273, R274); every word decodes, and to an instruction whose word it is but for the operand bits that
the instruction ignores. -/
def Obligations.EncodingRoundTrip : Prop :=
  (
    ∀ i us, wellFormed i = true → encode i ≠ [] →
      ∃ x, decodeUnits (encode i ++ us) = .ok x (encode i).length ∧ x.instr = i)
  ∧ (
    (∀ i u, encodePrism i = some u → wellFormed i = true → decodePrism u = some i)
    ∧ ∀ u, ∃ i v, decodePrism u = some i ∧ encodePrism i = some v ∧ v = u &&& prismMask u)
end

