-- ==== Sys2Proof/Laws/Crypto.lean ====
section
/-! SUPPORT. Laws of the signature (R454, R455): the power by squaring is a power, an encoded message lies below every modulus
of 4,096 bits, and what a key's secret exponent signs its public one gives back. -/

namespace Sys2Proof.Machine

/-- Squaring and multiplying through the bits of the exponent gives the power. -/
theorem powMod_eq (m : Nat) : ∀ n b e, e < 2 ^ n → powMod m b e n = b ^ e % m := by
  intro n
  induction n with
  | zero => intro b e h; rw [Nat.lt_one_iff.mp h]; rfl
  | succ n ih =>
    intro b e h
    have half : e / 2 < 2 ^ n := by rw [Nat.pow_succ] at h; omega
    have square : (b * b % m) ^ (e / 2) % m = b ^ (2 * (e / 2)) % m := by
      rw [← Nat.pow_mod, Nat.pow_mul, Nat.pow_two]
    simp only [powMod, ih _ _ half, square]
    split
    · rename_i odd
      rw [Nat.mod_mul_mod, ← Nat.pow_succ, show (2 * (e / 2)).succ = e by omega]
    · rename_i even
      rw [show 2 * (e / 2) = e by omega]

theorem beVal_from (bs : List Byte) : ∀ a, bs.foldl (fun a b => a * 256 + b.toNat) a < (a + 1) * 256 ^ bs.length := by
  induction bs with
  | nil => intro a; simp
  | cons b r ih =>
    intro a
    refine Nat.lt_of_lt_of_le (ih _) ?_
    rw [List.length_cons, Nat.pow_succ', ← Nat.mul_assoc]
    exact Nat.mul_le_mul_right _ (by have := b.isLt; show a * 256 + b.toNat + 1 ≤ (a + 1) * 256; omega)

/-- A number of `n` bytes lies below `256 ^ n`. -/
theorem beVal_lt (bs : List Byte) : beVal bs < 256 ^ bs.length := by simpa [beVal] using beVal_from bs 0

theorem shaBlock_length (h : List Word) (b : List Byte) : (shaBlock h b).length ≤ h.length := by
  simp [shaBlock]

theorem shaBlocks_length : ∀ n bs h, (shaBlocks n bs h).length ≤ h.length := by
  intro n
  induction n with
  | zero => intro bs h; exact Nat.le_refl _
  | succ n ih => intro bs h; exact Nat.le_trans (ih _ _) (shaBlock_length _ _)

/-- A digest has at most 64 bytes. -/
theorem sha512_length (m : List Byte) : (sha512 m).length ≤ 64 := by
  have h : ∀ l : List Word, (l.flatMap fun w => beBytes 8 w.toNat).length = 8 * l.length := by
    intro l
    induction l with
    | nil => rfl
    | cons w r ih =>
      rw [List.flatMap_cons, List.length_append, ih, List.length_cons]
      simp only [beBytes, valBytes, List.length_reverse, List.length_cons, List.length_nil]
      omega
  rw [sha512, h]
  have w : shaInit.length ≤ 8 := by simpa [shaInit] using Nat.min_le_left 8 smallPrimes.length
  exact Nat.mul_le_mul_left 8 (Nat.le_trans (shaBlocks_length _ _ _) w)

theorem beVal_top (b : Byte) (r : List Byte) (hb : b.toNat < 128) (hr : r.length ≤ 511) : beVal (b :: r) < 2 ^ 4095 := by
  have h := beVal_from r b.toNat
  have e : beVal (b :: r) = r.foldl (fun a b => a * 256 + b.toNat) b.toNat := by simp [beVal]
  rw [e]
  refine Nat.lt_of_lt_of_le h (Nat.le_trans (Nat.mul_le_mul (Nat.succ_le_of_lt hb) (Nat.pow_le_pow_right (by decide) hr)) ?_)
  exact Nat.le_of_eq (by rw [show (256 : Nat) = 2 ^ 8 from rfl, show (128 : Nat) = 2 ^ 7 from rfl, ← Nat.pow_mul, ← Nat.pow_add])

/-- An encoded message lies below every modulus of 4,096 bits. -/
theorem pssEncode_lt (m salt : List Byte) (hs : salt.length ≤ 64) : beVal (pssEncode m salt) < 2 ^ 4095 := by
  have hd := sha512_length (List.replicate 8 0 ++ sha512 m ++ salt)
  simp only [pssEncode]
  generalize hz : ((((List.replicate 382 0 : List Byte) ++ (1 : Byte) :: salt).zip
    (mgf1 (sha512 (List.replicate 8 0 ++ sha512 m ++ salt)) 447)).map fun x => x.1 ^^^ x.2) = z
  have hl : z.length ≤ 447 := by
    rw [← hz]
    simp only [List.length_map, List.length_zip, List.length_append, List.length_replicate, List.length_cons]
    omega
  cases z with
  | nil =>
    refine Nat.lt_of_lt_of_le (beVal_lt _) (Nat.le_trans (Nat.pow_le_pow_right (j := 65) (by decide) ?_) ?_)
    · simp only [List.nil_append, List.length_append, List.length_singleton]; omega
    · rw [show (256 : Nat) = 2 ^ 8 from rfl, ← Nat.pow_mul]; exact Nat.pow_le_pow_right (by decide) (by decide)
  | cons b r =>
    simp only [List.cons_append]
    apply beVal_top
    · have : (b &&& 0x7F).toNat ≤ 127 := by rw [BitVec.toNat_and]; exact Nat.and_le_right
      omega
    · simp only [List.length_cons] at hl
      simp only [List.length_append, List.length_singleton]; omega

/-- What the identity key signs, its public exponent gives back (R455). -/
theorem pssSign_verifies (m salt : List Byte) (hs : salt.length ≤ 64) :
    pssSign Config.identity.modulus Config.identity.secret m salt ^ Config.identity.exponent % Config.identity.modulus
      = beVal (pssEncode m salt) := by
  rw [pssSign, powMod_eq _ _ _ _ Config.identity.secret_lt]
  exact Config.identity.pair _ (Nat.lt_of_lt_of_le (pssEncode_lt m salt hs) Config.identity.modulus_ge)

end Sys2Proof.Machine
end

