-- ==== Sys2Proof/Laws/Maps.lean ====
section
/-! SUPPORT. The sparse map of `Word.lean`: what is read after a write, and that a write keeps the canonical form. -/

namespace Sys2Proof

variable {α : Type}

theorem smGet_smPut (m : SMap α) (d v : α) (k j : Nat) :
    smGet (smPut m k v) d j = if j = k then v else smGet m d j := by
  induction m with
  | nil => by_cases h : k = j <;> simp [smPut, smGet, h, eq_comm]
  | cons x r ih =>
    obtain ⟨i, w⟩ := x
    by_cases h1 : k < i
    · by_cases h : j = k
      · subst h; simp [smPut, smGet, h1]
      · have : ¬ k = j := fun e => h e.symm
        simp [smPut, smGet, h1, h, this]
    · by_cases h2 : i = k
      · subst h2
        by_cases h : j = i
        · subst h; simp [smPut, smGet]
        · have : ¬ i = j := fun e => h e.symm
          simp [smPut, smGet, h, this]
      · simp only [smPut, h1, h2, if_false, smGet, ih]
        by_cases h3 : i = j
        · have : ¬ j = k := fun e => h2 (h3.trans e)
          simp [h3, this]
        · simp [h3]

@[simp] theorem smGet_smPut_same (m : SMap α) (d v : α) (k : Nat) : smGet (smPut m k v) d k = v := by
  simp [smGet_smPut]

theorem smGet_smPut_ne (m : SMap α) (d v : α) {k j : Nat} (h : j ≠ k) : smGet (smPut m k v) d j = smGet m d j := by
  simp [smGet_smPut, h]

theorem smGet_smDel_ne (m : SMap α) (d : α) {k j : Nat} (h : j ≠ k) : smGet (smDel m k) d j = smGet m d j := by
  induction m with
  | nil => rfl
  | cons x r ih =>
    obtain ⟨i, w⟩ := x
    by_cases h1 : i = k
    · subst h1
      have : ¬ i = j := fun e => h e.symm
      simp [smDel, smGet, this]
    · simp [smDel, smGet, h1, ih]

variable [DecidableEq α]

theorem smGet_smSet_ne (m : SMap α) (d v : α) {k j : Nat} (h : j ≠ k) : smGet (smSet m d k v) d j = smGet m d j := by
  unfold smSet
  split
  · exact smGet_smDel_ne m d h
  · exact smGet_smPut_ne m d v h

theorem smWfFrom_mono {d : α} {lo hi : Nat} (h : lo ≤ hi) {m : SMap α} (w : smWfFrom d hi m = true) :
    smWfFrom d lo m = true := by
  cases m with
  | nil => rfl
  | cons x r =>
    obtain ⟨k, v⟩ := x
    simp only [smWfFrom, Bool.and_eq_true, decide_eq_true_eq] at w ⊢
    exact ⟨⟨by omega, w.1.2⟩, w.2⟩

theorem smGet_below {d : α} {lo k : Nat} {m : SMap α} (w : smWfFrom d lo m = true) (h : k < lo) : smGet m d k = d := by
  induction m generalizing lo with
  | nil => rfl
  | cons x r ih =>
    obtain ⟨i, v⟩ := x
    simp only [smWfFrom, Bool.and_eq_true, decide_eq_true_eq] at w
    have : ¬ i = k := by omega
    simp only [smGet, this, if_false]
    exact ih w.2 (by omega)

theorem smGet_smDel_same {d : α} {lo : Nat} {m : SMap α} (w : smWfFrom d lo m = true) (k : Nat) :
    smGet (smDel m k) d k = d := by
  induction m generalizing lo with
  | nil => rfl
  | cons x r ih =>
    obtain ⟨i, v⟩ := x
    simp only [smWfFrom, Bool.and_eq_true, decide_eq_true_eq] at w
    by_cases h : i = k
    · subst h
      simp only [smDel, if_true]
      exact smGet_below w.2 (by omega)
    · simp only [smDel, h, if_false, smGet]
      exact ih w.2

/-- A write is read back, whether or not it is of the default. -/
theorem smGet_smSet_same {d : α} {m : SMap α} (w : smWf d m = true) (k : Nat) (v : α) : smGet (smSet m d k v) d k = v := by
  unfold smSet
  split
  · next h => rw [smGet_smDel_same w]; exact h.symm
  · simp

theorem smWfFrom_smPut {d : α} {lo : Nat} {m : SMap α} (w : smWfFrom d lo m = true) {k : Nat} {v : α} (h : v ≠ d)
    (hk : lo ≤ k) : smWfFrom d lo (smPut m k v) = true := by
  induction m generalizing lo with
  | nil => simp [smPut, smWfFrom, h, hk]
  | cons x r ih =>
    obtain ⟨i, u⟩ := x
    have w' := w
    simp only [smWfFrom, Bool.and_eq_true, decide_eq_true_eq] at w
    by_cases h1 : k < i
    · simp only [smPut, h1, if_true, smWfFrom, Bool.and_eq_true, decide_eq_true_eq]
      exact ⟨⟨hk, h⟩, ⟨by omega, w.1.2⟩, w.2⟩
    · by_cases h2 : i = k
      · subst h2
        simp only [smPut, h1, if_false, if_true, smWfFrom, Bool.and_eq_true, decide_eq_true_eq]
        exact ⟨⟨hk, h⟩, w.2⟩
      · simp only [smPut, h1, h2, if_false, smWfFrom, Bool.and_eq_true, decide_eq_true_eq]
        exact ⟨w.1, ih w.2 (by omega)⟩

theorem smWfFrom_smDel {d : α} {lo : Nat} {m : SMap α} (w : smWfFrom d lo m = true) (k : Nat) :
    smWfFrom d lo (smDel m k) = true := by
  induction m generalizing lo with
  | nil => rfl
  | cons x r ih =>
    obtain ⟨i, u⟩ := x
    simp only [smWfFrom, Bool.and_eq_true, decide_eq_true_eq] at w
    by_cases h : i = k
    · simp only [smDel, h, if_true]
      exact smWfFrom_mono (by omega) w.2
    · simp only [smDel, h, if_false, smWfFrom, Bool.and_eq_true, decide_eq_true_eq]
      exact ⟨w.1, ih w.2⟩

/-- A write keeps the canonical form. -/
theorem smWf_smSet {d : α} {m : SMap α} (w : smWf d m = true) (k : Nat) (v : α) : smWf d (smSet m d k v) = true := by
  unfold smSet
  split
  · exact smWfFrom_smDel w k
  · next h => exact smWfFrom_smPut w h (Nat.zero_le k)

end Sys2Proof
end

