-- ==== Sys2Proof/Laws/State.lean ====
section
/-! SUPPORT. Each update of the state, field by field, so that no proof unfolds a record update. -/

namespace Sys2Proof.Machine

@[simp] theorem modNd_now (s : State) (n : Nat) (f : Node → Node) : (modNd s n f).now = s.now := rfl
@[simp] theorem modNd_cur (s : State) (n : Nat) (f : Node → Node) : (modNd s n f).cur = s.cur := rfl
@[simp] theorem modNd_ready (s : State) (n : Nat) (f : Node → Node) : (modNd s n f).ready = s.ready := rfl
@[simp] theorem modNd_timers (s : State) (n : Nat) (f : Node → Node) : (modNd s n f).timers = s.timers := rfl
@[simp] theorem modNd_late (s : State) (n : Nat) (f : Node → Node) : (modNd s n f).late = s.late := rfl
@[simp] theorem modNd_torus (s : State) (n : Nat) (f : Node → Node) : (modNd s n f).torus = s.torus := rfl
@[simp] theorem modNd_domain (s : State) (n : Nat) (f : Node → Node) : (modNd s n f).domain = s.domain := rfl
@[simp] theorem modNd_free (s : State) (n : Nat) (f : Node → Node) : (modNd s n f).free = s.free := rfl
@[simp] theorem modNd_trap (s : State) (n : Nat) (f : Node → Node) : (modNd s n f).trap = s.trap := rfl
@[simp] theorem modNd_air (s : State) (n : Nat) (f : Node → Node) : (modNd s n f).air = s.air := rfl
@[simp] theorem modNd_kept (s : State) (n : Nat) (f : Node → Node) : (modNd s n f).kept = s.kept := rfl
@[simp] theorem modNd_bornAt (s : State) (n : Nat) (f : Node → Node) : (modNd s n f).bornAt = s.bornAt := rfl
@[simp] theorem modNd_resetOf (s : State) (n : Nat) (f : Node → Node) : (modNd s n f).resetOf = s.resetOf := rfl
@[simp] theorem modCo_now (s : State) (n c : Nat) (f : Core → Core) : (modCo s n c f).now = s.now := rfl
@[simp] theorem modCo_cur (s : State) (n c : Nat) (f : Core → Core) : (modCo s n c f).cur = s.cur := rfl
@[simp] theorem modCo_ready (s : State) (n c : Nat) (f : Core → Core) : (modCo s n c f).ready = s.ready := rfl
@[simp] theorem modCo_timers (s : State) (n c : Nat) (f : Core → Core) : (modCo s n c f).timers = s.timers := rfl
@[simp] theorem modCo_late (s : State) (n c : Nat) (f : Core → Core) : (modCo s n c f).late = s.late := rfl
@[simp] theorem modCo_torus (s : State) (n c : Nat) (f : Core → Core) : (modCo s n c f).torus = s.torus := rfl
@[simp] theorem modCo_domain (s : State) (n c : Nat) (f : Core → Core) : (modCo s n c f).domain = s.domain := rfl
@[simp] theorem modCo_free (s : State) (n c : Nat) (f : Core → Core) : (modCo s n c f).free = s.free := rfl
@[simp] theorem modCo_trap (s : State) (n c : Nat) (f : Core → Core) : (modCo s n c f).trap = s.trap := rfl
@[simp] theorem modCo_air (s : State) (n c : Nat) (f : Core → Core) : (modCo s n c f).air = s.air := rfl
@[simp] theorem modCo_kept (s : State) (n c : Nat) (f : Core → Core) : (modCo s n c f).kept = s.kept := rfl
@[simp] theorem modCo_bornAt (s : State) (n c : Nat) (f : Core → Core) : (modCo s n c f).bornAt = s.bornAt := rfl
@[simp] theorem modCo_resetOf (s : State) (n c : Nat) (f : Core → Core) : (modCo s n c f).resetOf = s.resetOf := rfl
@[simp] theorem modQd_now (s : State) (n q : Nat) (f : Quad → Quad) : (modQd s n q f).now = s.now := rfl
@[simp] theorem modQd_cur (s : State) (n q : Nat) (f : Quad → Quad) : (modQd s n q f).cur = s.cur := rfl
@[simp] theorem modQd_ready (s : State) (n q : Nat) (f : Quad → Quad) : (modQd s n q f).ready = s.ready := rfl
@[simp] theorem modQd_timers (s : State) (n q : Nat) (f : Quad → Quad) : (modQd s n q f).timers = s.timers := rfl
@[simp] theorem modQd_late (s : State) (n q : Nat) (f : Quad → Quad) : (modQd s n q f).late = s.late := rfl
@[simp] theorem modQd_torus (s : State) (n q : Nat) (f : Quad → Quad) : (modQd s n q f).torus = s.torus := rfl
@[simp] theorem modQd_domain (s : State) (n q : Nat) (f : Quad → Quad) : (modQd s n q f).domain = s.domain := rfl
@[simp] theorem modQd_free (s : State) (n q : Nat) (f : Quad → Quad) : (modQd s n q f).free = s.free := rfl
@[simp] theorem modQd_trap (s : State) (n q : Nat) (f : Quad → Quad) : (modQd s n q f).trap = s.trap := rfl
@[simp] theorem modQd_air (s : State) (n q : Nat) (f : Quad → Quad) : (modQd s n q f).air = s.air := rfl
@[simp] theorem modQd_kept (s : State) (n q : Nat) (f : Quad → Quad) : (modQd s n q f).kept = s.kept := rfl
@[simp] theorem modQd_bornAt (s : State) (n q : Nat) (f : Quad → Quad) : (modQd s n q f).bornAt = s.bornAt := rfl
@[simp] theorem modQd_resetOf (s : State) (n q : Nat) (f : Quad → Quad) : (modQd s n q f).resetOf = s.resetOf := rfl
@[simp] theorem modCc_now (s : State) (f : Core → Core) : (modCc s f).now = s.now := rfl
@[simp] theorem modCc_cur (s : State) (f : Core → Core) : (modCc s f).cur = s.cur := rfl
@[simp] theorem modCc_ready (s : State) (f : Core → Core) : (modCc s f).ready = s.ready := rfl
@[simp] theorem modCc_timers (s : State) (f : Core → Core) : (modCc s f).timers = s.timers := rfl
@[simp] theorem modCc_late (s : State) (f : Core → Core) : (modCc s f).late = s.late := rfl
@[simp] theorem modCc_torus (s : State) (f : Core → Core) : (modCc s f).torus = s.torus := rfl
@[simp] theorem modCc_domain (s : State) (f : Core → Core) : (modCc s f).domain = s.domain := rfl
@[simp] theorem modCc_free (s : State) (f : Core → Core) : (modCc s f).free = s.free := rfl
@[simp] theorem modCc_trap (s : State) (f : Core → Core) : (modCc s f).trap = s.trap := rfl
@[simp] theorem modCc_air (s : State) (f : Core → Core) : (modCc s f).air = s.air := rfl
@[simp] theorem modCc_kept (s : State) (f : Core → Core) : (modCc s f).kept = s.kept := rfl
@[simp] theorem modCc_bornAt (s : State) (f : Core → Core) : (modCc s f).bornAt = s.bornAt := rfl
@[simp] theorem modCc_resetOf (s : State) (f : Core → Core) : (modCc s f).resetOf = s.resetOf := rfl
@[simp] theorem modSq_now (s : State) (n c : Nat) (q : Seq) (f : Sequencer → Sequencer) : (modSq s n c q f).now = s.now := rfl
@[simp] theorem modSq_cur (s : State) (n c : Nat) (q : Seq) (f : Sequencer → Sequencer) : (modSq s n c q f).cur = s.cur := rfl
@[simp] theorem modSq_ready (s : State) (n c : Nat) (q : Seq) (f : Sequencer → Sequencer) : (modSq s n c q f).ready = s.ready := rfl
@[simp] theorem modSq_timers (s : State) (n c : Nat) (q : Seq) (f : Sequencer → Sequencer) : (modSq s n c q f).timers = s.timers := rfl
@[simp] theorem modSq_late (s : State) (n c : Nat) (q : Seq) (f : Sequencer → Sequencer) : (modSq s n c q f).late = s.late := rfl
@[simp] theorem modSq_torus (s : State) (n c : Nat) (q : Seq) (f : Sequencer → Sequencer) : (modSq s n c q f).torus = s.torus := rfl
@[simp] theorem modSq_domain (s : State) (n c : Nat) (q : Seq) (f : Sequencer → Sequencer) : (modSq s n c q f).domain = s.domain := rfl
@[simp] theorem modSq_free (s : State) (n c : Nat) (q : Seq) (f : Sequencer → Sequencer) : (modSq s n c q f).free = s.free := rfl
@[simp] theorem modSq_trap (s : State) (n c : Nat) (q : Seq) (f : Sequencer → Sequencer) : (modSq s n c q f).trap = s.trap := rfl
@[simp] theorem modSq_air (s : State) (n c : Nat) (q : Seq) (f : Sequencer → Sequencer) : (modSq s n c q f).air = s.air := rfl
@[simp] theorem modSq_kept (s : State) (n c : Nat) (q : Seq) (f : Sequencer → Sequencer) : (modSq s n c q f).kept = s.kept := rfl
@[simp] theorem modSq_bornAt (s : State) (n c : Nat) (q : Seq) (f : Sequencer → Sequencer) : (modSq s n c q f).bornAt = s.bornAt := rfl
@[simp] theorem modSq_resetOf (s : State) (n c : Nat) (q : Seq) (f : Sequencer → Sequencer) : (modSq s n c q f).resetOf = s.resetOf := rfl
@[simp] theorem modCs_now (s : State) (f : Sequencer → Sequencer) : (modCs s f).now = s.now := rfl
@[simp] theorem modCs_cur (s : State) (f : Sequencer → Sequencer) : (modCs s f).cur = s.cur := rfl
@[simp] theorem modCs_ready (s : State) (f : Sequencer → Sequencer) : (modCs s f).ready = s.ready := rfl
@[simp] theorem modCs_timers (s : State) (f : Sequencer → Sequencer) : (modCs s f).timers = s.timers := rfl
@[simp] theorem modCs_late (s : State) (f : Sequencer → Sequencer) : (modCs s f).late = s.late := rfl
@[simp] theorem modCs_torus (s : State) (f : Sequencer → Sequencer) : (modCs s f).torus = s.torus := rfl
@[simp] theorem modCs_domain (s : State) (f : Sequencer → Sequencer) : (modCs s f).domain = s.domain := rfl
@[simp] theorem modCs_free (s : State) (f : Sequencer → Sequencer) : (modCs s f).free = s.free := rfl
@[simp] theorem modCs_trap (s : State) (f : Sequencer → Sequencer) : (modCs s f).trap = s.trap := rfl
@[simp] theorem modCs_air (s : State) (f : Sequencer → Sequencer) : (modCs s f).air = s.air := rfl
@[simp] theorem modCs_kept (s : State) (f : Sequencer → Sequencer) : (modCs s f).kept = s.kept := rfl
@[simp] theorem modCs_bornAt (s : State) (f : Sequencer → Sequencer) : (modCs s f).bornAt = s.bornAt := rfl
@[simp] theorem modCs_resetOf (s : State) (f : Sequencer → Sequencer) : (modCs s f).resetOf = s.resetOf := rfl
@[simp] theorem modCn_now (s : State) (f : Node → Node) : (modCn s f).now = s.now := rfl
@[simp] theorem modCn_cur (s : State) (f : Node → Node) : (modCn s f).cur = s.cur := rfl
@[simp] theorem modCn_ready (s : State) (f : Node → Node) : (modCn s f).ready = s.ready := rfl
@[simp] theorem modCn_timers (s : State) (f : Node → Node) : (modCn s f).timers = s.timers := rfl
@[simp] theorem modCn_late (s : State) (f : Node → Node) : (modCn s f).late = s.late := rfl
@[simp] theorem modCn_torus (s : State) (f : Node → Node) : (modCn s f).torus = s.torus := rfl
@[simp] theorem modCn_domain (s : State) (f : Node → Node) : (modCn s f).domain = s.domain := rfl
@[simp] theorem modCn_free (s : State) (f : Node → Node) : (modCn s f).free = s.free := rfl
@[simp] theorem modCn_trap (s : State) (f : Node → Node) : (modCn s f).trap = s.trap := rfl
@[simp] theorem modCn_air (s : State) (f : Node → Node) : (modCn s f).air = s.air := rfl
@[simp] theorem modCn_kept (s : State) (f : Node → Node) : (modCn s f).kept = s.kept := rfl
@[simp] theorem modCn_bornAt (s : State) (f : Node → Node) : (modCn s f).bornAt = s.bornAt := rfl
@[simp] theorem modCn_resetOf (s : State) (f : Node → Node) : (modCn s f).resetOf = s.resetOf := rfl
@[simp] theorem later_now (s : State) (l : Late) : (later s l).now = s.now := rfl
@[simp] theorem later_cur (s : State) (l : Late) : (later s l).cur = s.cur := rfl
@[simp] theorem later_ready (s : State) (l : Late) : (later s l).ready = s.ready := rfl
@[simp] theorem later_timers (s : State) (l : Late) : (later s l).timers = s.timers := rfl
@[simp] theorem later_torus (s : State) (l : Late) : (later s l).torus = s.torus := rfl
@[simp] theorem later_domain (s : State) (l : Late) : (later s l).domain = s.domain := rfl
@[simp] theorem later_free (s : State) (l : Late) : (later s l).free = s.free := rfl
@[simp] theorem later_trap (s : State) (l : Late) : (later s l).trap = s.trap := rfl
@[simp] theorem later_air (s : State) (l : Late) : (later s l).air = s.air := rfl
@[simp] theorem later_kept (s : State) (l : Late) : (later s l).kept = s.kept := rfl
@[simp] theorem later_bornAt (s : State) (l : Late) : (later s l).bornAt = s.bornAt := rfl
@[simp] theorem later_resetOf (s : State) (l : Late) : (later s l).resetOf = s.resetOf := rfl
@[simp] theorem later_nodes (s : State) (l : Late) : (later s l).nodes = s.nodes := rfl
@[simp] theorem schedule_now (s : State) (d : Nat) (i : Instr) : (schedule s d i).now = s.now := rfl
@[simp] theorem schedule_cur (s : State) (d : Nat) (i : Instr) : (schedule s d i).cur = s.cur := rfl
@[simp] theorem schedule_ready (s : State) (d : Nat) (i : Instr) : (schedule s d i).ready = s.ready := rfl
@[simp] theorem schedule_late (s : State) (d : Nat) (i : Instr) : (schedule s d i).late = s.late := rfl
@[simp] theorem schedule_torus (s : State) (d : Nat) (i : Instr) : (schedule s d i).torus = s.torus := rfl
@[simp] theorem schedule_domain (s : State) (d : Nat) (i : Instr) : (schedule s d i).domain = s.domain := rfl
@[simp] theorem schedule_free (s : State) (d : Nat) (i : Instr) : (schedule s d i).free = s.free := rfl
@[simp] theorem schedule_trap (s : State) (d : Nat) (i : Instr) : (schedule s d i).trap = s.trap := rfl
@[simp] theorem schedule_air (s : State) (d : Nat) (i : Instr) : (schedule s d i).air = s.air := rfl
@[simp] theorem schedule_kept (s : State) (d : Nat) (i : Instr) : (schedule s d i).kept = s.kept := rfl
@[simp] theorem schedule_bornAt (s : State) (d : Nat) (i : Instr) : (schedule s d i).bornAt = s.bornAt := rfl
@[simp] theorem schedule_resetOf (s : State) (d : Nat) (i : Instr) : (schedule s d i).resetOf = s.resetOf := rfl
@[simp] theorem schedule_nodes (s : State) (d : Nat) (i : Instr) : (schedule s d i).nodes = s.nodes := rfl
@[simp] theorem later_late (s : State) (l : Late) : (later s l).late = s.late ++ [l] := rfl
@[simp] theorem nd_later (s : State) (l : Late) (m : Nat) : nd (later s l) m = nd s m := rfl
@[simp] theorem co_later (s : State) (l : Late) (m d : Nat) : co (later s l) m d = co s m d := rfl
@[simp] theorem qd_later (s : State) (l : Late) (m q : Nat) : qd (later s l) m q = qd s m q := rfl
@[simp] theorem sq_later (s : State) (l : Late) (m d : Nat) (q : Seq) : sq (later s l) m d q = sq s m d q := rfl
@[simp] theorem cc_later (s : State) (l : Late) : cc (later s l) = cc s := rfl
@[simp] theorem cs_later (s : State) (l : Late) : cs (later s l) = cs s := rfl
@[simp] theorem cn_later (s : State) (l : Late) : cn (later s l) = cn s := rfl
@[simp] theorem nd_schedule (s : State) (d : Nat) (i : Instr) (m : Nat) : nd (schedule s d i) m = nd s m := rfl
@[simp] theorem co_schedule (s : State) (d : Nat) (i : Instr) (m d : Nat) : co (schedule s d i) m d = co s m d := rfl
@[simp] theorem qd_schedule (s : State) (d : Nat) (i : Instr) (m q : Nat) : qd (schedule s d i) m q = qd s m q := rfl
@[simp] theorem sq_schedule (s : State) (d : Nat) (i : Instr) (m d : Nat) (q : Seq) : sq (schedule s d i) m d q = sq s m d q := rfl
@[simp] theorem cc_schedule (s : State) (d : Nat) (i : Instr) : cc (schedule s d i) = cc s := rfl
@[simp] theorem cs_schedule (s : State) (d : Nat) (i : Instr) : cs (schedule s d i) = cs s := rfl
@[simp] theorem cn_schedule (s : State) (d : Nat) (i : Instr) : cn (schedule s d i) = cn s := rfl

/-! What is read after an update. -/

theorem nd_modNd (s : State) (n m : Nat) (f : Node → Node) : nd (modNd s n f) m = if m = n then f (nd s n) else nd s m := by
  simp [nd, modNd, smGet_smPut]
@[simp] theorem nd_modNd_same (s : State) (n : Nat) (f : Node → Node) : nd (modNd s n f) n = f (nd s n) := by
  simp [nd_modNd]
theorem nd_modNd_ne (s : State) {n m : Nat} (f : Node → Node) (h : m ≠ n) : nd (modNd s n f) m = nd s m := by
  simp [nd_modNd, h]

theorem nd_modCo (s : State) (n c m : Nat) (f : Core → Core) :
    nd (modCo s n c f) m
      = if m = n then { nd s n with cores := smPut (nd s n).cores c (f (co s n c)) } else nd s m := by
  simp [modCo, nd_modNd, co]
theorem co_modCo (s : State) (n c m d : Nat) (f : Core → Core) :
    co (modCo s n c f) m d = if m = n ∧ d = c then f (co s n c) else co s m d := by
  by_cases h : m = n
  · subst h
    by_cases h2 : d = c <;> simp [co, nd_modCo, smGet_smPut, h2]
  · simp [co, nd_modCo, h]
@[simp] theorem co_modCo_same (s : State) (n c : Nat) (f : Core → Core) : co (modCo s n c f) n c = f (co s n c) := by
  simp [co_modCo]
theorem co_modCo_ne (s : State) {n c m d : Nat} (f : Core → Core) (h : ¬(m = n ∧ d = c)) :
    co (modCo s n c f) m d = co s m d := by
  simp [co_modCo, h]
@[simp] theorem qd_modCo (s : State) (n c m q : Nat) (f : Core → Core) : qd (modCo s n c f) m q = qd s m q := by
  by_cases h : m = n
  · subst h; simp [qd, nd_modCo]
  · simp [qd, nd_modCo, h]
@[simp] theorem cn_modCn (s : State) (f : Node → Node) : cn (modCn s f) = f (cn s) := by simp [cn, modCn]

theorem nd_modQd (s : State) (n q m : Nat) (f : Quad → Quad) :
    nd (modQd s n q f) m
      = if m = n then { nd s n with quads := smPut (nd s n).quads q (f (qd s n q)) } else nd s m := by
  simp [modQd, nd_modNd, qd]
theorem qd_modQd (s : State) (n q m p : Nat) (f : Quad → Quad) :
    qd (modQd s n q f) m p = if m = n ∧ p = q then f (qd s n q) else qd s m p := by
  by_cases h : m = n
  · subst h
    by_cases h2 : p = q <;> simp [qd, nd_modQd, smGet_smPut, h2]
  · simp [qd, nd_modQd, h]
@[simp] theorem co_modQd (s : State) (n q m d : Nat) (f : Quad → Quad) : co (modQd s n q f) m d = co s m d := by
  by_cases h : m = n
  · subst h; simp [co, nd_modQd]
  · simp [co, nd_modQd, h]

@[simp] theorem cc_modCc (s : State) (f : Core → Core) : cc (modCc s f) = f (cc s) := by
  simp [cc, modCc]

/-! Sequencers: in the handler CTRL has a bank of its own (R409). -/

@[simp] theorem inHandler_putSeq (k : Core) (q : Seq) (x : Sequencer) : inHandler (putSeq k q x) = inHandler k := by
  unfold putSeq; split <;> rfl

theorem seqIdx_inj {p q : Seq} (h : seqIdx p = seqIdx q) : p = q := by
  cases p <;> cases q <;> simp [seqIdx] at h <;> rfl

theorem seqIn_putSeq (k : Core) (q p : Seq) (x : Sequencer) :
    seqIn (putSeq k q x) p = if p = q then x else seqIn k p := by
  unfold seqIn
  rw [inHandler_putSeq]
  by_cases hp : p = q
  · subst hp
    by_cases hh : (inHandler k && p == Seq.ctrl) = true
    · simp [hh, putSeq]
    · simp [hh, putSeq]
  · by_cases hh : (inHandler k && q == Seq.ctrl) = true
    · have hq : q = .ctrl := by simp_all
      subst hq
      have : ¬ seqIdx p = seqIdx .ctrl := fun e => hp (seqIdx_inj e)
      have hk : inHandler k = true := by simpa using hh
      simp [hk, putSeq, hp, smGet_smPut, this]
    · have : ¬ seqIdx p = seqIdx q := fun e => hp (seqIdx_inj e)
      by_cases h2 : (inHandler k && p == Seq.ctrl) = true
      · simp [hh, h2, putSeq, smGet_smPut, this, hp]
      · simp [hh, h2, putSeq, hp, smGet_smPut, this]
@[simp] theorem seqIn_putSeq_same (k : Core) (q : Seq) (x : Sequencer) : seqIn (putSeq k q x) q = x := by
  simp [seqIn_putSeq]

@[simp] theorem cc_modCs (s : State) (f : Sequencer → Sequencer) :
    cc (modCs s f) = putSeq (cc s) s.cur.seq (f (cs s)) := by
  simp [cc, modCs, modSq, cs, sq]
@[simp] theorem cs_modCs (s : State) (f : Sequencer → Sequencer) : cs (modCs s f) = f (cs s) := by
  simp [cs, modCs, modSq, sq]
theorem cs_modCc (s : State) (f : Core → Core) : cs (modCc s f) = seqIn (f (cc s)) s.cur.seq := by
  simp [cs, modCc, sq, cc]

theorem sq_modCo (s : State) (n c m d : Nat) (q : Seq) (f : Core → Core) :
    sq (modCo s n c f) m d q = if m = n ∧ d = c then seqIn (f (co s n c)) q else sq s m d q := by
  unfold sq
  rw [co_modCo]
  split <;> rfl
theorem sq_modSq (s : State) (n c m d : Nat) (q p : Seq) (f : Sequencer → Sequencer) :
    sq (modSq s n c q f) m d p = if m = n ∧ d = c ∧ p = q then f (sq s n c q) else sq s m d p := by
  unfold modSq
  rw [sq_modCo]
  by_cases h : m = n ∧ d = c
  · obtain ⟨rfl, rfl⟩ := h
    by_cases h2 : p = q
    · subst h2; simp [sq]
    · simp [h2, sq, seqIn_putSeq]
  · have : ¬(m = n ∧ d = c ∧ p = q) := fun e => h ⟨e.1, e.2.1⟩
    simp [h, this]

@[simp] theorem putSeq_mode (k : Core) (q : Seq) (x : Sequencer) : (putSeq k q x).mode = k.mode := by unfold putSeq; split <;> rfl
@[simp] theorem putSeq_task (k : Core) (q : Seq) (x : Sequencer) : (putSeq k q x).task = k.task := by unfold putSeq; split <;> rfl
@[simp] theorem putSeq_himg (k : Core) (q : Seq) (x : Sequencer) : (putSeq k q x).himg = k.himg := by unfold putSeq; split <;> rfl
@[simp] theorem putSeq_rmode (k : Core) (q : Seq) (x : Sequencer) : (putSeq k q x).rmode = k.rmode := by unfold putSeq; split <;> rfl
@[simp] theorem putSeq_det (k : Core) (q : Seq) (x : Sequencer) : (putSeq k q x).det = k.det := by unfold putSeq; split <;> rfl
@[simp] theorem putSeq_interlock (k : Core) (q : Seq) (x : Sequencer) : (putSeq k q x).interlock = k.interlock := by unfold putSeq; split <;> rfl
@[simp] theorem putSeq_vtype (k : Core) (q : Seq) (x : Sequencer) : (putSeq k q x).vtype = k.vtype := by unfold putSeq; split <;> rfl
@[simp] theorem putSeq_vwb (k : Core) (q : Seq) (x : Sequencer) : (putSeq k q x).vwb = k.vwb := by unfold putSeq; split <;> rfl
@[simp] theorem putSeq_evt (k : Core) (q : Seq) (x : Sequencer) : (putSeq k q x).evt = k.evt := by unfold putSeq; split <;> rfl
@[simp] theorem putSeq_mprog (k : Core) (q : Seq) (x : Sequencer) : (putSeq k q x).mprog = k.mprog := by unfold putSeq; split <;> rfl
@[simp] theorem putSeq_masks (k : Core) (q : Seq) (x : Sequencer) : (putSeq k q x).masks = k.masks := by unfold putSeq; split <;> rfl
@[simp] theorem putSeq_trapCause (k : Core) (q : Seq) (x : Sequencer) : (putSeq k q x).trapCause = k.trapCause := by unfold putSeq; split <;> rfl
@[simp] theorem putSeq_trapAddr (k : Core) (q : Seq) (x : Sequencer) : (putSeq k q x).trapAddr = k.trapAddr := by unfold putSeq; split <;> rfl
@[simp] theorem putSeq_redLimit (k : Core) (q : Seq) (x : Sequencer) : (putSeq k q x).redLimit = k.redLimit := by unfold putSeq; split <;> rfl
@[simp] theorem putSeq_ptRoot (k : Core) (q : Seq) (x : Sequencer) : (putSeq k q x).ptRoot = k.ptRoot := by unfold putSeq; split <;> rfl
@[simp] theorem putSeq_asid (k : Core) (q : Seq) (x : Sequencer) : (putSeq k q x).asid = k.asid := by unfold putSeq; split <;> rfl
@[simp] theorem putSeq_fifos (k : Core) (q : Seq) (x : Sequencer) : (putSeq k q x).fifos = k.fifos := by unfold putSeq; split <;> rfl
@[simp] theorem putSeq_queues (k : Core) (q : Seq) (x : Sequencer) : (putSeq k q x).queues = k.queues := by unfold putSeq; split <;> rfl
@[simp] theorem putSeq_inflight (k : Core) (q : Seq) (x : Sequencer) : (putSeq k q x).inflight = k.inflight := by unfold putSeq; split <;> rfl
@[simp] theorem putSeq_landing (k : Core) (q : Seq) (x : Sequencer) : (putSeq k q x).landing = k.landing := by unfold putSeq; split <;> rfl
@[simp] theorem putSeq_cutGsc (k : Core) (q : Seq) (x : Sequencer) : (putSeq k q x).cutGsc = k.cutGsc := by unfold putSeq; split <;> rfl
@[simp] theorem putSeq_resumeAt (k : Core) (q : Seq) (x : Sequencer) : (putSeq k q x).resumeAt = k.resumeAt := by unfold putSeq; split <;> rfl
@[simp] theorem putSeq_saved (k : Core) (q : Seq) (x : Sequencer) : (putSeq k q x).saved = k.saved := by unfold putSeq; split <;> rfl
@[simp] theorem putSeq_relay (k : Core) (q : Seq) (x : Sequencer) : (putSeq k q x).relay = k.relay := by unfold putSeq; split <;> rfl
@[simp] theorem putSeq_acc (k : Core) (q : Seq) (x : Sequencer) : (putSeq k q x).acc = k.acc := by unfold putSeq; split <;> rfl
@[simp] theorem putSeq_spad (k : Core) (q : Seq) (x : Sequencer) : (putSeq k q x).spad = k.spad := by unfold putSeq; split <;> rfl
@[simp] theorem putSeq_spadPoison (k : Core) (q : Seq) (x : Sequencer) : (putSeq k q x).spadPoison = k.spadPoison := by unfold putSeq; split <;> rfl
@[simp] theorem putSeq_part (k : Core) (q : Seq) (x : Sequencer) : (putSeq k q x).part = k.part := by unfold putSeq; split <;> rfl
@[simp] theorem putSeq_l1 (k : Core) (q : Seq) (x : Sequencer) : (putSeq k q x).l1 = k.l1 := by unfold putSeq; split <;> rfl
@[simp] theorem putSeq_tlb (k : Core) (q : Seq) (x : Sequencer) : (putSeq k q x).tlb = k.tlb := by unfold putSeq; split <;> rfl
@[simp] theorem putSeq_loads (k : Core) (q : Seq) (x : Sequencer) : (putSeq k q x).loads = k.loads := by unfold putSeq; split <;> rfl
@[simp] theorem putSeq_blks (k : Core) (q : Seq) (x : Sequencer) : (putSeq k q x).blks = k.blks := by unfold putSeq; split <;> rfl
@[simp] theorem putSeq_winOut (k : Core) (q : Seq) (x : Sequencer) : (putSeq k q x).winOut = k.winOut := by unfold putSeq; split <;> rfl
@[simp] theorem putSeq_deferred (k : Core) (q : Seq) (x : Sequencer) : (putSeq k q x).deferred = k.deferred := by unfold putSeq; split <;> rfl
@[simp] theorem putSeq_detBuf (k : Core) (q : Seq) (x : Sequencer) : (putSeq k q x).detBuf = k.detBuf := by unfold putSeq; split <;> rfl
@[simp] theorem putSeq_detMine (k : Core) (q : Seq) (x : Sequencer) : (putSeq k q x).detMine = k.detMine := by unfold putSeq; split <;> rfl
@[simp] theorem putSeq_bars (k : Core) (q : Seq) (x : Sequencer) : (putSeq k q x).bars = k.bars := by unfold putSeq; split <;> rfl
@[simp] theorem putSeq_shadow (k : Core) (q : Seq) (x : Sequencer) : (putSeq k q x).shadow = k.shadow := by unfold putSeq; split <;> rfl
@[simp] theorem putSeq_mq (k : Core) (q : Seq) (x : Sequencer) : (putSeq k q x).mq = k.mq := by unfold putSeq; split <;> rfl
@[simp] theorem putSeq_red (k : Core) (q : Seq) (x : Sequencer) : (putSeq k q x).red = k.red := by unfold putSeq; split <;> rfl
@[simp] theorem putSeq_ret (k : Core) (q : Seq) (x : Sequencer) : (putSeq k q x).ret = k.ret := by unfold putSeq; split <;> rfl
@[simp] theorem putSeq_cq (k : Core) (q : Seq) (x : Sequencer) : (putSeq k q x).cq = k.cq := by unfold putSeq; split <;> rfl
@[simp] theorem putSeq_slots (k : Core) (q : Seq) (x : Sequencer) : (putSeq k q x).slots = k.slots := by unfold putSeq; split <;> rfl
@[simp] theorem putSeq_pq (k : Core) (q : Seq) (x : Sequencer) : (putSeq k q x).pq = k.pq := by unfold putSeq; split <;> rfl
@[simp] theorem putSeq_msgq (k : Core) (q : Seq) (x : Sequencer) : (putSeq k q x).msgq = k.msgq := by unfold putSeq; split <;> rfl
@[simp] theorem putSeq_collq (k : Core) (q : Seq) (x : Sequencer) : (putSeq k q x).collq = k.collq := by unfold putSeq; split <;> rfl
@[simp] theorem putSeq_joins (k : Core) (q : Seq) (x : Sequencer) : (putSeq k q x).joins = k.joins := by unfold putSeq; split <;> rfl
@[simp] theorem putSeq_preempt (k : Core) (q : Seq) (x : Sequencer) : (putSeq k q x).preempt = k.preempt := by unfold putSeq; split <;> rfl

/-! Registers (R93). -/

@[simp] theorem regRead_zero (k : Sequencer) : regRead k 0 = 0 := by simp [regRead]
@[simp] theorem regWrite_zero (k : Sequencer) (v : Word) : regWrite k 0 v = k := by simp [regWrite]
theorem regRead_regWrite (k : Sequencer) (r q : Reg) (v : Word) :
    regRead (regWrite k r v) q = if q = 0 then 0 else if q = r then v else regRead k q := by
  by_cases hq : q = 0
  · simp only [regRead, hq, if_true]
  · by_cases hr : r = 0
    · have : ¬ q = r := fun e => hq (e.trans hr)
      simp only [regWrite, hr, if_true, if_neg hq, if_neg (hr ▸ this)]
    · by_cases h : q = r
      · subst h; simp only [regRead, regWrite, if_neg hq, if_true, smGet_smPut_same]
      · have : ¬ q.toNat = r.toNat := fun e => h (BitVec.eq_of_toNat_eq e)
        simp only [regRead, regWrite, if_neg hq, if_neg hr, if_neg h, smGet_smPut, if_neg this]

end Sys2Proof.Machine
end

