-- ==== Sys2Proof/Laws/Issue.lean ====
section
/-! SUPPORT. What an issue does (R95, R97, R109): one lemma for the whole test, and what the taking leaves alone. -/

namespace Sys2Proof.Machine

/-- An instruction whose tests all hold issues: its effect on the state that the issue leaves. -/
theorem runOp_go {α : Type} (o : Op α) (s : State) {x : α} {s' : State} (hm : mayIssue s = true)
    (hd : decodeFault o s = none) (hs : spanFull s = false) (hf : flagsSet s (o.flags s) = true)
    (ht : tokensThere s o.tk (o.pops s) = true) (hr : srcsReady s o.srcs = true) (hp : o.pre s = .go x s')
    (h1 : tokensRoom s o.tk (o.pushes s) = true) (h2 : inflightRoom s o.flying = true) (h3 : o.room s = true) :
    runOp o s = .next (o.eff x (takeIssue o s')) := by
  simp [runOp, issueOp, finish, hm, hd, hs, hf, ht, hr, hp, h1, h2, h3]

/-- An instruction's own fault is taken as a trap once conditions 1 to 6 hold. -/
theorem runOp_trap {α : Type} (o : Op α) (s : State) {k : Cause} {s' : State} (hm : mayIssue s = true)
    (hd : decodeFault o s = none) (hs : spanFull s = false) (hf : flagsSet s (o.flags s) = true)
    (ht : tokensThere s o.tk (o.pops s) = true) (hr : srcsReady s o.srcs = true) (hp : o.pre s = .fault k s') :
    runOp o s = .next (takeTrap s' s.cur.node s.cur.core k) := by
  simp [runOp, issueOp, finish, hm, hd, hs, hf, ht, hr, hp]

/-- A decode fault is taken before anything of the instruction is looked at (R457). -/
theorem runOp_decode {α : Type} (o : Op α) (s : State) {code : Nat} (hm : mayIssue s = true)
    (hd : decodeFault o s = some code) :
    runOp o s = .next (takeTrap s s.cur.node s.cur.core (causeHere s code)) := by
  simp [runOp, issueOp, finish, hm, hd]

/-- Every run of an instruction answers a next state. -/
theorem runOp_next {α : Type} (o : Op α) (s : State) : ∃ t, runOp o s = .next t := by
  unfold runOp
  cases issueOp o s <;> exact ⟨_, rfl⟩

theorem decodeFault_none {α : Type} {o : Op α} {s : State} (h1 : o.illegal s = false)
    (h2 : o.handler = true ∨ inHandler (cc s) = false) (h3 : s.cur.seq ∈ o.seqs) (h4 : o.priv s = false) :
    decodeFault o s = none := by
  rcases h2 with h2 | h2 <;> simp [decodeFault, h1, h2, h3, h4]

/-! What leaves a sequencer's registers and constants alone. -/

/-- Two states that differ in nothing an operand reads. -/
structure SameOperands (s t : State) : Prop where
  cur  : t.cur = s.cur
  now  : t.now = s.now
  regs : (cs t).regs = (cs s).regs
  bank : (cs t).bank = (cs s).bank
  cbb  : (cs t).cbb = (cs s).cbb
  mode : (cc t).mode = (cc s).mode

theorem SameOperands.rfl' (s : State) : SameOperands s s := ⟨rfl, rfl, rfl, rfl, rfl, rfl⟩
theorem SameOperands.trans {s t u : State} (h : SameOperands s t) (g : SameOperands t u) : SameOperands s u :=
  ⟨g.cur.trans h.cur, g.now.trans h.now, g.regs.trans h.regs, g.bank.trans h.bank, g.cbb.trans h.cbb, g.mode.trans h.mode⟩
theorem SameOperands.reg {s t : State} (h : SameOperands s t) (r : Reg) : reg t r = reg s r := by
  simp [Machine.reg, regRead, h.regs]
theorem SameOperands.opv {s t : State} (h : SameOperands s t) (a : SOp) : opv t a = opv s a := by
  cases a <;> simp [Machine.opv, sopVal, regRead, bankRead, h.regs, h.bank, h.cbb]

theorem same_modCc (s : State) (f : Core → Core) (h1 : ∀ k, (f k).seqs = k.seqs) (h2 : ∀ k, (f k).hseq = k.hseq)
    (h3 : ∀ k, (f k).mode = k.mode) : SameOperands s (modCc s f) := by
  have e : cs (modCc s f) = cs s := by
    rw [cs_modCc]
    simp [seqIn, inHandler, h1, h2, h3, cs, sq, cc]
  exact ⟨rfl, rfl, by rw [e], by rw [e], by rw [e], by simp [h3]⟩
theorem same_modCs (s : State) (f : Sequencer → Sequencer) (h1 : ∀ k, (f k).regs = k.regs) (h2 : ∀ k, (f k).bank = k.bank)
    (h3 : ∀ k, (f k).cbb = k.cbb) : SameOperands s (modCs s f) :=
  ⟨rfl, rfl, by simp [h1], by simp [h2], by simp [h3], by simp⟩
theorem same_later (s : State) (l : Late) : SameOperands s (later s l) := ⟨rfl, rfl, rfl, rfl, rfl, rfl⟩

theorem same_foldl (f : State → Nat → State) (h : ∀ s p, SameOperands s (f s p)) (l : List Nat) (s : State) :
    SameOperands s (l.foldl f s) := by
  induction l generalizing s with
  | nil => exact .rfl' s
  | cons x r ih => exact (h s x).trans (ih _)

theorem same_popTok (s : State) (f k : Nat) : SameOperands s (popTok s f k) := by
  unfold popTok
  split
  · exact .rfl' s
  · refine .trans (same_modCc s _ ?_ ?_ ?_) (same_later _ _) <;> exact fun _ => rfl
theorem same_reserveTok (s : State) (f k : Nat) : SameOperands s (reserveTok s f k) := by
  unfold reserveTok
  split
  · exact .rfl' s
  · refine same_modCc s _ ?_ ?_ ?_ <;> exact fun _ => rfl
theorem same_pushLater (s : State) (f k : Nat) : SameOperands s (pushLater s f k) := by
  unfold pushLater
  split
  · exact .rfl' s
  · exact same_later _ _
theorem same_retirePushes (s : State) (t : Tok) (p : List (Nat × Nat)) : SameOperands s (retirePushes s t p) :=
  same_foldl _ (fun s _ => same_pushLater s _ _) _ s
theorem same_clearFlags (s : State) (m : BitVec 16) : SameOperands s (clearFlags s m) := by
  unfold clearFlags
  split
  · exact .rfl' s
  · refine same_modCc s _ ?_ ?_ ?_ <;> exact fun _ => rfl
theorem same_takeTokens (s : State) (t : Tok) (a b : List (Nat × Nat)) : SameOperands s (takeTokens s t a b) :=
  (same_foldl _ (fun s _ => same_popTok s _ _) _ s).trans (same_foldl _ (fun s _ => same_reserveTok s _ _) _ _)

/-- An issue changes no operand, no time and no agent. -/
theorem same_takeIssue {α : Type} (o : Op α) (s : State) : SameOperands s (takeIssue o s) := by
  have h1 := (same_clearFlags s (o.flags s)).trans (same_takeTokens _ o.tk (o.pops s) (o.pushes s))
  have h2 := h1.trans (same_modCs _ (fun k =>
    let c := continuation s k o.len
    { k with pc := c.pc, past := c.past, span := if c.quiet then 0 else k.span + 1, quiet := c.quiet, issued := k.issued + 1,
             status := .running })
    (fun _ => rfl) (fun _ => rfl) fun _ => rfl)
  unfold takeIssue
  simp only
  split
  · exact h2.trans (same_retirePushes _ _ _)
  · exact h2

/-- What an issue takes depends on an instruction only through its length, tokens, flags and retirement. -/
theorem takeIssue_congr {α β : Type} (o : Op α) (p : Op β) (s : State) (h1 : o.len = p.len) (h2 : o.tk = p.tk)
    (h3 : o.flags s = p.flags s) (h4 : o.pops s = p.pops s) (h5 : o.pushes s = p.pushes s) (h6 : o.now = p.now) :
    takeIssue o s = takeIssue p s := by
  unfold takeIssue
  rw [h1, h2, h3, h4, h5, h6]

end Sys2Proof.Machine
end

