-- ==== Sys2Proof/Laws/Memory.lean ====
section
/-! SUPPORT. The canonical form of memories: every operation on bytes keeps it, and it holds at reset. -/

namespace Sys2Proof

/-- The canonical form said without recursion: keys above a bound and strictly rising, no entry the default. -/
theorem smWfFrom_iff {α : Type} [DecidableEq α] (d : α) (lo : Nat) (m : SMap α) :
    smWfFrom d lo m = true ↔ (∀ e ∈ m, lo ≤ e.1 ∧ e.2 ≠ d) ∧ m.Pairwise fun x y => x.1 < y.1 := by
  induction m generalizing lo with
  | nil => simp [smWfFrom]
  | cons e r ih =>
    obtain ⟨k, v⟩ := e
    simp only [smWfFrom, Bool.and_eq_true, decide_eq_true_eq, ih, List.mem_cons, forall_eq_or_imp, List.pairwise_cons]
    constructor
    · rintro ⟨⟨h1, h2⟩, h3, h4⟩
      exact ⟨⟨⟨h1, h2⟩, fun e he => ⟨by have := (h3 e he).1; omega, (h3 e he).2⟩⟩, fun e he => (h3 e he).1, h4⟩
    · rintro ⟨⟨h1, h3⟩, h4, h5⟩
      exact ⟨h1, fun e he => ⟨h4 e he, (h3 e he).2⟩, h5⟩

theorem smWf_iff {α : Type} [DecidableEq α] (d : α) (m : SMap α) :
    smWf d m = true ↔ (∀ e ∈ m, e.2 ≠ d) ∧ m.Pairwise fun x y => x.1 < y.1 := by
  simp [smWf, smWfFrom_iff]

theorem smWf_filter {α : Type} [DecidableEq α] {d : α} {m : SMap α} (p : Nat × α → Bool) (h : smWf d m = true) :
    smWf d (m.filter p) = true := by
  rw [smWf_iff] at h ⊢
  exact ⟨fun e he => h.1 e (List.mem_of_mem_filter he), h.2.filter p⟩

namespace Machine

theorem memWrite_wf (m : Memory) (a n v : Nat) (h : Memory.wf m = true) : Memory.wf (memWrite m a n v) = true := by
  induction n generalizing m a v with
  | zero => exact h
  | succ n ih => exact ih _ _ _ (smWf_smSet h _ _)

theorem memPut_wf (m : Memory) (a : Nat) (l : List Byte) (h : Memory.wf m = true) : Memory.wf (memPut m a l) = true := by
  induction l generalizing m a with
  | nil => exact h
  | cons b r ih => exact ih _ _ (smWf_smSet h _ _)

theorem memMasked_wf (m : Memory) (a mask v n : Nat) (h : Memory.wf m = true) :
    Memory.wf (memMasked m a mask v n) = true := by
  induction n generalizing m a mask v with
  | zero => exact h
  | succ n ih =>
    refine ih _ _ _ _ ?_
    split
    · exact smWf_smSet h _ _
    · exact h

theorem memClear_wf (m : Memory) (a n : Nat) (h : Memory.wf m = true) : Memory.wf (memClear m a n) = true :=
  smWf_filter _ h

theorem bytesMem_bounds (a : Nat) (l : List Byte) :
    (∀ e ∈ bytesMem a l, a ≤ e.1 ∧ e.1 < a + l.length ∧ e.2 ≠ 0) ∧ (bytesMem a l).Pairwise fun x y => x.1 < y.1 := by
  induction l generalizing a with
  | nil => simp [bytesMem]
  | cons b r ih =>
    have h := ih (a + 1)
    by_cases hb : b = 0
    · simp only [bytesMem, hb, if_true, List.length_cons]
      exact ⟨fun e he => by have := h.1 e he; exact ⟨by omega, by omega, this.2.2⟩, h.2⟩
    · simp only [bytesMem, hb, if_false, List.length_cons, List.mem_cons, forall_eq_or_imp, List.pairwise_cons]
      exact ⟨⟨⟨by omega, by omega, hb⟩, fun e he => by have := h.1 e he; exact ⟨by omega, by omega, this.2.2⟩⟩,
        fun e he => by have := h.1 e he; omega, h.2⟩

/-- A list of bytes as a memory has the canonical form. -/
theorem bytesMem_wf (a : Nat) (l : List Byte) : Memory.wf (bytesMem a l) = true :=
  (smWf_iff _ _).mpr ⟨fun e he => ((bytesMem_bounds a l).1 e he).2.2, (bytesMem_bounds a l).2⟩

theorem memSlice_wf (m : Memory) (a n : Nat) (h : Memory.wf m = true) :
    Memory.wf (memSlice m a n) = true ∧ ∀ e ∈ memSlice m a n, e.1 < n := by
  unfold Memory.wf at *
  rw [smWf_iff] at h ⊢
  have hm : ∀ e ∈ m.filter fun e => decide (a ≤ e.1) && decide (e.1 < a + n), a ≤ e.1 ∧ e.1 < a + n ∧ e.2 ≠ 0 := by
    intro e he
    simp only [List.mem_filter, Bool.and_eq_true, decide_eq_true_eq] at he
    exact ⟨he.2.1, he.2.2, h.1 e he.1⟩
  refine ⟨⟨fun e he => ?_, ?_⟩, fun e he => ?_⟩
  · obtain ⟨x, hx, rfl⟩ := List.mem_map.mp he
    exact (hm x hx).2.2
  · unfold memSlice
    rw [List.pairwise_map]
    refine List.Pairwise.imp_of_mem (fun {x y} hx hy hxy => ?_) (h.2.filter _)
    have := hm x hx; have := hm y hy
    simp only
    omega
  · obtain ⟨x, hx, rfl⟩ := List.mem_map.mp he
    have := hm x hx
    simp only
    omega

/-- Replacing a range by an image of its length keeps the form. -/
theorem memBlit_wf (m : Memory) (a n : Nat) (img : Memory) (h : Memory.wf m = true) (hi : Memory.wf img = true)
    (hn : ∀ e ∈ img, e.1 < n) : Memory.wf (memBlit m a n img) = true := by
  unfold Memory.wf at *
  rw [smWf_iff] at h hi ⊢
  unfold memBlit
  refine ⟨fun e he => ?_, ?_⟩
  · simp only [List.mem_append, List.mem_filter, List.mem_map] at he
    rcases he with (he | ⟨x, hx, rfl⟩) | he
    · exact h.1 e he.1
    · exact hi.1 x hx
    · exact h.1 e he.1
  · rw [List.pairwise_append, List.pairwise_append]
    refine ⟨⟨h.2.filter _, ?_, ?_⟩, h.2.filter _, ?_⟩
    · rw [List.pairwise_map]
      exact hi.2.imp fun {x y} hxy => by simp only; omega
    · intro x hx y hy
      simp only [List.mem_filter, decide_eq_true_eq] at hx
      obtain ⟨z, -, rfl⟩ := List.mem_map.mp hy
      simp only
      omega
    · intro x hx y hy
      simp only [List.mem_append, List.mem_filter, decide_eq_true_eq, List.mem_map] at hx hy
      rcases hx with hx | ⟨z, hz, rfl⟩
      · omega
      · have := hn z hz
        simp only
        omega

/-! At the homes of a node. -/

/-- The three memories of a node have the canonical form. -/
def memoriesWf (d : Node) : Prop := ∀ sp, Memory.wf (homeMem d sp) = true

theorem homeMem_setHomeMem (d : Node) (sp sq : Space) (m : Memory) :
    homeMem (setHomeMem d sp m) sq = if sq = sp then m else homeMem d sq := by
  cases sp <;> cases sq <;> rfl

theorem homeMem_setPoison (d : Node) (sp sq : Space) (pa : Nat) (b : Bool) :
    homeMem (setPoison d sp pa b) sq = homeMem d sq := by
  cases sp <;> cases sq <;> rfl

theorem setHomeMem_wf {d : Node} (h : memoriesWf d) (sp : Space) {m : Memory} (hm : Memory.wf m = true) :
    memoriesWf (setHomeMem d sp m) := by
  intro sq
  rw [homeMem_setHomeMem]
  split
  · exact hm
  · exact h sq

theorem homeWrite_wf {d : Node} (h : memoriesWf d) (sp : Space) (pa size mask v : Nat) :
    memoriesWf (homeWrite d sp pa size mask v) := by
  have hw := setHomeMem_wf h sp (memMasked_wf _ (homeAddr d sp pa) mask v size (h sp))
  intro sq
  unfold homeWrite
  dsimp only
  split
  · rw [homeMem_setPoison]; exact hw sq
  · exact hw sq

/-- Every memory has the canonical form at reset. -/
theorem reset_memoriesWf (n : Nat) : memoriesWf (nd State.reset n) := by
  intro sp
  cases sp <;> rfl

/-- And every scratchpad. -/
theorem reset_spad_wf (n c : Nat) : Memory.wf (co State.reset n c).spad = true := rfl

theorem spadWrite_wf (k : Core) (off size mask v : Nat) (h : Memory.wf k.spad = true) :
    Memory.wf (spadWrite k off size mask v).spad = true := by
  unfold spadWrite
  split <;> exact memMasked_wf _ _ _ _ _ h

end Machine
end Sys2Proof
end

