-- ==== Sys2Proof/Laws/Run.lean ====
section
/-! SUPPORT. A decoded instruction runs as `exec` runs it, on a core and in the prism. -/

namespace Sys2Proof.Machine

/-- What the decoder gives runs as its instruction. -/
theorem runCode_eq_exec (c : Code) (s : State) : runCode c s = exec c.instr s := by
  cases c with
  | one i => rfl
  | v f n => cases f <;> rfl
  | e f n => cases f <;> rfl

theorem either_of_ite {α : Type} {p : Prop} [Decidable p] {a b c : α} (h : (if p then a else b) = c) : a = c ∨ b = c := by
  by_cases hp : p
  · exact .inl (by simpa [hp] using h)
  · exact .inr (by simpa [hp] using h)

/-- What the prism's decoder gives runs as its instruction. -/
theorem runPrism_eq_exec {u : BitVec 16} {i : Instr} (h : decodePrism u = some i) (s : State) : runPrism i s = exec i s := by
  unfold decodePrism prismRow at h
  repeat
    rcases either_of_ite h with h | h
    · cases h; rfl
  cases h

end Sys2Proof.Machine
end

