-- ==== Sys2Proof/Tests/Slice0.lean ====
section
/-! SUPPORT. Small tests: terms that no encoding stands for, words of the encoding tables, single steps, and for each
claim with hypotheses a machine and operands that meet them. -/

namespace Sys2Proof.Tests

set_option Elab.async false
open Sys2Proof Sys2Proof.Machine Sys2Proof.Claims

/-! Machines for the tests. -/

/-- No tokens. -/
abbrev noTok : Tok := ⟨0, 0⟩
/-- A machine of two nodes whose core 0 of node 0 runs a task of tenant 0 on a sequencer with the registers `rs`. -/
def mach (q : Seq) (rs : List (Nat × Word)) (f : Core → Core) (g : Node → Node) : State :=
  let s : State := { State.reset with torus := (2, 1, 1), domain := (2, 1, 1), cur := { seq := q } }
  modNd (modSq (modCo s 0 0 fun k => f { placeCore k q 0 with part := 8 }) 0 0 q fun x => { x with regs := rs }) 0 g
/-- The same without changes of core and node. -/
def work (q : Seq) (rs : List (Nat × Word)) : State := mach q rs id id
/-- The same with a task of tenant 1. -/
def user (q : Seq) (rs : List (Nat × Word)) : State :=
  mach q rs (fun k => { k with task := some { placeTask with ctl := 0x4000 } }) id
/-- The same in the trap handler. -/
def handler (rs : List (Nat × Word)) (f : Core → Core) : State :=
  mach .ctrl rs (fun k => f { k with mode := .handler,
                                     hseq := { status := .running, pc := 16, line := .ready 1 0 } }) id
/-- A node whose first GiB is one page of kind UNORDERED with every right, mapped to HBM, HBM-DEEP or the host. -/
def paged (loc : BitVec 8) (d : Node) : Node :=
  { d with hbm := if loc = 0 then [(0x1000, 0x01), (0x1001, 0x20), (0x2000, 0x3D)]
                  else [(0x1000, 0x01), (0x1001, 0x20), (0x2000, 0x3D), (0x2001, loc)],
           deep := [], hostLen := 0x100000 }
/-- The same machine under that page table. -/
def mapped (q : Seq) (rs : List (Nat × Word)) (loc : BitVec 8) (f : Core → Core) : State :=
  mach q rs (fun k => f { k with ptRoot := 0x1000 }) (paged loc)
/-- An F-E instruction with operands in s1, s2 and s3. -/
def fe3 : FE := ⟨⟨0, 0⟩, 3, 1, 2, 0, 0⟩
/-- A vector instruction of F32 lanes on v1, v2 and v3. -/
def fv (vd : BitVec 7) (a b c : VOp) (vt : BitVec 3) : FV := ⟨⟨0, 0⟩, false, vd, a, b, c, 0, vt, 0, false, 0⟩

/-- The conditions of `CanIssueWith`, tested. -/
def canB (s : State) (t : Tok) (seqs : List Seq) (srcs : List Reg) (fly : Nat) (flags : BitVec 16)
    (pops pushes : List (Nat × Nat)) : Bool :=
  mayIssue s && decide (s.cur.seq ∈ seqs) && !spanFull s && flagsSet s flags && tokensThere s t pops
  && tokensRoom s t pushes && srcsReady s srcs && inflightRoom s fly

theorem can_of {s : State} {t : Tok} {seqs : List Seq} {srcs : List Reg} {fly : Nat} {flags : BitVec 16}
    {pops pushes : List (Nat × Nat)} (h : canB s t seqs srcs fly flags pops pushes = true) :
    CanIssueWith s t seqs srcs fly flags pops pushes := by
  simp only [canB, Bool.and_eq_true, Bool.not_eq_true', decide_eq_true_eq] at h
  obtain ⟨⟨⟨⟨⟨⟨⟨a, b⟩, c⟩, d⟩, e⟩, f⟩, g⟩, i⟩ := h
  exact ⟨a, b, c, d, e, f, g, i⟩

theorem canE_of {s : State} {f : FE} {seqs : List Seq} {srcs : List Reg} {fly : Nat}
    (h : (canB s f.tk seqs srcs fly f.wait [] [] && !inHandler (cc s)) = true) : CanIssueE s f seqs srcs fly := by
  simp only [Bool.and_eq_true, Bool.not_eq_true'] at h
  exact ⟨can_of h.1, h.2⟩

theorem canV_of {s : State} {f : FV} {h : VShape}
    (w : (canB s f.tk [.exec] (vopSrcs f.a ++ vopSrcs f.b ++ vopSrcs f.c) 1 0 [] []
      && !interlocked (cc s) ⟨f, h, .load .unit⟩) = true) : CanIssueV s f h := by
  simp only [Bool.and_eq_true, Bool.not_eq_true'] at w
  exact ⟨can_of w.1, w.2⟩

/-- Whether a check lets an instruction through. -/
def isGo {α : Type} : Pre α → Bool
  | .go _ _ => true
  | _ => false
/-- Whether a check makes it wait. -/
def isHold {α : Type} : Pre α → Bool
  | .hold _ => true
  | _ => false
/-- Whether a check faults. -/
def isFault {α : Type} : Pre α → Bool
  | .fault _ _ => true
  | _ => false
/-- Whether an access check gives a target with a property. -/
def okTo (p : Target → Bool) : Chk → Bool
  | .ok t _ => p t
  | _ => false
/-- Whether an access check faults. -/
def chkFault : Chk → Bool
  | .fault _ _ => true
  | _ => false
/-- Whether a machine goes on to a state with a property. -/
def nextTo (p : State → Bool) : Out → Bool
  | .next s => p s
  | _ => false
/-- Whether a sum is a right one. -/
def isInr {α β : Type} : Sum α β → Bool
  | .inr _ => true
  | .inl _ => false
/-- An address of the core's own scratchpad. -/
def spadVa (o : Nat) : Word := BitVec.ofNat 64 (0xFF * 2 ^ 40 + o)


/-! Words of the encoding tables (R49 to R65, R134, R273). -/

theorem test_words_00 : ∀ e ∈ ([([0x01800000], .one (.nop ⟨1, 2⟩)),
     ([0x01800001], .one (.sqstop ⟨1, 2⟩)),
     ([0x01809402], .one (.sqwait ⟨1, 2⟩ (.reg 5))),
     ([0x01809403], .one (.sqsig ⟨1, 2⟩ (.reg 5))),
     ([0x01860004], .one (.rdstep ⟨1, 2⟩ 3)),
     ([0x01860005], .one (.rdcyc ⟨1, 2⟩ 3)),
     ([0x01809406], .one (.waitstep ⟨1, 2⟩ (.reg 5))),
     ([0x01860007], .one (.sqid ⟨1, 2⟩ 3))] : List (List (BitVec 32) × Code)),
    decodeUnits e.1 = .ok e.2 e.1.length := by decide

theorem test_words_01 : ∀ e ∈ ([([0x05869530], .one (.add ⟨1, 2⟩ 3 (.reg 5) (.reg 6))),
     ([0x05869531], .one (.sub ⟨1, 2⟩ 3 (.reg 5) (.reg 6))),
     ([0x05869532], .one (.and ⟨1, 2⟩ 3 (.reg 5) (.reg 6))),
     ([0x05869533], .one (.or ⟨1, 2⟩ 3 (.reg 5) (.reg 6))),
     ([0x05869534], .one (.xor ⟨1, 2⟩ 3 (.reg 5) (.reg 6))),
     ([0x05869535], .one (.andn ⟨1, 2⟩ 3 (.reg 5) (.reg 6))),
     ([0x05869536], .one (.min ⟨1, 2⟩ 3 (.reg 5) (.reg 6))),
     ([0x05869537], .one (.max ⟨1, 2⟩ 3 (.reg 5) (.reg 6)))] : List (List (BitVec 32) × Code)),
    decodeUnits e.1 = .ok e.2 e.1.length := by decide

theorem test_words_02 : ∀ e ∈ ([([0x09869530], .one (.minu ⟨1, 2⟩ 3 (.reg 5) (.reg 6))),
     ([0x09869531], .one (.maxu ⟨1, 2⟩ 3 (.reg 5) (.reg 6))),
     ([0x09869532], .one (.shl ⟨1, 2⟩ 3 (.reg 5) (.reg 6))),
     ([0x09869533], .one (.shr ⟨1, 2⟩ 3 (.reg 5) (.reg 6))),
     ([0x09869534], .one (.sar ⟨1, 2⟩ 3 (.reg 5) (.reg 6))),
     ([0x09869535], .one (.rotl ⟨1, 2⟩ 3 (.reg 5) (.reg 6))),
     ([0x09869406], .one (.clz ⟨1, 2⟩ 3 (.reg 5))),
     ([0x09869407], .one (.popc ⟨1, 2⟩ 3 (.reg 5)))] : List (List (BitVec 32) × Code)),
    decodeUnits e.1 = .ok e.2 e.1.length := by decide

theorem test_words_03 : ∀ e ∈ ([([0x0D869530], .one (.mul ⟨1, 2⟩ 3 (.reg 5) (.reg 6))),
     ([0x0D869531], .one (.mulh ⟨1, 2⟩ 3 (.reg 5) (.reg 6))),
     ([0x0D869532], .one (.mulhu ⟨1, 2⟩ 3 (.reg 5) (.reg 6))),
     ([0x0D869533], .one (.div ⟨1, 2⟩ 3 (.reg 5) (.reg 6))),
     ([0x0D869534], .one (.divu ⟨1, 2⟩ 3 (.reg 5) (.reg 6))),
     ([0x0D869535], .one (.rem ⟨1, 2⟩ 3 (.reg 5) (.reg 6))),
     ([0x0D869536], .one (.remu ⟨1, 2⟩ 3 (.reg 5) (.reg 6))),
     ([0x0D869537], .one (.addw ⟨1, 2⟩ 3 (.reg 5) (.reg 6)))] : List (List (BitVec 32) × Code)),
    decodeUnits e.1 = .ok e.2 e.1.length := by decide

theorem test_words_04 : ∀ e ∈ ([([0x11869530], .one (.ceq ⟨1, 2⟩ 3 (.reg 5) (.reg 6))),
     ([0x11869531], .one (.cne ⟨1, 2⟩ 3 (.reg 5) (.reg 6))),
     ([0x11869532], .one (.clt ⟨1, 2⟩ 3 (.reg 5) (.reg 6))),
     ([0x11869533], .one (.cltu ⟨1, 2⟩ 3 (.reg 5) (.reg 6))),
     ([0x11869534], .one (.cle ⟨1, 2⟩ 3 (.reg 5) (.reg 6))),
     ([0x11869535], .one (.cleu ⟨1, 2⟩ 3 (.reg 5) (.reg 6))),
     ([0x11869536], .one (.csel ⟨1, 2⟩ 3 (.reg 5) (.reg 6))),
     ([0x11869407], .one (.mov ⟨1, 2⟩ 3 (.reg 5)))] : List (List (BitVec 32) × Code)),
    decodeUnits e.1 = .ok e.2 e.1.length := by decide

theorem test_words_05 : ∀ e ∈ ([([0x15869530], .one (.adds1 ⟨1, 2⟩ 3 (.reg 5) (.reg 6))),
     ([0x15869531], .one (.adds2 ⟨1, 2⟩ 3 (.reg 5) (.reg 6))),
     ([0x15869532], .one (.adds3 ⟨1, 2⟩ 3 (.reg 5) (.reg 6))),
     ([0x15869533], .one (.adds4 ⟨1, 2⟩ 3 (.reg 5) (.reg 6))),
     ([0x15869404], .one (.sextb ⟨1, 2⟩ 3 (.reg 5))),
     ([0x15869405], .one (.sexth ⟨1, 2⟩ 3 (.reg 5))),
     ([0x15869406], .one (.sextw ⟨1, 2⟩ 3 (.reg 5))),
     ([0x15869407], .one (.zextw ⟨1, 2⟩ 3 (.reg 5)))] : List (List (BitVec 32) × Code)),
    decodeUnits e.1 = .ok e.2 e.1.length := by decide

theorem test_words_06 : ∀ e ∈ ([([0x19865001], .one (.addi ⟨1, 2⟩ 3 5 1))] : List (List (BitVec 32) × Code)),
    decodeUnits e.1 = .ok e.2 e.1.length := by decide

theorem test_words_07 : ∀ e ∈ ([([0x1D865001], .one (.andi ⟨1, 2⟩ 3 5 1))] : List (List (BitVec 32) × Code)),
    decodeUnits e.1 = .ok e.2 e.1.length := by decide

theorem test_words_08 : ∀ e ∈ ([([0x21865001], .one (.ori ⟨1, 2⟩ 3 5 1))] : List (List (BitVec 32) × Code)),
    decodeUnits e.1 = .ok e.2 e.1.length := by decide

theorem test_words_09 : ∀ e ∈ ([([0x25865001], .one (.xori ⟨1, 2⟩ 3 5 1))] : List (List (BitVec 32) × Code)),
    decodeUnits e.1 = .ok e.2 e.1.length := by decide

theorem test_words_0A : ∀ e ∈ ([([0x29865007], .one (.shli ⟨1, 2⟩ 3 5 7)),
     ([0x29865407], .one (.shri ⟨1, 2⟩ 3 5 7)),
     ([0x29865807], .one (.sari ⟨1, 2⟩ 3 5 7)),
     ([0x29865C07], .one (.rotli ⟨1, 2⟩ 3 5 7))] : List (List (BitVec 32) × Code)),
    decodeUnits e.1 = .ok e.2 e.1.length := by decide

theorem test_words_0B : ∀ e ∈ ([([0x2D860001], .one (.li ⟨1, 2⟩ 3 1))] : List (List (BitVec 32) × Code)),
    decodeUnits e.1 = .ok e.2 e.1.length := by decide

theorem test_words_0C : ∀ e ∈ ([([0x31809708], .one (.qput ⟨1, 2⟩ (.reg 5) 1)),
     ([0x31860309], .one (.qget ⟨1, 2⟩ 3 1)),
     ([0x3186030A], .one (.qpeek ⟨1, 2⟩ 3 1)),
     ([0x3186030B], .one (.qcnt ⟨1, 2⟩ 3 1)),
     ([0x3180970C], .one (.tokgive ⟨1, 2⟩ (.reg 5) 1)),
     ([0x3180970D], .one (.toktake ⟨1, 2⟩ (.reg 5) 1)),
     ([0x31878316], .one (.tokcntIn ⟨1, 2⟩ 3 2)),
     ([0x31878716], .one (.tokcntOut ⟨1, 2⟩ 3 2))] : List (List (BitVec 32) × Code)),
    decodeUnits e.1 = .ok e.2 e.1.length := by decide

theorem test_words_0D : ∀ e ∈ ([([0x35860001], .one (.mfsr ⟨1, 2⟩ 3 1))] : List (List (BitVec 32) × Code)),
    decodeUnits e.1 = .ok e.2 e.1.length := by decide

theorem test_words_0E : ∀ e ∈ ([([0x39805001], .one (.mtsr ⟨1, 2⟩ 5 1))] : List (List (BitVec 32) × Code)),
    decodeUnits e.1 = .ok e.2 e.1.length := by decide

theorem test_words_0F : ∀ e ∈ ([([0x3D805701], .one (.cbld ⟨1, 2⟩ 5 7 1))] : List (List (BitVec 32) × Code)),
    decodeUnits e.1 = .ok e.2 e.1.length := by decide

theorem test_words_10 : ∀ e ∈ ([([0x41865001], .one (.ldb ⟨1, 2⟩ 3 5 1)),
     ([0x41865201], .one (.ldbu ⟨1, 2⟩ 3 5 1)),
     ([0x41865401], .one (.ldh ⟨1, 2⟩ 3 5 1)),
     ([0x41865601], .one (.ldhu ⟨1, 2⟩ 3 5 1)),
     ([0x41865801], .one (.ldw ⟨1, 2⟩ 3 5 1)),
     ([0x41865A01], .one (.ldwu ⟨1, 2⟩ 3 5 1)),
     ([0x41865C01], .one (.ldd ⟨1, 2⟩ 3 5 1))] : List (List (BitVec 32) × Code)),
    decodeUnits e.1 = .ok e.2 e.1.length := by decide

theorem test_words_11 : ∀ e ∈ ([([0x45865001], .one (.stb ⟨1, 2⟩ 3 5 1)),
     ([0x45865401], .one (.sth ⟨1, 2⟩ 3 5 1)),
     ([0x45865801], .one (.stw ⟨1, 2⟩ 3 5 1)),
     ([0x45865C01], .one (.std ⟨1, 2⟩ 3 5 1))] : List (List (BitVec 32) × Code)),
    decodeUnits e.1 = .ok e.2 e.1.length := by decide

theorem test_words_12 : ∀ e ∈ ([([0x49865001], .one (.ldqB ⟨1, 2⟩ 3 5 1)),
     ([0x49865201], .one (.ldqBu ⟨1, 2⟩ 3 5 1)),
     ([0x49865401], .one (.ldqH ⟨1, 2⟩ 3 5 1)),
     ([0x49865601], .one (.ldqHu ⟨1, 2⟩ 3 5 1)),
     ([0x49865801], .one (.ldqW ⟨1, 2⟩ 3 5 1)),
     ([0x49865A01], .one (.ldqWu ⟨1, 2⟩ 3 5 1)),
     ([0x49865C01], .one (.ldqD ⟨1, 2⟩ 3 5 1))] : List (List (BitVec 32) × Code)),
    decodeUnits e.1 = .ok e.2 e.1.length := by decide

theorem test_words_13 : ∀ e ∈ ([([0x4D805001], .one (.pref ⟨1, 2⟩ 5 1)),
     ([0x4D805201], .one (.cwb ⟨1, 2⟩ 5 1)),
     ([0x4D805401], .one (.cinv ⟨1, 2⟩ 5 1)),
     ([0x4D805601], .one (.cflush ⟨1, 2⟩ 5 1)),
     ([0x4D805801], .one (.zero ⟨1, 2⟩ 5 1))] : List (List (BitVec 32) × Code)),
    decodeUnits e.1 = .ok e.2 e.1.length := by decide

theorem test_words_14 : ∀ e ∈ ([([0x51869530], .one (.blkld ⟨1, 2⟩ 3 (.reg 5) (.reg 6))),
     ([0x51869531], .one (.blkst ⟨1, 2⟩ 3 (.reg 5) (.reg 6))),
     ([0x51869532], .one (.blkrow ⟨1, 2⟩ 3 (.reg 5) (.reg 6)))] : List (List (BitVec 32) × Code)),
    decodeUnits e.1 = .ok e.2 e.1.length := by decide

theorem test_words_15 : ∀ e ∈ ([([0x55818708], .one (.fence ⟨1, 2⟩ 1 1)),
     ([0x55809709], .one (.qfence ⟨1, 2⟩ (.reg 5) 1))] : List (List (BitVec 32) × Code)),
    decodeUnits e.1 = .ok e.2 e.1.length := by decide

theorem test_words_16 : ∀ e ∈ ([([0x59865305], .one (.amoadd ⟨1, 2⟩ 3 5 6 1 1)),
     ([0x5986530D], .one (.amoand ⟨1, 2⟩ 3 5 6 1 1)),
     ([0x59865315], .one (.amoor ⟨1, 2⟩ 3 5 6 1 1)),
     ([0x5986531D], .one (.amoxor ⟨1, 2⟩ 3 5 6 1 1)),
     ([0x59865325], .one (.amomin ⟨1, 2⟩ 3 5 6 1 1)),
     ([0x5986532D], .one (.amomax ⟨1, 2⟩ 3 5 6 1 1)),
     ([0x59865335], .one (.amominu ⟨1, 2⟩ 3 5 6 1 1)),
     ([0x5986533D], .one (.amomaxu ⟨1, 2⟩ 3 5 6 1 1)),
     ([0x59865345], .one (.amoswap ⟨1, 2⟩ 3 5 6 1 1)),
     ([0x59865349], .one (.amofadd ⟨1, 2⟩ 3 5 6 1))] : List (List (BitVec 32) × Code)),
    decodeUnits e.1 = .ok e.2 e.1.length := by decide

theorem test_words_16_1 : ∀ e ∈ ([([0x59865351], .one (.amofmin ⟨1, 2⟩ 3 5 6 1)),
     ([0x59865359], .one (.amofmax ⟨1, 2⟩ 3 5 6 1)),
     ([0x59865365], .one (.amocas ⟨1, 2⟩ 3 5 6 1 1))] : List (List (BitVec 32) × Code)),
    decodeUnits e.1 = .ok e.2 e.1.length := by decide

theorem test_words_17 : ∀ e ∈ ([([0x5D869400], .one (.rngclaim ⟨1, 2⟩ 3 (.reg 5))),
     ([0x5D809531], .one (.rngpub ⟨1, 2⟩ (.reg 5) (.reg 6))),
     ([0x5D869532], .one (.rngwfill ⟨1, 2⟩ 3 (.reg 5) (.reg 6))),
     ([0x5D869533], .one (.rngwfree ⟨1, 2⟩ 3 (.reg 5) (.reg 6))),
     ([0x5D809534], .one (.rngrel ⟨1, 2⟩ (.reg 5) (.reg 6))),
     ([0x5D869405], .one (.rngstat ⟨1, 2⟩ 3 (.reg 5))),
     ([0x5D809536], .one (.rnginit ⟨1, 2⟩ (.reg 5) (.reg 6))),
     ([0x5D869537], .one (.rngpeek ⟨1, 2⟩ 3 (.reg 5) (.reg 6)))] : List (List (BitVec 32) × Code)),
    decodeUnits e.1 = .ok e.2 e.1.length := by decide

theorem test_words_18 : ∀ e ∈ ([([0x61869708], .one (.bararr ⟨1, 2⟩ 3 (.reg 5) 1)),
     ([0x61869709], .one (.barwait ⟨1, 2⟩ 3 (.reg 5) 1)),
     ([0x6186970A], .one (.barsync ⟨1, 2⟩ 3 (.reg 5) 1)),
     ([0x6180970B], .one (.barinit ⟨1, 2⟩ (.reg 5) 1))] : List (List (BitVec 32) × Code)),
    decodeUnits e.1 = .ok e.2 e.1.length := by decide

theorem test_words_19 : ∀ e ∈ ([([0x65800000], .one (.ret ⟨1, 2⟩)),
     ([0x65809401], .one (.jmpr ⟨1, 2⟩ (.reg 5))),
     ([0x65809402], .one (.callr ⟨1, 2⟩ (.reg 5))),
     ([0x65809403], .one (.trap ⟨1, 2⟩ (.reg 5))),
     ([0x65800004], .one (.brk ⟨1, 2⟩))] : List (List (BitVec 32) × Code)),
    decodeUnits e.1 = .ok e.2 e.1.length := by decide

theorem test_words_branch : ∀ e ∈ ([([0x81800000, 0x12345670], .one (.b ⟨1, 2⟩ 0x123456 7)),
     ([0x818A4000, 0x12345670], .one (.beqz ⟨1, 2⟩ 5 0x123456 7)),
     ([0x818A8000, 0x12345670], .one (.bnez ⟨1, 2⟩ 5 0x123456 7)),
     ([0x818AC000, 0x12345670], .one (.bltz ⟨1, 2⟩ 5 0x123456 7)),
     ([0x818B0000, 0x12345670], .one (.bgez ⟨1, 2⟩ 5 0x123456 7)),
     ([0x818B4000, 0x12345670], .one (.bgtz ⟨1, 2⟩ 5 0x123456 7)),
     ([0x818B8000, 0x12345670], .one (.blez ⟨1, 2⟩ 5 0x123456 7)),
     ([0x818BC000, 0x12345670], .one (.bloop ⟨1, 2⟩ 5 0x123456 7)),
     ([0x85800000, 0x12345670], .one (.call ⟨1, 2⟩ 0x123456 7))] : List (List (BitVec 32) × Code)),
    decodeUnits e.1 = .ok e.2 e.1.length := by decide

theorem test_words_22 : ∀ e ∈ ([([0x89824140, 0x05000A00], .v .vadd ⟨⟨1, 2⟩, false, 9, .vec 10, .vec 10, .vec 0, 1, 2, 0, false, 0⟩),
     ([0x89824141, 0x05000A00], .v .vsub ⟨⟨1, 2⟩, false, 9, .vec 10, .vec 10, .vec 0, 1, 2, 0, false, 0⟩),
     ([0x89824142, 0x05000A00], .v .vmul ⟨⟨1, 2⟩, false, 9, .vec 10, .vec 10, .vec 0, 1, 2, 0, false, 0⟩),
     ([0x89824143, 0x05028A00], .v .vfma ⟨⟨1, 2⟩, false, 9, .vec 10, .vec 10, .vec 10, 1, 2, 0, false, 0⟩),
     ([0x89824144, 0x05028A00], .v .vfms ⟨⟨1, 2⟩, false, 9, .vec 10, .vec 10, .vec 10, 1, 2, 0, false, 0⟩),
     ([0x89824145, 0x05000A00], .v .vmin ⟨⟨1, 2⟩, false, 9, .vec 10, .vec 10, .vec 0, 1, 2, 0, false, 0⟩),
     ([0x89824146, 0x05000A00], .v .vmax ⟨⟨1, 2⟩, false, 9, .vec 10, .vec 10, .vec 0, 1, 2, 0, false, 0⟩),
     ([0x89824147, 0x00000A00], .v .vabs ⟨⟨1, 2⟩, false, 9, .vec 10, .vec 0, .vec 0, 1, 2, 0, false, 0⟩),
     ([0x89824148, 0x00000A00], .v .vneg ⟨⟨1, 2⟩, false, 9, .vec 10, .vec 0, .vec 0, 1, 2, 0, false, 0⟩),
     ([0x89824149, 0x05000A00], .v .vdiv ⟨⟨1, 2⟩, false, 9, .vec 10, .vec 10, .vec 0, 1, 2, 0, false, 0⟩)] : List (List (BitVec 32) × Code)),
    decodeUnits e.1 = .ok e.2 e.1.length := by decide

theorem test_words_22_1 : ∀ e ∈ ([([0x8982414A, 0x00000A00], .v .vsqrt ⟨⟨1, 2⟩, false, 9, .vec 10, .vec 0, .vec 0, 1, 2, 0, false, 0⟩),
     ([0x8982414B, 0x05000A00], .v .vcpys ⟨⟨1, 2⟩, false, 9, .vec 10, .vec 10, .vec 0, 1, 2, 0, false, 0⟩)] : List (List (BitVec 32) × Code)),
    decodeUnits e.1 = .ok e.2 e.1.length := by decide

theorem test_words_23 : ∀ e ∈ ([([0x8D824140, 0x05000D00], .v .viadd ⟨⟨1, 2⟩, false, 9, .vec 10, .vec 10, .vec 0, 1, 5, 0, false, 0⟩),
     ([0x8D824141, 0x05000D00], .v .visub ⟨⟨1, 2⟩, false, 9, .vec 10, .vec 10, .vec 0, 1, 5, 0, false, 0⟩),
     ([0x8D824142, 0x05000D00], .v .vimul ⟨⟨1, 2⟩, false, 9, .vec 10, .vec 10, .vec 0, 1, 5, 0, false, 0⟩),
     ([0x8D824143, 0x05000D00], .v .vimin ⟨⟨1, 2⟩, false, 9, .vec 10, .vec 10, .vec 0, 1, 5, 0, false, 0⟩),
     ([0x8D824144, 0x05000D00], .v .vimax ⟨⟨1, 2⟩, false, 9, .vec 10, .vec 10, .vec 0, 1, 5, 0, false, 0⟩),
     ([0x8D824145, 0x00000D00], .v .viabs ⟨⟨1, 2⟩, false, 9, .vec 10, .vec 0, .vec 0, 1, 5, 0, false, 0⟩),
     ([0x8D824146, 0x05000A00], .v .vand ⟨⟨1, 2⟩, false, 9, .vec 10, .vec 10, .vec 0, 1, 2, 0, false, 0⟩),
     ([0x8D824147, 0x05000A00], .v .vor ⟨⟨1, 2⟩, false, 9, .vec 10, .vec 10, .vec 0, 1, 2, 0, false, 0⟩),
     ([0x8D824148, 0x05000A00], .v .vxor ⟨⟨1, 2⟩, false, 9, .vec 10, .vec 10, .vec 0, 1, 2, 0, false, 0⟩),
     ([0x8D824149, 0x00000A00], .v .vnot ⟨⟨1, 2⟩, false, 9, .vec 10, .vec 0, .vec 0, 1, 2, 0, false, 0⟩)] : List (List (BitVec 32) × Code)),
    decodeUnits e.1 = .ok e.2 e.1.length := by decide

theorem test_words_23_1 : ∀ e ∈ ([([0x8D82414A, 0x05000D00], .v .vshl ⟨⟨1, 2⟩, false, 9, .vec 10, .vec 10, .vec 0, 1, 5, 0, false, 0⟩),
     ([0x8D82414B, 0x05000D00], .v .vshr ⟨⟨1, 2⟩, false, 9, .vec 10, .vec 10, .vec 0, 1, 5, 0, false, 0⟩),
     ([0x8D82414C, 0x05000D00], .v .vsar ⟨⟨1, 2⟩, false, 9, .vec 10, .vec 10, .vec 0, 1, 5, 0, false, 0⟩),
     ([0x8D82414D, 0x05000D00], .v .vrotl ⟨⟨1, 2⟩, false, 9, .vec 10, .vec 10, .vec 0, 1, 5, 0, false, 0⟩)] : List (List (BitVec 32) × Code)),
    decodeUnits e.1 = .ok e.2 e.1.length := by decide

theorem test_words_24 : ∀ e ∈ ([([0x9180C140, 0x05000A00], .v .vceq ⟨⟨1, 2⟩, false, 3, .vec 10, .vec 10, .vec 0, 1, 2, 0, false, 0⟩),
     ([0x9180C141, 0x05000A00], .v .vcne ⟨⟨1, 2⟩, false, 3, .vec 10, .vec 10, .vec 0, 1, 2, 0, false, 0⟩),
     ([0x9180C142, 0x05000A00], .v .vclt ⟨⟨1, 2⟩, false, 3, .vec 10, .vec 10, .vec 0, 1, 2, 0, false, 0⟩),
     ([0x9180C143, 0x05000A00], .v .vcle ⟨⟨1, 2⟩, false, 3, .vec 10, .vec 10, .vec 0, 1, 2, 0, false, 0⟩),
     ([0x9180C144, 0x05000D00], .v .vcltu ⟨⟨1, 2⟩, false, 3, .vec 10, .vec 10, .vec 0, 1, 5, 0, false, 0⟩),
     ([0x9180C145, 0x05000D00], .v .vcleu ⟨⟨1, 2⟩, false, 3, .vec 10, .vec 10, .vec 0, 1, 5, 0, false, 0⟩),
     ([0x91824146, 0x00000A00], .v .vfclass ⟨⟨1, 2⟩, false, 9, .vec 10, .vec 0, .vec 0, 1, 2, 0, false, 0⟩),
     ([0x91824147, 0x05000A00], .v .vsel ⟨⟨1, 2⟩, false, 9, .vec 10, .vec 10, .vec 0, 1, 2, 0, false, 0⟩),
     ([0x9180F048, 0xC1000800], .v .vmand ⟨⟨1, 2⟩, false, 3, .lit 2, .lit 2, .vec 0, 1, 0, 0, false, 0⟩),
     ([0x9180F049, 0xC1000800], .v .vmor ⟨⟨1, 2⟩, false, 3, .lit 2, .lit 2, .vec 0, 1, 0, 0, false, 0⟩)] : List (List (BitVec 32) × Code)),
    decodeUnits e.1 = .ok e.2 e.1.length := by decide

theorem test_words_24_1 : ∀ e ∈ ([([0x9181704A, 0x00000A00], .v .vmcnt ⟨⟨1, 2⟩, false, 5, .lit 2, .vec 0, .vec 0, 1, 2, 0, false, 0⟩)] : List (List (BitVec 32) × Code)),
    decodeUnits e.1 = .ok e.2 e.1.length := by decide

theorem test_words_25 : ∀ e ∈ ([([0x95824140, 0x00000A00], .v .vexp2 ⟨⟨1, 2⟩, false, 9, .vec 10, .vec 0, .vec 0, 1, 2, 0, false, 0⟩),
     ([0x95824141, 0x00000A00], .v .vlog2 ⟨⟨1, 2⟩, false, 9, .vec 10, .vec 0, .vec 0, 1, 2, 0, false, 0⟩),
     ([0x95824142, 0x00000A00], .v .vrcp ⟨⟨1, 2⟩, false, 9, .vec 10, .vec 0, .vec 0, 1, 2, 0, false, 0⟩),
     ([0x95824143, 0x00000A00], .v .vrsqrt ⟨⟨1, 2⟩, false, 9, .vec 10, .vec 0, .vec 0, 1, 2, 0, false, 0⟩),
     ([0x95824144, 0x00000A00], .v .vtanh ⟨⟨1, 2⟩, false, 9, .vec 10, .vec 0, .vec 0, 1, 2, 0, false, 0⟩),
     ([0x95824145, 0x00000A00], .v .verf ⟨⟨1, 2⟩, false, 9, .vec 10, .vec 0, .vec 0, 1, 2, 0, false, 0⟩)] : List (List (BitVec 32) × Code)),
    decodeUnits e.1 = .ok e.2 e.1.length := by decide

theorem test_words_26 : ∀ e ∈ ([([0x99824140, 0x00000A00], .v .vredadd ⟨⟨1, 2⟩, false, 9, .vec 10, .vec 0, .vec 0, 1, 2, 0, false, 0⟩),
     ([0x99824141, 0x00000A00], .v .vredmax ⟨⟨1, 2⟩, false, 9, .vec 10, .vec 0, .vec 0, 1, 2, 0, false, 0⟩),
     ([0x99824142, 0x00000A00], .v .vredmin ⟨⟨1, 2⟩, false, 9, .vec 10, .vec 0, .vec 0, 1, 2, 0, false, 0⟩),
     ([0x99824143, 0x00000A00], .v .vscan ⟨⟨1, 2⟩, false, 9, .vec 10, .vec 0, .vec 0, 1, 2, 0, false, 0⟩),
     ([0x99824144, 0x05800A00], .v .vshuf ⟨⟨1, 2⟩, false, 9, .vec 10, .vec 11, .vec 0, 1, 2, 0, false, 0⟩),
     ([0x99824145, 0x42000A00], .v .vbcast ⟨⟨1, 2⟩, false, 9, .vec 10, .reg 4, .vec 0, 1, 2, 0, false, 0⟩),
     ([0x99814146, 0x42000200], .v .vextr ⟨⟨1, 2⟩, false, 5, .vec 10, .reg 4, .vec 0, 0, 2, 0, false, 0⟩),
     ([0x99825087, 0x00000A00], .v .viota ⟨⟨1, 2⟩, false, 9, .reg 4, .vec 0, .vec 0, 1, 2, 0, false, 0⟩)] : List (List (BitVec 32) × Code)),
    decodeUnits e.1 = .ok e.2 e.1.length := by decide

theorem test_words_27 : ∀ e ∈ ([([0x9D824140, 0x00000A00], .v .vcvt ⟨⟨1, 2⟩, false, 9, .vec 10, .vec 0, .vec 0, 1, 2, 0, false, 0⟩),
     ([0x9D824141, 0x05000800], .v .vpack ⟨⟨1, 2⟩, false, 9, .vec 10, .vec 10, .vec 0, 1, 0, 0, false, 0⟩),
     ([0x9D824142, 0xC0800800], .v .vunpk ⟨⟨1, 2⟩, false, 9, .vec 10, .lit 1, .vec 0, 1, 0, 0, false, 0⟩),
     ([0x9D824143, 0x05000A00], .v .vscale ⟨⟨1, 2⟩, false, 9, .vec 10, .vec 10, .vec 0, 1, 2, 0, false, 0⟩),
     ([0x9D824144, 0x00000A00], .v .vrnd ⟨⟨1, 2⟩, false, 9, .vec 10, .vec 0, .vec 0, 1, 2, 0, false, 0⟩)] : List (List (BitVec 32) × Code)),
    decodeUnits e.1 = .ok e.2 e.1.length := by decide

theorem test_words_28 : ∀ e ∈ ([([0xA1825080, 0x42000A00], .v .vld ⟨⟨1, 2⟩, false, 9, .reg 4, .reg 4, .vec 0, 1, 2, 0, false, 0⟩),
     ([0xA19FD081, 0x42028A00], .v .vst ⟨⟨1, 2⟩, false, 127, .reg 4, .reg 4, .vec 10, 1, 2, 0, false, 0⟩),
     ([0xA1825082, 0x42000A00], .v .vlds ⟨⟨1, 2⟩, false, 9, .reg 4, .reg 4, .vec 0, 1, 2, 0, false, 0⟩),
     ([0xA19FD083, 0x42028A00], .v .vsts ⟨⟨1, 2⟩, false, 127, .reg 4, .reg 4, .vec 10, 1, 2, 0, false, 0⟩),
     ([0xA1825084, 0x05800A00], .v .vgath ⟨⟨1, 2⟩, false, 9, .reg 4, .vec 11, .vec 0, 1, 2, 0, false, 0⟩),
     ([0xA19FD085, 0x05828A00], .v .vscat ⟨⟨1, 2⟩, false, 127, .reg 4, .vec 11, .vec 10, 1, 2, 0, false, 0⟩)] : List (List (BitVec 32) × Code)),
    decodeUnits e.1 = .ok e.2 e.1.length := by decide

theorem test_words_29 : ∀ e ∈ ([([0xA59FD080, 0x00000000], .v .vsett ⟨⟨1, 2⟩, false, 127, .reg 4, .vec 0, .vec 0, 0, 0, 0, false, 0⟩),
     ([0xA5824141, 0x00000A00], .v .vmov ⟨⟨1, 2⟩, false, 9, .vec 10, .vec 0, .vec 0, 1, 2, 0, false, 0⟩),
     ([0xA580C142, 0x00000A00], .v .vmset ⟨⟨1, 2⟩, false, 3, .vec 10, .vec 0, .vec 0, 1, 2, 0, false, 0⟩),
     ([0xA5827043, 0x00000A00], .v .vmget ⟨⟨1, 2⟩, false, 9, .lit 2, .vec 0, .vec 0, 1, 2, 0, false, 0⟩)] : List (List (BitVec 32) × Code)),
    decodeUnits e.1 = .ok e.2 e.1.length := by decide

theorem test_words_2A : ∀ e ∈ ([([0xA9804280, 0x00210008], .e .msetn ⟨⟨1, 2⟩, 0, 4, 5, 0x21, 8⟩),
     ([0xA9804284, 0x00210008], .e .msets ⟨⟨1, 2⟩, 0, 4, 5, 0x21, 8⟩),
     ([0xA9804288, 0x00210008], .e .mseta ⟨⟨1, 2⟩, 0, 4, 5, 0x21, 8⟩),
     ([0xA980000C, 0x00210008], .e .mclrs ⟨⟨1, 2⟩, 0, 0, 0, 0x21, 8⟩)] : List (List (BitVec 32) × Code)),
    decodeUnits e.1 = .ok e.2 e.1.length := by decide

theorem test_words_2B : ∀ e ∈ ([([0xAD804000, 0x00210008], .e .mgo ⟨⟨1, 2⟩, 0, 4, 0, 0x21, 8⟩),
     ([0xAD864004, 0x00210008], .e .mwait ⟨⟨1, 2⟩, 3, 4, 0, 0x21, 8⟩),
     ([0xAD864008, 0x00210008], .e .mstat ⟨⟨1, 2⟩, 3, 4, 0, 0x21, 8⟩),
     ([0xAD80000C, 0x00210008], .e .mabort ⟨⟨1, 2⟩, 0, 0, 0, 0x21, 8⟩),
     ([0xAD804290, 0x00210008], .e .acopy ⟨⟨1, 2⟩, 0, 4, 5, 0x21, 8⟩),
     ([0xAD804294, 0x00210008], .e .aclr ⟨⟨1, 2⟩, 0, 4, 5, 0x21, 8⟩),
     ([0xAD804298, 0x00210008], .e .adload ⟨⟨1, 2⟩, 0, 4, 5, 0x21, 8⟩),
     ([0xAD80401C, 0x00210008], .e .adinv ⟨⟨1, 2⟩, 0, 4, 0, 0x21, 8⟩)] : List (List (BitVec 32) × Code)),
    decodeUnits e.1 = .ok e.2 e.1.length := by decide

theorem test_words_2C : ∀ e ∈ ([([0xB1864000, 0x00210008], .e .copy ⟨⟨1, 2⟩, 3, 4, 0, 0x21, 8⟩),
     ([0xB1864284, 0x00210008], .e .copyi ⟨⟨1, 2⟩, 3, 4, 5, 0x21, 8⟩),
     ([0xB1864008, 0x00210008], .e .cpwait ⟨⟨1, 2⟩, 3, 4, 0, 0x21, 8⟩),
     ([0xB186400C, 0x00210008], .e .cpstat ⟨⟨1, 2⟩, 3, 4, 0, 0x21, 8⟩)] : List (List (BitVec 32) × Code)),
    decodeUnits e.1 = .ok e.2 e.1.length := by decide

theorem test_words_2D : ∀ e ∈ ([([0xB5864280, 0x00210008], .e .pbuild ⟨⟨1, 2⟩, 3, 4, 5, 0x21, 8⟩),
     ([0xB5864004, 0x00210008], .e .psend ⟨⟨1, 2⟩, 3, 4, 0, 0x21, 8⟩),
     ([0xB5864288, 0x00210008], .e .pctrw ⟨⟨1, 2⟩, 3, 4, 5, 0x21, 8⟩),
     ([0xB586400C, 0x00210008], .e .pctrr ⟨⟨1, 2⟩, 3, 4, 0, 0x21, 8⟩),
     ([0xB5804290, 0x00210008], .e .pctrs ⟨⟨1, 2⟩, 0, 4, 5, 0x21, 8⟩),
     ([0xB5864294, 0x00210008], .e .pctra ⟨⟨1, 2⟩, 3, 4, 5, 0x21, 8⟩),
     ([0xB5864298, 0x00210008], .e .pparkget ⟨⟨1, 2⟩, 3, 4, 5, 0x21, 8⟩),
     ([0xB586429C, 0x00210008], .e .presume ⟨⟨1, 2⟩, 3, 4, 5, 0x21, 8⟩)] : List (List (BitVec 32) × Code)),
    decodeUnits e.1 = .ok e.2 e.1.length := by decide

theorem test_words_2E : ∀ e ∈ ([([0xB9804280, 0x00210008], .e .epopen ⟨⟨1, 2⟩, 0, 4, 5, 0x21, 8⟩),
     ([0xB9804004, 0x00210008], .e .epclose ⟨⟨1, 2⟩, 0, 4, 0, 0x21, 8⟩),
     ([0xB9864288, 0x00210008], .e .msend ⟨⟨1, 2⟩, 3, 4, 5, 0x21, 8⟩),
     ([0xB986428C, 0x00210008], .e .mrecv ⟨⟨1, 2⟩, 3, 4, 5, 0x21, 8⟩),
     ([0xB9864290, 0x00210008], .e .mwrite ⟨⟨1, 2⟩, 3, 4, 5, 0x21, 8⟩),
     ([0xB9864294, 0x00210008], .e .mread ⟨⟨1, 2⟩, 3, 4, 5, 0x21, 8⟩),
     ([0xB9864298, 0x00210008], .e .tsend ⟨⟨1, 2⟩, 3, 4, 5, 0x21, 8⟩),
     ([0xB986429C, 0x00210008], .e .twrite ⟨⟨1, 2⟩, 3, 4, 5, 0x21, 8⟩),
     ([0xB9864020, 0x00210008], .e .tdisarm ⟨⟨1, 2⟩, 3, 4, 0, 0x21, 8⟩),
     ([0xB9864024, 0x00210008], .e .mpoll ⟨⟨1, 2⟩, 3, 4, 0, 0x21, 8⟩)] : List (List (BitVec 32) × Code)),
    decodeUnits e.1 = .ok e.2 e.1.length := by decide

theorem test_words_2F : ∀ e ∈ ([([0xBD864000, 0x00210008], .e .lease ⟨⟨1, 2⟩, 3, 4, 0, 0x21, 8⟩),
     ([0xBD804284, 0x00210008], .e .lrel ⟨⟨1, 2⟩, 0, 4, 5, 0x21, 8⟩),
     ([0xBD864288, 0x00210008], .e .lqry ⟨⟨1, 2⟩, 3, 4, 5, 0x21, 8⟩),
     ([0xBD86400C, 0x00210008], .e .lwait ⟨⟨1, 2⟩, 3, 4, 0, 0x21, 8⟩),
     ([0xBD804290, 0x00210008], .e .shutw ⟨⟨1, 2⟩, 0, 4, 5, 0x21, 8⟩),
     ([0xBD864294, 0x00210008], .e .shutgo ⟨⟨1, 2⟩, 3, 4, 5, 0x21, 8⟩)] : List (List (BitVec 32) × Code)),
    decodeUnits e.1 = .ok e.2 e.1.length := by decide

theorem test_words_30 : ∀ e ∈ ([([0xC1864280, 0x00210008], .e .commdef ⟨⟨1, 2⟩, 3, 4, 5, 0x21, 8⟩),
     ([0xC1804284, 0x00210008], .e .ctset ⟨⟨1, 2⟩, 0, 4, 5, 0x21, 8⟩),
     ([0xC1804008, 0x00210008], .e .ctready ⟨⟨1, 2⟩, 0, 4, 0, 0x21, 8⟩),
     ([0xC186400C, 0x00210008], .e .ctwait ⟨⟨1, 2⟩, 3, 4, 0, 0x21, 8⟩),
     ([0xC1864010, 0x00210008], .e .ctdrop ⟨⟨1, 2⟩, 3, 4, 0, 0x21, 8⟩)] : List (List (BitVec 32) × Code)),
    decodeUnits e.1 = .ok e.2 e.1.length := by decide

theorem test_words_31 : ∀ e ∈ ([([0xC5864000, 0x00210008], .e .spawn ⟨⟨1, 2⟩, 3, 4, 0, 0x21, 8⟩),
     ([0xC5800004, 0x00210000], .e .merge ⟨⟨1, 2⟩, 0, 0, 0, 0x21, 0⟩),
     ([0xC5800008, 0x00210000], .e .tend ⟨⟨1, 2⟩, 0, 0, 0, 0x21, 0⟩),
     ([0xC586000C, 0x00210008], .e .twait ⟨⟨1, 2⟩, 3, 0, 0, 0x21, 8⟩),
     ([0xC5804010, 0x00210008], .e .succadd ⟨⟨1, 2⟩, 0, 4, 0, 0x21, 8⟩),
     ([0xC5804294, 0x00210008], .e .cancel ⟨⟨1, 2⟩, 0, 4, 5, 0x21, 8⟩),
     ([0xC5800018, 0x00210008], .e .yield ⟨⟨1, 2⟩, 0, 0, 0, 0x21, 8⟩),
     ([0xC586401C, 0x00210008], .e .tself ⟨⟨1, 2⟩, 3, 4, 0, 0x21, 8⟩),
     ([0xC58642A0, 0x00210008], .e .gangjoin ⟨⟨1, 2⟩, 3, 4, 5, 0x21, 8⟩)] : List (List (BitVec 32) × Code)),
    decodeUnits e.1 = .ok e.2 e.1.length := by decide

theorem test_words_32 : ∀ e ∈ ([([0xC9804280, 0x00210008], .e .tret ⟨⟨1, 2⟩, 0, 4, 5, 0x21, 8⟩),
     ([0xC9864284, 0x00210008], .e .ctxsave ⟨⟨1, 2⟩, 3, 4, 5, 0x21, 8⟩),
     ([0xC9804008, 0x00210008], .e .ctxload ⟨⟨1, 2⟩, 0, 4, 0, 0x21, 8⟩),
     ([0xC980428C, 0x00210008], .e .tlbinv ⟨⟨1, 2⟩, 0, 4, 5, 0x21, 8⟩),
     ([0xC9804290, 0x00210008], .e .attn ⟨⟨1, 2⟩, 0, 4, 5, 0x21, 8⟩),
     ([0xC9864294, 0x00210008], .e .tnset ⟨⟨1, 2⟩, 3, 4, 5, 0x21, 8⟩),
     ([0xC9864298, 0x00210008], .e .budset ⟨⟨1, 2⟩, 3, 4, 5, 0x21, 8⟩),
     ([0xC986401C, 0x00210008], .e .thermrd ⟨⟨1, 2⟩, 3, 4, 0, 0x21, 8⟩),
     ([0xC98642A0, 0x00210008], .e .retain ⟨⟨1, 2⟩, 3, 4, 5, 0x21, 8⟩),
     ([0xC98642A4, 0x00210008], .e .wake ⟨⟨1, 2⟩, 3, 4, 5, 0x21, 8⟩)] : List (List (BitVec 32) × Code)),
    decodeUnits e.1 = .ok e.2 e.1.length := by decide

theorem test_words_prism : ∀ e ∈ ([(0x0005, (.pshi 5)),
     (0x0803, (.pshk 3)),
     (0x1003, (.popk 3)),
     (0x1800, .dup),
     (0x1801, .drops),
     (0x1802, .swap),
     (0x1803, .over),
     (0x2000, .prismAdd),
     (0x2800, .prismSub),
     (0x3000, .prismAnd),
     (0x3800, .prismOr),
     (0x4000, .prismXor),
     (0x4800, .prismShl),
     (0x5000, .prismShr),
     (0x5805, (.cmp 5)),
     (0x6055, (.get 5 5)),
     (0x6800, .ctrld),
     (0x7000, .ctradd),
     (0x7800, .swld),
     (0x8000, .swadd),
     (0x8800, .swcas),
     (0x9005, (.clone 5)),
     (0x9805, (.brz 5)),
     (0xA005, (.brnz 5)),
     (0xA805, (.jmp 5)),
     (0xB005, (.dirset 5)),
     (0xB008, .dirsetStack),
     (0xB805, (.dirmin 5)),
     (0xB845, (.dirminNa 5)),
     (0xC000, .dirto),
     (0xC001, .dirtoStack),
     (0xC800, .fwd),
     (0xD000, .dlvr),
     (0xD800, .park),
     (0xE000, .drop),
     (0xE001, .dropN),
     (0xE805, (.pldw 5)),
     (0xF005, (.pstw 5)),
     (0xF805, (.entry 5))] : List (BitVec 16 × Instr)),
    decodePrism e.1 = some e.2 := by decide

/-! Terms that no encoding stands for: each check of `wellFormed` refuses one. -/

theorem test_illformed_scalar_operand : ∀ i ∈ ([.add noTok 3 (.lit 16) (.reg 1), .add noTok 3 (.reg 1) (.lit 16),
    .add noTok 3 (.ext 1) (.ext 2), .sqwait noTok (.lit 16), .mov noTok 3 (.lit 16), .ceq noTok 3 (.ext 0) (.ext 0),
    .bararr noTok 3 (.lit 16) 0, .rngclaim noTok 3 (.lit 16), .trap noTok (.lit 16)] : List Instr),
    wellFormed i = false := by decide
theorem test_illformed_scalar_field : ∀ i ∈ ([.qput noTok (.reg 1) 8, .qget noTok 3 8, .qpeek noTok 3 8, .qcnt noTok 3 31,
    .ldqB noTok 8 1 0, .ldqD noTok 31 1 0, .tokgive noTok (.reg 1) 0, .tokgive noTok (.reg 1) 4, .toktake noTok (.reg 1) 0,
    .tokcntIn noTok 3 0, .tokcntOut noTok 3 4, .mfsr noTok 3 0x00D, .mfsr noTok 3 0x00F, .mtsr noTok 3 0x027, .mtsr noTok 3 0x032,
    .mfsr noTok 3 0x041, .fence noTok 6 1, .fence noTok 0 0, .fence noTok 0 4, .qfence noTok (.reg 1) 6,
    .bararr noTok 3 (.reg 1) 5, .barwait noTok 3 (.reg 1) 5, .barsync noTok 3 (.reg 1) 31, .barinit noTok (.reg 1) 5] : List Instr),
    wellFormed i = false := by decide
theorem test_illformed_branch : ∀ i ∈ ([.b noTok 0 15, .beqz noTok 1 0 15, .bgtz noTok 1 0 15, .bloop noTok 1 0 15,
    .bloop noTok 0 0 3, .call noTok 0 15] : List Instr), wellFormed i = false := by decide
theorem test_illformed_vector_operand : ∀ i ∈ ([.vadd (fv 3 (.vec 96) (.vec 2) (.vec 0) 1), .vadd (fv 3 (.reg 32) (.vec 2) (.vec 0) 1),
    .vadd (fv 3 (.lit 64) (.vec 2) (.vec 0) 1), .vadd (fv 3 (.ext 0) (.ext 0) (.vec 0) 1), .vfma (fv 3 (.ext 0) (.vec 1) (.ext 0) 1),
    .vfma (fv 3 (.vec 1) (.ext 0) (.ext 0) 1), .vadd (fv 3 (.vec 1) (.vec 2) (.vec 1) 1), .vneg (fv 3 (.vec 1) (.vec 2) (.vec 0) 1),
    .vshuf (fv 3 (.vec 1) (.reg 2) (.vec 0) 4), .vgath (fv 3 (.reg 1) (.reg 2) (.vec 0) 4),
    .vbcast (fv 3 (.vec 1) (.vec 2) (.vec 0) 4), .vld (fv 3 (.vec 1) (.reg 2) (.vec 0) 4), .vmand (fv 3 (.lit 8) (.lit 1) (.vec 0) 0),
    .vmcnt (fv 3 (.vec 1) (.vec 0) (.vec 0) 0), .vcvt (fv 3 (.vec 1) (.vec 0) (.lit 4) 0),
    .vunpk (fv 3 (.vec 1) (.lit 2) (.vec 0) 0)] : List Instr), wellFormed i = false := by decide
theorem test_illformed_vector_destination : ∀ i ∈ ([.vadd (fv 64 (.vec 1) (.vec 2) (.vec 0) 1), .vadd (fv 126 (.vec 1) (.vec 2) (.vec 0) 1),
    .vceq (fv 8 (.vec 1) (.vec 2) (.vec 0) 1), .vceq (fv 0 (.vec 1) (.vec 2) (.vec 0) 1), .vmcnt (fv 32 (.lit 1) (.vec 0) (.vec 0) 0),
    .vld (fv 127 (.reg 1) (.reg 2) (.vec 0) 4), .vst (fv 3 (.reg 1) (.reg 2) (.vec 3) 4),
    .vsett (fv 3 (.reg 1) (.vec 0) (.vec 0) 0)] : List Instr), wellFormed i = false := by decide
theorem test_illformed_vector_field : ∀ i ∈ ([.vadd { fv 3 (.vec 1) (.vec 2) (.vec 0) 1 with rm := 6 },
    .vmcnt { fv 3 (.lit 1) (.vec 0) (.vec 0) 0 with rm := 1 }, .vextr { fv 3 (.vec 1) (.reg 2) (.vec 0) 4 with msk := 1 },
    .vmand { fv 3 (.lit 1) (.lit 1) (.vec 0) 0 with vt := 1 }, .vimin { fv 3 (.vec 1) (.vec 2) (.vec 0) 4 with sat := true },
    .vadd { fv 3 (.vec 1) (.vec 2) (.vec 0) 1 with aux := 1 }, .vimin { fv 3 (.vec 1) (.vec 2) (.vec 0) 4 with aux := 2 },
    .viadd { fv 3 (.vec 1) (.vec 2) (.vec 0) 4 with aux := 1 }, .vgath { fv 3 (.reg 1) (.vec 2) (.vec 0) 6 with aux := 4 }] : List Instr),
    wellFormed i = false := by decide
theorem test_illformed_vector_type : ∀ i ∈ ([.vadd (fv 3 (.vec 1) (.vec 2) (.vec 0) 4), .viadd (fv 3 (.vec 1) (.vec 2) (.vec 0) 1),
    .viadd { fv 3 (.vec 1) (.vec 2) (.vec 0) 4 with rm := 1 }, .vceq { fv 3 (.vec 1) (.vec 2) (.vec 0) 4 with sat := true },
    .vredmax { fv 3 (.vec 1) (.vec 0) (.vec 0) 1 with aux := 1 }, .vshuf { fv 3 (.vec 1) (.vec 2) (.vec 0) 4 with aux := 1 },
    .vgath { fv 3 (.reg 1) (.vec 2) (.vec 0) 4 with aux := 1 }] : List Instr), wellFormed i = false := by decide
theorem test_illformed_conversion : ∀ i ∈ ([.vcvt { fv 3 (.vec 1) (.vec 0) (.lit 1) 1 with aux := 1 },
    .vcvt { fv 3 (.vec 1) (.vec 0) (.vec 0) 4 with aux := 9 }, .vcvt { fv 3 (.vec 1) (.vec 0) (.vec 0) 4 with aux := 4, rm := 1 },
    .vpack { fv 3 (.vec 1) (.vec 2) (.vec 0) 1 with aux := 1 }, .vunpk { fv 3 (.vec 1) (.lit 0) (.vec 0) 1 with aux := 1 }] : List Instr),
    wellFormed i = false := by decide
theorem test_illformed_engine : ∀ i ∈ ([.msetn { fe3 with d := 1, a := 1, b := 0 }, .mclrs { fe3 with d := 0, a := 1, b := 0 },
    .mgo { fe3 with d := 0, b := 1 }, .mwait { fe3 with b := 1 }, .merge { fe3 with d := 0, a := 0, b := 0, sig := 1 },
    .tend { fe3 with d := 0, a := 0, b := 0, sig := 1 }, .twait fe3, .yield fe3] : List Instr), wellFormed i = false := by decide
theorem test_illformed_event : ∀ i ∈ ([.boot 4096, .taskPlacement 4096 0, .taskPlacement 0 256, .steal 4096 0,
    .lineFetch 0 256 .ctrl] : List Instr), wellFormed i = false := by decide

/-! Single steps. -/

/-- Where an outcome is a next state, whether it holds `p`. -/
def after (o : Host.Outcome State Fault Refusal) (p : State → Bool) : Bool :=
  match o with
  | .next y => p y
  | _ => false
/-- 5 + 7 (R101): the sum in the destination. -/
theorem test_add : after (exec (.add noTok 3 (.reg 1) (.lit 7)) (work .ctrl [(1, 5)])) (fun y => reg y 3 == 12) = true := by
  decide +kernel
/-- The sum wraps at 64 bits (R101). -/
theorem test_add_wraps :
    after (exec (.add noTok 1 (.reg 1) (.lit 1)) (work .ctrl [(1, BitVec.allOnes 64)])) (fun y => reg y 1 == 0) = true := by
  decide +kernel
/-- s0 reads 0 and keeps no write (R93). -/
theorem test_r0 : after (exec (.add noTok 0 (.reg 1) (.lit 7)) (work .ctrl [(1, 5)])) (fun y => reg y 0 == 0) = true := by
  decide +kernel
/-- The operands of SUB stand in their order (R101). -/
theorem test_sub : after (exec (.sub noTok 3 (.reg 1) (.lit 7)) (work .ctrl [(1, 5)])) (fun y => (reg y 3).toInt == -2) = true := by
  decide +kernel
/-- The encoder and `decodeTableWord` number the bits alike (R49). -/
theorem test_table_word : decodeTableWord 32 0x04068510 = some (.add ⟨0, 0⟩ 3 (.reg 1) (.reg 2)) := by decide +kernel
/-- The first step after reset with a word placed runs it: LI writes its literal (R103). -/
theorem test_first_step : after (step (State.reset.withFetchWord 32 0x2C060005)) (fun y => reg y 3 == 5) = true := by
  decide +kernel
/-! Witnesses: scalar instructions, control transfer, sequencers and special registers. -/

theorem witness_BinaryResults : CanIssue (work .ctrl [(1, 5)]) noTok allSeqs (sopSrcs (.reg 1) ++ sopSrcs (.lit 7)) 0 :=
  can_of (by decide +kernel)
theorem witness_MulDivResults : CanIssue (work .exec [(1, 5)]) noTok allSeqs (sopSrcs (.reg 1) ++ sopSrcs (.lit 0)) 1 :=
  can_of (by decide +kernel)
theorem witness_UnaryResults :
    CanIssue (work .load [(1, 5)]) noTok allSeqs (sopSrcs (.reg 1)) 0
    ∧ CanIssue (work .store [(1, 5)]) noTok allSeqs (3 :: sopSrcs (.reg 1) ++ sopSrcs (.ext 9)) 0 :=
  ⟨can_of (by decide +kernel), can_of (by decide +kernel)⟩
theorem witness_ImmediateResults :
    CanIssue (work .ctrl [(1, 5)]) noTok allSeqs [1] 0 ∧ CanIssue (work .ctrl []) noTok allSeqs [] 0 :=
  ⟨can_of (by decide +kernel), can_of (by decide +kernel)⟩
theorem witness_RegisterZero :
    (3 : Reg) ≠ 0 ∧ CanIssue (work .ctrl []) noTok allSeqs (sopSrcs (.reg 1) ++ sopSrcs (.reg 2)) 0 :=
  ⟨by decide, can_of (by decide +kernel)⟩
theorem witness_ScalarFrame :
    spanFull (work .ctrl [(1, 5)]) = false
    ∧ nextTo (fun _ => true) (exec (.add noTok 3 (.reg 1) (.lit 7)) (work .ctrl [(1, 5)])) = true
    ∧ nextTo (fun _ => true) (exec (.mov noTok 3 (.reg 1)) (work .ctrl [(1, 5)])) = true
    ∧ nextTo (fun _ => true) (exec (.addi noTok 3 1 7) (work .ctrl [(1, 5)])) = true := by decide +kernel
theorem witness_CondBranches :
    CanIssue (work .ctrl [(1, 0)]) noTok allSeqs [1] 0 ∧ reg (work .ctrl [(1, 0)]) 1 = 0
    ∧ CanIssue (work .ctrl [(1, 5)]) noTok allSeqs [1] 0 ∧ reg (work .ctrl [(1, 5)]) 1 ≠ 0
    ∧ (1 : Nat) < (imageOf (cc (work .ctrl [(1, 0)]))).2.1 ∧ ¬ (2 : Nat) < (imageOf (cc (work .ctrl [(1, 0)]))).2.1 :=
  ⟨can_of (by decide +kernel), by decide +kernel, can_of (by decide +kernel), by decide +kernel⟩
theorem witness_Bloop :
    CanIssue (work .ctrl [(1, 1)]) noTok allSeqs [1] 0 ∧ reg (work .ctrl [(1, 1)]) 1 = 1
    ∧ CanIssue (work .ctrl [(1, 0)]) noTok allSeqs [1] 0 ∧ reg (work .ctrl [(1, 0)]) 1 ≠ 1
    ∧ (1 : Nat) < (imageOf (cc (work .ctrl [(1, 0)]))).2.1 :=
  ⟨can_of (by decide +kernel), by decide +kernel, can_of (by decide +kernel), by decide +kernel⟩
/-- A machine with `n` entries on the return stack of CTRL. -/
def stacked (n : Nat) (rs : List (Nat × Word)) : State :=
  mach .ctrl rs id fun d => { d with cores := d.cores.map fun e => (e.1, { e.2 with
    seqs := e.2.seqs.map fun x => (x.1, { x.2 with rstack := List.replicate n 17 }) }) }
/-- A machine whose line ends with the unit at the program counter. -/
def atEnd (len : Nat) : State :=
  mach .ctrl [(1, 16)] id fun d => { d with cores := d.cores.map fun e => (e.1, { e.2 with
    seqs := e.2.seqs.map fun x => (x.1, { x.2 with pc := BitVec.ofNat 28 (31 - len) }) }) }
theorem witness_CallsAndReturns :
    (CanIssue (atEnd 2) noTok allSeqs [] 0 ∧ endsLine (atEnd 2) 2 = true)
    ∧ (CanIssue (stacked 16 [(1, 16)]) noTok allSeqs [] 0 ∧ endsLine (stacked 16 [(1, 16)]) 2 = false
        ∧ 16 ≤ (cs (stacked 16 [(1, 16)])).rstack.length)
    ∧ (CanIssue (stacked 15 [(1, 16)]) noTok allSeqs (sopSrcs (.reg 1)) 0 ∧ (cs (stacked 15 [(1, 16)])).rstack.length = 15
        ∧ reg (stacked 15 [(1, 16)]) 1 = 16)
    ∧ CanIssue (work .ctrl []) noTok allSeqs [] 0 ∧ (cs (work .ctrl [])).rstack = [] :=
  ⟨⟨can_of (by decide +kernel), by decide +kernel⟩, ⟨can_of (by decide +kernel), by decide +kernel⟩,
   ⟨can_of (by decide +kernel), by decide +kernel⟩, can_of (by decide +kernel), by decide +kernel⟩
theorem witness_ControlFrame :
    nextTo (fun x => x.trap.isNone) (exec (.b noTok 1 0) (work .ctrl [])) = true
    ∧ nextTo (fun x => x.trap.isNone) (exec (.jmpr noTok (.reg 1)) (work .ctrl [(1, 16)])) = true := by decide +kernel
theorem witness_TrapAndBreak :
    CanIssue (work .ctrl [(1, 31)]) noTok allSeqs (sopSrcs (.reg 1)) 0
    ∧ (opv (work .ctrl [(1, 31)]) (.reg 1)).toNat ≤ 31 ∧ 31 < (opv (work .ctrl [(1, 32)]) (.reg 1)).toNat
    ∧ CanIssue (work .ctrl [(1, 32)]) noTok allSeqs (sopSrcs (.reg 1)) 0 ∧ CanIssue (work .ctrl []) noTok allSeqs [] 0 :=
  ⟨can_of (by decide +kernel), by decide +kernel, by decide +kernel, can_of (by decide +kernel), can_of (by decide +kernel)⟩
/-- An access that has issued and waits for its data, with the given data. -/
def pend (v : Option (BitVec 64)) (aop : Option Nat) (code : Nat) : PendAcc :=
  ⟨7, 0x100, .mem .hbm 0x100 .unordered false, 8, false, aop, 1, 0, false, false, some 3, none, v, code, none, 16, 16, 0, none⟩
theorem witness_TrapEntry :
    inHandler (co (handler [] id) 0 0) = true
    ∧ (inHandler (co (work .ctrl []) 0 0) = false ∧ outstanding (co (work .ctrl []) 0 0) = false
        ∧ bit (nd (work .ctrl []) 0).trapVec 0 = false)
    ∧ (let s := mach .ctrl [] (fun k => { k with loads := [pend none none 0] }) id
       inHandler (co s 0 0) = false ∧ outstanding (co s 0 0) = true) := by decide +kernel
/-- A machine with a trap-handler image of two lines at the start of its page. -/
def vectored : State :=
  mach .ctrl [] (fun k => { k with ptRoot := 0x1000 }) fun d =>
    { paged 0 d with trapVec := 0x1, hbm := [(0, 0x45), (1, 0x56), (2, 0x48), (3, 0x4E), (4, 1), (6, 1), (8, 2), (12, 0x80),
        (0x1000, 0x01), (0x1001, 0x20), (0x2000, 0x3D)] }
/-- Whether an image header is read whole and well formed. -/
def headed (s : State) (va : Word) : Bool :=
  match (readLine s 0 0 va).1 with
  | .inr h => match parseHeader h.toNat with
    | .inr x => x.1 == 2
    | .inl _ => false
  | .inl _ => false
theorem witness_HandlerEntry : headed vectored (BitVec.ofNat 64 (fld (nd vectored 0).trapVec 47 6 * 64)) = true := by
  decide +kernel
theorem witness_SequencerMoves :
    CanIssue (work .ctrl [(1, 5)]) noTok allSeqs [] 0 ∧ allRetired (work .ctrl []) = true
    ∧ (let s := mach .load [] (fun k => { k with inflight := [⟨9, .sreg .load 3, 0, 1, none, none, 0, false, .load⟩] }) id
       CanIssue s noTok allSeqs [] 0 ∧ allRetired s = false)
    ∧ CanIssueWith (mach .ctrl [(1, 0x8001)] (fun k => { k with evt := 0xFFFF }) id) noTok allSeqs (sopSrcs (.reg 1)) 0
        0x8001 [] []
    ∧ ((opv (work .ctrl [(1, 0x8001)]) (.reg 1)).setWidth 16 ≠ (0 : BitVec 16))
    ∧ CanIssue (work .ctrl [(1, 0x8001)]) noTok allSeqs (sopSrcs (.reg 1)) 0
    ∧ (opv (work .ctrl [(1, 0)]) (.reg 1)).toNat ≤ gsc (work .ctrl [(1, 0)]) 0
    ∧ gsc (work .ctrl [(1, 1)]) 0 < (opv (work .ctrl [(1, 1)]) (.reg 1)).toNat :=
  ⟨can_of (by decide +kernel), by decide +kernel, ⟨can_of (by decide +kernel), by decide +kernel⟩, can_of (by decide +kernel),
   by decide +kernel, can_of (by decide +kernel), by decide +kernel⟩
theorem witness_Clocks : CanIssue (work .ctrl []) noTok allSeqs [] 1 ∧ CanIssue (work .ctrl []) noTok allSeqs [] 0 :=
  ⟨can_of (by decide +kernel), can_of (by decide +kernel)⟩
/-- A machine whose queue registers 0 to 7 all hold two filled entries. -/
def queued (q : Seq) (rs : List (Nat × Word)) : State :=
  mach q rs (fun k => { k with queues := (List.range 8).map fun i => (i, { entries := [.filled 3, .filled 4] }) }) id
theorem witness_QueueMoves :
    (CanIssue (work .ctrl [(1, 5)]) noTok allSeqs (sopSrcs (.reg 1)) 0 ∧ qProducer 0 = .ctrl
      ∧ queueRoom (work .ctrl [(1, 5)]) 0 = true)
    ∧ (CanIssue (queued .exec []) noTok allSeqs [] 0 ∧ qConsumer 2 = .exec
      ∧ queueHead (queued .exec []) 2 = some (.filled 3))
    ∧ (CanIssue (work .exec []) noTok allSeqs [] 0 ∧ queueHead (work .exec []) 2 = none)
    ∧ qProducer 0 ≠ .exec ∧ qConsumer 0 ≠ .exec :=
  ⟨⟨can_of (by decide +kernel), by decide +kernel⟩, ⟨can_of (by decide +kernel), by decide +kernel⟩,
   ⟨can_of (by decide +kernel), by decide +kernel⟩, by decide⟩
theorem witness_QueueOrder :
    (queueOf (cc (mach .ctrl [] (fun k => { k with queues := [(0, { entries := [.filled 3, .reserved] })] }) id)) 0).entries
      = [.filled 3] ++ [.reserved] := by decide +kernel
/-- A machine whose CTRL has 16 tokens from, and 16 tokens to, its partner 1. -/
def tokened (rs : List (Nat × Word)) (room : Nat) : State :=
  mach .ctrl rs (fun k => { k with fifos := [(fifoOut .ctrl 1, { n := 16 - room }), (fifoIn .ctrl 1, { n := 16 })] }) id
theorem witness_TokenMoves :
    (countBad (opv (tokened [(1, 16)] 16) (.reg 1)).toNat 0 1 = false
      ∧ CanIssueWith (tokened [(1, 16)] 16) noTok allSeqs (sopSrcs (.reg 1)) 0 0 [] [(1, (opv (tokened [(1, 16)] 16) (.reg 1)).toNat)]
      ∧ CanIssueWith (tokened [(1, 16)] 16) noTok allSeqs (sopSrcs (.reg 1)) 0 0 [(1, (opv (tokened [(1, 16)] 16) (.reg 1)).toNat)] [])
    ∧ (CanIssue (tokened [(1, 17)] 16) noTok allSeqs (sopSrcs (.reg 1)) 0 ∧ 16 < (opv (tokened [(1, 17)] 16) (.reg 1)).toNat)
    ∧ CanIssue (tokened [] 16) noTok allSeqs [] 0 ∧ 1 ≤ (1 : BitVec 5).toNat ∧ (3 : BitVec 5).toNat ≤ 3 :=
  ⟨⟨by decide +kernel, can_of (by decide +kernel), can_of (by decide +kernel)⟩,
   ⟨can_of (by decide +kernel), by decide +kernel⟩, can_of (by decide +kernel), by decide⟩
theorem witness_ReadSpecial :
    (CanIssue (work .ctrl []) noTok allSeqs [] 1 ∧ privileged (cc (work .ctrl [])) = true
      ∧ privileged (cc (user .ctrl [])) = false ∧ sregReadPriv 0x1F = false ∧ sregReadPriv 0x20 = true
      ∧ (cs (work .ctrl [])).gscHi = none ∧ mayIssue (user .ctrl []) = true)
    ∧ let s := mach .ctrl [] id fun d => { d with cores := d.cores.map fun e => (e.1, { e.2 with
        seqs := e.2.seqs.map fun x => (x.1, { x.2 with gscHi := some 3 }) }) }
      CanIssue s noTok allSeqs [] 1 ∧ (cs s).gscHi = some 3 :=
  ⟨⟨can_of (by decide +kernel), by decide +kernel⟩, can_of (by decide +kernel), by decide +kernel⟩
theorem witness_WriteSpecial :
    (CanIssue (work .ctrl [(1, 0x4F)]) noTok allSeqs [1] 0 ∧ fld (reg (work .ctrl [(1, 0x4F)]) 1) 6 4 < 5
      ∧ privileged (cc (work .ctrl [(1, 0x4F)])) = true)
    ∧ (CanIssue (user .ctrl [(1, 0x50)]) noTok allSeqs [1] 0 ∧ 5 ≤ fld (reg (user .ctrl [(1, 0x50)]) 1) 6 4
      ∧ privileged (cc (user .ctrl [(1, 0x50)])) = false ∧ mayIssue (user .ctrl []) = true ∧ sregWritePriv 0x20 = true
      ∧ sregWritePriv 0x003 = false ∧ sregWritePriv 0x01F = true)
    ∧ vtypeOk (reg (work .ctrl [(1, 0x401)]) 1) = true ∧ vtypeOk (reg (work .ctrl [(1, 0x400)]) 1) = false :=
  ⟨⟨can_of (by decide +kernel), by decide +kernel⟩, ⟨can_of (by decide +kernel), by decide +kernel⟩, by decide +kernel⟩
/-- A machine whose image has two constants, at VA 0x8000. -/
def constants (i : Word) : State :=
  mach .ctrl [(1, i)] (fun k => { k with ptRoot := 0x1000, task := some { placeTask with image := 0x8000, clen := 16 } }) (paged 0)
theorem witness_ConstantLoad :
    (CanIssue (constants 0) noTok allSeqs [1] 0 ∧ isGo (cbldFrom (reg (constants 0) 1) 5 2 (constants 0)) = true)
    ∧ CanIssue (constants 1) noTok allSeqs [1] 0 ∧ isFault (cbldFrom (reg (constants 1) 1) 5 2 (constants 1)) = true :=
  ⟨⟨can_of (by decide +kernel), by decide +kernel⟩, can_of (by decide +kernel), by decide +kernel⟩

/-! Witnesses: memory, ordering, rings and barriers. -/

/-- Whether a load, a store or an atomic would be let through, to a target with a property. -/
def goTo (p : Target → Bool) : Pre Access → Bool
  | .go x _ => p x.t
  | _ => false
theorem witness_PlainLoads :
    (CanIssue (mapped .load [(1, 0x8000)] 0 id) noTok [.ctrl, .load, .store] [1] 0
      ∧ isGo (loadPre (mapped .load [(1, 0x8000)] 0 id) (memAddr (mapped .load [(1, 0x8000)] 0 id) 1 0 8) 8) = true)
    ∧ (CanIssue (work .ctrl [(1, 0x8000)]) noTok [.ctrl, .load, .store] [1] 0
      ∧ isFault (loadPre (work .ctrl [(1, 0x8000)]) 0x8000 8) = true)
    ∧ (let s := mach .load [(1, spadVa 0)] (fun k => { k with blks := [⟨1, .load, false, [], [], 0, 128, [], none, 9⟩] }) id
       CanIssue s noTok [.ctrl, .load, .store] [1] 0 ∧ isHold (loadPre s (memAddr s 1 0 1) 1) = true) :=
  ⟨⟨can_of (by decide +kernel), by decide +kernel⟩, ⟨can_of (by decide +kernel), by decide +kernel⟩,
   can_of (by decide +kernel), by decide +kernel⟩
theorem witness_PlainStores :
    (CanIssue (mapped .store [(1, 0x8000), (2, 9)] 1 id) noTok [.ctrl, .load, .store] [2, 1] 0
      ∧ goTo (fun t => strongReady (mapped .store [(1, 0x8000)] 1 id) t) (accessPre (mapped .store [(1, 0x8000)] 1 id) 0x8000 8 8 .w true) = true)
    ∧ (CanIssue (work .store [(1, 0x8001000000000040)]) noTok [.ctrl, .load, .store] [2, 1] 0
      ∧ goTo (fun t => match t with | .remote 1 false 0x40 => true | _ => false)
          (accessPre (work .store [(1, 0x8001000000000040)]) 0x8001000000000040 8 8 .w true) = true)
    ∧ isFault (accessPre (work .store []) 0x8000 8 8 .w true) = true :=
  ⟨⟨can_of (by decide +kernel), by decide +kernel⟩, ⟨can_of (by decide +kernel), by decide +kernel⟩, by decide +kernel⟩
theorem witness_MisalignedAccess :
    CanIssue (work .ctrl [(1, 7)]) noTok [.ctrl, .load, .store] [3, 1] 0
    ∧ ∀ k ∈ [2, 4, 8], (memAddr (work .ctrl [(1, 7)]) 1 0 k).toNat % k ≠ 0 :=
  ⟨can_of (by decide +kernel), by decide +kernel⟩
theorem witness_ScratchpadStore :
    CanIssue (work .ctrl [(1, spadVa 65528), (2, 0x1234)]) noTok [.ctrl, .load, .store] [2, 1] 0
    ∧ (match accessPre (work .ctrl [(1, spadVa 65528)]) (memAddr (work .ctrl [(1, spadVa 65528)]) 1 0 8) 8 8 .w true with
        | .go x s => decide (x.t = .spad 0 65528) && decide (s = work .ctrl [(1, spadVa 65528)])
        | _ => false) = true
    ∧ Memory.wf (co (work .ctrl []) 0 0).spad = true :=
  ⟨can_of (by decide +kernel), by decide +kernel⟩
theorem witness_HomeMemory : ∀ sp ∈ [Space.hbm, .deep, .host], Memory.wf (homeMem (paged 1 {}) sp) = true := by
  decide +kernel
theorem witness_QueueLoads :
    (mayIssue (work .ctrl []) = true ∧ qProducer 4 ≠ (work .ctrl []).cur.seq)
    ∧ CanIssue (mapped .load [(1, 0x8000)] 0 id) noTok [.ctrl, .load] [1] 0
    ∧ qProducer 4 = (mapped .load [(1, 0x8000)] 0 id).cur.seq ∧ queueRoom (mapped .load [(1, 0x8000)] 0 id) 4 = true
    ∧ isGo (accessPre (mapped .load [(1, 0x8000)] 0 id) 0x8000 8 8 .r false) = true :=
  ⟨by decide +kernel, can_of (by decide +kernel), by decide +kernel⟩
theorem witness_LineOperations :
    (CanIssue (mapped .ctrl [(1, 0x8000)] 0 id) noTok [.ctrl, .load, .store] [1] 0
      ∧ okTo (fun t => match t with
          | .mem _ _ _ _ => !bucketHold (mapped .ctrl [] 0 id) t 128 .r
          | _ => false) (chk (mapped .ctrl [(1, 0x8000)] 0 id) 0 0 (lineAddr (mapped .ctrl [(1, 0x8000)] 0 id) 1 0) 128 .r) = true
      ∧ goTo (fun t => strongReady (mapped .ctrl [] 0 id) t) (accessPre (mapped .ctrl [] 0 id) 0x8000 128 1 .w true) = true)
    ∧ CanIssue (work .ctrl [(1, 0x8000)]) noTok [.ctrl, .load, .store] [1] 0
    ∧ chkFault (chk (work .ctrl [(1, 0x8000)]) 0 0 (lineAddr (work .ctrl [(1, 0x8000)]) 1 0) 128 .r) = true
    ∧ okTo (fun t => t = .spad 0 0) (chk (work .ctrl []) 0 0 (spadVa 0) 128 .r) = true :=
  ⟨⟨can_of (by decide +kernel), by decide +kernel⟩, can_of (by decide +kernel), by decide +kernel⟩
theorem witness_DroppedLines :
    (co (mach .ctrl [] (fun k => { k with l1 := [⟨.hbm, 0, .unordered, 1, 1, false, 39, 0⟩, ⟨.hbm, 128, .release, 1, 0, false, 39, 0⟩] })
      id) 0 0).l1.Pairwise fun x y => ¬(x.sp = y.sp ∧ x.pa = y.pa) := by decide +kernel
theorem witness_BlockTransfers :
    (CanIssue (work .load [(1, 0x8000), (2, 1)]) noTok [.load, .store] (sopSrcs (.reg 1) ++ sopSrcs (.reg 2)) 0
      ∧ blkLine false (opv (work .load [(2, 1)]) (.reg 2)) = none)
    ∧ (CanIssue (work .load [(1, 0x8040), (2, 128)]) noTok [.load, .store] (sopSrcs (.reg 1) ++ sopSrcs (.reg 2)) 0
      ∧ (blkLine false 128).isSome = true ∧ (opv (work .load [(1, 0x8040)]) (.reg 1)).toNat % 128 ≠ 0)
    ∧ CanIssue (mapped .load [(1, 0x8000), (2, 0x100080)] 0 id) noTok [.load, .store] (sopSrcs (.reg 1) ++ sopSrcs (.reg 2)) 0
    ∧ isGo ((blkOp noTok 3 (.reg 1) (.reg 2) (blkLine false)).pre (mapped .load [(1, 0x8000), (2, 0x100080)] 0 id)) = true
    ∧ isGo ((blkOp noTok 3 (.reg 1) (.reg 2) (blkLine true)).pre (mapped .store [(1, 0x8000), (2, 0x100080)] 0 id)) = true
    ∧ isGo ((blkOp noTok 3 (.reg 1) (.reg 2) blkRowShape).pre (mapped .load [(1, 0x8000), (2, 0x8000000080)] 0 id)) = true :=
  ⟨⟨can_of (by decide +kernel), by decide +kernel⟩, ⟨can_of (by decide +kernel), by decide +kernel⟩,
   can_of (by decide +kernel), by decide +kernel⟩
/-- A machine whose core waits for the acknowledgement of a window store of CTRL. -/
def unacked : State := mach .ctrl [] (fun k => { k with winOut := [⟨1, .ctrl, 1, 0, 0, false⟩] }) id
theorem witness_PlainFences :
    CanIssue (work .ctrl []) noTok allSeqs [] 0 ∧ blksDone (work .ctrl []) 0 0 .ctrl = true ∧ acked (work .ctrl []) 0 0 .ctrl 5 = true
    ∧ CanIssue unacked noTok allSeqs [] 0 ∧ acked unacked 0 0 .ctrl 5 = false :=
  ⟨can_of (by decide +kernel), by decide +kernel, by decide +kernel, can_of (by decide +kernel), by decide +kernel⟩
theorem witness_QueueFence :
    CanIssue (work .ctrl [(1, 63)]) noTok allSeqs (sopSrcs (.reg 1)) 0 ∧ joinRoom (cc (work .ctrl [(1, 63)])) 63 = true
    ∧ (opv (work .ctrl [(1, 63)]) (.reg 1)).toNat % 2 = 1 ∧ (opv (work .ctrl [(1, 2)]) (.reg 1)).toNat % 2 = 0
    ∧ joinRoom (cc (work .ctrl [(1, 2)])) 2 = true ∧ 64 ≤ (opv (work .ctrl [(1, 64)]) (.reg 1)).toNat
    ∧ opv (work .ctrl [(1, 0)]) (.reg 1) = 0 :=
  ⟨can_of (by decide +kernel), by decide +kernel⟩
theorem witness_AtomicIssue :
    (CanIssue (mapped .ctrl [(1, 0x8000), (2, 9)] 0 id) noTok [.ctrl, .load, .store] [1, 2, 3] 0
      ∧ goTo (fun t => !isDeterm t && !amoRel (mapped .ctrl [] 0 id) t 0 && !isStrong (mapped .ctrl [] 0 id) t) (accessPre (mapped .ctrl [(1, 0x8000)] 0 id) 0x8000 8 8 .rw true) = true
      ∧ blksDone (mapped .ctrl [] 0 id) 0 0 .ctrl = true)
    ∧ goTo (fun t => match t with | .mem .host _ _ _ => true | _ => false) (accessPre (mapped .ctrl [] 2 id) 0x8000 8 8 .rw true) = true
    ∧ isFault (accessPre (work .ctrl []) 0x8000 8 8 .rw true) = true :=
  ⟨⟨can_of (by decide +kernel), by decide +kernel⟩, by decide +kernel⟩
/-- A machine whose quad holds one ring, number 2, of four slots, owned by the task of its core. -/
def ringed (rs : List (Nat × Word)) (head tail claimed : BitVec 16) (slots : SMap Nat) (valid : Bool) : State :=
  mach .ctrl rs id fun d =>
    { d with quads := [(0, { rings := [(2, ⟨valid, 0, 0, head, tail, claimed, 2, 6, 0, slots, []⟩)] })] }
theorem witness_RingMoves_free :
    let s := ringed [(1, 2), (2, 4)] 0 0 0 [] true
    (∃ q r, ringAt s (opv s (.reg 1)) = .inr (q, r) ∧ (opv s (.reg 2)).toNat < 2 ^ 16 ∧ ringMine s (ringOf s 0 q r) = true
      ∧ 1 ≤ freeCount (ringOf s 0 q r) ∧ 1 ≤ freeCount (ringSeen s q r)
      ∧ (4 : BitVec 16).toNat ≤ (ringOf s 0 q r).count ∧ (4 : BitVec 16).toNat ≤ freeCount (ringOf s 0 q r)
      ∧ (ringOf s 0 q r).core = 0)
    ∧ CanIssue s noTok allSeqs (sopSrcs (.reg 1)) 1 ∧ CanIssue s noTok allSeqs (sopSrcs (.reg 1) ++ sopSrcs (.reg 2)) 1 :=
  ⟨⟨0, 2, by decide +kernel⟩, can_of (by decide +kernel), can_of (by decide +kernel)⟩
theorem witness_RingMoves_live :
    let s := ringed [(1, 2), (2, 0), (3, 1), (4, 0xFFFF)] 0 1 2 [(0, 2), (1, 1)] true
    (∃ q r, ringAt s (opv s (.reg 1)) = .inr (q, r)
      ∧ (let x := ringOf s 0 q r
         let i : BitVec 16 := (opv s (.reg 2)).setWidth 16
         ¬(1 ≤ dist x.head i ∧ dist x.head i ≤ 32767) ∧ dist i x.head < dist x.tail x.head ∧ smGet x.slots 0 i.toNat ≠ 3)
      ∧ (let x := ringOf s 0 q r
         let i : BitVec 16 := (opv s (.reg 3)).setWidth 16
         slotLive x i = true ∧ smGet x.slots 0 i.toNat = 1 ∧ dist x.tail x.head ≤ dist i x.head)
      ∧ let x := ringOf s 0 q r
        let i : BitVec 16 := (opv s (.reg 4)).setWidth 16
        1 ≤ dist x.head i ∧ dist x.head i ≤ 32767 ∧ slotLive x i = false)
    ∧ CanIssue s noTok allSeqs (sopSrcs (.reg 1) ++ sopSrcs (.reg 2)) 0 ∧ blksDone s 0 0 .ctrl = true :=
  ⟨⟨0, 2, by decide +kernel⟩, can_of (by decide +kernel), by decide +kernel⟩
theorem witness_RingMoves_full :
    let s := ringed [(1, 2)] 0 0 4 [(0, 1), (1, 1), (2, 1), (3, 1)] true
    let t := ringed [(1, 2)] 0 0 0 [] false
    freeCount (ringOf s 0 0 2) = 0 ∧ ringMine s (ringOf s 0 0 2) = true ∧ ringMine t (ringOf t 0 0 2) = false
    ∧ ringAt t (opv t (.reg 1)) = .inr (0, 2) ∧ CanIssue s noTok allSeqs (sopSrcs (.reg 1)) 1
    ∧ CanIssue t noTok allSeqs (sopSrcs (.reg 1)) 1 :=
  ⟨by decide +kernel, by decide +kernel, by decide +kernel, by decide +kernel, can_of (by decide +kernel),
   can_of (by decide +kernel)⟩
theorem witness_RingInit :
    let s := work .ctrl [(1, 31), (2, 0x3D00000)]
    let l := opv s (.reg 2)
    CanIssue s noTok allSeqs (sopSrcs (.reg 1) ++ sopSrcs (.reg 2)) 0 ∧ (opv s (.reg 1)).toNat < 32 ∧ fld l 27 24 ≤ 10
    ∧ 6 ≤ fld l 23 20 ∧ fld l 23 20 ≤ 13 ∧ fld l 18 0 % 64 = 0
    ∧ (ringOf s 0 (quadOf 0) (fld (opv s (.reg 1)) 4 0)).valid = false ∧ fld l 18 0 + 2 ^ fld l 27 24 * 2 ^ fld l 23 20 ≤ (cc s).part * 8192 :=
  ⟨can_of (by decide +kernel), by decide +kernel⟩
theorem witness_RingOrder :
    let x : Ring := ⟨true, 0, 0, 0xFFFF, 0, 2, 2, 6, 0, [], []⟩
    x.countL2 ≤ 10 ∧ dist x.tail x.head ≤ dist x.claimed x.head ∧ dist x.claimed x.head ≤ x.count ∧ 1 ≤ freeCount x := by
  decide +kernel
/-- A machine with a barrier of a level, number 3, that core 0 belongs to, and that CTRL has arrived at where `ph` says so. -/
def barred (lvl : Nat) (b : Barrier) (rs : List (Nat × Word)) (ph : Option (BitVec 32)) : State :=
  let s := putBar (work .ctrl rs) 0 lvl 0 3 b
  modSq s 0 0 .ctrl fun k => { k with phases := [(16 * lvl + 3, ph)] }
theorem witness_BarrierMoves_init :
    let s := barred 4 ⟨0, 2, 0⟩ [(1, 0x40003)] none
    let t := barred 1 ⟨0, 2, 1⟩ [(1, 0x403)] none
    CanIssue s noTok allSeqs (sopSrcs (.reg 1)) 0 ∧ CanIssue t noTok allSeqs (sopSrcs (.reg 1)) 0
    ∧ fld (opv s (.reg 1)) 63 19 = 0 ∧ fld (opv s (.reg 1)) 7 4 = 0 ∧ fld (opv s (.reg 1)) 18 8 = barMax 4
    ∧ fld (opv t (.reg 1)) 18 8 = barMax 1 ∧ (barOf s 0 4 (barOwner s 0 0 4) 3).arr = 0
    ∧ (barOf t 0 1 (barOwner t 0 0 1) 3).arr ≠ 0 :=
  ⟨can_of (by decide +kernel), can_of (by decide +kernel), by decide +kernel⟩
theorem witness_BarrierMoves :
    let s := barred 2 ⟨5, 2, 0⟩ [(1, 3)] (some 4)
    let t := barred 2 ⟨0, 0, 0⟩ [(1, 3)] none
    CanIssue s noTok allSeqs (sopSrcs (.reg 1)) 1 ∧ CanIssue t noTok allSeqs (sopSrcs (.reg 1)) 1
    ∧ (opv s (.reg 1)).toNat < 16 ∧ (barOf s 0 2 (barOwner s 0 0 2) 3).part ≠ 0 ∧ blksDone s 0 0 .ctrl = true
    ∧ acked s 0 0 .ctrl (barScope 2) = true ∧ smGet (cs s).phases none (16 * 2 + 3) = some 4
    ∧ phaseDone s 0 0 2 3 .ctrl 4 = true ∧ (barOf t 0 2 (barOwner t 0 0 2) 3).part = 0
    ∧ smGet (cs t).phases none (16 * 2 + 3) = none
    ∧ barLost (barred 4 ⟨5, 2, 0⟩ [(1, 3)] none) 0 (tenantOf (cc (barred 4 ⟨5, 2, 0⟩ [(1, 3)] none))) 3 = false :=
  ⟨can_of (by decide +kernel), can_of (by decide +kernel), by decide +kernel⟩
theorem witness_BarrierCounting :
    (∀ lvl ∈ [1, 2, 3], let s := barred lvl ⟨5, 2, 1⟩ [] none
      (barOf s 0 lvl (barOwner s 0 0 lvl) 3).arr + 1 = (barOf s 0 lvl (barOwner s 0 0 lvl) 3).part)
    ∧ ∀ lvl ∈ [1, 2], let s := barred lvl ⟨5, 2, 2⟩ [] none
      (barOf s 0 lvl 0 3).part ≠ 0 ∧ (barOf s 0 lvl 0 3).part ≤ (barOf s 0 lvl 0 3).arr := by decide +kernel

/-! Witnesses: the vector unit and the matrix engine. -/

theorem witness_RowResults :
    CanIssueV (work .exec []) (fv 3 (.vec 1) (.vec 2) (.vec 0) 1) VShape.float2
    ∧ typeFits (ctxOf (work .exec []) (fv 3 (.vec 1) (.vec 2) (.vec 0) 1)) VShape.float2 = true
    ∧ CanIssueV (mach .exec [] (fun k => { k with vtype := 0x1105 }) id) (fv 3 (.vec 1) (.vec 2) (.vec 0) 0) VShape.float2
    ∧ typeFits (ctxOf (mach .exec [] (fun k => { k with vtype := 0x1105 }) id) (fv 3 (.vec 1) (.vec 2) (.vec 0) 0))
        VShape.float2 = false :=
  ⟨canV_of (by decide +kernel), by decide +kernel, canV_of (by decide +kernel), by decide +kernel⟩
theorem witness_VectorIota :
    CanIssueV (work .exec []) (fv 3 (.lit 5) (.vec 0) (.vec 0) 4) VShape.iota
    ∧ typeFits (ctxOf (work .exec []) (fv 3 (.lit 5) (.vec 0) (.vec 0) 4)) VShape.iota = true :=
  ⟨canV_of (by decide +kernel), by decide +kernel⟩
theorem witness_VectorMasksAndScalars :
    CanIssueV (work .exec []) (fv 3 (.vec 1) (.vec 2) (.vec 0) 1) VShape.cmpAll
    ∧ typeFits (ctxOf (work .exec []) (fv 3 (.vec 1) (.vec 2) (.vec 0) 1)) VShape.cmpAll = true
    ∧ CanIssueV (work .exec []) (fv 3 (.lit 1) (.vec 0) (.vec 0) 1) VShape.maskCount
    ∧ typeFits (ctxOf (work .exec []) (fv 3 (.lit 1) (.vec 0) (.vec 0) 1)) VShape.maskCount = true
    ∧ CanIssueV (work .exec [(1, 0x401)]) (fv 127 (.reg 1) (.vec 0) (.vec 0) 0) VShape.sett
    ∧ typeFits (ctxOf (work .exec [(1, 0x401)]) (fv 127 (.reg 1) (.vec 0) (.vec 0) 0)) VShape.sett = true
    ∧ vtypeOk (vopVal (cs (work .exec [(1, 0x401)])) (.reg 1)) = true ∧ vtypeOk (vopVal (cs (work .exec [])) (.reg 1)) = false :=
  ⟨canV_of (by decide +kernel), by decide +kernel, canV_of (by decide +kernel), by decide +kernel,
   canV_of (by decide +kernel), by decide +kernel⟩
/-- Whether the checks of a vector access let it through, with a row for a load. -/
def vGo (load : Bool) : VPre → Bool
  | .go p _ => match p.val with
    | .row _ _ => load
    | .none => !load
    | _ => false
  | _ => false
/-- Whether they fault. -/
def vFault : VPre → Bool
  | .fault _ _ => true
  | _ => false
theorem witness_VectorMemory :
    (let s := work .exec [(1, spadVa 0)]
     let f := fv 3 (.reg 1) (.lit 0) (.vec 0) 1
     CanIssueV s f VShape.load ∧ typeFits (ctxOf s f) VShape.load = true
     ∧ vGo true (memPre ⟨f, VShape.load, .load .unit⟩ (ctxOf s f) .unit false s) = true)
    ∧ (let s := work .exec [(1, spadVa 0)]
       let f := fv 127 (.reg 1) (.lit 0) (.vec 2) 1
       CanIssueV s f VShape.store ∧ typeFits (ctxOf s f) VShape.store = true
       ∧ vGo false (memPre ⟨f, VShape.store, .store .unit⟩ (ctxOf s f) .unit true s) = true)
    ∧ let s := work .exec [(1, spadVa 65536)]
      let f := fv 3 (.reg 1) (.lit 0) (.vec 0) 1
      CanIssueV s f VShape.load ∧ vFault (memPre ⟨f, VShape.load, .load .unit⟩ (ctxOf s f) .unit false s) = true :=
  ⟨⟨canV_of (by decide +kernel), by decide +kernel⟩, ⟨canV_of (by decide +kernel), by decide +kernel⟩,
   canV_of (by decide +kernel), by decide +kernel⟩
/-- A move as a unit of a bundle. -/
def movUnit (vd : BitVec 7) (a : VOp) : VUnit := ⟨fv vd a (.vec 0) (.vec 0) 1, VShape.mov, .calc (fun _ => 2) (lane1 fun _ x => x)⟩
theorem witness_BundlesReadFirst :
    let s := work .exec []
    let l := [movUnit 1 (.vec 2), movUnit 2 (.vec 1)]
    (mayIssue s = true ∧ s.cur.seq = .exec ∧ spanFull s = false
      ∧ (∀ p ∈ [1, 2, 3], bundlePops l p ≤ (fifo (cc s) (fifoIn s.cur.seq p)).n)
      ∧ (∀ p ∈ [1, 2, 3], let x := fifo (cc s) (fifoOut s.cur.seq p); x.n + x.popped + x.v + bundlePushes l p ≤ 16)
      ∧ srcsReady s (l.flatMap unitSrcs) = true ∧ (∀ u ∈ l, interlocked (cc s) u = false) ∧ inflightRoom s l.length = true)
    ∧ ∀ u ∈ l, typeFits (vctx s u) u.shape = true ∧ ∃ lat g v en, u.kind = .calc lat g ∧ g (vctx s u) = .row v en := by
  refine ⟨by decide +kernel, ?_⟩
  simp only [List.mem_cons, List.not_mem_nil, or_false]
  rintro u (rfl | rfl) <;> exact ⟨by decide +kernel, _, _, _, _, rfl, rfl⟩
theorem witness_IntegerLanes :
    let x : VCtx := vctx (work .exec []) (movUnit 1 (.vec 2))
    x.w = 4 ∧ 0xFFFFFFFF < 2 ^ (8 * x.w) ∧ x.f.sat = false := by decide +kernel
theorem witness_VectorFrame :
    nextTo (fun y => y.trap.isNone) (exec (.vadd (fv 3 (.vec 1) (.vec 2) (.vec 0) 1)) (work .exec [])) = true := by
  decide +kernel
theorem witness_ShadowSet :
    CanIssueE (work .ctrl [(1, 5), (2, 0x1000000)]) fe3 [.ctrl, .exec] [fe3.a, fe3.b] 0
    ∧ (reg (work .ctrl [(1, 5), (2, 0x1000000)]) fe3.a).toNat ≤ 5
    ∧ (reg (work .ctrl [(1, 5), (2, 0x1000000)]) fe3.b).toNat ≤ 2 ^ 24
    ∧ CanIssueE (work .exec [(1, 6), (2, 1)]) fe3 [.ctrl, .exec] [fe3.a, fe3.b] 0
    ∧ 5 < (reg (work .exec [(1, 6), (2, 1)]) fe3.a).toNat ∧ CanIssueE (work .exec []) fe3 [.ctrl, .exec] [] 0
    ∧ fld (reg (work .ctrl [(1, 0x4F)]) fe3.a) 63 7 = 0 ∧ fld (reg (work .ctrl [(1, 0x4F)]) fe3.a) 6 4 ≤ 4 :=
  ⟨canE_of (by decide +kernel), by decide +kernel, by decide +kernel, canE_of (by decide +kernel), by decide +kernel,
   canE_of (by decide +kernel), by decide +kernel⟩
/-- A legal nest of one reduction of one k-step on tile 0: INT8 operands from the scratchpad where `f` is 3. -/
def nest1 (f t : Nat) : Shadow :=
  { sd := [(0, { w0 := BitVec.ofNat 64 (f * 2 ^ 56 + 32 * 2 ^ 32) }), (1, { w0 := BitVec.ofNat 64 (f * 2 ^ 56 + 32 * 2 ^ 32) }),
           (2, { w0 := BitVec.ofNat 64 (2 ^ 62 + t * 2 ^ 56) })], attr := 0x420210 }
/-- A machine with that nest in its shadow set and a matrix queue. -/
def nested (x : Shadow) (rs : List (Nat × Word)) (l : List MEntry) (f : Core → Core) : State :=
  mach .ctrl rs (fun k => f { k with shadow := x, mq := l, ptRoot := 0x1000 }) (paged 0)
/-- A matrix-queue entry. -/
def ment (op : MOp) (id : Nat) (begun : Bool) : MEntry := ⟨op, 0, id, begun, 0, 0, 0⟩
theorem witness_MatrixPosts_go :
    (let s := nested (nest1 3 5) [] [] id
     CanIssueE s fe3 [.ctrl, .exec] [fe3.a] 0 ∧ nestLegal (cc s).shadow 0 = true ∧ nestRed (cc s).shadow ≤ fld (cc s).redLimit 23 0
     ∧ chainBusy (cc s).shadow 0 = false ∧ (cc s).mq.length < 4 ∧ rowDue (cc s) (fun i => namesTile (cc s).shadow 0 (i / 128)) = false
     ∧ fld (reg s fe3.a) 63 17 = 0)
    ∧ (nestLegal (cc (work .ctrl [])).shadow 0 = false ∧ CanIssueE (work .ctrl []) fe3 [.ctrl, .exec] [fe3.a] 0)
    ∧ (let s := nested (nest1 3 5) [] [] fun k => { k with redLimit := 0 }
       CanIssueE s fe3 [.ctrl, .exec] [fe3.a] 0 ∧ nestLegal (cc s).shadow 0 = true ∧ fld (cc s).redLimit 23 0 < nestRed (cc s).shadow)
    ∧ (let s := nested (nest1 3 5) [] ((List.range 4).map fun i => ment (.aclr 0 1) i false) id
       CanIssueE s fe3 [.ctrl, .exec] [fe3.a] 0 ∧ nestLegal (cc s).shadow 0 = true ∧ 4 ≤ (cc s).mq.length)
    ∧ let s := nested { nest1 1 4 with sd := [(0, { w0 := 0x4100000000000000 }), (1, { w0 := 0x0100002000000000 }),
        (2, { w0 := 0x4400000000000000 })] } [] [] id
      CanIssueE s fe3 [.ctrl, .exec] [fe3.a] 0 ∧ nestLegal (cc s).shadow 0 = true ∧ chainBusy (cc s).shadow 0 = true :=
  ⟨⟨canE_of (by decide +kernel), by decide +kernel⟩, ⟨by decide +kernel, canE_of (by decide +kernel)⟩,
   ⟨canE_of (by decide +kernel), by decide +kernel⟩, ⟨canE_of (by decide +kernel), by decide +kernel⟩,
   canE_of (by decide +kernel), by decide +kernel⟩
theorem witness_MatrixPosts_rows :
    let s := nested {} [(1, 384), (2, 128)] [] id
    let t := nested (nest1 1 4) [(1, 0xFFFF), (2, 0xFFFFFFFF)] [] id
    CanIssueE s fe3 [.ctrl, .exec] [fe3.a, fe3.b] 0 ∧ CanIssueE t fe3 [.ctrl, .exec] [fe3.a, fe3.b] 0
    ∧ fld (reg s fe3.a) 63 25 = 0 ∧ fld (reg s fe3.a) 15 9 = 0 ∧ 1 ≤ (reg s fe3.b).toNat
    ∧ fld (reg s fe3.a) 8 0 + (reg s fe3.b).toNat = 512 ∧ fld (reg s fe3.a) 24 16 + (reg s fe3.b).toNat ≤ 512
    ∧ fld (reg t fe3.a) 63 16 = 0 ∧ fld (reg t fe3.b) 63 32 = 0 ∧ atMode (cc t).shadow < 2
    ∧ (let x := (cc t).shadow
       formatsOk { x with sd := smPut x.sd (fld x.attr 11 8) { atT x with w0 := putFld (atT x).w0 61 56 4 } } = true) :=
  ⟨canE_of (by decide +kernel), canE_of (by decide +kernel), by decide +kernel⟩
theorem witness_MatrixStatus :
    let s := nested {} [(1, 4)] [] id
    let t := nested {} [(1, 0)] [ment (.aclr 0 1) 0 false] id
    CanIssueE s fe3 [.ctrl, .exec] [fe3.a] 1 ∧ CanIssueE t fe3 [.ctrl, .exec] [fe3.a] 1 ∧ CanIssueE s fe3 [.ctrl, .exec] [] 0
    ∧ mqCount (cc s) ≤ (reg s fe3.a).toNat ∧ (reg t fe3.a).toNat < mqCount (cc t) ∧ reg s fe3.a = 4 ∧ reg t fe3.a = 0 :=
  ⟨canE_of (by decide +kernel), canE_of (by decide +kernel), canE_of (by decide +kernel), by decide +kernel⟩
/-- A reduction of entry 7 on tile 0 that has not begun its k-steps, or has ended them. -/
def red7 (done : Bool) (ids : List Nat) (tab : List (Nat × Nat)) (replay : List (Nat × Nat)) (fills : List (Nat × Nat × Nat × Nat)) : Reduction :=
  ⟨7, 0, 0, 0, [], [], ids, tab, [], replay, fills, 0, done, false, 0, [], 0⟩
theorem witness_ReductionSteps :
    (let s := nested {} [] [ment (.go (nest1 3 5) 0) 7 false] id
     reductionDue s 0 0 = true ∧ turnEntry (co s 0 0) = some (ment (.go (nest1 3 5) 0) 7 false) ∧ atIden (nest1 3 5) = false)
    ∧ (let s := nested {} [] [ment (.go (nest1 3 5) 0) 7 true] fun k => { k with red := some (red7 false [] [] [] []) }
       kStepDue s 0 0 = true ∧ nestOf (co s 0 0) 7 = some (nest1 3 5, 0)
       ∧ isInr (mainStep (co s 0 0) (nest1 3 5) (red7 false [] [] [] [])) = true ∧ nestRed (nest1 3 5) ≤ 0 + 1 ∧ (co s 0 0).ret = none)
    ∧ let s := nested {} [] [ment (.go (nest1 3 5) 0) 7 true] fun k => { k with ret := some (red7 true [] [] [] []) }
      retireDue s 0 0 = true ∧ smWf 0 (co s 0 0).acc = true := by decide +kernel
theorem witness_AccumulatorOps : ∀ op ∈ [MOp.aclr 500 12, .acopy 0 500 12], ∀ b ∈ [true, false],
    let s := nested {} [] [ment op 7 b, ment (.aclr 0 1) 8 false] id
    accOpDue s 0 0 = true ∧ (∀ z ∈ [ment (.aclr 0 1) 8 false], z.id ≠ 7) ∧ smWf 0 (co s 0 0).acc = true := by decide +kernel
theorem witness_LensSteps :
    (∀ id ∈ [0, 5], let s := nested {} [] [ment (.adload id 0 0 (nest1 1 4)) 7 false] fun k => k
      (co s 0 0).mode = .run ∧ (co s 0 0).red = none ∧ (co s 0 0).mq.length = 1)
    ∧ (let s := nested {} [] [ment (.go (nest1 1 4) 0) 7 true] fun k => { k with red := some (red7 false [5] [(5, 0)] [] [(5, 0, 0, 0)]) }
       (co s 0 0).mode = .run ∧ nestOf (co s 0 0) 7 = some (nest1 1 4, 0)
       ∧ isInr (fillLens s 0 0 (nest1 1 4) (tabOf (red7 false [5] [(5, 0)] [] [(5, 0, 0, 0)]) 5) 5 0 0).1 = true)
    ∧ let s := modQd (nested {} [] [ment (.go (nest1 1 4) 0) 7 true] fun k => { k with red := some (red7 true [5] [(5, 0)] [(0, 0)] []) })
        0 0 fun q => { q with lens := [⟨0, 5, 0, 0, 0, 0, 0, 0, [], [], false⟩] }
      replayDue s 0 0 = true ∧ replayNext s 0 0 (nest1 1 4) (red7 true [5] [(5, 0)] [(0, 0)] []) = some 0
      ∧ isInr (operandA (co s 0 0) (nest1 1 4) 0 0) = true := by decide +kernel

/-! Witnesses: the copy engine, packets, counters, endpoints and messages. -/

/-- Whether the block at an address is read whole, and legal or not, and what its checks then give. -/
def blockTo (p : Nat → State → Bool) (va : Word) (s : State) : Bool :=
  match readWhole va 128 s with
  | .go v t => p v t
  | _ => false
/-- A machine with bytes in the scratchpad of its core. -/
def stored (l : Memory) (rs : List (Nat × Word)) (f : Core → Core) (g : Node → Node) : State :=
  mach .ctrl rs (fun k => f { k with spad := l }) g
theorem witness_CopyInstructions_copy :
    (let s := stored [(16, 4)] [(1, spadVa 0)] id id
     CanIssueE s fe3 [.ctrl] [fe3.a] 1 ∧ blockTo (fun v t => blockLegal v && isGo (copyChecks (blockCmd v) t)) (reg s fe3.a) s = true
     ∧ (cc s).cq.length < 32)
    ∧ (let s := stored [] [(1, spadVa 0)] id id
       CanIssueE s fe3 [.ctrl] [fe3.a] 1 ∧ blockTo (fun v _ => !blockLegal v) (reg s fe3.a) s = true)
    ∧ CanIssueE (work .ctrl [(1, 64)]) fe3 [.ctrl] [fe3.a] 1 ∧ (reg (work .ctrl [(1, 64)]) fe3.a).toNat % 128 ≠ 0 :=
  ⟨⟨canE_of (by decide +kernel), by decide +kernel⟩, ⟨canE_of (by decide +kernel), by decide +kernel⟩,
   canE_of (by decide +kernel), by decide +kernel⟩
/-- A copy of `n` bytes from one place of the scratchpad to another. -/
def cmdOf (n : Nat) (src dst : Nat) : CopyCmd :=
  ⟨spadVa src, spadVa dst, n, 1, 1, 1, 0, 0, 0, 0, 0, 0, false, 0, false, 0, 0, 0, 0⟩
/-- An entry of the copy queue. -/
def centry (x : CopyCmd) (begun checked : Bool) (bytes : Nat) : CEntry := ⟨x, none, 1, 0, begun, 0, bytes, 0, 0, false, checked, 0⟩
theorem witness_CopyInstructions_copyi :
    (let s := work .ctrl [(1, 8), (2, 4), (3, 0x1000000)]
     CanIssueE s fe3 [.ctrl] [fe3.a, fe3.b, fe3.d] 1 ∧ (reg s fe3.d).toNat % 4 = 0 ∧ 4 ≤ (reg s fe3.d).toNat
     ∧ (reg s fe3.d).toNat ≤ 2 ^ 24 ∧ (reg s fe3.a).toNat % 4 = 0 ∧ (reg s fe3.b).toNat % 4 = 0 ∧ (cc s).det = false
     ∧ (cc s).cq.length < 32)
    ∧ (let s := work .ctrl [(1, 2), (2, 6), (3, 4)]
       (reg s fe3.d).toNat = 4 ∧ (reg s fe3.a).toNat % 4 ≠ 0 ∧ (reg s fe3.b).toNat % 4 ≠ 0)
    ∧ (reg (work .ctrl [(3, 2)]) fe3.d).toNat % 4 ≠ 0 :=
  ⟨⟨canE_of (by decide +kernel), by decide +kernel⟩, by decide +kernel, by decide +kernel⟩
theorem witness_CopyInstructions_wait :
    let s := mach .ctrl [(1, 0)] (fun k => { k with cAcc := 5, cCmp := 4 }) id
    let t := mach .ctrl [(1, 0xFFFFFFFF)] (fun k => { k with cAcc := 5, cCmp := 5 }) id
    CanIssueE s fe3 [.ctrl] [fe3.a] 1 ∧ CanIssueE t fe3 [.ctrl] [fe3.a] 1 ∧ (reg t fe3.a).toNat < 2 ^ 32
    ∧ (∃ v : Word, v.toNat < 2 ^ 32 ∧ reached (cc s).cCmp (cpTarget (cc s) v) = false)
    ∧ ∃ v : Word, v.toNat < 2 ^ 32 ∧ reached (cc t).cCmp (cpTarget (cc t) v) = true :=
  ⟨canE_of (by decide +kernel), canE_of (by decide +kernel), by decide +kernel, ⟨5, by decide +kernel⟩, ⟨5, by decide +kernel⟩⟩
/-- A machine with one entry in its copy queue. -/
def copying (e : CEntry) (g : Node → Node) : State := mach .ctrl [] (fun k => { k with cq := [e] }) g
theorem witness_CopyEngine_begin :
    (let e := centry (cmdOf 256 0 1024) false false 0
     let s := copying e id
     copyBeginDue s 0 0 = true ∧ copyCancelled s 0 0 = false ∧ copyHead (co s 0 0) = some e ∧ e.begun = false
     ∧ (co s 0 0).evt &&& e.cmd.bwait = e.cmd.bwait ∧ (copyPages 0 0 e.cmd 0 1 s).1 = none)
    ∧ (let e := centry { cmdOf 256 0 1024 with bwait := 1 } false false 0
       let s := copying e id
       copyBeginDue s 0 0 = true ∧ (co s 0 0).evt &&& e.cmd.bwait ≠ e.cmd.bwait)
    ∧ (let e := centry (cmdOf 256 0 65408) false false 0
       let s := copying e id
       copyBeginDue s 0 0 = true ∧ (copyPages 0 0 e.cmd 0 1 s).1.isSome = true)
    ∧ let s := copying (centry (cmdOf 4 0 8) false false 0) fun d => { d with cancels := [(0, 0)] }
      copyBeginDue s 0 0 = true ∧ copyCancelled s 0 0 = true := by decide +kernel
theorem witness_CopyEngine_pieces :
    (let e := centry (cmdOf 256 64 1024) true true 64
     let s := copying e id
     copyPieceDue s 0 0 = true ∧ copyHead (co s 0 0) = some e ∧ 0 < e.cmd.len0
     ∧ (let p := pieceAt e.cmd e.bytes
        okTo (fun a => !engHold (coreAgent s 0 0 e.cls) a p.2.2 false s) (chk s 0 0 p.1 p.2.2 .r) = true ∧ (engCheck 0 0 .w true 2 p.2.1 p.2.2 s).1 = none
        ∧ okTo (fun t => !engHold (coreAgent s 0 0 e.cls) t p.2.2 true s && (match detRoom (co s 0 0) (detLines [t]) with | .ok => true | _ => false))
            (chk s 0 0 p.2.1 p.2.2 .w) = true))
    ∧ let s := copying (centry (cmdOf 256 64 1024) true true 256) id
      copyDoneDue s 0 0 = true := by decide +kernel
/-- A prism configuration of tenant 0 with every mask bit and `n` counters from 0 on. -/
def windowed (n : Nat) (d : Node) : Node := { d with prism := [(0, BitVec.ofNat 64 (n * 2 ^ 33 + 0xFF))] }
theorem witness_PacketInstructions_build :
    (let s := work .ctrl [(1, 65248), (3, 4095)]
     CanIssueE s fe3 [.ctrl] [fe3.a, fe3.b, fe3.d] 1 ∧ spadOff (reg s fe3.a) 32 = some 65248 ∧ (reg s fe3.d).toNat < 2 ^ 12
     ∧ isInr (spadTake s 65248 288) = true ∧ freeSlot (cc s) = some 0)
    ∧ (let s := work .ctrl [(1, 65280)]
       CanIssueE s fe3 [.ctrl] [fe3.a, fe3.b, fe3.d] 1 ∧ isInr (spadTake s 65280 288) = false)
    ∧ freeSlot (cc (mach .ctrl [] (fun k => { k with slots := (List.range 8).map fun i => (i, .built 0) }) id)) = none :=
  ⟨⟨canE_of (by decide +kernel), by decide +kernel⟩, ⟨canE_of (by decide +kernel), by decide +kernel⟩, by decide +kernel⟩
/-- A program packet without entries, and a data packet. -/
def progPacket : PImage := BitVec.ofNat 2304 (2 ^ 85 + 2 ^ 128)
def dataPacket : PImage := 0
theorem witness_PacketInstructions_send :
    (let s := mach .ctrl [(1, 7)] (fun k => { k with slots := [(7, .built progPacket)] }) id
     CanIssueE s fe3 [.ctrl] [fe3.a] 1 ∧ slotOf (cc s) 7 = .built progPacket ∧ packetLegal s progPacket = true
     ∧ ¬ pType progPacket = 0 ∧ (cc s).pq.length < 16)
    ∧ (let s := mach .ctrl [(1, 7)] (fun k => { k with slots := [(7, .built dataPacket)] }) id
       CanIssueE s fe3 [.ctrl] [fe3.a] 1 ∧ packetLegal s dataPacket = true ∧ pType dataPacket = 0
       ∧ cfgMask (prismCfg (cn s) (tenantOf (cc s))) 7 = false)
    ∧ packetLegal (work .ctrl []) (BitVec.ofNat 2304 (2 ^ 86)) = false
    ∧ (∀ p, slotOf (cc (work .ctrl [])) 7 ≠ .built p) ∧ 8 ≤ (reg (work .ctrl [(1, 8)]) fe3.a).toNat := by
  refine ⟨⟨canE_of (by decide +kernel), by decide +kernel⟩, ⟨canE_of (by decide +kernel), by decide +kernel⟩,
    by decide +kernel, ?_, by decide +kernel⟩
  intro p h
  have e : slotOf (cc (work .ctrl [])) 7 = .free := by decide +kernel
  rw [e] at h
  exact PSlot.noConfusion h
theorem witness_PacketInstructions_resume :
    let s := stored [(10, 0x20)] [(1, 0), (2, 0x6000)] id id
    CanIssueE s fe3 [.ctrl] [fe3.a, fe3.b] 1 ∧ spadOff (reg s fe3.a) 32 = some 0 ∧ (reg s fe3.b).toNat < 2 ^ 16
    ∧ inTorus s (fld (reg s fe3.b) 11 0) = true
    ∧ (match spadTake s 0 288 with
       | .inr v => let p := stampSender s (putFld (putFld (putFld (BitVec.ofNat 2304 v) 159 148 0) 147 140 0) 139 136 0)
                   packetLegal s p && pType p == 1
       | .inl _ => false) = true :=
  ⟨canE_of (by decide +kernel), by decide +kernel⟩
theorem witness_NodeCounters :
    (let s := mach .ctrl [(1, 3), (2, 5)] id fun d => { windowed 4 d with counters := [(3, 5)] }
     ctrOperand s (reg s fe3.a) = .inr 3 ∧ CanIssueE s fe3 [.ctrl] [fe3.a, fe3.b] 1 ∧ CanIssueE s fe3 [.ctrl] [fe3.a] 1
     ∧ CanIssueE s fe3 [.ctrl] [fe3.a, fe3.b] 0 ∧ passed (ctrAt (cn s) 3) (reg s fe3.b) = true ∧ blksDone s 0 0 .ctrl = true
     ∧ passed (ctrAt (cn s) 3) 6 = false ∧ busyTenant (nd s 0) 3 = none ∧ smWf 0 (nd s 0).counters = true)
    ∧ (let s := mach .ctrl [(1, 4)] id (windowed 4)
       ctrOperand s (reg s fe3.a) = .inl 0x06 ∧ CanIssueE s fe3 [.ctrl] [fe3.a] 1)
    ∧ let s := mach .ctrl [] (fun k => { k with blks := [⟨1, .ctrl, true, [], [], 0, 128, [], none, 9⟩] }) id
      ¬ blksDone s 0 0 .ctrl = true :=
  ⟨⟨by decide +kernel, canE_of (by decide +kernel), canE_of (by decide +kernel), canE_of (by decide +kernel), by decide +kernel⟩,
   ⟨by decide +kernel, canE_of (by decide +kernel)⟩, by decide +kernel⟩
/-- A machine whose CTRL waits for an answer, with the given hold. -/
def holding (q : Seq) (h : Hold) (f : Core → Core) (g : Node → Node) : State :=
  mach q [] f fun d => g { d with cores := d.cores.map fun e => (e.1, { e.2 with
    seqs := e.2.seqs.map fun x => (x.1, { x.2 with hold := h }) }) }
/-- What a held instruction gives back. -/
def back : Back := ⟨16, 0, 16, 0, none, 0⟩
/-- A packet-queue entry. -/
def pentry (p : PImage) : PEntry := ⟨p, none, none, none, 0, 0, 0⟩
theorem witness_ParkAndInjection :
    (let s := work .ctrl [(1, 65024), (2, 1)]
     CanIssueE s fe3 [.ctrl] [fe3.a, fe3.b] 0 ∧ spadOff (reg s fe3.a) 128 = some 65024 ∧ (reg s fe3.b).toNat < 2 ^ 12
     ∧ 65024 + 512 ≤ (cc s).part * 8192 ∧ isLost s 0 1 = false ∧ inTorus s 1 = true)
    ∧ isLost (mach .ctrl [] id fun d => { d with lost := [1] }) 0 1 = true
    ∧ (let r := trtOf (nd (mach .ctrl [] id fun d => { d with trt := [(0, { parkIn := 3, parkOut := 2 })] }) 0) 0
       r.parkIn ≠ r.parkOut)
    ∧ (trtOf (nd (work .ctrl []) 0) 0).parkIn = (trtOf (nd (work .ctrl []) 0) 0).parkOut
    ∧ (sq (holding .ctrl (.parkget 3 0 1 back) id id) 0 0 .ctrl).hold = .parkget 3 0 1 back
    ∧ (work .ctrl []).now < back.sent + 10 * Config.frameCc
    ∧ (let s := mach .ctrl [] (fun k => { k with pq := [pentry progPacket] }) id
       packetDue s 0 0 = true ∧ packetHead (co s 0 0) = some (pentry progPacket)
       ∧ cancelled (nd s 0) (pTenant progPacket) 0 = false)
    ∧ cancelled (nd (mach .ctrl [] id fun d => { d with cancels := [(0, 0)] }) 0) 0 0 = true :=
  ⟨⟨canE_of (by decide +kernel), by decide +kernel⟩, by decide +kernel⟩
/-- A node whose endpoint 5 is open for tenant 0, with a ring of one buffer of which `n` are posted. -/
def opened (n : BitVec 16) (cached : Bool) (d : Node) : Node :=
  { d with eps := [(5, { opened := true, cached := cached, rqPost := n, rqBase := spadVa 1024, w0 := 0x0010000000000000 })] }
theorem witness_EndpointInstructions_open :
    (let s := work .ctrl [(1, 4095), (2, spadVa 0)]
     CanIssueE s fe3 [.ctrl] [fe3.a, fe3.b] 0 ∧ privileged (cc s) = true ∧ (reg s fe3.a).toNat < 4096
     ∧ (match readWhole (reg s fe3.b) 256 s with
        | .go v t => !(epOf (cn t) 4095).opened && epImageOk t v
        | _ => false) = true)
    ∧ (let s := stored [(2, 1)] [(1, 4095), (2, spadVa 0)] id id
       CanIssueE s fe3 [.ctrl] [fe3.a, fe3.b] 0
       ∧ (match readWhole (reg s fe3.b) 256 s with
          | .go v t => !epImageOk t v
          | _ => false) = true)
    ∧ mayIssue (user .ctrl []) = true ∧ inHandler (cc (user .ctrl [])) = false ∧ privileged (cc (user .ctrl [])) = false :=
  ⟨⟨canE_of (by decide +kernel), by decide +kernel⟩, ⟨canE_of (by decide +kernel), by decide +kernel⟩, by decide +kernel⟩
/-- A message of node 0's endpoint 5 to node 1. -/
def msgOf (op : MsgOp) : Msg := ⟨op, 0, 0, 5, 1, 5, 0, 7, spadVa 0, spadVa 0, 0xFFFF, 4, [1, 2, 3, 4], [], false, 0, 0⟩
/-- A message sent and not yet answered. -/
def outm (op : MsgOp) (held : Nat) : OutMsg := ⟨msgOf op, 0, 0, 0, 0, 0, 0, 0, [], false, 0, held, 0⟩
theorem witness_EndpointInstructions_close :
    (let s := mach .ctrl [(1, 5)] id (opened 0 true)
     CanIssueE s fe3 [.ctrl] [fe3.a] 0 ∧ privileged (cc s) = true ∧ epOperand s (reg s fe3.a) = .inr 5
     ∧ epBusy (disarmAll s 0 5) 0 5 = false ∧ epFired (cn (disarmAll s 0 5)) 5 = false)
    ∧ epBusy (disarmAll (mach .ctrl [(1, 5)] id fun d => { opened 0 true d with outMsgs := [outm .send 0] }) 0 5) 0 5 = true :=
  ⟨⟨canE_of (by decide +kernel), by decide +kernel⟩, by decide +kernel⟩
theorem witness_EndpointInstructions_post :
    (let s := mach .ctrl [(1, 5), (2, 0), (3, 0x1000000)] id (opened 0 true)
     CanIssueE s fe3 [.ctrl] [fe3.a, fe3.b, fe3.d] 1 ∧ epOperand s (reg s fe3.a) = .inr 5 ∧ (reg s fe3.d).toNat ≤ 2 ^ 24
     ∧ epAvail (epOf (cn s) 5) < epRing (epOf (cn s) 5)
     ∧ isGo (accessPre s (rqSlot (epOf (cn s) 5) (epOf (cn s) 5).rqPost) 16 16 .w true) = true)
    ∧ (let s := mach .ctrl [(1, 5)] id (opened 0 true)
       CanIssueE s fe3 [.ctrl] [fe3.a] 1 ∧ (reg s fe3.a).toNat < 4096 ∧ (epOf (cn s) 5).opened = true
       ∧ epTenant (epOf (cn s) 5) = tenantOf (cc s))
    ∧ (epOf (cn (work .ctrl [])) 5).opened = false ∧ 4096 ≤ (reg (work .ctrl [(1, 4096)]) fe3.a).toNat :=
  ⟨⟨canE_of (by decide +kernel), by decide +kernel⟩, ⟨canE_of (by decide +kernel), by decide +kernel⟩, by decide +kernel⟩
/-- A descriptor without counters in the scratchpad: no LCTR, no RCTR, and no TCTR or TCTR 0. -/
def descAt (armed : Bool) : Memory :=
  [(30, 0xFF), (31, 0xFF), (32, 0xFF), (33, 0xFF)] ++ if armed then [] else [(34, 0xFF), (35, 0xFF)]
/-- A machine with that descriptor and the open endpoint. -/
def messaging (armed : Bool) (f : Core → Core) (g : Node → Node) : State :=
  stored (descAt armed) [(1, 5), (2, spadVa 0)] f fun d => g (windowed 4 (opened 1 true d))
theorem witness_MessageInstructions_send :
    (∀ u ∈ [(⟨false, false, false⟩ : MsgUse), ⟨true, false, false⟩, ⟨false, true, false⟩],
      isGo (msgPre fe3 u (messaging false id id)) = true)
    ∧ CanIssueE (messaging false id id) fe3 [.ctrl] [fe3.a, fe3.b] 1
    ∧ (cc (messaging false id id)).msgq.length < 32 ∧ (cc (messaging false id id)).firedQ = []
    ∧ (cc (messaging false (fun k => { k with firedQ := [1] }) id)).firedQ ≠ []
    ∧ isFault (msgPre fe3 ⟨false, false, false⟩ (work .ctrl [(1, 5)])) = true :=
  ⟨by decide +kernel, canE_of (by decide +kernel), by decide +kernel⟩
/-- An armed operation of endpoint 5. -/
def armedOp (fired : Bool) : Armed := ⟨false, 5, 0, 0, 0, 0, 0, 0, 0, 0, 9, fired, 7, 0⟩
theorem witness_MessageInstructions_arm :
    (let s := messaging true id id
     CanIssueE s fe3 [.ctrl] [fe3.a, fe3.b] 1 ∧ freeArmed (cn s) = some 0
     ∧ (match msgPre fe3 ⟨false, false, true⟩ s with
        | .go _ t => freeArmed (cn t) == some 0
        | _ => false) = true)
    ∧ (let s := mach .ctrl [(1, 0x9003)] id fun d => { opened 0 true d with armed := [(3, some (armedOp false))] }
       smGet (nd s 0).armed none 3 = some (armedOp false) ∧ cancelled (nd s 0) 0 0 = false ∧ (co s 0 0).msgq.length < 32
       ∧ (co s 0 0).firedQ = [] ∧ CanIssueE s fe3 [.ctrl] [fe3.a] 1 ∧ (reg s fe3.a).toNat < 2 ^ 32
       ∧ fld (reg s fe3.a) 11 0 = 3 ∧ (armedOp false).count.toNat = fld (reg s fe3.a) 31 12)
    ∧ smGet (nd (work .ctrl []) 0).armed none (fld (0 : Word) 11 0) = none :=
  ⟨⟨canE_of (by decide +kernel), by decide +kernel⟩, ⟨by decide +kernel, by decide +kernel, by decide +kernel,
    by decide +kernel, canE_of (by decide +kernel), by decide +kernel⟩, by decide +kernel⟩
/-- A message-queue entry of endpoint 5 that has not begun. -/
def mentry : MsgEntry := ⟨.send, 5, 0, 7, 0, 0, 0, 0, 0, 0, 0, none, .queued⟩
theorem witness_MessageSending :
    (let s := mach .ctrl [] (fun k => { k with firedQ := [3] }) fun d => { d with armed := [(3, some (armedOp true))] }
     (co s 0 0).firedQ = [3] ∧ (co s 0 0).msgq.length < 32 ∧ smGet (nd s 0).armed none 3 = some (armedOp true))
    ∧ (∀ c ∈ [true, false], let s := mach .ctrl [] (fun k => { k with msgq := [mentry] }) (opened 0 c)
       messageDue s 0 0 = true ∧ msgHead (co s 0 0) = some mentry ∧ cancelled (nd s 0) 0 0 = false ∧ (epOf (nd s 0) 5).cached = c)
    ∧ let s := mach .ctrl [] (fun k => { k with msgq := [mentry] }) fun d => { opened 0 true d with cancels := [(0, 0)] }
      messageDue s 0 0 = true ∧ cancelled (nd s 0) 0 0 = true := by decide +kernel
/-- Whether a load of an engine has its bytes. -/
def isBytes : Loaded → Bool
  | .bytes _ _ => true
  | _ => false
theorem witness_MessageArrivals :
    (let e := epOf (nd (mach .ctrl [] id (opened 0 true)) 0) 5
     e.opened = true ∧ e.cached = true ∧ epTenant e = (msgOf .send).tenant ∧ e.rnrAt = none ∧ epAvail e = 0)
    ∧ (let e := epOf (nd (mach .ctrl [] id (opened 0 false)) 0) 5
       e.opened = true ∧ e.cached = false ∧ missCount (nd (mach .ctrl [] id (opened 0 false)) 0) < 256)
    ∧ (epOf (nd (work .ctrl []) 0) 5).opened = false
    ∧ (let s := mach .ctrl [] id fun d => { paged 0 (opened 0 true d) with troot := [(0, 0x1000)] }
       (engPages (peerAgent (nd s 0) 0 (msgOf .write)) .w true 258 0x8000 4 s).1 = none
       ∧ rctrBad s 0 (msgOf .write) = false ∧ (0x8000 : Word).toNat < 2 ^ 60
       ∧ isBytes (engLoad (peerAgent (nd s 0) 0 (msgOf .read)) 0x8000 3 0 4 [] [] s).1 = true)
    ∧ (epOf (nd (mach .ctrl [] id fun d => { d with eps := [(5, { opened := true, fetching := true })] }) 0) 5).fetching = true := by
  decide +kernel
theorem witness_MessageAnswers :
    (let s := mach .ctrl [] id fun d => { opened 0 true d with outMsgs := [outm .send 0] }
     outOf (nd s 0) 5 7 = some (outm .send 0) ∧ isLost s 0 1 = false ∧ s.now < 0 + 10 * Config.frameCc ∧ outOf (nd s 0) 5 8 = none)
    ∧ isLost (mach .ctrl [] id fun d => { opened 0 true d with outMsgs := [outm .send 0], lost := [1] }) 0 1 = true
    ∧ (let s := mach .ctrl [] id fun d => { opened 0 true d with outMsgs := [outm .read 0] }
       outOf (nd s 0) (msgOf .read).ep (msgOf .read).sseq = some (outm .read 0))
    ∧ retryDue (mach .ctrl [] id fun d => { opened 0 true d with outMsgs := [outm .send 1] }) 0 5 = some (outm .send 1) := by
  decide +kernel

/-! Witnesses: leases, collectives, tasks and system instructions. -/

/-- A node that gives tenant 0 leases, and the shutter where `sh` says so. -/
def leasing (sh : Bool) (d : Node) : Node := { d with leaseW := [(0, if sh then 0xC00 else 0x400)] }
/-- A request of node 0 for one to 640 indices toward node 1. -/
def reqOf : LeaseCtl := ⟨false, 0, 3, 9, 0, 0, true, 0, 1, 0, false, 1, 640, 0⟩
/-- A lease-table entry of tenant `t` in a state, holding one index or none. -/
def lentry (t state : Nat) (m : BitVec 640) : LeaseEntry := ⟨9, t, reqOf, state, m, 0, 0, 0, 0, false, false, 0, 0⟩
/-- The handle of entry 3. -/
def handle3 : Word := 0x903
theorem witness_LeaseInstructions_ask :
    (let s := mach .ctrl [(1, 0x1000000401)] id (leasing false)
     CanIssueE s fe3 [.ctrl] [fe3.a] 1 ∧ leaseEn (leaseWord s) = true ∧ (leaseRequest s (reg s fe3.a)).isSome = true
     ∧ freeLease (cn s) = some 0)
    ∧ (let s := work .ctrl []
       CanIssueE s fe3 [.ctrl] [fe3.a, fe3.b] 1 ∧ leaseEn (leaseWord s) = false)
    ∧ (let s := mach .ctrl [(1, 0)] id (leasing true)
       leaseEn (leaseWord s) = true ∧ leaseShut (leaseWord s) = true ∧ leaseRequest s (reg s fe3.a) = none) :=
  ⟨⟨canE_of (by decide +kernel), by decide +kernel⟩, ⟨canE_of (by decide +kernel), by decide +kernel⟩, by decide +kernel⟩
theorem witness_LeaseInstructions_hold :
    (∀ st ∈ [0, 1, 3], let s := mach .ctrl [(1, handle3), (2, 640)] id fun d => { leasing false d with leases := [(3, some (lentry 0 st 1))] }
      foreignHandle s (reg s fe3.a) = false ∧ handleEntry s (reg s fe3.a) = some (lentry 0 st 1) ∧ (reg s fe3.b).toNat = 640
      ∧ leaseReady (handleEntry s (reg s fe3.a)) = true)
    ∧ (let s := mach .ctrl [(1, handle3), (2, 1)] id fun d => { leasing false d with leases := [(3, some (lentry 1 0 0))] }
       CanIssueE s fe3 [.ctrl] [fe3.a, fe3.b] 0 ∧ CanIssueE s fe3 [.ctrl] [fe3.a, fe3.b] 1 ∧ CanIssueE s fe3 [.ctrl] [fe3.a] 1
       ∧ leaseEn (leaseWord s) = true ∧ foreignHandle s (reg s fe3.a) = true ∧ reg s fe3.b = 1)
    ∧ (let s := mach .ctrl [(1, handle3), (2, 641)] id fun d => { leasing false d with leases := [(3, some (lentry 0 0 0))] }
       leaseReady (handleEntry s (reg s fe3.a)) = false ∧ 640 < (reg s fe3.b).toNat)
    ∧ handleEntry (work .ctrl []) handle3 = none :=
  ⟨by decide +kernel, ⟨canE_of (by decide +kernel), canE_of (by decide +kernel), canE_of (by decide +kernel), by decide +kernel⟩,
   by decide +kernel, by decide +kernel⟩
/-- A holding of tenant 1 on the first segment of every index. -/
def heldAll : Holding := ⟨some 1, 0, 4, 8, true, 0, 1, true, 3, BitVec.allOnes 640, 0, 0, 0, 0, 0, false⟩
theorem witness_LeaseArbiter :
    reqOf.count ≤ 640 ∧ reqOf.count ≤ idxCount (freeAlong 2 {} reqOf.plus reqOf.lo reqOf.hops)
    ∧ (let t : LineTab := { built := true, holdings := [heldAll] }
       let u := freeAlong 2 t reqOf.plus reqOf.lo reqOf.hops
       idxCount u < reqOf.count ∧ idxCount u + (revocable 2 (fun _ => 0) t reqOf (isAged reqOf 0) u).length < reqOf.min)
    ∧ smGet (nd (mach .ctrl [] id fun d => { d with leases := [(3, some (lentry 0 0 0))] }) 0).leases none 3 = some (lentry 0 0 0) := by
  decide +kernel
/-- A legal shutter slot of 1,250 steps without destinations. -/
def slot0 : Word := 0x04E2000000000000
theorem witness_ShutterTable :
    (let s := mach .ctrl [(1, 15), (2, slot0)] id (leasing true)
     CanIssueE s fe3 [.ctrl] [fe3.a, fe3.b] 1 ∧ leaseEn (leaseWord s) = true ∧ leaseShut (leaseWord s) = true
     ∧ (reg s fe3.a).toNat < 16 ∧ slotDur (reg s fe3.b) = 1250 ∧ fld (reg s fe3.b) 47 25 = 0
     ∧ (∀ d, d < 6 → slotDist (reg s fe3.b) d = 0) ∧ shutterMine s = true)
    ∧ (let s := mach .ctrl [(1, 0), (2, 0xFFFF)] id fun d => { leasing true d with shutter := { shadow := [(0, slot0)] } }
       CanIssueE s fe3 [.ctrl] [fe3.a, fe3.b] 1 ∧ (reg s fe3.b).toNat < 2 ^ 16 ∧ slotDur (smGet (cn s).shutter.shadow 0 0) ≠ 0
       ∧ (cn s).shutter.started = none)
    ∧ shutterMine (mach .ctrl [] id fun d => { leasing true d with shutter := { owner := some 1 } }) = false
    ∧ leaseShut (leaseWord (mach .ctrl [] id (leasing false))) = false
    ∧ (let x := (nd (mach .ctrl [] id fun d => { d with shutter := { runs := [(0, 2)], shadow := [(0, slot0)] } }) 0).shutter
       takeFirst (fun r : Nat × Nat => decide (r.1 ≤ 0)) x.runs = some ((0, 2), [])
       ∧ runEnd { x with active := x.shadow, started := some (0, 2) } = some 2500)
    ∧ (let x := (nd (mach .ctrl [] id fun d => { d with shutter := { started := some (0, 0), active := [(0, slot0)] } }) 0).shutter
       x.started ≠ none ∧ x.runs = [] ∧ runEnd x = none)
    ∧ (let x := (nd (mach .ctrl [] id fun d => { d with shutter := { started := some (0, 1) } }) 0).shutter
       x.runs = [] ∧ runEnd x = some 0) :=
  ⟨⟨canE_of (by decide +kernel), by decide +kernel⟩, ⟨canE_of (by decide +kernel), by decide +kernel⟩, by decide +kernel⟩
/-- A communicator of two ranks in two groups, one on each node. -/
def comm2 : Comm := ⟨0, 2, 2, [(0, 0), (1, 0)], [0, 1], 0x1234⟩
/-- An entry of rank 0 for a collective of one chunk, whose peer is entry 5 of node 1. -/
def tile2 (st : Nat) (runs : List ChunkRun) : Tile :=
  { img := BitVec.ofNat 512 ((2 ^ 84 - 1) * 2 ^ 428 + 5 * 2 ^ 416 + 1 * 2 ^ 245), ident := 0x1234, state := st, runs := runs }
/-- A machine with that communicator in slot 0 and the entry at 3. -/
def colls (t : Tile) (rs : List (Nat × Word)) (l : Memory) : State :=
  stored l rs id fun d => { d with comms := [(0, some comm2)], tiles := [(3, t)] }
/-- A chunk in flight whose sweep is due, done or not. -/
def run0 (swept : Bool) (out : List Nat) : ChunkRun := ⟨0, [], [], 1, some 0, 0, 0, swept, true, false, false, out, [], []⟩
/-- The chunk that the entry expects from rank 1. -/
def chunk1 : Chunk := ⟨1, 0, 3, 5, false, 0x1234, 0, 0, 1, 0, 0, 0⟩
theorem witness_CollectiveInstructions_def :
    (let s := stored [(0, 1), (2, 1)] [(1, spadVa 0), (2, 63)] id id
     CanIssueE s fe3 [.ctrl] [fe3.a, fe3.b] 1 ∧ (reg s fe3.b).toNat < 64 ∧ (reg s fe3.a).toNat % 64 = 0
     ∧ (match readDesc (reg s fe3.a) s with
        | .go bs t => (parseComm t (tenantOf (cc t)) bs).isSome && (commOf (cn t) 63).isNone
        | _ => false) = true)
    ∧ (match readDesc (spadVa 0) (stored [(0, 1), (2, 2)] [] id id) with
        | .go bs t => (parseComm t (tenantOf (cc t)) bs).isNone
        | _ => false) = true
    ∧ (reg (work .ctrl [(1, 32)]) fe3.a).toNat % 64 ≠ 0 ∧ 64 ≤ (reg (work .ctrl [(2, 64)]) fe3.b).toNat :=
  ⟨⟨canE_of (by decide +kernel), by decide +kernel⟩, by decide +kernel⟩
theorem witness_CollectiveInstructions_set :
    (let s := colls (tile2 0 []) [(1, 3), (2, spadVa 0)] [(30, 0x20), (53, 0x50), (54, 0xF0), (55, 0xFF), (56, 0xFF), (57, 0xFF),
        (58, 0xFF), (59, 0xFF), (60, 0xFF), (61, 0xFF), (62, 0xFF), (63, 0xFF)]
     CanIssueE s fe3 [.ctrl] [fe3.a, fe3.b] 0 ∧ tileOperand s (reg s fe3.a) = .inr 3
     ∧ (match readWhole (reg s fe3.b) 64 s with
        | .go v t => let x : BitVec 512 := BitVec.ofNat 512 v
                     tileLegal t x && decide ((tileOf (cn t) 3).state ≠ 2) && fld x 351 288 % 128 == 0 && fld x 415 352 % 128 == 0
        | _ => false) = true)
    ∧ tileLegal (work .ctrl []) 0 = false ∧ tileOperand (work .ctrl []) 4096 = .inl 0x01 :=
  ⟨⟨canE_of (by decide +kernel), by decide +kernel⟩, by decide +kernel⟩
theorem witness_CollectiveInstructions_run :
    (let s := colls (tile2 1 []) [(1, 3)] []
     CanIssueE s fe3 [.ctrl] [fe3.a] 0 ∧ CanIssueE s fe3 [.ctrl] [fe3.a] 1 ∧ tileOperand s (reg s fe3.a) = .inr 3
     ∧ readyLegal s 3 = true ∧ (cc s).collq.length < 64 ∧ blksDone s 0 0 .ctrl = true ∧ acked s 0 0 .ctrl 3 = true
     ∧ (∀ q ∈ (cc s).collq, q.joinId = none))
    ∧ readyLegal (colls (tile2 2 []) [] []) 3 = false ∧ (tileOf (cn (colls (tile2 2 []) [] [])) 3).state = 2 :=
  ⟨⟨canE_of (by decide +kernel), canE_of (by decide +kernel), by decide +kernel⟩, by decide +kernel⟩
theorem witness_CollectiveEngine :
    collStartDue (nd (colls (tile2 2 []) [] []) 0) 0 3 = true ∧ (nd (colls (tile2 2 []) [] []) 0).lost = []
    ∧ reserveDue (nd (colls (tile2 3 []) [] []) 0) 3 = true
    ∧ (let t := tileOf (nd (colls (tile2 3 [run0 false []]) [] []) 0) 3
       t.state = 3 ∧ t.ident = 0x1234 ∧ tTile t = 0 ∧ runOf t 0 = some (run0 false []) ∧ runOf t 1 = none
       ∧ chunkEvent (nd (colls t [] []) 0) t chunk1 = some 0 ∧ chunkEvent (nd (colls t [] []) 0) t { chunk1 with srank := 2 } = none)
    ∧ (sweepDue (colls (tile2 3 [run0 false []]) [] []) 0 3 0 = true)
    ∧ (sweepDue (colls (tile2 3 [run0 true [0]]) [] []) 0 3 0 = true)
    ∧ collDoneDue (nd (colls { tile2 3 [] with cdone := 1, nextK := 1 } [] []) 0) 3 = true
    ∧ tileLive (tile2 3 []) = true ∧ tileLive (tile2 4 []) = false
    ∧ (let s := mach .ctrl [] id fun d => { d with comms := [(0, some comm2)], tiles := [(3, tile2 3 [])], lost := [1] }
       ∃ m ∈ partners (nd s 0) (tileOf (nd s 0) 3), isLost s 0 m = true) := by decide +kernel
/-- A machine whose task has the changes `f`. -/
def tasked (rs : List (Nat × Word)) (f : Task → Task) (g : Node → Node) : State :=
  mach .ctrl rs (fun k => { k with ptRoot := 0x1000, task := k.task.map f }) fun d => g { paged 0 d with troot := [(0, 0x1000)] }
/-- A group of two children. -/
def group2 (spawned : Nat) (done : Bool) : Machine.Group :=
  ⟨0, 0, 0, 0, 0, 2, spawned, 0, 0, [], [], 0, [], [], none, false, done⟩
/-- The same with its record in the node, and open at the task. -/
def grouped (spawned : Nat) (done : Bool) : State :=
  tasked [] (fun t => { t with group := some 3 }) fun d => { d with groups := [(3, some (group2 spawned done))] }
theorem witness_TaskInstructions_spawn :
    (let s := tasked [(1, 0x8000)] id fun d => { d with hbm := d.hbm ++ [(0x806E, 1)], dqs := [(0, { dqctl := 0x40 })] }
     CanIssueE s fe3 [.ctrl] [fe3.a] 1 ∧ isGo (spawnPre (reg s fe3.a) s) = true)
    ∧ (let s := tasked [(1, 4)] id id
       isFault (spawnPre (reg s fe3.a) s) = true ∧ tselfWord s (reg s fe3.a) = none)
    ∧ (tselfWord (tasked [(1, 3)] id id) (reg (tasked [(1, 3)] id id) fe3.a)).isSome = true :=
  ⟨⟨canE_of (by decide +kernel), by decide +kernel⟩, by decide +kernel⟩
theorem witness_TaskInstructions_group :
    (CanIssueE (grouped 2 true) fe3 [.ctrl] [] 1 ∧ CanIssueE (grouped 2 true) fe3 [.ctrl] [] 0
      ∧ openGroup (grouped 2 true) = some (3, group2 2 true))
    ∧ openGroup (grouped 2 false) = some (3, group2 2 false) ∧ (group2 2 true).n ≤ (group2 2 true).spawned
    ∧ openGroup (grouped 1 false) = some (3, group2 1 false) ∧ (group2 1 false).spawned < (group2 1 false).n
    ∧ openGroup (work .ctrl []) = none ∧ ¬ ((taskOf (cc (work .ctrl []))).parent ≠ 0 ∧ (taskOf (cc (work .ctrl []))).views ≠ 0)
    ∧ (let s := tasked [] (fun t => { t with parent := 0x100, views := 0x200 }) id
       ¬ ((taskOf (cc s)).parent = 0 ∨ (taskOf (cc s)).views = 0)) :=
  ⟨⟨canE_of (by decide +kernel), canE_of (by decide +kernel), by decide +kernel⟩, by decide +kernel⟩
theorem witness_TaskInstructions_rest :
    (let s := tasked [(1, 0x8000)] id id
     CanIssueE s fe3 [.ctrl] [fe3.a] 0 ∧ (reg s fe3.a).toNat % 128 = 0 ∧ (taskOf (cc s)).succ.length < 16
     ∧ isInr (unitAt s 0 (tenantOf (cc s)) (reg s fe3.a) 128 .w).1 = true)
    ∧ (let s := tasked [(1, 0xFFFFFFFF), (2, 3)] (fun t => { t with succ := List.replicate 16 0 }) id
       CanIssueE s fe3 [.ctrl] [fe3.a, fe3.b] 0 ∧ (reg s fe3.a).toNat < 2 ^ 32 ∧ (reg s fe3.b).toNat < 4
       ∧ 16 ≤ (taskOf (cc s)).succ.length ∧ (cn s).cancels.length < 64)
    ∧ (let s := mach .ctrl [] id fun d => { d with cancels := (List.range 64).map fun i => (i, 7) }
       ¬ (cancelled (cn s) 0 0 = true ∨ (cn s).cancels.length < 64))
    ∧ (let s := { (tasked [(1, 5), (2, 1)] (fun t => { t with waitGang := some (3, 0) }) fun d =>
         { d with gangs := [(3, some ⟨0, 5, 1, 0, 0, 0, [(0, 0, 0)], true, 0, [], []⟩)] }) with now := 1 }
       CanIssueE s fe3 [.ctrl] [fe3.a, fe3.b] 1 ∧ isGo (gangPre (reg s fe3.a) (reg s fe3.b) s) = true)
    ∧ (let s := tasked [(1, 5), (2, 2)] id id
       isHold (gangPre (reg s fe3.a) (reg s fe3.b) s) = true)
    ∧ isFault (gangPre 5 0 (tasked [] id id)) = true :=
  ⟨⟨canE_of (by decide +kernel), by decide +kernel⟩, ⟨canE_of (by decide +kernel), by decide +kernel⟩, by decide +kernel,
   ⟨canE_of (by decide +kernel), by decide +kernel⟩, by decide +kernel, by decide +kernel⟩
/-- A machine in the handler, with tenant 0's page table and registers. -/
def handling (rs : List (Nat × Word)) (f : Core → Core) (g : Node → Node) : State :=
  let q : Sequencer := { status := .running, pc := 16, line := .ready 1 0, regs := rs }
  mach .ctrl [] (fun k => f { k with mode := .handler, ptRoot := 0x1000 }) fun d =>
    let x : Node := paged 0 d
    g { x with troot := [(0, 0x1000)], cores := d.cores.map fun e => (e.1, { e.2 with hseq := q }) }
theorem witness_ContextInstructions :
    (let s := handling [(1, 2), (2, 255)] (fun k => { k with saved := some 0 }) id
     CanIssueWith s fe3.tk [.ctrl] [fe3.a, fe3.b] 0 fe3.wait [] [] ∧ inHandler (cc s) = true ∧ privileged (cc s) = true
     ∧ (reg s fe3.a).toNat = 2 ∧ (reg s fe3.b).toNat < 256 ∧ (cc s).saved ≠ none)
    ∧ (let s := handling [(1, 0x10000), (2, 0x54000)] id id
       CanIssueWith s fe3.tk [.ctrl] [fe3.a, fe3.b] 1 fe3.wait [] [] ∧ (reg s fe3.a).toNat % 65536 = 0 ∧ (cc s).winOut = []
       ∧ isInr (saveContext s 0 0 (reg s fe3.a) (reg s fe3.b).toNat).1 = true
       ∧ isInr (saveContext s 0 0 (reg s fe3.a) 0x53FFF).1 = false ∧ (cc s).saved = none)
    ∧ (let s := handling [(1, 0x10000)] (fun k => { k with saved := some 0 }) id
       CanIssueWith s fe3.tk [.ctrl] [fe3.a] 0 fe3.wait [] [] ∧ isFault (ctxloadPre (reg s fe3.a) s) = true)
    ∧ inHandler (cc (work .ctrl [])) = false ∧ mayIssue (work .ctrl []) = true :=
  ⟨⟨can_of (by decide +kernel), by decide +kernel⟩, ⟨can_of (by decide +kernel), by decide +kernel⟩,
   ⟨can_of (by decide +kernel), by decide +kernel⟩, by decide +kernel⟩
theorem witness_SystemCalls_tlb :
    (let s := work .ctrl [(2, 0x23F)]
     CanIssueWith s fe3.tk [.ctrl] [fe3.a, fe3.b] 0 fe3.wait [] [] ∧ privileged (cc s) = true ∧ tlbinvOk (reg s fe3.b) = true
     ∧ bit (reg s fe3.b) 12 = false ∧ pendingUntil s 0 = 0)
    ∧ (let s := work .ctrl [(2, 0x1000)]
       let others := (domainNodes s 0).filter fun m => m != 0
       tlbinvOk (reg s fe3.b) = true ∧ bit (reg s fe3.b) 12 = true ∧ others.any (isLost s 0) = false ∧ others ≠ [])
    ∧ tlbinvOk 0x300 = false ∧ privileged (cc (user .ctrl [])) = false ∧ mayIssue (user .ctrl []) = true :=
  ⟨⟨can_of (by decide +kernel), by decide +kernel⟩, by decide +kernel⟩
theorem witness_SystemCalls_rest :
    (let s := work .ctrl [(1, 0xFFFF), (2, 1)]
     CanIssueWith s fe3.tk [.ctrl] [fe3.a, fe3.b] 0 fe3.wait [] [] ∧ (reg s fe3.a).toNat < 2 ^ 16
     ∧ ((cn s).attHead - (cn s).attTail).toNat < 64)
    ∧ (let s := work .ctrl [(1, 0x43F), (2, 640)]
       CanIssueWith s fe3.tk [.ctrl] [fe3.a, fe3.b] 1 fe3.wait [] [] ∧ privileged (cc s) = true
       ∧ reg s fe3.a &&& ~~~(0x73F : Word) = 0 ∧ (tnWord (fld (reg s fe3.a) 10 8) (reg s fe3.b)).isSome = true
       ∧ tnWord 4 641 = none)
    ∧ (let s := work .ctrl [(1, 511), (2, 1)]
       1 ≤ (reg s fe3.b).toNat ∧ (reg s fe3.a).toNat + (reg s fe3.b).toNat ≤ 512 ∧ 512 < (reg s fe3.a).toNat + 2)
    ∧ (CanIssueWith (work .ctrl [(1, 63)]) fe3.tk [.ctrl] [fe3.a] 1 fe3.wait [] [] ∧ (reg (work .ctrl [(1, 63)]) fe3.a).toNat < 64)
    ∧ ¬ ((cn (mach .ctrl [] id fun d => { d with attHead := 64 })).attHead
        - (cn (mach .ctrl [] id fun d => { d with attHead := 64 })).attTail).toNat < 64 :=
  ⟨⟨can_of (by decide +kernel), by decide +kernel⟩, ⟨can_of (by decide +kernel), by decide +kernel⟩, by decide +kernel,
   ⟨can_of (by decide +kernel), by decide +kernel⟩, by decide +kernel⟩

/-! Witnesses: dispatch, the host, completions, the router, prism and links, steps. -/

/-- A deque entry at level 3. -/
def dentry : DEntry := ⟨0x8000, 0, 0, 0, 3, 0, false, none, none, none, [], 0⟩
/-- A node that is open, with the entry in deque 0 of quad `q`. -/
def dispatching (q : Nat) (d : Node) : Node :=
  { d with phase := 4, dqs := [(0, { qmask := 3, dqctl := 0x40 })], quads := [(q, { deques := [(deqKey 0 3, [dentry])] })] }
/-- A machine without a running task and with that node. -/
def free (q : Nat) : State := mach .ctrl [] (fun _ => {}) fun d => dispatching q { d with cores := [] }
theorem witness_TaskPlacement :
    ((nd (free 0) 0).phase = 4 ∧ dqEn (dqOf (nd (free 0) 0) 0) = true ∧ dqEn (dqOf (nd (free 0) 0) 15) = false
      ∧ (0x8000 : Word).toNat % 128 = 0 ∧ (0x8040 : Word).toNat % 128 ≠ 0)
    ∧ (placeOpen (free 0) 0 = true ∧ gangDue (nd (free 0) 0) 0 = none ∧ placeDue (nd (free 0) 0) 0 = true
      ∧ pick (nd (free 0) 0) 0 = some (0, 3, 0) ∧ (deqOf (qd (free 0) 0 (quadOf 0)) 0 3)[0]? = some dentry)
    ∧ (stealCore (nd (free 1) 0) 0 = some 0 ∧ stealPlan (nd (free 1) 0) 0 = some (0, 1, 3, 0)
      ∧ (deqOf (qd (free 1) 0 1) 0 3)[0]? = some dentry)
    ∧ tcbEntry 0xFFFFFFFF 0 = 0xFFFFFFFF ∧ tcbEntry 0xFFFFFFFF 1 ≠ 0xFFFFFFFF
    ∧ (let s := mach .ctrl [] id fun d => dispatching 0 d
       nextEntry (nd s 0) 0 = some dentry ∧ (co s 0 0).mode = .run ∧ (co s 0 0).pre = none) := by decide +kernel
theorem witness_LeavingACore :
    (let s := mach .ctrl [] (fun k => { k with mode := .ending 0 5 }) id
     retireTaskDue s 0 0 = true ∧ (co s 0 0).task = some placeTask ∧ (co (endRelease s 0 0 false) 0 0).detBuf = [])
    ∧ (let s := mach .ctrl [] (fun k => { k with preempt := some 2, leaving := true }) id
       preemptDue s 0 0 = true ∧ betweenEmpty (co s 0 0) = true)
    ∧ betweenEmpty (co (mach .ctrl [] (fun k => { k with preempt := some 2, fifos := [(1, { n := 1 })] }) id) 0 0) = false
    ∧ (let s := mach .ctrl [] (fun k => { k with mode := .saving, saveHeld := some (false, ⟨0x0A, 2, 8, false, true, 0, 0⟩) })
         fun d => { paged 0 d with saveArea := 0x10000, saveLen := 0x54000, troot := [(0, 0x1000)] }
       saveDue s 0 0 = true ∧ (co (endRelease s 0 0 true) 0 0).detBuf = [] ∧ (nd (endRelease s 0 0 true) 0).saveArea ≠ 0
       ∧ isInr (devRead (endRelease s 0 0 true) 0 (some 0) 0x10010 8).1 = true
       ∧ isInr (saveContext (endRelease s 0 0 true) 0 0 0x10000 0x54000).1 = true)
    ∧ (bucketOf (nd (mach .ctrl [] id fun d => { d with bucket := [(0, { cyc := some 0 })] }) 0) 0).cyc = some 0
    ∧ (let s := mach .ctrl [] (fun k => { k with mode := .hostHeld false ⟨1, 0, 0, false, false, 0, 0⟩, saved := some 0 }) id
       (co s 0 0).mode = .hostHeld false ⟨1, 0, 0, false, false, 0, 0⟩ ∧ (co s 0 0).saved ≠ none)
    ∧ (∀ h k, (co (work .ctrl []) 0 0).mode ≠ .hostHeld h k) := by
  refine ⟨by decide +kernel, by decide +kernel, by decide +kernel, by decide +kernel, by decide +kernel, by decide +kernel, ?_⟩
  intro h k e
  have r : (co (work .ctrl []) 0 0).mode = .run := by decide +kernel
  rw [r] at e
  exact CoreMode.noConfusion e
/-- A group of two children with one view of four bytes, complete as `l` says. -/
def merging (l : List (Nat × Nat)) : Machine.Group := ⟨0, 0, 0, 0, 0, 2, 2, 0x8000, 0x9000, [(0xA000, 4, 0, 1, 0)], l, 0, [], [], none, false, false⟩
theorem witness_MergesAndAnswers :
    (∀ l ∈ [[(0, 0), (1, 1)], [(0, 0), (1, 1), (0, 1)]], let s := mach .ctrl [] id fun d => { d with groups := [(3, some (merging l))] }
      mergeDue s 0 3 = true ∧ groupOfRec (nd s 0) 3 = some (merging l))
    ∧ dueStep [(0, 0), (1, 1)] 13 0 1 = some (0, 1, 1) ∧ dueStep [(0, 0), (1, 1), (0, 1)] 13 0 1 = none
    ∧ (∀ o ∈ [([] : List Nat), [1]], let s := mach .ctrl [] (fun k => { k with tlbWait := some ⟨[1], 0, 0, [], false⟩, tlbOwed := o }) id
       (co s 0 0).tlbWait = some ⟨[1], 0, 0, [], false⟩ ∧ (co s 0 0).tlbOwed = o)
    ∧ (let s := work .ctrl []
       (nd s 0).tlbAsks = [] ∧ tlbQuiet (tlbRemove s 0 0 1 0) 0 (pendingUntil s 0) (detsUnder (nd s 0) 0 1 0) = true)
    ∧ (let s := { work .ctrl [] with timers := [(5, .atomicPerform 0 0 .ctrl)] }
       (nd s 0).tlbAsks = [] ∧ tlbQuiet (tlbRemove s 0 0 1 0) 0 (pendingUntil s 0) (detsUnder (nd s 0) 0 1 0) = false)
    ∧ (∀ st ∈ [1, 3], ∀ w ∈ [true, false],
        let x := slcOf (nd (mach .ctrl [] id fun d => { d with slices := [(5, { state := st, wake := w })] }) 0) 5
        x.state = st ∧ slcWakes x = w) := by
  decide +kernel
/-- A machine whose node is in a phase, with an image of `n` bytes placed. The claims on an image that the ROM accepts have no
witness here: its signature and its key's digest are the vendor's (log 9). -/
def phased (p : Nat) (n : Word) (fw : List Byte) : State :=
  mach .ctrl [] id fun d => { d with phase := p, fwLen := n, fw := fw, fwAddr := 0x1000 }
theorem witness_StartUp :
    (let d := nd (phased 0 4096 []) 0
     d.phase = 0 ∧ 4096 ≤ d.fwLen.toNat ∧ d.fwLen.toNat ≤ 2 ^ 24 ∧ d.fwAddr.toNat % 4096 = 0)
    ∧ (nd (phased 15 4095 []) 0).phase = 15 ∧ ¬ 4096 ≤ (nd (phased 15 4095 []) 0).fwLen.toNat
    ∧ (nd (phased 1 0 []) 0).phase = 1 ∧ fwFault (List.replicate 1032 0 ++ [1]) = some 0x02
    ∧ (nd (phased 2 0 []) 0).phase = 2
    ∧ ((nd (phased 3 0 []) 0).phase = 3 ∧ startOk (nd (phased 3 0 []) 0) = true)
    ∧ startOk { nd (phased 3 0 []) 0 with dways := 0 } = false
    ∧ (nd (mach .ctrl [] id fun d => { d with phase := 3, attBusy := true }) 0).attBusy = true
    ∧ (nd (phased 3 0 []) 0).attBusy = false := by decide +kernel
theorem witness_HostActions :
    (nd (phased 3 0 []) 0).phase = 3 ∧ (nd (phased 4 0 []) 0).phase = 4 ∧ (tnWord 0 (0x20000 : Word)).isSome = true
    ∧ tnWord 5 0 = none ∧ 2 ^ 39 - 4 + ([1, 2, 3, 4] : List Byte).length = 2 ^ 39
    ∧ (124 % 128 + ([1, 2, 3, 4] : List Byte).length = 128) ∧ Memory.wf (nd (mach .ctrl [] id (paged 0)) 0).hbm = true
    ∧ (nd (work .ctrl []) 0).shutter.started = none := by decide +kernel
theorem witness_FrameBoundary :
    bit (nd (work .ctrl []) 0).thermTab 0 = false
    ∧ (85 < 95 ∧ 95 < 105) ∧ 7 ≤ { dentry with wait := 7, level := 2 }.wait ∧ { dentry with wait := 6 }.wait < 7 := by decide +kernel
/-- A result that is due now. -/
def result (d : Dest) (en : Mask) : Result := ⟨0, d, 5, en, none, none, 0, false, .exec⟩
theorem witness_Landings :
    dueResults (mach .ctrl [] (fun k => { k with inflight := [result (.sreg .exec 3) 0] }) id) 0 0 false = [result (.sreg .exec 3) 0]
    ∧ dueResults (mach .ctrl [] (fun k => { k with inflight := [result (.row 3) 1] }) id) 0 0 true = [result (.row 3) 1]
    ∧ dueResults (mach .ctrl [] (fun k => { k with inflight := [result (.mask 3) 1] }) id) 0 0 true = [result (.mask 3) 1]
    ∧ dueLanding (mach .ctrl [] (fun k => { k with landing := [result (.sreg .exec 3) 0] }) id) 0 0 = [result (.sreg .exec 3) 0]
    ∧ (co (work .ctrl []) 0 0).mode = .run ∧ (co (handler [] id) 0 0).mode ≠ .run := by decide +kernel
/-- An LDQ that waits to fill the head of queue register 4. -/
def queuePend : PendAcc := { pend (some 9) none 0 with reg := none, queue := some (4, 0) }
/-- A block load of one line. -/
def blkOne (due : Nat) : BlkOp := ⟨7, .load, false, [], [], 0, 128, [], none, due⟩
theorem witness_LoadCompletions :
    (∀ c ∈ [0, 7], (sq (holding .load (.load (pend (some 9) none c)) id id) 0 0 .load).hold = .load (pend (some 9) none c)
      ∧ (co (holding .load (.load (pend (some 9) none c)) id id) 0 0).mode = .run)
    ∧ (let s := mach .ctrl [] (fun k => { k with loads := [queuePend] }) id
       takeFirst (fun x => x.tag == 7) (co s 0 0).loads = some (queuePend, []) ∧ (co s 0 0).mode = .run)
    ∧ takeFirst (fun b : BlkOp => b.tag == 7) (co (work .ctrl []) 0 0).blks = none
    ∧ (∀ due ∈ [0, 1], let s := mach .ctrl [] (fun k => { k with blks := [blkOne due] }) id
       takeFirst (fun b : BlkOp => b.tag == 7) (co s 0 0).blks = some (blkOne due, []) ∧ s.now = 0 ∧ (co s 0 0).mode = .run) := by decide +kernel
theorem witness_AtomicCompletions :
    (sq (holding .ctrl (.atomic (pend none (some 0) 0)) id id) 0 0 .ctrl).hold = .atomic (pend none (some 0) 0)
    ∧ (∀ c ∈ [0, 7], (sq (holding .ctrl (.atomic (pend (some 9) (some 0) c)) id id) 0 0 .ctrl).hold = .atomic (pend (some 9) (some 0) c))
    ∧ spadPoisoned (co (work .ctrl []) 0 0) 0 = false := by decide +kernel
/-- A window request of node 1 to node 0. -/
def request (op : WinOp) (off : Nat) : WinReq := ⟨1, 0, .ctrl, 7, 0, false, 0, off, 4, op, 9, false, 0⟩
theorem witness_WindowAccesses :
    (let s := mach .ctrl [] id fun d => { paged 0 d with troot := [(0, 0x1000)] }
     (∀ need ∈ [Need.r, .w, .rw], okTo (fun t => match t with | .mem sp _ k _ => decide (k ≠ .determ) && decide (sp ≠ .host) | _ => false)
       (chkLocal s 0 none (smGet (nd s 0).troot 0 0) 0 0x8000 4 need true) = true)
     ∧ (∀ need ∈ [Need.r, .w], chkFault (chkLocal s 0 none (smGet (nd s 0).troot 0 0) 0 0x40000000 4 need true) = true)
     ∧ isPoison (nd s 0) .hbm 0x8000 = false)
    ∧ takeFirst (fun w : WinOut => w.tag == 1) (co unacked 0 0).winOut = some (⟨1, .ctrl, 1, 0, 0, false⟩, [])
    ∧ (sq (holding .load (.load (pend none none 0)) id id) 0 0 .load).hold = .load (pend none none 0)
    ∧ (pend none none 0).tag = 7
    ∧ (allSeqs.find? fun q => match (sq (holding .load (.load (pend none none 0)) id id) 0 0 q).hold with
        | .load p => p.tag == 7 && p.data.isNone
        | .atomic p => p.tag == 7 && p.data.isNone
        | _ => false) = some .load
    ∧ (allSeqs.find? fun q => match (sq unacked 0 0 q).hold with
        | .load p => p.tag == 1 && p.data.isNone
        | .atomic p => p.tag == 1 && p.data.isNone
        | _ => false) = none := by decide +kernel
theorem witness_RecordedFaults :
    (let s := mach .ctrl [] (fun k => { k with deferred := [⟨7, 0, 4, false, false, 0, 0⟩, ⟨5, 0, 5, false, false, 0, 0⟩] }) id
     (co s 0 0).mode = .run ∧ firstCause (co s 0 0).deferred = some ⟨5, 0, 5, false, false, 0, 0⟩)
    ∧ (co (handler [] id) 0 0).mode = .handler ∧ (co (work .ctrl []) 0 7).mode = .free := by decide +kernel
/-- A machine whose CTRL needs line 1 of an image at VA 0. -/
def wanting (f : Core → Core) : State :=
  mach .ctrl [] (fun k => f { k with seqs := k.seqs.map fun x => (x.1, { x.2 with line := .none }) }) (paged 0)
theorem witness_LineFetch :
    (let s := wanting fun k => { k with ptRoot := 0x1000 }
     lineWanted s 0 0 .ctrl = some 1 ∧ isInr (readLine s 0 0 ((imageOf (co s 0 0)).1 + BitVec.ofNat 64 (64 * 1))).1 = true)
    ∧ isInr (readLine (wanting id) 0 0 ((imageOf (co (wanting id) 0 0)).1 + BitVec.ofNat 64 (64 * 1))).1 = false
    ∧ (let s := wanting id
       (co s 0 0).mode = .run ∧ (co s 0 0).resumeAt ≤ s.now ∧ (sq s 0 0 .ctrl).status = .running ∧ (sq s 0 0 .ctrl).line = .none)
    ∧ lineWanted (work .ctrl []) 0 0 .ctrl = none := by decide +kernel
/-- A hop in context 0 with `n` stack entries, all 1 but the top, which is 0, direction +x, and one hop and one clone left. -/
def hopWith (n : Nat) (stage dir hops clones : Nat) (cfg : List Word) : Hop :=
  ⟨BitVec.ofNat 2304 (2 ^ 85 + n * 2 ^ 97 + dir * 2 ^ 101 + clones * 2 ^ 116 + hops * 2 ^ 128), 0, 0, 0, 0, 6, stage, 0, 0, 0, cfg⟩
/-- The configuration of a tenant with every mask bit, four counters from 16 on, and eight words of the deep store. -/
def fullCfg : List Word := [0x8002000FF, 0x100000000, 0, 0]
/-- A machine whose context 0 holds a hop. -/
def hopping (h : Hop) (g : Node → Node) : State := mach .ctrl [] id fun d => g { d with hops := [(0, some h)] }
theorem hopping_of {s : State} {h : Hop} {pops pushes : Nat} {need : Option Nat}
    (w : (decide (curHop s = some h) && (match need with | some b => cfgMask h.cfg b | none => true)
      && decide (pops ≤ pSdep h.img) && decide (pSdep h.img - pops + pushes ≤ 8)) = true) : Hopping s h pops pushes need := by
  simp only [Bool.and_eq_true, decide_eq_true_eq] at w
  refine ⟨w.1.1.1, ?_, w.1.2, w.2⟩
  intro b e
  have x := w.1.1.2
  rw [e] at x
  exact x
theorem witness_RouterEvents :
    cwLen (prismCfg (nd (mach .ctrl [] id (windowed 4)) 0) 0) = 4
    ∧ (let s := hopping (hopWith 0 1 6 1 1 [0x8002000FF, 0, 4, 0]) id
       hopOf (nd s 0) 0 = some (hopWith 0 1 6 1 1 [0x8002000FF, 0, 4, 0]))
    ∧ (let h := hopWith 0 2 6 1 1 fullCfg
       let s := hopping h id
       hopOf (nd s 0) 0 = some h ∧ advanceDue s 0 h = true ∧ (trtOf (nd s 0) (pTenant h.img)).waiting = []
       ∧ smWf 0 (nd s 0).counters = true ∧ smWf none (nd s 0).hops = true)
    ∧ deliveryBar fullCfg = none ∧ deliveryBar [0, 0, 0, 0] ≠ none
    ∧ (cwinOf (nd (mach .ctrl [] id fun d => { d with cwin := [(1, { last := 5 })] }) 0) 1).last ≠ 0
    ∧ (cwinOf (nd (work .ctrl []) 0) 1).last < 1 ∧ gsc (work .ctrl []) 0 - 1 ≤ 1250 := by decide +kernel
theorem witness_ProgramHops :
    (∀ h ∈ [hopWith 0 0 6 1 1 fullCfg, hopWith 0 1 6 1 1 fullCfg, { hopWith 0 0 6 1 1 fullCfg with pc := 1 },
        { hopWith 0 0 6 1 1 fullCfg with steps := 32 }],
      hopOf (nd (hopping h id) 0) 0 = some h ∧ h.cfg ≠ [])
    ∧ hopOf (nd (work .ctrl []) 0) 0 = none ∧ pNim1 (hopWith 0 0 6 1 1 fullCfg).img = 0
    ∧ (decodePrism (pInstr (hopWith 0 0 6 1 1 fullCfg).img 0)).isSome = true := by decide +kernel
theorem witness_PacketStack : pSdep (hopWith 7 0 6 1 1 []).img < 8 ∧ pSdep (hopWith 8 0 6 1 1 []).img = 8 := by decide +kernel
theorem witness_PrismComputes :
    (∀ p ∈ [(8, 2, 1), (7, 0, 1), (1, 1, 0), (7, 1, 2), (2, 2, 2), (7, 2, 3), (0, 0, 0)],
      Hopping (hopping (hopWith p.1 0 6 1 1 fullCfg) id) (hopWith p.1 0 6 1 1 fullCfg) p.2.1 p.2.2 none)
    ∧ (0 : BitVec 8).toNat < 4 * pPlen (BitVec.ofNat 2304 (2 ^ 94)) := by
  refine ⟨?_, by decide +kernel⟩
  simp only [List.mem_cons, List.not_mem_nil, or_false]
  rintro p (rfl | rfl | rfl | rfl | rfl | rfl | rfl) <;> exact hopping_of (by decide +kernel)
theorem witness_PrismMemory :
    (∀ p ∈ [(1, 0), (1, 2), (2, 1), (2, 3), (3, 3)],
      Hopping (hopping (hopWith p.1 0 6 1 1 fullCfg) id) (hopWith p.1 0 6 1 1 fullCfg) p.1 1 (some p.2))
    ∧ (top (hopWith 3 0 6 1 1 fullCfg) 2).toNat < cwLen fullCfg
    ∧ (top (hopWith 3 0 6 1 1 fullCfg) 2).toNat < rwLen (nd (work .ctrl []) 0) fullCfg
    ∧ isPoison (nd (work .ctrl []) 0) .deep (rwBase fullCfg) = false := by
  refine ⟨?_, by decide +kernel⟩
  simp only [List.mem_cons, List.not_mem_nil, or_false]
  rintro p (rfl | rfl | rfl | rfl | rfl) <;> exact hopping_of (by decide +kernel)
theorem witness_PrismMoves :
    Hopping (hopping (hopWith 1 0 0 1 1 fullCfg) id) (hopWith 1 0 0 1 1 fullCfg) 0 0 none
    ∧ Hopping (hopping (hopWith 1 0 0 1 1 fullCfg) id) (hopWith 1 0 0 1 1 fullCfg) 1 0 none
    ∧ (cfgMask fullCfg 4 = true ∧ cfgMask fullCfg 6 = true ∧ cfgMask fullCfg 7 = true ∧ deliveryBar fullCfg = none)
    ∧ (let p := (hopWith 1 0 0 1 1 fullCfg).img
       pDir p < 6 ∧ 0 < pHopb p ∧ 0 < pClb p ∧ hasLink (work .ctrl []) (pDir p) = true)
    ∧ pDir (hopWith 1 0 6 1 1 fullCfg).img = 6 :=
  ⟨hopping_of (by decide +kernel), hopping_of (by decide +kernel), by decide +kernel⟩
theorem witness_PrismFaults :
    (let s := hopping (hopWith 0 0 2 0 0 [0, 0, 0, 0]) id
     curHop s = some (hopWith 0 0 2 0 0 [0, 0, 0, 0]) ∧ cfgMask [0, 0, 0, 0] 0 = false ∧ hasLink s 2 = false
     ∧ pSdep (hopWith 0 0 2 0 0 [0, 0, 0, 0]).img = 0 ∧ deliveryBar [0, 0, 0, 0] = some 0x42)
    ∧ Hopping (hopping (hopWith 1 0 0 0 0 [0xFF, 0, 0, 0]) id) (hopWith 1 0 0 0 0 [0xFF, 0, 0, 0]) 1 1 (some 0)
    ∧ Hopping (hopping (hopWith 2 0 0 0 0 [0xFF, 0, 0, 0]) id) (hopWith 2 0 0 0 0 [0xFF, 0, 0, 0]) 2 1 (some 1)
    ∧ Hopping (hopping (hopWith 1 0 0 0 0 [0xFF, 0, 0, 0]) id) (hopWith 1 0 0 0 0 [0xFF, 0, 0, 0]) 1 1 (some 2)
    ∧ Hopping (hopping (hopWith 1 0 0 0 0 [0xFF, 0, 0, 0]) id) (hopWith 1 0 0 0 0 [0xFF, 0, 0, 0]) 0 0 none
    ∧ (cwLen [0xFF, 0, 0, 0] = 0 ∧ rwLen (nd (work .ctrl []) 0) [0xFF, 0, 0, 0] = 0
      ∧ pHopb (hopWith 1 0 0 0 0 [0xFF, 0, 0, 0]).img = 0 ∧ pClb (hopWith 1 0 0 0 0 [0xFF, 0, 0, 0]).img = 0
      ∧ 0 < pClb (hopWith 1 0 0 0 1 [0xFF, 0, 0, 0]).img ∧ pPlen (hopWith 1 0 0 0 1 [0xFF, 0, 0, 0]).img = 0
      ∧ pExh (BitVec.ofNat 2304 (2 ^ 83)) = true) :=
  ⟨by decide +kernel, hopping_of (by decide +kernel), hopping_of (by decide +kernel), hopping_of (by decide +kernel),
   hopping_of (by decide +kernel), by decide +kernel⟩
/-- The data of a flit of zeros, with its CRC. -/
def flit0 : List Byte := List.replicate 136 0 ++ valBytes 4 (crc32 (List.replicate 136 0))
theorem witness_Links :
    crcOk flit0 = true ∧ flitFt (flitHead flit0) ≤ 3 ∧ flitCh (flitHead flit0) ≠ 3
    ∧ smGet (linkOf (nd (work .ctrl []) 0) 0).expect 0 (flitCh (flitHead flit0)) = flitLseq (flitHead flit0)
    ∧ (let s := mach .ctrl [] id fun d => { d with links := [(0, { replay := [(1, 5, ⟨0, 3, flit0, []⟩)] })] }
       ((linkOf (nd s 0) 0).replay.find? fun e => e.1 == (2 ^ 24 + 5) / 2 ^ 24 && e.2.1 == (2 ^ 24 + 5) % 2 ^ 24)
         = some (1, 5, ⟨0, 3, flit0, []⟩))
    ∧ (nd (work .ctrl []) 0).gscOn = false
    ∧ (let s : State := { modNd (work .ctrl []) 1 fun d => { d with gscOn := true } with now := 10000 }
       dirTo s 1 0 < 6 ∧ neighbour s 1 (dirTo s 1 0) = 0 ∧ (nd s 1).gscOn = true ∧ (nd s 1).steerAt + 10000 ≤ s.now) := by
  decide +kernel
/-- A machine whose EXEC runs a line of one instruction, with its turn ready. -/
def ready (q : Seq) (w : Nat) : State := { mach q [] (fun k => placeCore k q w) id with ready := [.seq 0 0 q] }
theorem witness_StepRunsDecoded :
    (let s := ready .ctrl 0x04068510
     let z : State := { s with ready := [], cur := { node := 0, core := 0, seq := .ctrl, slot := 0, ctx := 0 } }
     seqLive z = true ∧ (cs z).hold = .none ∧ (cs z).pc.toNat / 16 = 1 ∧ (cs z).past = false
     ∧ (match (cs z).line with
        | .ready i bits => i == 1 && decide (decodeUnits (lineUnits bits ((cs z).pc.toNat % 16)) = .ok (.one (.add ⟨0, 0⟩ 3 (.reg 1) (.reg 2))) 1)
        | _ => false) = true)
    ∧ (let s := ready .exec 0x04068510
       (match (sq s 0 0 .exec).line with
        | .ready i bits => i == 1 && (match decodeGroup (lineUnits bits 0) with | .single _ 1 => true | _ => false)
        | _ => false) = true)
    ∧ (let s := ready .exec 0x0100000088004020
       (match (sq s 0 0 .exec).line with
        | .ready i bits => i == 1 && (match decodeGroup (lineUnits bits 0) with | .bundle [_] 2 => true | _ => false)
        | _ => false) = true)
    ∧ wellFormed (.boot 4095) = true ∧ wellFormed (.boot 4096) = false := by decide +kernel
theorem witness_NeverStops : ∀ i r, ({ State.reset with ready := [.ev (.boot 0)] } : State).ready = .ev i :: r → wellFormed i = true := by
  intro i r h
  have e : Turn.ev (.boot 0) = Turn.ev i := (List.cons.inj h).1
  rw [← Turn.ev.inj e]
  rfl
theorem witness_UnitRoundTrip : wellFormed (.add noTok 3 (.reg 1) (.lit 7)) = true ∧ encode (.add noTok 3 (.reg 1) (.lit 7)) ≠ [] := by
  decide +kernel
theorem witness_PrismRoundTrip : (encodePrism (.pshi 0x7FF)).isSome = true ∧ wellFormed (.pshi 0x7FF) = true := by decide +kernel


/-! Witnesses: waits, poison and late faults. -/

/-- The machine of `mapped` whose class 0 has spent its HBM budget. -/
def spent (q : Seq) (rs : List (Nat × Word)) : State :=
  mach q rs (fun k => { k with ptRoot := 0x1000 }) fun d => { paged 0 d with bucket := [(0, { hbm := some 0 })] }
/-- The machine of `mapped` with a leaf PTE of its own, and line 0x8000 poisoned where `p` says so. -/
def leafed (q : Seq) (rs : List (Nat × Word)) (pte : Byte) (p : Bool) (f : Core → Core) : State :=
  mach q rs (fun k => f { k with ptRoot := 0x1000 }) fun d =>
    setPoison { paged 0 d with hbm := [(0x1000, 0x01), (0x1001, 0x20), (0x2000, pte)], troot := [(0, 0x1000)] } .hbm 0x8000 p
/-- Whether a load finds bytes, or poison. -/
def finds (bad : Bool) : Pre Found → Bool
  | .go x _ => x.bad == bad
  | _ => false
theorem witness_waits :
    (let s := spent .load [(1, 0x8000), (2, 0x100080)]
     CanIssue s noTok [.ctrl, .load] [1] 0 ∧ isHold (loadPre s (memAddr s 1 0 8) 8) = true ∧ isHold (accessPre s 0x8000 8 8 .w true) = true
     ∧ isHold (accessPre s 0x8000 8 8 .rw true) = true ∧ isHold (loadFound s (memAddr s 1 0 8) 8) = true)
    ∧ (let s := spent .store [(1, 0x8000), (2, 0x100080)]
       CanIssue s noTok [.load, .store] (sopSrcs (.reg 1) ++ sopSrcs (.reg 2)) 0
       ∧ isHold ((blkOp noTok 3 (.reg 1) (.reg 2) (blkLine false)).pre s) = true)
    ∧ (let s := mach .ctrl [(1, 0)] (fun k => { k with ptRoot := 0x1000, task := some { placeTask with image := 0x8000, clen := 16 } })
         fun d => { paged 0 d with bucket := [(0, { hbm := some 0 })] }
       CanIssue s noTok allSeqs [1] 0 ∧ isHold (cbldFrom (reg s 1) 5 2 s) = true)
    ∧ let s := mapped .load [(1, 0x7F80)] 0 id
      isFault ((blkOp noTok 3 (.reg 1) (.reg 2) (blkLine false)).pre s) = false ∧ isFault (loadFound (work .load []) 0x8000 8) = true :=
  ⟨⟨can_of (by decide +kernel), by decide +kernel⟩, ⟨can_of (by decide +kernel), by decide +kernel⟩,
   ⟨can_of (by decide +kernel), by decide +kernel⟩, by decide +kernel⟩
theorem witness_strong :
    let s := leafed .store [(1, 0x8000)] 0x39 false fun k => { k with winOut := [⟨1, .store, 1, 0, 0, true⟩] }
    CanIssue s noTok [.ctrl, .load, .store] [2, 1] 0
    ∧ goTo (fun t => !strongReady s t && isStrong s t) (accessPre s 0x8000 8 8 .w true) = true :=
  ⟨can_of (by decide +kernel), by decide +kernel⟩
theorem witness_poisoned :
    finds true (loadFound (leafed .load [(1, 0x8000)] 0x3D true id) 0x8000 8) = true
    ∧ finds false (loadFound (leafed .load [(1, 0x8000)] 0x7D true id) 0x8000 8) = true
    ∧ goTo (fun t => isDeterm t && (atomicT (leafed .ctrl [] 0x3F true id) 0 0 none t 0 8 0 0).poison)
        (accessPre (leafed .ctrl [] 0x3F true id) 0x8000 8 8 .rw true) = true
    ∧ goTo (fun t => isDeterm t && !(atomicT (leafed .ctrl [] 0x3F false id) 0 0 none t 0 8 0 0).poison)
        (accessPre (leafed .ctrl [] 0x3F false id) 0x8000 8 8 .rw true) = true := by decide +kernel
theorem witness_QueueFence_full :
    let s := mach .ctrl [(1, 4)] (fun k => { k with mq := (List.range 4).map fun i => ment (.aclr 0 1) i false }) id
    CanIssue s noTok allSeqs (sopSrcs (.reg 1)) 0 ∧ (opv s (.reg 1)).toNat = 4 ∧ joinRoom (cc s) 4 = false :=
  ⟨can_of (by decide +kernel), by decide +kernel⟩
theorem witness_RingMoves_bad :
    ringAt (work .ctrl []) 0x2000 = .inl 0x01 ∧ (ringAt (work .ctrl []) 0x1FE0).isLeft = true := by decide +kernel
theorem witness_BarrierCounting_domain :
    let s := putBar (work .ctrl []) 0 4 0 3 ⟨5, 1, 1⟩
    barAllIn s 0 4 0 3 = true ∧ (barNodes s 0 0 3).Nodup := by decide +kernel
theorem witness_MatrixStatus_abort :
    (let s := nested {} [] [] fun k => { k with ret := some (red7 true [] [] [] []) }
     CanIssueE s fe3 [.ctrl, .exec] [] 1 ∧ (matSeqs.any fun q => q != s.cur.seq && matrixPending s q) = false ∧ (cc s).ret.isSome = true)
    ∧ let w : BitVec 512 := placeLine .exec ((encode (.mgo { fe3 with d := 0, b := 0 })).foldr (fun u v => u.toNat + v * 2 ^ 32) 0)
      let x : Sequencer := { status := .running, pc := 16, line := .ready 1 w }
      let s := nested {} [] [] fun k => { k with seqs := smPut k.seqs 2 x }
      CanIssueE s fe3 [.ctrl, .exec] [] 1 ∧ (matSeqs.any fun q => q != s.cur.seq && matrixPending s q) = true :=
  ⟨⟨canE_of (by decide +kernel), by decide +kernel⟩, canE_of (by decide +kernel), by decide +kernel⟩
theorem witness_ReductionSteps_over :
    (let r := { red7 false [] [] [] [] with ran := true }
     let s := nested {} [] [ment (.go (nest1 3 5) 0) 7 true] fun k => { k with red := some r }
     kStepDue s 0 0 = true ∧ stepsOver (nest1 3 5) r = true ∧ r.replay = [] ∧ (co s 0 0).ret = none ∧ nestOf (co s 0 0) 7 = some (nest1 3 5, 0))
    ∧ (let r := red7 false [] [] [] []
       stepsOver (nest1 3 5) r = false
       ∧ isInr (mainStep (co (work .ctrl []) 0 0) (nest1 3 5) (nextStep r)) = true
       ∧ isInr (mainStep { co (work .ctrl []) 0 0 with spadPoison := [(0, true)] } (nest1 3 5) (nextStep r)) = false)
    ∧ (let k := { co (work .ctrl []) 0 0 with accPoison := [(5, true)] }
       (accBad k 0 128).isSome = true ∧ accBad k 128 128 = none) := by decide +kernel
theorem witness_LensSteps_fill :
    let f : List (Nat × Nat × Nat × Nat) := [(5, 0, 0, 0)]
    let s := nested {} [] [ment (.go (nest1 1 4) 0) 7 true] fun k => { k with red := some (red7 false [5] [(5, 0)] [] f) }
    let t := modQd s 0 0 fun q => { q with lens := [⟨0, 5, 0, 0, adGen (tabOf (red7 false [5] [(5, 0)] [] f) 5), 0, 0, 0, [], [], false⟩] }
    lensFillDue s 0 0 = true ∧ (co s 0 0).red = some (red7 false [5] [(5, 0)] [] f) ∧ nestOf (co s 0 0) 7 = some (nest1 1 4, 0)
    ∧ ((qd s 0 0).lens.any fun l => lensIs l (tenantOf (co s 0 0)) 5 0 0 0) = false
    ∧ ((qd t 0 0).lens.any fun l => lensIs l (tenantOf (co t 0 0)) 5 0 0 0) = true ∧ (0 : Nat) ≤ coreCyc s 0 0 := by decide +kernel
theorem witness_LensSteps_replay :
    let r := red7 true [5] [(5, 0)] [(0, 0)] []
    let s := modQd (nested {} [] [ment (.go (nest1 1 4) 0) 7 true] fun k => { k with red := some r }) 0 0 fun q =>
      { q with lens := [⟨0, 5, 0, 0, 0, 0, 0, 0, [], [], false⟩] }
    replayMiss s 0 0 (nest1 1 4) r = [] ∧ replayNext s 0 0 (nest1 1 4) r = some 0
    ∧ lensFillDue (nested {} [] [ment (.adload 5 0 0 (nest1 1 4)) 7 false] id) 0 0 = true := by decide +kernel
theorem witness_NodeCounters_wait :
    (let s := mach .ctrl [(1, 3), (2, 5)] (fun k => { k with ctrWait := some (3, 5, some 9) }) (windowed 4)
     ctrWaited (reg s fe3.b) s 3 = some 9)
    ∧ (let s := mach .ctrl [(1, 3), (2, 5)] (fun k => { k with ctrWait := some (3, 5, none) }) (windowed 4)
       ctrWaited (reg s fe3.b) s 3 = none ∧ (cn s).armed = [] ∧ passed 5 5 = true) := by decide +kernel
theorem witness_EndpointPlaces :
    epPlace (work .ctrl []) 0 5 = true
    ∧ isHold (readWhole 0x8000 256 (spent .ctrl [])) = true
    ∧ (let d := opened 0 true (nd (work .ctrl []) 0)
       epOperand (mach .ctrl [] id fun _ => d) 5 = .inr 5) := by decide +kernel
/-- A descriptor of a buffer in the ring of endpoint 5: BUF 0x9000 and BLEN 8. -/
def posted : State := mach .ctrl [] id fun d =>
  let x := opened 1 true (paged 0 d)
  { x with troot := [(0, 0x1000)], eps := x.eps.map fun e => (e.1, { e.2 with rqBase := 0x8000 }),
           hbm := [(0x1000, 0x01), (0x1001, 0x20), (0x2000, 0x3D), (0x8001, 0x90), (0x8008, 8)] }
theorem witness_MessageArrivals_send :
    let e := epOf (nd posted 0) 5
    let a := peerAgent (nd posted 0) 0 (msgOf .send)
    let x := modEp posted 0 5 fun e => { e with used := posted.now }
    e.opened = true ∧ e.cached = true ∧ epTenant e = (msgOf .send).tenant ∧ e.rnrAt = none ∧ epAvail e ≠ 0
    ∧ rctrBad posted 0 (msgOf .send) = false
    ∧ (let p := engPages a .w false 2 (rqSlot e e.rqTake) 16 x
       p.1 = none ∧ (match engLoad a (rqSlot e e.rqTake) 3 0 16 [] [] p.2 with
         | (.bytes bs [], s2) => bitsOf (bytesVal bs) 95 64 == 8
             && (engPages a .w false 258 (BitVec.ofNat 64 (bytesVal bs)) (min (msgOf .send).len 8) s2).1 == none
         | _ => false) = true) := by decide +kernel
theorem witness_MessageSending_read :
    (let e := { mentry with op := MsgOp.read }
     let s := mach .ctrl [] (fun k => { k with msgq := [e] }) (opened 0 true)
     messageDue s 0 0 = true ∧ isLost s 0 (epPeer (epOf (nd s 0) 5)) = false ∧ shutterTakes s 0 0 (epPeer (epOf (nd s 0) 5)) = false)
    ∧ isBytes (engLoad (ownAgent (work .ctrl []) 0 0 0 0 0 0 0) (spadVa 0) 3 0 4 [] [] (work .ctrl [])).1 = true := by decide +kernel
theorem witness_RecordedFaults_ending :
    ∀ g ∈ [0, 1], let s := mach .ctrl [] (fun k => { k with mode := .ending g 5, deferred := [⟨7, 0, 4, false, false, 0, 0⟩] }) id
      (co s 0 0).mode = .ending g 5 ∧ firstCause (co s 0 0).deferred = some ⟨7, 0, 4, false, false, 0, 0⟩ := by decide +kernel
theorem witness_WindowAccesses_poison :
    let ask (s : State) := chkLocal s 0 none (smGet (nd s 0).troot 0 0) 0 0x8000 4 .r true
    ∀ z ∈ [true, false], let s := leafed .ctrl [] (if z then 0x7D else 0x3D) true id
      okTo (fun t => match t with | .mem .hbm 0x8000 _ zp => zp == z | _ => false) (ask s) = true ∧ isPoison (nd s 0) .hbm 0x8000 = true := by
  decide +kernel
theorem witness_WindowReplies :
    (let s := mach .ctrl [] (fun k => { k with loads := [queuePend] }) id
     ∀ p ∈ (co s 0 0).loads, p.tag = 7)
    ∧ (sq (work .ctrl []) 0 0 .ctrl).hold = .none ∧ (co (work .ctrl []) 0 0).loads = [] := by decide +kernel
theorem witness_LineFetch_more :
    (let s := mach .ctrl [] (fun k => { k with ptRoot := 0x1000, seqs := k.seqs.map fun x => (x.1, { x.2 with line := .none }) })
       fun d => { paged 0 d with bucket := [(0, { hbm := some 0 })] }
     lineWanted s 0 0 .ctrl = some 1 ∧ fetchHold s 0 0 ((imageOf (co s 0 0)).1 + 64) = true ∧ 1 < (imageOf (co s 0 0)).2.1)
    ∧ fetchHold (wanting fun k => { k with ptRoot := 0x1000 }) 0 0 ((imageOf (co (wanting id) 0 0)).1 + 64) = false
    ∧ (let s := mach .ctrl [] (fun k => { k with seqs := k.seqs.map fun x => (x.1, { x.2 with line := .none, pc := 32 }) }) id
       lineWanted s 0 0 .ctrl = some 2 ∧ (imageOf (co s 0 0)).2.1 ≤ 2)
    ∧ (sq (ready .ctrl 0) 0 0 .ctrl).line = .ready 1 (placeLine .ctrl 0) := by decide +kernel
theorem witness_DeliveryReserve :
    let h := hopWith 0 1 6 1 1 [0x8002000FF, 0, 4, 0]
    ringRoom (nd (hopping h id) 0) h = true ∧ frameOf (hopping h id) 0 ≤ h.until_
    ∧ (let s : State := { mach .ctrl [] id fun d => { d with gscOn := true, hops := [(0, some h)] } with now := 4 * Config.frameSteps }
       h.until_ < frameOf s 0)
    ∧ ringRoom { nd (hopping h id) 0 with counters := [(16, 1)] } h = false := by decide +kernel
theorem witness_AckReceive : ∀ e ∈ (nd (work .ctrl []) 0).paceq, e.1 ≠ 1 := by decide +kernel
/-- The value of a polynomial at `x`, highest coefficient first, each step brought to a number before the next. -/
def strictEval (x : Nat) : Nat → List Nat → Nat
  | a, [] => a
  | 0, b :: r => strictEval x b r
  | n + 1, b :: r => strictEval x (Nat.xor (gfMul (n + 1) x) b) r
theorem gfMul_zero (b : Nat) : gfMul 0 b = 0 := by
  have h : ∀ n b, gfMulFrom 0 b n = 0 := by
    intro n
    induction n with
    | zero => intro b; rfl
    | succ n ih => intro b; simp only [gfMulFrom, ih]; split <;> rfl
  exact h 8 b
theorem strictEval_eq (x : Nat) (l : List Nat) : ∀ a, l.foldl (fun a b => Nat.xor (gfMul a x) b) a = strictEval x a l := by
  induction l with
  | nil => intro a; rfl
  | cons b r ih =>
    intro a
    cases a with
    | zero => rw [List.foldl_cons, ih, gfMul_zero]; exact congrArg (strictEval x · r) (Nat.zero_xor b)
    | succ n => rw [List.foldl_cons, ih]; rfl
theorem strictEval_zeros (x : Nat) (l : List Nat) : ∀ n, strictEval x 0 (List.replicate n 0 ++ l) = strictEval x 0 l := by
  intro n
  induction n with
  | zero => rfl
  | succ n ih => exact ih
/-- Bytes 92 to 159 of a code word of RS(204,140) whose other bytes are 0: calculated from R330's generator and CRC. -/
def codeBody : List Byte :=
  [164, 87, 204, 210, 213, 211, 0, 98, 252, 187, 40, 99, 167, 70, 95, 253, 56, 244, 82, 187, 62, 170, 94, 241, 208,
   12, 198, 120, 134, 27, 53, 171, 228, 47, 58, 143, 160, 240, 22, 30, 177, 240, 43, 147, 16, 177, 150, 109, 217,
   206, 222, 133, 5, 96, 37, 69, 162, 220, 6, 126, 59, 148, 215, 236, 204, 157, 91, 237]
/-- The powers α^0 to α^63: the roots of the code's generator. -/
def codeRoots : List Nat :=
  [1, 2, 4, 8, 16, 32, 64, 128, 29, 58, 116, 232, 205, 135, 19, 38, 76, 152, 45, 90, 180, 117, 234, 201, 143, 3,
   6, 12, 24, 48, 96, 192, 157, 39, 78, 156, 37, 74, 148, 53, 106, 212, 181, 119, 238, 193, 159, 35, 70, 140,
   5, 10, 20, 40, 80, 160, 93, 186, 105, 210, 185, 111, 222, 161]
theorem codeRoots_eq : (upFrom 0 64).map alpha = codeRoots := by decide +kernel
theorem codeBody_roots : (codeRoots.all fun x => strictEval x 0 (codeBody.map BitVec.toNat) == 0) = true := by decide +kernel
/-- The data and the first 20 parity bytes of that word, and a flit that its parity and CRC let through. -/
def codeData : List Byte := List.replicate 92 0 ++ codeBody.take 48
theorem strictEval_tail (x : Nat) (l : List Nat) : ∀ a n, strictEval x a l = 0 → strictEval x a (l ++ List.replicate n 0) = 0 := by
  induction l with
  | nil => intro a n h; rw [List.nil_append]; rw [strictEval] at h; rw [h]; exact (List.append_nil _ ▸ strictEval_zeros x [] n).trans rfl
  | cons b r ih =>
    intro a n h
    cases a with
    | zero => exact ih b n h
    | succ a => exact ih _ n h
/-- A word that `strictEval` gives zero at every root of the code decodes to itself. -/
theorem decode_of_roots {d p : List Byte}
    (h : (codeRoots.all fun x => strictEval x 0 ((d ++ p).map BitVec.toNat) == 0) = true) :
    rsDecode d p = some d := by
  have e : ((rsSyndromes ((d ++ p).map BitVec.toNat ++ List.replicate (64 - p.length) 0)).all fun x => x == 0) = true := by
    rw [← codeRoots_eq] at h
    simp only [rsSyndromes, List.all_map, strictEval_eq, List.all_eq_true, Function.comp_apply, beq_iff_eq] at h ⊢
    exact fun j hj => strictEval_tail _ _ _ _ (h j hj)
  simp only [rsDecode, e, if_true]
theorem codeData_good : rsDecode codeData (codeBody.drop 48) = some codeData :=
  decode_of_roots (by
    have w : (codeData ++ codeBody.drop 48).map BitVec.toNat = List.replicate 92 0 ++ codeBody.map BitVec.toNat := by decide +kernel
    rw [w]
    simp only [strictEval_zeros]
    exact codeBody_roots)
theorem zero_decodes (n m : Nat) : rsDecode (List.replicate n 0) (List.replicate m 0) = some (List.replicate n 0) :=
  decode_of_roots (by
    have o : (0 : Byte).toNat = 0 := rfl
    simp only [List.map_replicate, o, ← List.replicate_add]
    rw [List.all_eq_true]
    intro x _
    have z := strictEval_zeros x [] (n + m)
    rw [List.append_nil] at z
    rw [z]
    rfl)
theorem witness_Links_more :
    (codeData ≠ [] ∧ rsDecode codeData ((codeBody.drop 48).take 20) = some codeData ∧ crcOk codeData = true
     ∧ flitFt (flitHead codeData) ≤ 1 ∧ flitCh (flitHead codeData) = 0 ∧ (linkOf (nd (work .ctrl []) 0) 2).early = []
     ∧ smGet (linkOf (nd (work .ctrl []) 0) 2).expect 0 (flitCh (flitHead codeData)) = flitLseq (flitHead codeData))
    ∧ (let g : Flit := ⟨0, 3, List.replicate 140 0, List.replicate 20 0⟩
       g.data ≠ [] ∧ (∀ d, rsDecode g.data g.parity = some d → crcOk d = false) ∧ hasLink (work .ctrl []) 0 = true)
    ∧ (let k : Flit := ⟨0, 3, List.replicate 140 0, List.replicate 20 0⟩
       let s := mach .ctrl [] id fun d => { d with links := [(0, { kept := [(3, k)] })] }
       ((linkOf (nd s 0) 0).kept.find? fun e => e.1 == 3) = some (3, k)
       ∧ (∀ m, ∀ d, rsDecode k.data (k.parity ++ List.replicate m 0) = some d → crcOk d = false)) := by
  have z : crcOk (List.replicate 140 0) = false := by decide +kernel
  refine ⟨⟨by decide +kernel, codeData_good, by decide +kernel⟩, ⟨by decide +kernel, ?_, by decide +kernel⟩, by decide +kernel, ?_⟩
  · intro d h
    rw [zero_decodes] at h
    exact (Option.some.inj h) ▸ z
  · intro m d h
    rw [List.replicate_append_replicate, zero_decodes] at h
    exact (Option.some.inj h) ▸ z
theorem witness_StepRunsDecoded_waits :
    let s := { mach .ctrl [] (fun k => { k with seqs := k.seqs.map fun x => (x.1, { x.2 with line := .none }) }) id with ready := [.seq 0 0 .ctrl] }
    seqLive { s with ready := [], cur := { node := 0, core := 0, seq := .ctrl, slot := 0, ctx := 0 } } = true := by decide +kernel
theorem witness_Commdef :
    let s := stored [(0, 1), (2, 1)] [(1, spadVa 0), (2, 63)] id fun d => { d with comms := [(63, some comm2)] }
    (match readDesc (reg s fe3.a) s with
      | .go bs t => (match parseComm t (tenantOf (cc t)) bs with
        | some x => commOf (cn t) 63 == some comm2 && comm2.owner == x.owner && comm2.ident != x.ident && commIdle (cn t) 63
        | none => false)
      | _ => false) = true := by decide +kernel
theorem witness_CollectiveReads :
    ∃ k, unreadRun (nd (colls (tile2 3 [⟨0, [], [], 1, none, 0, 0, false, true, false, false, [], [], []⟩]) [] []) 0)
        (tile2 3 [⟨0, [], [], 1, none, 0, 0, false, true, false, false, [], [], []⟩]) = some k := ⟨0, by decide +kernel⟩
theorem witness_TaskHolds : isHold (spawnPre 0x8000 (spent .ctrl [])) = true := by decide +kernel
/-! Witnesses: clauses of the last review. -/

theorem witness_RegisterFrame_more :
    (∀ i ∈ [Instr.shli noTok 3 1 7, .shri noTok 3 1 7, .sari noTok 3 1 7, .rotli noTok 3 1 7, .li noTok 3 7],
      nextTo (fun _ => true) (exec i (work .ctrl [(1, 5)])) = true)
    ∧ nextTo (fun x => x.trap.isNone) (exec (.bloop noTok 1 1 0) (work .ctrl [(1, 5)])) = true := by decide +kernel
theorem witness_CallsAndReturns_end :
    CanIssue (atEnd 1) noTok allSeqs (sopSrcs (.reg 1)) 0 ∧ endsLine (atEnd 1) (1 + sopLen (.reg 1)) = true :=
  ⟨can_of (by decide +kernel), by decide +kernel⟩
theorem witness_QueueMoves_bad :
    let s := mach .exec [] (fun k => { k with queues := [(2, { entries := [.bad 7 0x40] })] }) id
    CanIssue s noTok allSeqs [] 0 ∧ qConsumer (2 : BitVec 5).toNat = s.cur.seq ∧ queueHead s (2 : BitVec 5).toNat = some (.bad 7 0x40) :=
  ⟨can_of (by decide +kernel), by decide +kernel⟩
theorem witness_TokenMoves_own :
    (CanIssue (tokened [(1, 16)] 16) ⟨1, 0⟩ allSeqs (sopSrcs (.reg 1)) 0 ∧ countBad (opv (tokened [(1, 16)] 16) (.reg 1)).toNat 1 1 = true)
    ∧ CanIssue (tokened [(1, 16)] 16) ⟨0, 1⟩ allSeqs (sopSrcs (.reg 1)) 0 :=
  ⟨⟨can_of (by decide +kernel), by decide +kernel⟩, can_of (by decide +kernel)⟩
theorem witness_LineOperations_remote :
    let s := work .ctrl [(1, 0x8001000000000040)]
    okTo (fun t => match t with | .remote 1 _ _ => true | _ => false) (chk s 0 0 (lineAddr s 1 0) 128 .r) = true := by decide +kernel
theorem witness_IntegerLanes_more : ∀ z ∈ [(true, 0), (true, 1), (false, 0), (false, 1)],
    let u := movUnit 1 (.vec 2)
    let x : VCtx := vctx (work .exec []) { u with f := { u.f with sat := z.1, aux := BitVec.ofNat 4 z.2 } }
    x.w = 4 ∧ x.f.sat = z.1 ∧ x.f.aux.getLsbD 0 = (z.2 == 1) := by decide +kernel
theorem witness_VectorFrame_more : ∀ i ∈ [Instr.vmand (fv 3 (.lit 1) (.lit 1) (.vec 0) 0), .vextr (fv 3 (.vec 1) (.reg 2) (.vec 0) 4)],
    nextTo (fun y => y.trap.isNone) (exec i (work .exec [])) = true := by decide +kernel
theorem witness_MatrixStatus_going :
    let s := nested {} [] [{ ment (.aclr 0 16) 7 true with due := 4 }] id
    CanIssueE s fe3 [.ctrl, .exec] [] 1 ∧ (matSeqs.any fun q => q != s.cur.seq && matrixPending s q) = false
    ∧ (cc s).mq.filter runsOn ≠ [] :=
  ⟨canE_of (by decide +kernel), by decide +kernel⟩
theorem witness_PacketInjection_more : ∀ e ∈ [pentry progPacket, { pentry progPacket with resume := some (1, 2, 3) }],
    let s := mach .ctrl [] (fun k => { k with pq := [e] }) id
    packetDue s 0 0 = true ∧ packetHead (co s 0 0) = some e ∧ cancelled (nd s 0) (pTenant e.img) e.gin = false ∧ pType e.img = 1
    ∧ e.sig = 0 := by decide +kernel
/-- The machine of `spent` with an open endpoint whose ring lies in HBM. -/
def ringless (f : Core → Core) (g : Node → Node) : State :=
  mach .ctrl [(1, 5), (2, 0x9000), (3, 8)] (fun k => f { k with ptRoot := 0x1000 }) fun d =>
    let x := opened 0 true (paged 0 d)
    g { x with eps := x.eps.map fun e => (e.1, { e.2 with rqBase := 0x8000 }) }
theorem witness_EndpointInstructions_dry :
    let s := ringless id fun d => { d with bucket := [(0, { hbm := some 0 })] }
    let q := epOf (cn s) 5
    CanIssueE s fe3 [.ctrl] [fe3.a, fe3.b, fe3.d] 1 ∧ epOperand s (reg s fe3.a) = .inr 5 ∧ (reg s fe3.d).toNat ≤ 2 ^ 24
    ∧ (match accessPre s (rqSlot q q.rqPost) 16 16 .w true with
      | .hold _ => true
      | .go x s' => hbmHold s' 0 0 (classOf (cc s')) (atHome x.t) 16 true
      | _ => false) = true := ⟨canE_of (by decide +kernel), by decide +kernel⟩
theorem witness_MessageAnswers_late :
    let s := { mach .ctrl [] id (fun d => { opened 0 true d with outMsgs := [outm .send 0] }) with now := 10 * Config.frameCc }
    outOf (nd s 0) 5 7 = some (outm .send 0) ∧ isLost s 0 1 = false ∧ (outm .send 0).sent + 10 * Config.frameCc ≤ s.now
    ∧ (waitingPackets (nd s 0)).isEmpty = true := by decide +kernel
/-- Endpoint 5 whose message of the given number was answered not-ready. -/
def refusedAt (q : BitVec 32) : Endpoint := { epOf (opened 1 true (nd (mach .ctrl [] id id) 0)) 5 with rnrAt := some q }
theorem witness_MessageArrivals_behind :
    ([6, 7, 8].all fun n => let q := BitVec.ofNat 32 n
      (epOf (nd (mach .ctrl [] id fun d => { d with eps := [(5, refusedAt q)] }) 0) 5).rnrAt == some q
      && seqEarlier q (msgOf .send).sseq == (n == 6)) = true := by decide +kernel
/-- A holding of tenant 1 without priority, from which index 0 may be taken. -/
def heldLow : Holding := { heldAll with prio := 0, idx := 1 }
def reqHigh : LeaseCtl := { reqOf with prio := 3, min := 1 }
def tabLow : LineTab := { built := true, holdings := [heldLow] }
def freeLow : BitVec 640 := freeAlong 2 tabLow reqHigh.plus reqHigh.lo reqHigh.hops
def revokes : Bool := decide (idxCount freeLow < reqHigh.count)
  && decide (reqHigh.min ≤ idxCount freeLow + (revocable 2 (fun _ => 0) tabLow reqHigh (isAged reqHigh 0) freeLow).length)
theorem witness_LeaseArbiter_revoke : revokes = true := by decide +kernel
theorem witness_ShutterTable_bad : ∀ b ∈ [(0x20000 : Word), 0x10001, 0x1],
    let s := mach .ctrl [(1, 0), (2, b)] id fun d => { leasing true d with shutter := { owner := some 1 } }
    CanIssueE s fe3 [.ctrl] [fe3.a, fe3.b] 1 ∧ leaseEn (leaseWord s) = true ∧ leaseShut (leaseWord s) = true ∧ shutterMine s = false
    ∧ ((fld (reg s fe3.b) 63 17 ≠ 0 ∨ (bit (reg s fe3.b) 16 = true ∧ (reg s fe3.a ≠ 0 ∨ fld (reg s fe3.b) 15 0 ≠ 0))) ↔ b ≠ 1) := by
  intro b h
  simp only [List.mem_cons, List.not_mem_nil, or_false] at h
  rcases h with rfl | rfl | rfl <;> exact ⟨canE_of (by decide +kernel), by decide +kernel⟩
theorem witness_Commdef_waits :
    (∀ t ∈ [0, 5], let s := stored [(0, 1), (2, 1)] [(1, spadVa 0), (2, 63)] (fun k => { k with commWait := some t }) id
      (cc s).commWait = some t ∧ coreCyc s 0 0 = 0)
    ∧ (let s := mach .ctrl [(1, 0x8000), (2, 63)] (fun k => { k with ptRoot := 0x1000 }) fun d => { paged 0 d with bucket := [(0, { hbm := some 0 })] }
       isHold (readDesc (reg s fe3.a) s) = true ∧ (reg s fe3.a).toNat % 64 = 0 ∧ (reg s fe3.b).toNat < 64)
    ∧ isFault (readDesc 0x8000 (work .ctrl [])) = true := by decide +kernel
theorem witness_TaskInstructions_waits :
    (let s := mach .ctrl [(1, 4)] (fun k => { k with ptRoot := 0x1000, task := some { placeTask with views := 0x8000 } }) fun d =>
       { paged 0 d with bucket := [(0, { hbm := some 0 })] }
     CanIssueE s fe3 [.ctrl] [fe3.a] 1 ∧ tselfWaits s (reg s fe3.a) = true)
    ∧ tselfWaits (work .ctrl [(1, 3)]) (reg (work .ctrl [(1, 3)]) fe3.a) = false :=
  ⟨⟨canE_of (by decide +kernel), by decide +kernel⟩, by decide +kernel⟩
theorem witness_SystemCalls_tlb_waits : ∀ w ∈ [(⟨[], 0, 0, [], true⟩ : TlbWait), ⟨[], 0, 0, [], false⟩, ⟨[1], 0, 0, [], false⟩, ⟨[], 0, 5, [], false⟩],
    let s := mach .ctrl [(2, 0x1000)] (fun k => { k with tlbWait := some w }) id
    CanIssueWith s fe3.tk [.ctrl] [fe3.a, fe3.b] 0 fe3.wait [] [] ∧ privileged (cc s) = true ∧ tlbinvOk (reg s fe3.b) = true
    ∧ (cc s).tlbWait = some w ∧ tlbQuiet s 0 w.due w.dets = (w.due == 0) := by
  intro w h
  simp only [List.mem_cons, List.not_mem_nil, or_false] at h
  rcases h with rfl | rfl | rfl | rfl <;> exact ⟨can_of (by decide +kernel), by decide +kernel⟩
theorem witness_SystemCalls_tlb_begins : ∀ l ∈ [([] : List (Nat × Instr)), [(5, .atomicPerform 0 0 .ctrl)]],
    let s := { work .ctrl [(2, 0x23F)] with timers := l }
    (cc s).tlbWait = none ∧ tlbOthers s (reg s fe3.b) = []
    ∧ (match (cc (tlbBegin s (reg s fe3.b) 0)).tlbWait with
      | some w => tlbQuiet (tlbBegin s (reg s fe3.b) 0) 0 w.due w.dets == l.isEmpty
      | none => false) = true := by decide +kernel
theorem witness_ModuleReset :
    (work .ctrl []).resetOf = none ∧ ({ work .ctrl [] with resetOf := some 1 } : State).resetOf = some 1 := by decide +kernel
theorem witness_LoadCompletions_handler : ∀ c ∈ [0, 7],
    let p := pend (some 9) none c
    let s := handler [] fun k => { k with hseq := { k.hseq with hold := .load p } }
    (sq s 0 0 .ctrl).hold = .load p ∨ (co s 0 0).mode = .handler := by decide +kernel

/-! Flits of types 2, 4, 6 and 8 whose code words end in 44 bytes of 0: bytes 90 to 159, calculated from R330's generator and CRC
with a payload that is 0 before them. -/

def flitTail (ft : Nat) : List Byte :=
  match ft with
  | 2 =>
  [203, 162, 103, 19, 0, 0, 162, 155, 157, 255, 67, 26, 228, 82, 23, 61, 211, 200, 216, 30, 41, 198, 82, 144, 223,
   216, 243, 131, 224, 14, 243, 111, 232, 80, 228, 177, 86, 160, 230, 158, 104, 59, 198, 82, 219, 176, 156, 180, 127,
   56, 218, 115, 40, 105, 137, 125, 176, 138, 100, 208, 28, 176, 107, 17, 255, 215, 127, 73, 203, 103]
  | 4 =>
  [60, 199, 100, 63, 5, 0, 91, 108, 199, 148, 246, 106, 67, 2, 127, 222, 90, 198, 77, 139, 119, 169, 110, 43, 99, 251,
   180, 224, 254, 252, 101, 1, 14, 253, 131, 36, 118, 2, 198, 4, 124, 65, 37, 84, 19, 200, 94, 126, 28, 106, 50, 16,
   224, 148, 45, 103, 249, 238, 75, 16, 97, 227, 65, 72, 17, 255, 17, 232, 187, 194]
  | 6 =>
  [105, 32, 47, 37, 4, 0, 68, 243, 57, 112, 149, 118, 121, 33, 240, 169, 25, 165, 250, 198, 37, 48, 3, 218, 33, 29,
   135, 109, 17, 118, 233, 32, 194, 149, 122, 45, 50, 196, 223, 58, 194, 176, 36, 149, 1, 160, 62, 214, 85, 6, 185,
   187, 93, 48, 72, 92, 50, 30, 14, 21, 234, 154, 54, 60, 57, 71, 246, 172, 60, 235]
  | _ =>
  [235, 93, 7, 36, 5, 0, 48, 76, 173, 13, 87, 139, 16, 21, 242, 254, 115, 156, 146, 219, 52, 36, 137, 27, 13, 141, 92,
   5, 140, 10, 55, 36, 210, 67, 210, 125, 30, 80, 37, 235, 43, 67, 79, 190, 144, 245, 161, 210, 179, 189, 36, 164, 74,
   81, 219, 240, 1, 219, 115, 110, 145, 76, 68, 71, 213, 5, 160, 104, 182, 73]
/-- Such a flit's data, whose first word has the type alone, and its first 20 parity bytes. -/
def typedData (ft : Nat) : List Byte := List.replicate 7 0 ++ BitVec.ofNat 8 (16 * ft) :: List.replicate 82 0 ++ (flitTail ft).take 50
def typedFlit (ft : Nat) : Flit := ⟨2, 3, typedData ft, (flitTail ft).drop 50⟩
theorem typed_good : ∀ ft ∈ [2, 4, 6, 8], rsDecode (typedData ft) ((flitTail ft).drop 50) = some (typedData ft) := by
  intro ft h
  apply decode_of_roots
  have w : ∀ ft ∈ [2, 4, 6, 8], (codeRoots.all fun x => strictEval x 0
      ((typedData ft ++ (flitTail ft).drop 50).map BitVec.toNat) == 0) = true := by decide +kernel
  exact w ft h
/-- A machine at whose link 2 a packet of 256 bytes ends with the flit of type 2: a program, one that PRESUME sent, and data. -/
def ending (head : Nat) : State :=
  mach .ctrl [] id fun d => { d with links := [(2, { asm := [(0, valBytes 128 head)] })], prism := [(0, 0x8002000FF)] }
theorem witness_Links_types :
    (∀ ft ∈ [2, 4, 6, 8], let f := typedFlit ft
      f.data ≠ [] ∧ f.parity.take 20 = f.parity ∧ crcOk f.data = true ∧ flitFt (flitHead f.data) = ft ∧ flitCh (flitHead f.data) = 0)
    ∧ (∀ p ∈ [(2 ^ 85, 1, false), (2 ^ 85 + 2 ^ 147, 1, true), (0, 0, false)],
        let l := linkOf (nd (ending p.1) 0) 2
        let img := packetImage (smGet l.asm [] 0 ++ ((typedFlit 2).data.drop 8).take 128)
        l.early = [] ∧ smGet l.expect 0 0 = flitLseq (flitHead (typedFlit 2).data) ∧ pType img = p.2.1 ∧ isResumed img = p.2.2
        ∧ fld img 159 148 = 0 ∧ pDhint img = 0)
    ∧ deliveryBar (prismCfg (nd (ending 0) 0) 0) = none := by decide +kernel
theorem witness_Links_asked :
    let k : Flit := ⟨0, 3, List.replicate 140 0, List.replicate 20 0⟩
    ∀ m ∈ [0, 22, 44], let s := mach .ctrl [] id fun d => { d with links := [(0, { kept := [(7, { k with parity := List.replicate (20 + m) 0 })] })] }
      takeFirst (fun e : Nat × Flit => e.2.wave == 3) (linkOf (nd s 0) 0).kept = some ((7, { k with parity := List.replicate (20 + m) 0 }), [])
      ∧ linkUp s 0 = true := by decide +kernel

end Sys2Proof.Tests
end

section
/-! PROOFS. The homes of a node: what a masked write of bytes leaves and what a write of every byte reads back (R2, R209). -/

namespace Sys2Proof.Machine

/-- A masked write of `n` bytes from `a` on touches no byte outside them. -/
theorem smGet_memMasked_outside (n : Nat) (m : Memory) (a mask v : Nat) {b : Nat} (hb : b < a ∨ a + n ≤ b) :
    smGet (memMasked m a mask v n) 0 b = smGet m 0 b := by
  induction n generalizing m a mask v with
  | zero => rfl
  | succ n ih =>
    rw [memMasked, ih _ _ _ _ (by omega)]
    split
    · exact smGet_smSet_ne m 0 _ (by omega)
    · rfl

/-- The mask of `n + 1` bytes is that of `n` bytes and one more below them. -/
theorem fullMask_succ (n : Nat) : fullMask (n + 1) = 2 * fullMask n + 1 := by
  have := Nat.two_pow_pos n
  simp only [fullMask, Nat.pow_succ]
  omega

/-- A write of every byte starts with its lowest one. -/
theorem memMasked_fullMask_succ (m : Memory) (a v n : Nat) :
    memMasked m a (fullMask (n + 1)) v (n + 1)
      = memMasked (smSet m 0 a (BitVec.ofNat 8 v)) (a + 1) (fullMask n) (v / 256) n := by
  have odd : (2 * fullMask n + 1) % 2 = 1 := by omega
  have half : (2 * fullMask n + 1) / 2 = fullMask n := by omega
  rw [fullMask_succ, memMasked, if_pos odd, half]

/-- What is written over every byte is read back (R2). -/
theorem memRead_memMasked_fullMask (n : Nat) (m : Memory) (a v : Nat) (h : Memory.wf m = true) :
    memRead (memMasked m a (fullMask n) v n) a n = v % 2 ^ (8 * n) := by
  induction n generalizing m a v with
  | zero => simp [memRead, Nat.mod_one]
  | succ n ih =>
    have low : smGet (memMasked m a (fullMask (n + 1)) v (n + 1)) 0 a = BitVec.ofNat 8 v := by
      rw [memMasked_fullMask_succ, smGet_memMasked_outside _ _ _ _ _ (by omega), smGet_smSet_same h]
    have high : memRead (memMasked m a (fullMask (n + 1)) v (n + 1)) (a + 1) n = v / 256 % 2 ^ (8 * n) := by
      rw [memMasked_fullMask_succ, ih _ _ _ (smWf_smSet h _ _)]
    have width : 2 ^ (8 * (n + 1)) = 256 * 2 ^ (8 * n) := by rw [Nat.mul_succ, Nat.pow_add, Nat.mul_comm]
    rw [memRead, low, high, BitVec.toNat_ofNat, width, Nat.mod_mul]

/-- A home write changes the bytes of its own memory and leaves the other two as they are. -/
theorem homeMem_homeWrite (d : Node) (sp sq : Space) (pa size mask v : Nat) :
    homeMem (homeWrite d sp pa size mask v) sq
      = if sq = sp then memMasked (homeMem d sp) (homeAddr d sp pa) mask v size else homeMem d sq := by
  unfold homeWrite
  dsimp only
  split
  · rw [homeMem_setPoison, homeMem_setHomeMem]
  · rw [homeMem_setHomeMem]

@[simp] theorem homeAddr_setHomeMem (d : Node) (sp sq : Space) (m : Memory) (pa : Nat) :
    homeAddr (setHomeMem d sp m) sq pa = homeAddr d sq pa := by
  cases sp <;> rfl

@[simp] theorem homeAddr_setPoison (d : Node) (sp sq : Space) (p pa : Nat) (b : Bool) :
    homeAddr (setPoison d sp p b) sq pa = homeAddr d sq pa := by
  cases sp <;> rfl

/-- A home write moves no home. -/
@[simp] theorem homeAddr_homeWrite (d : Node) (sp sq : Space) (p pa size mask v : Nat) :
    homeAddr (homeWrite d sp p size mask v) sq pa = homeAddr d sq pa := by
  unfold homeWrite
  dsimp only
  split <;> simp only [homeAddr_setPoison, homeAddr_setHomeMem]

/-- Settles O16: a home write is the masked write of its memory, which reads back and keeps the canonical form. -/
theorem homeMemory : Obligations.HomeMemory := by
  intro d sp a n v wf e
  have own : homeMem e sp = memMasked (homeMem d sp) (homeAddr d sp a) (fullMask n) v n := by
    simp only [e, homeMem_homeWrite, if_true]
  refine ⟨?_, fun b hb => ?_, fun sq hsq => ?_, ?_⟩
  · rw [homeRead, own, homeAddr_homeWrite]
    exact memRead_memMasked_fullMask n _ _ v wf
  · rw [own]
    exact smGet_memMasked_outside n _ _ _ v hb
  · simp only [e, homeMem_homeWrite, if_neg hsq]
  · rw [own]
    exact memMasked_wf _ _ _ v n wf

end Sys2Proof.Machine
end

section
/-! PROOFS. What an instruction that issues leaves alone (R95, R97), and its three outcomes under the conditions of a claim. -/

namespace Sys2Proof.Machine

open Sys2Proof.Claims

/-- One step of the moving sequencer that changes nothing but its registers, what an issue moves, the tokens and the results
in flight of its core: no clock, no agent, no memory, no special register. -/
structure IssueFrame (s t : State) : Prop extends OnlyOwn s t where
  cur : t.cur = s.cur
  now : t.now = s.now

theorem IssueFrame.refl (s : State) : IssueFrame s s :=
  ⟨⟨⟨fun _ => rfl, fun _ _ _ => rfl, rfl, fun _ _ => rfl⟩, rfl⟩, rfl, rfl⟩

theorem IssueFrame.trans {s t u : State} (h : IssueFrame s t) (g : IssueFrame t u) : IssueFrame s u where
  nodes n := (g.nodes n).trans (h.nodes n)
  cores n c hc := (g.cores n c (h.cur ▸ hc)).trans (h.cores n c hc)
  rest := g.rest.trans h.rest
  seqs q hq := by
    have later := g.seqs q (h.cur ▸ hq)
    rw [h.cur] at later
    exact later.trans (h.seqs q hq)
  own := g.own.trans h.own
  cur := g.cur.trans h.cur
  now := g.now.trans h.now

theorem IssueFrame.foldl {α : Type} (f : State → α → State) (h : ∀ s x, IssueFrame s (f s x)) (l : List α) (s : State) :
    IssueFrame s (l.foldl f s) := by
  induction l generalizing s with
  | nil => exact .refl s
  | cons x r ih => exact (h s x).trans (ih _)

/-! What of the state a change of one core or sequencer leaves. -/

theorem nodeRest_modCo (s : State) (n c m : Nat) (f : Core → Core) :
    nodeRest (nd (modCo s n c f) m) = nodeRest (nd s m) := by
  rw [nd_modCo]
  split
  · next h => rw [h]; rfl
  · rfl

@[simp] theorem coreRest_putSeq (k : Core) (q : Seq) (x : Sequencer) : coreRest (putSeq k q x) = coreRest k := by
  unfold putSeq
  split <;> rfl

theorem seqIn_congr {k k' : Core} (hs : k'.seqs = k.seqs) (hh : k'.hseq = k.hseq) (hm : k'.mode = k.mode) (q : Seq) :
    seqIn k' q = seqIn k q := by
  unfold seqIn inHandler
  rw [hs, hh, hm]

theorem IssueFrame.modCc (s : State) (f : Core → Core) (hr : ∀ k, coreRest (f k) = coreRest k)
    (hs : ∀ k, (f k).seqs = k.seqs) (hh : ∀ k, (f k).hseq = k.hseq) : IssueFrame s (modCc s f) := by
  have seq (k : Core) (q : Seq) : seqIn (f k) q = seqIn k q := by
    have mode : (coreRest (f k)).mode = (coreRest k).mode := by rw [hr]
    exact seqIn_congr (hs k) (hh k) mode q
  refine ⟨⟨⟨fun n => nodeRest_modCo .., fun n c h => co_modCo_ne s f h, ?_, fun q _ => ?_⟩, ?_⟩, rfl, rfl⟩
  · rw [cc_modCc, hr]
  · rw [Machine.modCc, sq_modCo, if_pos ⟨rfl, rfl⟩, seq, sq]
  · rw [cs_modCc, seq]; rfl

theorem IssueFrame.modCs (s : State) (f : Sequencer → Sequencer) (h : ∀ k, seqRest (f k) = seqRest k) :
    IssueFrame s (modCs s f) := by
  refine ⟨⟨⟨fun n => nodeRest_modCo .., fun n c hc => co_modCo_ne s _ hc, ?_, fun q hq => ?_⟩, ?_⟩, rfl, rfl⟩
  · rw [cc_modCs, coreRest_putSeq]
  · rw [Machine.modCs, sq_modSq, if_neg fun e => hq e.2.2]
  · rw [cs_modCs, h]

theorem IssueFrame.later (s : State) (l : Late) : IssueFrame s (later s l) :=
  ⟨⟨⟨fun _ => rfl, fun _ _ _ => rfl, rfl, fun _ _ => rfl⟩, rfl⟩, rfl, rfl⟩

theorem IssueFrame.popTok (s : State) (f k : Nat) : IssueFrame s (popTok s f k) := by
  unfold Machine.popTok
  split
  · exact .refl s
  · refine .trans (.modCc s _ ?_ ?_ ?_) (.later _ _) <;> exact fun _ => rfl

theorem IssueFrame.reserveTok (s : State) (f k : Nat) : IssueFrame s (reserveTok s f k) := by
  unfold Machine.reserveTok
  split
  · exact .refl s
  · refine .modCc s _ ?_ ?_ ?_ <;> exact fun _ => rfl

theorem IssueFrame.pushLater (s : State) (f k : Nat) : IssueFrame s (pushLater s f k) := by
  unfold Machine.pushLater
  split
  · exact .refl s
  · exact .later _ _

theorem IssueFrame.retirePushes (s : State) (t : Tok) (p : List (Nat × Nat)) : IssueFrame s (retirePushes s t p) :=
  .foldl _ (fun s _ => .pushLater s _ _) _ s

/-- The issue of an instruction that waits for no flag moves only its sequencer and tokens. -/
theorem IssueFrame.takeIssue {α : Type} (o : Op α) (s : State) (hf : o.flags s = 0) : IssueFrame s (takeIssue o s) := by
  have tokens : IssueFrame s (takeTokens (clearFlags s (o.flags s)) o.tk (o.pops s) (o.pushes s)) := by
    rw [hf]
    exact (IssueFrame.foldl _ (fun s _ => .popTok s _ _) _ s).trans (.foldl _ (fun s _ => .reserveTok s _ _) _ _)
  unfold Machine.takeIssue
  dsimp only
  split
  · refine .trans (tokens.trans (.modCs _ _ ?_)) (.retirePushes _ _ _)
    exact fun _ => rfl
  · refine tokens.trans (.modCs _ _ ?_)
    exact fun _ => rfl

theorem IssueFrame.past (s : State) (t : Tok) (len : Nat) : IssueFrame s (past s t len) := by
  unfold Claims.past pastWith
  exact .takeIssue _ s rfl
theorem IssueFrame.begun (s : State) (t : Tok) (len : Nat) : IssueFrame s (begun s t len) := by
  unfold Claims.begun
  exact .takeIssue _ s rfl

/-- A result put in flight is no register's value yet. -/
theorem IssueFrame.flyReg (s : State) (d : Reg) (v : Word) (lat : Nat) (tok : Option Nat) (sig : BitVec 16) :
    IssueFrame s (flyReg s d v lat tok sig) := by
  unfold Machine.flyReg fly
  refine .trans (.modCc s _ ?_ ?_ ?_) (.modCc _ _ ?_ ?_ ?_) <;> exact fun _ => rfl

/-- The result that an instruction puts in flight is there. -/
theorem mem_inflight_flyReg (s : State) (d : Reg) (v : Word) (lat : Nat) (tok : Option Nat) (sig : BitVec 16) :
    ∃ r ∈ (cc (flyReg s d v lat tok sig)).inflight, r.val = v.setWidth 4096 := by
  simp [Machine.flyReg, fly]

/-! What reads the same after such a step. -/

namespace IssueFrame
variable {s t : State}

/-- Whatever is read of the core without its sequencers, tokens and results in flight. -/
theorem core {α : Type} (h : IssueFrame s t) (f : Core → α) : f (coreRest (cc t)) = f (coreRest (cc s)) :=
  congrArg f h.rest

/-- Whatever is read of a node without its cores. -/
theorem node {α : Type} (h : IssueFrame s t) (n : Nat) (f : Node → α) : f (nodeRest (nd t n)) = f (nodeRest (nd s n)) :=
  congrArg f (h.nodes n)

/-- Whatever is read of the moving sequencer without its registers and what an issue moves. -/
theorem seq {α : Type} (h : IssueFrame s t) (f : Sequencer → α) : f (seqRest (cs t)) = f (seqRest (cs s)) :=
  congrArg f h.own

theorem privileged (h : IssueFrame s t) : privileged (cc t) = Machine.privileged (cc s) := h.core Machine.privileged

theorem gsc (h : IssueFrame s t) (n : Nat) : gsc t n = Machine.gsc s n := by
  have same := h.node n fun d => if d.gscOn then d.gscBase + (s.now - d.gscFrom + d.gscPhase) / 4 else 0
  unfold Machine.gsc
  rw [h.now]
  exact same

end IssueFrame

/-! Decode faults (R457): an ILLEGAL stands before the others, and PRIV is left when the sequencer may run the instruction. -/

theorem decodeFault_illegal {α : Type} {o : Op α} {s : State} (h : o.illegal s = true) :
    decodeFault o s = some codeIllegal := by
  simp [decodeFault, h]

theorem decodeFault_priv {α : Type} {o : Op α} {s : State} (h1 : o.illegal s = false)
    (h2 : o.handler = true ∨ inHandler (cc s) = false) (h3 : s.cur.seq ∈ o.seqs) (h4 : o.priv s = true) :
    decodeFault o s = some codePriv := by
  rcases h2 with h2 | h2 <;> simp [decodeFault, h1, h2, h3, h4]

theorem mem_allSeqs (q : Seq) : q ∈ allSeqs := by cases q <;> decide

/-! The outcomes of an instruction that may issue. -/

section
variable {α : Type} {o : Op α} {s s' : State}

/-- An instruction that meets the conditions of a claim, without a fault of its own, has its effect on the state that its
issue leaves. -/
theorem runOp_of_canIssue {x : α} (h : CanIssueWith s o.tk o.seqs o.srcs o.flying (o.flags s) (o.pops s) (o.pushes s))
    (hd : decodeFault o s = none) (hp : o.pre s = .go x s') (hr : o.room s = true) :
    runOp o s = .next (o.eff x (takeIssue o s')) :=
  runOp_go o s h.runs hd h.span h.flags h.pops h.ready hp h.room h.slots hr

/-- One that finds a fault of its own takes it as a trap. -/
theorem runOp_fault_of_canIssue {k : Cause}
    (h : CanIssueWith s o.tk o.seqs o.srcs o.flying (o.flags s) (o.pops s) (o.pushes s))
    (hd : decodeFault o s = none) (hp : o.pre s = .fault k s') :
    runOp o s = .next (takeTrap s' s.cur.node s.cur.core k) :=
  runOp_trap o s h.runs hd h.span h.flags h.pops h.ready hp

end

end Sys2Proof.Machine
end

section
/-! PROOFS. The special registers (R118, R119, R404): MFSR and MTSR once for every register, then register by register. -/

namespace Sys2Proof.Machine

open Sys2Proof.Claims

/-- An issue, and a result put in flight, change no special register: the sequencer reads what it held before (R118). -/
theorem IssueFrame.sregRead {s t : State} (h : IssueFrame s t) (r : Nat) : sregRead t r = Machine.sregRead s r := by
  have core := h.core fun k => { k with
    seqs := (cc t).seqs, hseq := (cc t).hseq, fifos := (cc t).fifos, inflight := (cc t).inflight, landing := (cc t).landing }
  change cc t = { cc s with
    seqs := (cc t).seqs, hseq := (cc t).hseq, fifos := (cc t).fifos, inflight := (cc t).inflight, landing := (cc t).landing }
    at core
  have node : cn t = { cn s with cores := (cn t).cores } := by
    rw [cn, h.cur]
    exact h.node s.cur.node fun d => { d with cores := (nd t s.cur.node).cores }
  have cbb : (cs t).cbb = (cs s).cbb := h.seq Sequencer.cbb
  have gscHi : (cs t).gscHi = (cs s).gscHi := h.seq Sequencer.gscHi
  unfold Machine.sregRead sqidWord
  rw [h.cur, h.gsc, core, node, cbb, gscHi]
  rfl

/-- MFSR as its own definition gives it. -/
theorem exec_mfsr (t : Tok) (d : Reg) (i : BitVec 12) (s : State) : exec (.mfsr t d i) s = execMfsr t d i s := rfl

/-- MTSR as its own definition gives it. -/
theorem exec_mtsr (t : Tok) (a : Reg) (i : BitVec 12) (s : State) : exec (.mtsr t a i) s = execMtsr t a i s := rfl

/-- A register reserved to privileged state is refused elsewhere alone. -/
theorem sreg_not_refused {b : Bool} {s : State} (h : b = false ∨ privileged (cc s) = true) :
    (b && !privileged (cc s)) = false := by
  rcases h with h | h <;> simp [h]

section
variable {t : Tok} {a d : Reg} {i : BitVec 12} {s : State}

/-- MFSR of a register that may be read puts its value in flight for 2 cc, and latches GSCHI where it is GSCLO (R118). -/
theorem exec_mfsr_reads (hi : okSreg i = true) (hp : sregReadPriv i.toNat = false ∨ privileged (cc s) = true)
    (h : CanIssue s t allSeqs [] 1) :
    exec (.mfsr t d i) s
      = .next (sregLatch (flyReg (begun s t 1) d (sregRead s i.toNat) 2 (pushKey s t) 0) i.toNat) := by
  have issued := IssueFrame.begun s t 1
  have value : sregRead (begun s t 1) i.toNat = sregRead s i.toNat := issued.sregRead _
  have key : pushKey (begun s t 1) t = pushKey s t := by rw [pushKey, issued.cur, pushKey]
  rw [← value, ← key, exec_mfsr, execMfsr, runOp_of_canIssue h
    (decodeFault_none (by simp [hi]) (.inl rfl) (mem_allSeqs _) (sreg_not_refused hp)) rfl rfl]
  rfl

/-- MTSR of a register that may be written, with a value it takes, has the register's own effect (R118, R119). -/
theorem exec_mtsr_writes (hi : okSreg i = true) (hp : sregWritePriv i.toNat = false ∨ privileged (cc s) = true)
    (hv : sregBad i.toNat (reg s a) = false) (h : CanIssue s t allSeqs [a] 0) :
    exec (.mtsr t a i) s = .next (sregWrite (past s t 1) i.toNat (reg s a)) := by
  have value : reg (past s t 1) a = reg s a := (same_takeIssue _ s).reg a
  rw [← value, exec_mtsr, execMtsr, runOp_of_canIssue h
    (decodeFault_none (by simp [hi]) (.inl rfl) (mem_allSeqs _) (sreg_not_refused hp)) (x := ()) (s' := s) (by simp [hv]) rfl]
  rfl

/-- A value that the register refuses faults ILLEGAL (R123, R403). -/
theorem exec_mtsr_bad (hi : okSreg i = true) (hp : sregWritePriv i.toNat = false ∨ privileged (cc s) = true)
    (hv : sregBad i.toNat (reg s a) = true) (h : CanIssue s t allSeqs [a] 0) :
    exec (.mtsr t a i) s = .next (takeTrap s s.cur.node s.cur.core (causeHere s codeIllegal)) := by
  rw [exec_mtsr]
  exact runOp_fault_of_canIssue h (decodeFault_none (by simp [hi]) (.inl rfl) (mem_allSeqs _) (sreg_not_refused hp))
    (by simp [hv])

/-- A number that names no special register faults ILLEGAL (R118), before anything else of MFSR or MTSR is looked at. -/
theorem exec_sreg_illegal (hi : okSreg i = false) (hm : mayIssue s = true) :
    exec (.mfsr t d i) s = .next (takeTrap s s.cur.node s.cur.core (causeHere s codeIllegal))
    ∧ ∀ a, exec (.mtsr t a i) s = .next (takeTrap s s.cur.node s.cur.core (causeHere s codeIllegal)) := by
  refine ⟨?_, fun a => ?_⟩
  · rw [exec_mfsr]
    exact runOp_decode _ s hm (decodeFault_illegal (by simp [hi]))
  · rw [exec_mtsr]
    exact runOp_decode _ s hm (decodeFault_illegal (by simp [hi]))

/-- A read of a privileged register faults PRIV outside privileged state (R404). -/
theorem exec_mfsr_priv (hi : okSreg i = true) (hm : mayIssue s = true) (hp : sregReadPriv i.toNat = true)
    (hu : privileged (cc s) = false) :
    exec (.mfsr t d i) s = .next (takeTrap s s.cur.node s.cur.core (causeHere s codePriv)) := by
  rw [exec_mfsr]
  exact runOp_decode _ s hm (decodeFault_priv (by simp [hi]) (.inl rfl) (mem_allSeqs _) (by simp [hp, hu]))

/-- A write of a privileged register faults PRIV outside privileged state (R404). -/
theorem exec_mtsr_priv (hi : okSreg i = true) (hm : mayIssue s = true) (hp : sregWritePriv i.toNat = true)
    (hu : privileged (cc s) = false) :
    exec (.mtsr t a i) s = .next (takeTrap s s.cur.node s.cur.core (causeHere s codePriv)) := by
  rw [exec_mtsr]
  exact runOp_decode _ s hm (decodeFault_priv (by simp [hi]) (.inl rfl) (mem_allSeqs _) (by simp [hp, hu]))

end

/-- The numbers that name a special register (R118, R404). -/
theorem okSreg_iff (i : BitVec 12) :
    okSreg i = true
      ↔ i.toNat ≤ 0x00C ∨ (0x010 ≤ i.toNat ∧ i.toNat ≤ 0x026) ∨ i.toNat = 0x030 ∨ i.toNat = 0x031 ∨ i.toNat = 0x040 := by
  simp [okSreg, or_assoc]

/-- Whether a register number is named is seen at the number. -/
theorem okSreg_of_toNat {i : BitVec 12} {r : Nat} (hi : i.toNat = r) (h : okSreg (BitVec.ofNat 12 r) = true) :
    okSreg i = true := by
  rwa [← hi, BitVec.ofNat_toNat, BitVec.setWidth_eq] at h

/-- The numbers that fault PRIV on a read outside privileged state (R404). -/
theorem sregReadPriv_iff (r : Nat) : sregReadPriv r = true ↔ 0x20 ≤ r ∧ r ≤ 0x25 := by
  simp [sregReadPriv]

/-- The numbers that fault PRIV on a write outside privileged state (R404). -/
theorem sregWritePriv_iff (r : Nat) :
    sregWritePriv r = true
      ↔ (0x10 ≤ r ∧ r ≤ 0x1F) ∨ r = 0x20 ∨ (0x23 ≤ r ∧ r ≤ 0x26) ∨ r = 0x30 ∨ r = 0x31 ∨ r = 0x40 := by
  simp [sregWritePriv, or_assoc]

/-- A number reserved to privileged state names a special register. -/
theorem okSreg_of_sregWritePriv {i : BitVec 12} (h : sregWritePriv i.toNat = true) : okSreg i = true := by
  rw [sregWritePriv_iff] at h
  rw [okSreg_iff]
  omega

/-- MFSR of GSCLO latches the upper half of the counter that it reads the lower half of (R118). -/
theorem exec_mfsr_gscLo {t : Tok} {d : Reg} {i : BitVec 12} {s : State} (hi : i.toNat = 0x00A)
    (h : CanIssue s t allSeqs [] 1) :
    ∃ x, exec (.mfsr t d i) s = .next x ∧ (cs x).gscHi = some (BitVec.ofNat 32 (gsc s s.cur.node / 2 ^ 32))
      ∧ ∃ r ∈ (cc x).inflight, r.val = (BitVec.ofNat 64 (gsc s s.cur.node % 2 ^ 32)).setWidth 4096 := by
  have named : okSreg i = true := okSreg_of_toNat hi rfl
  have read := exec_mfsr_reads (t := t) (d := d) named (.inl (by rw [hi]; rfl)) h
  rw [hi, sregLatch, if_pos rfl] at read
  refine ⟨_, read, ?_, ?_⟩
  · have flown := (IssueFrame.begun s t 1).trans
      (.flyReg _ d (sregRead s 0x00A) 2 (pushKey s t) 0)
    rw [cs_modCs, flown.gsc, flown.cur]
  · rw [cc_modCs, putSeq_inflight]
    exact mem_inflight_flyReg ..

/-- MFSR of every other register leaves GSCHI alone. -/
theorem exec_mfsr_value {t : Tok} {d : Reg} {i : BitVec 12} {s : State} {v : Word} (hi : okSreg i = true)
    (hp : sregReadPriv i.toNat = false ∨ privileged (cc s) = true) (hl : i.toNat ≠ 0x00A)
    (hv : sregRead s i.toNat = v) (h : CanIssue s t allSeqs [] 1) :
    exec (.mfsr t d i) s = .next (flyReg (begun s t 1) d v 2 (pushKey s t) 0) := by
  rw [exec_mfsr_reads hi hp h, sregLatch, if_neg hl, hv]

/-- The budget words of the sixteen classes (R118, R430). -/
theorem sregRead_budget (s : State) {k : Nat} (hk : k < 16) : sregRead s (0x10 + k) = budgetWord (cn s) k := by
  interval_cases k <;> rfl

/-! MTSR, register by register (R6, R119). -/

/-- MTSR of a register whose every value is taken. -/
theorem exec_mtsr_value {t : Tok} {a : Reg} {i : BitVec 12} {s x : State} (hi : okSreg i = true)
    (hp : sregWritePriv i.toNat = false ∨ privileged (cc s) = true) (hb : sregBad i.toNat (reg s a) = false)
    (hx : sregWrite (past s t 1) i.toNat (reg s a) = x) (h : CanIssue s t allSeqs [a] 0) :
    exec (.mtsr t a i) s = .next x := by
  rw [exec_mtsr_writes hi hp hb h, hx]

/-- The budget words keep all but their reserved bits (R6, R430). -/
theorem sregWrite_budget (s : State) (v : Word) {r : Nat} (hlo : 0x10 ≤ r) (hhi : r ≤ 0x1F) :
    sregBad r v = false ∧ sregWrite s r v = later s (.nodeReg s.cur.node r (v &&& 0xFFFFFFFFFFFFFFF0)) := by
  interval_cases r <;> exact ⟨rfl, rfl⟩

/-- The numbers of the read-only special registers (R118, R404). -/
def readOnlySregs : List Nat := [0x000, 0x006, 0x007, 0x008, 0x009, 0x00A, 0x00B, 0x00C, 0x021, 0x022]

/-- A read-only register ignores the write in every state (R5, R118, R404). -/
theorem sregWrite_readOnly (s : State) (v : Word) {r : Nat} (h : r ∈ readOnlySregs) :
    sregWritePriv r = false ∧ sregBad r v = false ∧ sregWrite s r v = s := by
  fin_cases h <;> exact ⟨rfl, rfl, rfl⟩

theorem okSreg_of_readOnly {i : BitVec 12} (h : i.toNat ∈ readOnlySregs) : okSreg i = true := by
  rw [okSreg_iff]
  simp only [readOnlySregs, List.mem_cons, List.not_mem_nil, or_false] at h
  omega

/-- Settles O12: what MFSR reads and MTSR does at issue, register by register, then what each write changes as its cc ends. -/
theorem specialRegisters : Obligations.SpecialRegisters := by
  refine ⟨?_, ?_, ?_⟩
  · intro regs
    have row : ∀ e ∈ regs, okSreg (BitVec.ofNat 12 e.1) = true ∧ ∀ s, sregRead s e.1 = e.2 s := by
      intro e he
      simp only [regs] at he
      fin_cases he <;> exact ⟨rfl, fun _ => rfl⟩
    refine ⟨?_, ?_, ?_, ?_, ?_, ?_, ?_⟩
    -- Every register with a value of its own, then GSCLO, GSCHI latched and not, the budgets, and the two faults.
    · intro e he t d i s hi hl h hp
      obtain ⟨named, value⟩ := row e he
      rw [← hi] at hp hl value
      exact exec_mfsr_value (okSreg_of_toNat hi named) hp hl (value s) h
    · intro t d i s hi h
      exact exec_mfsr_gscLo hi h
    · intro t d i s v hi hg h
      refine exec_mfsr_value (okSreg_of_toNat hi rfl) (.inl (by rw [hi]; rfl)) (by omega) ?_ h
      rw [hi, sregRead, hg]
    · intro t d i s hi hg h
      refine exec_mfsr_value (okSreg_of_toNat hi rfl) (.inl (by rw [hi]; rfl)) (by omega) ?_ h
      rw [hi, sregRead, hg]
    · intro t d i s k hk hi h
      have unpriv : sregReadPriv i.toNat = false := by
        rw [← Bool.not_eq_true, sregReadPriv_iff]; omega
      refine exec_mfsr_value ((okSreg_iff i).mpr (by omega)) (.inl unpriv) (by omega) ?_ h
      rw [hi, sregRead_budget s hk]
    · intro t d i s hne hb hr hm
      have unnamed : okSreg i = false := by
        simp only [regs, List.forall_mem_cons] at hne
        rw [← Bool.not_eq_true, okSreg_iff]
        omega
      exact exec_sreg_illegal unnamed hm
    · intro t d i s hm hlo hhi hu
      exact exec_mfsr_priv ((okSreg_iff i).mpr (by omega)) hm ((sregReadPriv_iff _).mpr ⟨hlo, hhi⟩) hu
  · intro n c
    refine ⟨?_, ?_, ?_, ?_, ?_, ?_, ?_⟩
    -- The registers that keep a masked value, then CSTAT, VTYPE, CBB, the budgets, the read-only ones, and the fault.
    · intro e he t a i s hi h hp
      have row : okSreg (BitVec.ofNat 12 e.1) = true
          ∧ (∀ v, sregBad e.1 v = false) ∧ ∀ s x v, x.cur = s.cur → sregWrite x e.1 v = later x (e.2 s v) := by
        fin_cases he <;> exact ⟨rfl, fun _ => rfl, fun s x v hx => by simp only [sregWrite, hx, n, c]⟩
      obtain ⟨named, taken, effect⟩ := row
      rw [← hi] at hp taken effect
      exact exec_mtsr_value (okSreg_of_toNat hi named) hp (taken _) (effect s _ _ (IssueFrame.past s t 1).cur) h
    · intro t a i s hi h
      have named : okSreg i = true := okSreg_of_toNat hi rfl
      have unpriv : sregWritePriv i.toNat = false := by rw [hi]; rfl
      have issued := IssueFrame.past s t 1
      refine ⟨fun hv => exec_mtsr_bad named (.inl unpriv) (by simp [hi, sregBad, hv]) h, fun hv hu => ?_, fun hv hu => ?_⟩
      all_goals
        refine exec_mtsr_value named (.inl unpriv) (by simp [hi, sregBad, hv]) ?_ h
        simp [hi, sregWrite, issued.privileged, issued.cur, hu, n, c]
    · intro t a i s hi h
      have named : okSreg i = true := okSreg_of_toNat hi rfl
      have unpriv : sregWritePriv i.toNat = false := by rw [hi]; rfl
      refine ⟨fun hv => exec_mtsr_value named (.inl unpriv) (by simp [hi, sregBad, hv]) ?_ h,
        fun hv => exec_mtsr_bad named (.inl unpriv) (by simp [hi, sregBad, hv]) h⟩
      rw [hi, sregWrite, (IssueFrame.past s t 1).cur, vtypeKeep]
    · intro t a i s hi h
      refine exec_mtsr_value (okSreg_of_toNat hi rfl) (.inl (by rw [hi]; rfl)) (by rw [hi]; rfl) ?_ h
      rw [hi, sregWrite]
    · intro t a i s hlo hhi h hp
      obtain ⟨taken, effect⟩ := sregWrite_budget (past s t 1) (reg s a) hlo hhi
      rw [(IssueFrame.past s t 1).cur] at effect
      exact exec_mtsr_value ((okSreg_iff i).mpr (by omega)) (.inr hp) taken effect h
    · intro t a i s hi h
      obtain ⟨unpriv, taken, effect⟩ := sregWrite_readOnly (past s t 1) (reg s a) hi
      exact exec_mtsr_value (okSreg_of_readOnly hi) (.inl unpriv) taken effect h
    · intro t a i s hm hp hu
      exact exec_mtsr_priv (okSreg_of_sregWritePriv hp) hm hp hu
  · intro s n c
    exact ⟨fun _ => co_modCo_same .., fun _ => co_modCo_same .., fun _ => co_modCo_same .., fun _ => co_modCo_same ..,
      fun _ => co_modCo_same .., fun _ => co_modCo_same .., fun _ => by simp [applyLate], fun _ => by simp [applyLate],
      fun _ => by simp [applyLate], fun _ => by simp [applyLate], fun _ => by simp [applyLate]⟩

end Sys2Proof.Machine
end

section
/-! PROOFS. Line fetch (R40, R46, R48): when a line is wanted, and what its fetch leaves in the line buffer. -/

namespace Sys2Proof.Machine

/-- LINE_FETCH as its own definition gives it. -/
theorem exec_lineFetch (n c : Nat) (q : Seq) (s : State) : exec (.lineFetch n c q) s = execLineFetch n c q s := rfl

/-- A sequencer that runs or is blocked on a core that runs wants the line of its program counter unless its buffer holds
that line (R48). -/
theorem lineWanted_of_run {s : State} {n c : Nat} {q : Seq} (hm : (co s n c).mode = .run) (hr : (co s n c).resumeAt ≤ s.now)
    (ha : (sq s n c q).status = .running ∨ (sq s n c q).status = .blocked) :
    let idx := (sq s n c q).pc.toNat / 16
    ((sq s n c q).line = .none → lineWanted s n c q = some idx)
    ∧ (∀ i bits, (sq s n c q).line = .ready i bits → lineWanted s n c q = if i = idx then none else some idx)
    ∧ ∀ i code addr, (sq s n c q).line = .bad i code addr → lineWanted s n c q = if i = idx then none else some idx := by
  have stopped : ((sq s n c q).status != .stopped) = true := by rcases ha with h | h <;> simp [h]
  have idle : ((sq s n c q).status != .idle) = true := by rcases ha with h | h <;> simp [h]
  refine ⟨fun h => ?_, fun i bits h => ?_, fun i code addr h => ?_⟩
  · simp [lineWanted, hm, hr, stopped, idle, h]
  · by_cases hi : i = (sq s n c q).pc.toNat / 16 <;> simp [lineWanted, hm, hr, stopped, idle, h, hi]
  · by_cases hi : i = (sq s n c q).pc.toNat / 16 <;> simp [lineWanted, hm, hr, stopped, idle, h, hi]

section
variable {s : State} {n c : Nat} {q : Seq} {idx : Nat}

theorem exec_lineFetch_none (h : lineWanted s n c q = none) : exec (.lineFetch n c q) s = .next s := by
  rw [exec_lineFetch, execLineFetch, h]

/-- A line that the image does not have is ILLEGAL at the program counter. -/
theorem exec_lineFetch_outside (h : lineWanted s n c q = some idx) (hi : idx = 0 ∨ (imageOf (co s n c)).2.1 ≤ idx) :
    exec (.lineFetch n c q) s
      = .next (modSq s n c q fun k => { k with line := .bad idx codeIllegal (pcWord (sq s n c q).pc) }) := by
  simp only [exec_lineFetch, execLineFetch, h, if_pos hi]

/-- A line of the image is not fetched while the HBM bucket is empty (R33). -/
theorem exec_lineFetch_waits (h : lineWanted s n c q = some idx) (h1 : 1 ≤ idx) (h2 : idx < (imageOf (co s n c)).2.1)
    (hw : fetchHold s n c (lineVa (imageOf (co s n c)).1 idx) = true) : exec (.lineFetch n c q) s = .next s := by
  have inside : ¬(idx = 0 ∨ (imageOf (co s n c)).2.1 ≤ idx) := by omega
  simp only [exec_lineFetch, execLineFetch, h, if_neg inside, if_pos hw]

/-- Otherwise what its read gave is checked and stands in the line buffer. -/
theorem exec_lineFetch_reads (h : lineWanted s n c q = some idx) (h1 : 1 ≤ idx) (h2 : idx < (imageOf (co s n c)).2.1)
    (hw : fetchHold s n c (lineVa (imageOf (co s n c)).1 idx) = false) {r : Sum Nat (BitVec 512)} {z : State}
    (hz : readLine s n c (lineVa (imageOf (co s n c)).1 idx) = (r, z)) :
    exec (.lineFetch n c q) s = .next (modSq z n c q fun k =>
      { k with line := fetchedLine idx q (lineVa (imageOf (co s n c)).1 idx) (sq s n c q).pc r }) := by
  have inside : ¬(idx = 0 ∨ (imageOf (co s n c)).2.1 ≤ idx) := by omega
  simp [exec_lineFetch, execLineFetch, h, inside, hw, hz]

end

/-! The line buffer after a fetch (R46). -/

theorem fetchedLine_wrongSeq (idx : Nat) {q : Seq} (va : Word) (pc : BitVec 28) {bits : BitVec 512}
    (h : linkSeq bits ≠ seqIdx q) : fetchedLine idx q va pc (.inr bits) = .bad idx codeWrongSeq (pcWord pc) := by
  rw [fetchedLine, if_pos h]

theorem fetchedLine_illegal (idx : Nat) {q : Seq} (va : Word) (pc : BitVec 28) {bits : BitVec 512}
    (h : linkSeq bits = seqIdx q) (hn : linkNu bits = 15) :
    fetchedLine idx q va pc (.inr bits) = .bad idx codeIllegal (pcWord pc) := by
  rw [fetchedLine, if_neg (not_not.mpr h), if_pos hn]

theorem fetchedLine_ready (idx : Nat) {q : Seq} (va : Word) (pc : BitVec 28) {bits : BitVec 512}
    (h : linkSeq bits = seqIdx q) (hn : linkNu bits ≠ 15) : fetchedLine idx q va pc (.inr bits) = .ready idx bits := by
  rw [fetchedLine, if_neg (not_not.mpr h), if_neg hn]

/-- Settles O49: the line that a sequencer wants, and the line buffer that each outcome of its read gives. -/
theorem lineFetch : Obligations.LineFetch := by
  refine ⟨fun s n c q hm hr ha => lineWanted_of_run hm hr ha, ?_, fun s n c q h => exec_lineFetch_none h⟩
  intro s n c q idx h img va at_ got
  refine ⟨exec_lineFetch_outside h, fun h1 h2 => ⟨exec_lineFetch_waits h h1 h2,
    fun hw => ⟨fun bits z hz => ?_, fun code z hz => ?_⟩⟩⟩
  · have read := exec_lineFetch_reads h h1 h2 hw hz
    refine ⟨fun hs => ?_, fun hs hn => ?_, fun hs hn => ?_⟩
    · rwa [fetchedLine_wrongSeq _ _ _ hs] at read
    · rwa [fetchedLine_illegal _ _ _ hs hn] at read
    · rwa [fetchedLine_ready _ _ _ hs hn] at read
  · exact exec_lineFetch_reads h h1 h2 hw hz

end Sys2Proof.Machine
end

section
/-! PROOFS. What a step leaves of the nodes, as far as a reader of them sees; and the accesses at the homes of lines, which
no reader of anything but memories, slices, L2 and walks sees (R191 to R211). -/

namespace Sys2Proof.Machine

/-! Readers of the nodes. -/

/-- The moving agent, the time and what `f` reads of every node stay as they are. -/
structure Keeps {α : Type} (f : Node → α) (s t : State) : Prop where
  cur   : t.cur = s.cur
  now   : t.now = s.now
  nodes : ∀ n, f (nd t n) = f (nd s n)

section
variable {α β : Type} {f : Node → α} {s t u : State}

theorem Keeps.refl (s : State) : Keeps f s s := ⟨rfl, rfl, fun _ => rfl⟩

theorem Keeps.trans (h : Keeps f s t) (g : Keeps f t u) : Keeps f s u :=
  ⟨g.cur.trans h.cur, g.now.trans h.now, fun n => (g.nodes n).trans (h.nodes n)⟩

theorem Keeps.foldl (step : State → β → State) (h : ∀ s x, Keeps f s (step s x)) (l : List β) (s : State) :
    Keeps f s (l.foldl step s) := by
  induction l generalizing s with
  | nil => exact .refl s
  | cons x r ih => exact (h s x).trans (ih _)

/-- A reader sees no more than what another reader has left it. -/
theorem Keeps.of {g : Node → Node} (h : Keeps g s t) (hf : ∀ d, f (g d) = f d) : Keeps f s t :=
  ⟨h.cur, h.now, fun n => by rw [← hf (nd t n), h.nodes, hf]⟩

theorem Keeps.comp {g : Node → β} (h : Keeps g s t) (r : β → α) : Keeps (fun d => r (g d)) s t :=
  ⟨h.cur, h.now, fun n => congrArg r (h.nodes n)⟩

/-- A step that changes no node. -/
theorem Keeps.sameNodes (hc : t.cur = s.cur) (hn : t.now = s.now) (h : t.nodes = s.nodes) : Keeps f s t :=
  ⟨hc, hn, fun n => by rw [nd, h, nd]⟩

theorem Keeps.schedule (s : State) (d : Nat) (i : Instr) : Keeps f s (schedule s d i) := .sameNodes rfl rfl rfl
theorem Keeps.later (s : State) (l : Late) : Keeps f s (later s l) := .sameNodes rfl rfl rfl

theorem Keeps.modNd (s : State) (n : Nat) {u : Node → Node} (h : f (u (nd s n)) = f (nd s n)) : Keeps f s (modNd s n u) :=
  ⟨rfl, rfl, fun m => by rw [nd_modNd]; split <;> simp_all⟩

theorem Keeps.modCo (s : State) (n c : Nat) {u : Core → Core}
    (h : f { nd s n with cores := smPut (nd s n).cores c (u (co s n c)) } = f (nd s n)) : Keeps f s (modCo s n c u) :=
  .modNd s n h

theorem Keeps.modQd (s : State) (n q : Nat) {u : Quad → Quad}
    (h : f { nd s n with quads := smPut (nd s n).quads q (u (qd s n q)) } = f (nd s n)) : Keeps f s (modQd s n q u) :=
  .modNd s n h

end

/-- What `g` reads of each core of a node. -/
def coresVia {β : Type} (g : Core → β) (d : Node) : Nat → β := fun c => g (smGet d.cores {} c)

/-- A reader of nodes sees a core as far as `g` does. -/
def SeesCores {α β : Type} (g : Core → β) (f : Node → α) : Prop :=
  ∀ d c k, g k = g (smGet d.cores {} c) → f { d with cores := smPut d.cores c k } = f d

theorem seesCores_via {β γ : Type} {g : Core → β} {h : Core → γ} (hg : ∀ k l, g k = g l → h k = h l) :
    SeesCores g (coresVia h) := by
  intro d c k hk
  funext j
  by_cases hj : j = c
  · subst hj; simp only [coresVia, smGet_smPut_same, hg _ _ hk]
  · simp only [coresVia, smGet_smPut_ne _ _ _ hj]

section
variable {α β : Type} {f : Node → α} {g : Core → β} {s t : State}

theorem Keeps.modCo_sees (hf : SeesCores g f) (s : State) (n c : Nat) {u : Core → Core} (h : ∀ k, g (u k) = g k) :
    Keeps f s (Machine.modCo s n c u) := .modCo s n c (hf _ _ _ (h _))

theorem Keeps.modSq_sees (hf : SeesCores g f) (s : State) (n c : Nat) (q : Seq) {u : Sequencer → Sequencer}
    (h : ∀ k q x, g (putSeq k q x) = g k) : Keeps f s (modSq s n c q u) :=
  .modCo_sees hf s n c fun _ => h ..

theorem Keeps.core (h : Keeps (coresVia g) s t) (n c : Nat) : g (co t n c) = g (co s n c) := congrFun (h.nodes n) c

/-- What is read of the core of the moving agent. -/
theorem Keeps.readCore (h : Keeps (coresVia g) s t) : g (cc t) = g (cc s) := by
  rw [cc, h.cur]
  exact h.core ..

theorem Keeps.readNode (h : Keeps f s t) : f (cn t) = f (cn s) := by
  rw [cn, h.cur]
  exact h.nodes _

end

/-! Homes. -/

/-- A node but for what an access at the home of a line changes: bytes and poison, slices, L2, cached walks, POISONZ. -/
def homeRest (d : Node) : Node :=
  { d with hbm := [], deep := [], host := [], hbmPoison := [], deepPoison := [], slices := [], l2 := [], walks := [], poisonZ := [] }

/-- A reader of nodes that sees no access at the home of a line. -/
def SeesNoHome {α : Type} (f : Node → α) : Prop := ∀ d, f (homeRest d) = f d

/-- A reader of nodes that sees no access on its way to a home: slices and L2. -/
def SeesNoPort {α : Type} (f : Node → α) : Prop := ∀ d sl l, f { d with slices := sl, l2 := l } = f d

/-- A reader of nodes that sees no charge of a bucket. -/
def SeesNoBucket {α : Type} (f : Node → α) : Prop := ∀ d b, f { d with bucket := b } = f d

section
variable {α : Type} {f : Node → α}

theorem SeesNoHome.eq (hf : SeesNoHome f) {d e : Node} (h : homeRest d = homeRest e) : f d = f e := by
  rw [← hf d, h, hf]

theorem SeesNoHome.port (hf : SeesNoHome f) : SeesNoPort f := fun _ _ _ => hf.eq rfl

theorem SeesNoPort.slices (hf : SeesNoPort f) (s : State) (n : Nat) (u : Node → SMap Slice) :
    Keeps f s (modNd s n fun d => { d with slices := u d }) := .modNd s n (hf _ _ _)

theorem Keeps.home (hf : SeesNoHome f) (s : State) (n : Nat) {u : Node → Node} (h : ∀ d, homeRest (u d) = homeRest d) :
    Keeps f s (Machine.modNd s n u) := .modNd s n (hf.eq (h _))

@[simp] theorem homeRest_setHomeMem (d : Node) (sp : Space) (m : Memory) : homeRest (setHomeMem d sp m) = homeRest d := by
  cases sp <;> rfl

@[simp] theorem homeRest_setPoison (d : Node) (sp : Space) (pa : Nat) (b : Bool) :
    homeRest (setPoison d sp pa b) = homeRest d := by
  cases sp <;> rfl

@[simp] theorem homeRest_homeWrite (d : Node) (sp : Space) (pa size mask v : Nat) :
    homeRest (homeWrite d sp pa size mask v) = homeRest d := by
  unfold homeWrite
  dsimp only
  split <;> simp

theorem homeWrite_keeps (hf : SeesNoHome f) (s : State) (n : Nat) (sp : Space) (pa size mask v : Nat) :
    Keeps f s (modNd s n fun d => homeWrite d sp pa size mask v) := .home hf s n fun _ => homeRest_homeWrite ..

theorem addPoisonZ_keeps (hf : SeesNoHome f) (s : State) (n c : Nat) : Keeps f s (addPoisonZ s n c) :=
  .home hf s n fun _ => rfl

theorem touchSlice_keeps (hf : SeesNoPort f) (s : State) (n sl : Nat) : Keeps f s (touchSlice s n sl) := by
  unfold touchSlice
  dsimp only
  split
  · refine .trans ?_ (.schedule ..)
    exact hf.slices s n _
  · exact hf.slices s n _
  · exact hf.slices s n _

/-- What an access of a line in HBM does to its node: the charge to its class, and the tags of L2 (R207, R459). -/
def portAccess (cls : Option Nat) (pa bytes : Nat) (write : Bool) (d : Node) : Node :=
  let v := portBytes d .hbm pa bytes write
  let d := match cls with
    | some k => if v = 0 then d else charge d k fun b => { b with hbm := drain b.hbm v }
    | none => d
  if d.dways = 16 then d
  else
    let set := smGet d.l2 [] (l2Key pa)
    match takeFirst (fun t => t.pa == pa / 128) set with
    | some (t, rest) => { d with l2 := smPut d.l2 (l2Key pa) ({ t with dirty := t.dirty || write } :: rest) }
    | none => { d with l2 := smPut d.l2 (l2Key pa) ((⟨pa / 128, write⟩ :: set).take (16 - d.dways)) }

theorem touch_hbm (s : State) (n : Nat) (cls : Option Nat) (pa bytes : Nat) (write : Bool) :
    touch s n cls .hbm pa bytes write = modNd (touchSlice s n (sliceOf pa)) n (portAccess cls pa bytes write) := rfl

theorem portAccess_reads (hf : SeesNoPort f) {cls : Option Nat} (hb : cls = none ∨ SeesNoBucket f) (pa bytes : Nat)
    (write : Bool) (d : Node) : f (portAccess cls pa bytes write d) = f d := by
  have l2 (d : Node) (l : SMap (List L2Tag)) : f { d with l2 := l } = f d := hf d _ l
  unfold portAccess
  extract_lets v d' set
  have charged : f d' = f d := by
    unfold d'
    rcases hb with rfl | hb
    · rfl
    · split
      · split
        · rfl
        · exact hb ..
      · rfl
  split
  · exact charged
  · split <;> exact (l2 ..).trans charged

/-- An access passes L2 or the port: a reader sees no more of it than the charge to its class. -/
theorem touch_keeps (hf : SeesNoPort f) {cls : Option Nat} (hb : cls = none ∨ SeesNoBucket f) (s : State) (n : Nat)
    (sp : Space) (pa bytes : Nat) (write : Bool) : Keeps f s (touch s n cls sp pa bytes write) := by
  cases sp with
  | host => exact .refl s
  | deep => exact touchSlice_keeps hf ..
  | hbm =>
    rw [touch_hbm]
    exact (touchSlice_keeps hf ..).trans (.modNd _ n (portAccess_reads hf hb ..))

theorem touchUncharged_keeps (hf : SeesNoPort f) (s : State) (n : Nat) (sp : Space) (pa bytes : Nat) (write : Bool) :
    Keeps f s (touch s n none sp pa bytes write) := touch_keeps hf (.inl rfl) ..

/-! Translations and checks. -/

theorem walkOnce_keeps (hf : SeesNoHome f) (s : State) (n : Nat) (root : Word) (asid va : Nat) :
    Keeps f s (walkOnce s n root asid va).2 := by
  unfold walkOnce
  extract_lets d ts s' r x
  have found : Keeps f s r.2.2 := by
    unfold r
    split
    · exact .refl s
    · split <;> exact .sameNodes rfl rfl rfl
  have read : Keeps f s x := found.trans (.foldl _ (fun s _ => touchUncharged_keeps hf.port s ..) _ _)
  split
  · dsimp only
    exact read.trans (.home hf _ n fun _ => rfl)
  · exact read

theorem leafFor_keeps (hf : SeesNoHome f) (s : State) (n : Nat) (c : Option Nat) (root : Word) (asid va : Nat) :
    Keeps f s (leafFor s n c root asid va).2 := by
  have fresh : Keeps f s { s with free := s.free + 1 } := .sameNodes rfl rfl rfl
  unfold leafFor
  extract_lets held
  clear_value held
  cases held with
  | none => exact walkOnce_keeps hf ..
  | some e =>
    dsimp -zeta only
    extract_lets same
    split
    · exact .refl s
    · split
      · exact fresh
      · exact fresh.trans (walkOnce_keeps hf ..)

section
variable {n : Nat} {c : Option Nat}

/-- A translation: a reader sees no more of it than what is cached in the TLBs of the core. -/
theorem xlate_keeps (hf : SeesNoHome f) (hc : ∀ s e, Keeps f s (tlbCache s n c e)) (s : State) (root : Word) (asid va : Nat)
    (need : Need) (win : Bool) : Keeps f s (xlate s n c root asid va need win).s := by
  have leaf := leafFor_keeps hf s n c root asid va
  unfold xlate
  extract_lets r x
  split
  · exact leaf
  · extract_lets pa inside t y
    split
    · exact leaf
    · split
      · exact leaf.trans (hc ..)
      · refine leaf.trans (.trans ?_ (hc ..))
        unfold y
        split
        · exact .refl _
        · refine .trans (touchUncharged_keeps hf.port _ n _ _ _ _) (.home hf _ n fun _ => rfl)

/-- The state that a check gives, where it gives one. -/
def Chk.Leaves (f : Node → α) (s : State) : Chk → Prop
  | .ok _ t => Keeps f s t
  | .fault _ t => Keeps f s t
  | .wait => True

theorem Chk.Leaves.ok {x : Chk} {s t : State} {g : Target} (h : x.Leaves f s) (hx : x = .ok g t) : Keeps f s t := by
  subst hx
  exact h

theorem Chk.leaves_ite {p : Prop} [Decidable p] {x y : Chk} {s : State} (hx : x.Leaves f s) (hy : y.Leaves f s) :
    (if p then x else y).Leaves f s := by
  split <;> assumption

/-- A check of the aperture changes nothing. -/
theorem chkSpad_keeps (s : State) (n c va size : Nat) (need : Need) : (chkSpad s n c va size need).Leaves f s := by
  have here : Keeps f s s := .refl s
  unfold chkSpad
  extract_lets p off
  refine Chk.leaves_ite here ?_
  split
  · exact Chk.leaves_ite here here
  · exact Chk.leaves_ite here (Chk.leaves_ite here (Chk.leaves_ite here (Chk.leaves_ite trivial here)))

theorem chkLocal_keeps (hf : SeesNoHome f) (hc : ∀ s e, Keeps f s (tlbCache s n c e)) (s : State) (root : Word)
    (asid va size : Nat) (need : Need) (win : Bool) : (chkLocal s n c root asid va size need win).Leaves f s := by
  have walked := xlate_keeps hf hc s root asid va need win
  unfold chkLocal
  split
  · split
    · exact chkSpad_keeps ..
    · exact .refl s
  · extract_lets x
    split
    · exact walked
    · split <;> exact walked

theorem chkAs_keeps (hf : SeesNoHome f) (hc : ∀ s e, Keeps f s (tlbCache s n c e)) (s : State) (root : Word)
    (asid : Nat) (va : Word) (size : Nat) (need : Need) : (chkAs s n c root asid va size need).Leaves f s := by
  have here : Keeps f s s := .refl s
  unfold chkAs
  exact Chk.leaves_ite (Chk.leaves_ite here (chkLocal_keeps hf hc ..)) (Chk.leaves_ite (Chk.leaves_ite here here) here)

theorem chkDevice_keeps (hf : SeesNoHome f) (hc : ∀ s e, Keeps f s (tlbCache s n c e)) (s : State) (va : Word) (size : Nat)
    (need : Need) : (chkDevice s n c va size need).Leaves f s := by
  exact Chk.leaves_ite (chkLocal_keeps hf hc ..) (.refl s)

end

/-- What starts at no core caches no translation. -/
theorem tlbCache_none (s : State) (n : Nat) (e : TlbEntry) : Keeps f s (tlbCache s n none e) := .refl s

/-- A write of the device for no core (R408). -/
theorem devWrite_keeps (hf : SeesNoHome f) (s : State) (n : Nat) (va : Word) (size v : Nat) :
    Keeps f s (devWrite s n none va size v).2 := by
  have checked := chkDevice_keeps hf (tlbCache_none · n) s va size .w
  unfold devWrite
  split
  · next h =>
    dsimp only
    exact ((checked.ok h).trans (touchUncharged_keeps hf.port ..)).trans (homeWrite_keeps hf ..)
  · next h => exact checked.ok h
  · next h => rw [h] at checked; exact checked
  · exact .refl s

end

end Sys2Proof.Machine
end

section
/-! PROOFS. What the accesses of a core leave: of its node and of the cores no more is seen than bytes, poison, caches,
translations, DETERM entries and the charge to a bucket (R191 to R242). -/

namespace Sys2Proof.Machine

/-- A core but for what an access changes: L1, TLB, its DETERM entries and the bytes of its scratchpad. -/
def accessCore (k : Core) : Core :=
  { k with l1 := [], tlb := [], detBuf := [], detMine := [], detNext := 0, spad := [], spadPoison := [] }

/-- A node but for what an access changes. -/
def accessRest (d : Node) : Node := { homeRest d with bucket := [], quads := [], cores := [] }

/-- What an access leaves of a node and of its cores. -/
def accessView (d : Node) : Node × (Nat → Core) := (accessRest d, coresVia accessCore d)

theorem accessView_noHome : SeesNoHome accessView := fun _ => rfl
theorem accessView_noBucket : SeesNoBucket accessView := fun _ _ => rfl
theorem accessView_cores : SeesCores accessCore accessView := fun d c k h =>
  Prod.ext rfl (seesCores_via (fun _ _ => id) d c k h)

/-! What a reader of `accessView` sees. -/

section
variable {s t : State}

theorem accessCore_of_keeps (h : Keeps accessView s t) : accessCore (cc t) = accessCore (cc s) :=
  Keeps.readCore (g := accessCore) (h.comp Prod.snd)

/-- An access leaves the sequencers of a core alone. -/
theorem Keeps.accessSeq (h : Keeps accessView s t) : cs t = cs s := by
  have same := congrArg (seqIn · s.cur.seq) (accessCore_of_keeps h)
  rw [cs, cs, sq, sq, h.cur]
  rwa [cc, h.cur] at same

theorem Keeps.accessReg (h : Keeps accessView s t) (r : Reg) : reg t r = reg s r := by
  rw [reg, h.accessSeq, reg]

theorem Keeps.accessTask (h : Keeps accessView s t) : (cc t).task = (cc s).task := by
  have same := congrArg Core.task (accessCore_of_keeps h)
  exact same

end

/-! Lines and entries. -/

theorem accessView_modCo (s : State) (n c : Nat) {u : Core → Core} (h : ∀ k, accessCore (u k) = accessCore k) :
    Keeps accessView s (modCo s n c u) := .modCo_sees accessView_cores s n c h

theorem accessView_home (s : State) (n : Nat) {u : Node → Node} (h : ∀ d, homeRest (u d) = homeRest d) :
    Keeps accessView s (modNd s n u) := .home accessView_noHome s n h

theorem accessView_touch (s : State) (n : Nat) (cls : Option Nat) (sp : Space) (pa bytes : Nat) (write : Bool) :
    Keeps accessView s (touch s n cls sp pa bytes write) := touch_keeps accessView_noHome.port (.inr accessView_noBucket) ..

theorem accessView_homeWrite (s : State) (n : Nat) (sp : Space) (pa size mask v : Nat) :
    Keeps accessView s (modNd s n fun d => homeWrite d sp pa size mask v) := homeWrite_keeps accessView_noHome ..

theorem accessView_setPoison (s : State) (n : Nat) (sp : Space) (pa : Nat) (b : Bool) :
    Keeps accessView s (modNd s n fun d => setPoison d sp pa b) := accessView_home s n fun _ => homeRest_setPoison ..

theorem accessView_addPoisonZ (s : State) (n c : Nat) : Keeps accessView s (addPoisonZ s n c) :=
  addPoisonZ_keeps accessView_noHome ..

theorem accessView_tlbCache (n : Nat) (c : Option Nat) (s : State) (e : TlbEntry) : Keeps accessView s (tlbCache s n c e) := by
  cases c with
  | none => exact .refl s
  | some c =>
    unfold tlbCache
    dsimp only
    refine .trans ?_ (.modQd _ n _ rfl)
    exact accessView_modCo s n c fun _ => rfl

theorem chk_keeps (s : State) (n c : Nat) (va : Word) (size : Nat) (need : Need) :
    (chk s n c va size need).Leaves accessView s := chkAs_keeps accessView_noHome (accessView_tlbCache n (some c)) ..

theorem writeBack_keeps (s : State) (n : Nat) (l : L1Line) : Keeps accessView s (writeBack s n l) := by
  unfold writeBack
  split
  · exact .refl s
  · refine .trans (accessView_touch s n none _ _ _ _) (accessView_home _ n fun d => ?_)
    dsimp only
    split <;> simp

theorem l1Room_keeps (s : State) (n c pa : Nat) : Keeps accessView s (l1Room s n c pa).2 := by
  unfold l1Room
  extract_lets k used taken
  split
  · exact .refl s
  · split
    · exact .refl s
    · refine .trans ?_ (writeBack_keeps ..)
      exact accessView_modCo s n c fun _ => rfl

theorem l1Fill_keeps (s : State) (n c : Nat) (cls : Option Nat) (sp : Space) (pa : Nat) (k : Kind) (readIn : Bool) :
    Keeps accessView s (l1Fill s n c cls sp pa k readIn) := by
  have read : Keeps accessView s (if readIn then touch s n cls sp (pa / 128 * 128) 128 false else s) := by
    split
    · exact accessView_touch ..
    · exact .refl s
  have room := read.trans (l1Room_keeps _ n c (pa / 128 * 128))
  unfold l1Fill
  exact room.trans (accessView_modCo _ n c fun _ => rfl)

theorem l1Get_keeps (s : State) (n c : Nat) (cls : Option Nat) (sp : Space) (pa : Nat) (k : Kind) (readIn : Bool) :
    Keeps accessView s (l1Get s n c cls sp pa k readIn).2 := by
  unfold l1Get
  split
  · dsimp only
    exact accessView_modCo s n c fun _ => rfl
  · exact l1Fill_keeps ..

theorem l1Drop_keeps (s : State) (n c : Nat) (sp : Space) (pa : Nat) (wb : Bool) : Keeps accessView s (l1Drop s n c sp pa wb) := by
  unfold l1Drop
  split
  · exact .refl s
  · have dropped (l : List L1Line) : Keeps accessView s (modCo s n c fun q => { q with l1 := l }) :=
      accessView_modCo s n c fun _ => rfl
    dsimp only
    split
    · exact (dropped _).trans (writeBack_keeps ..)
    · exact dropped _

/-! Loads and stores. -/

theorem loadMem_keeps (s : State) (n c : Nat) (cls : Option Nat) (sp : Space) (pa : Nat) (k : Kind) (size : Nat) :
    Keeps accessView s (loadMem s n c cls sp pa k size).2.2 := by
  have passed := (l1Drop_keeps s n c sp pa true).trans (accessView_touch _ n cls sp (pa / 128 * 128) size false)
  unfold loadMem
  split
  · exact l1Get_keeps ..
  · extract_lets t p
    split <;> exact passed

theorem readT_keeps (s : State) (n c : Nat) (cls : Option Nat) (t : Target) (size : Nat) :
    Keeps accessView s (readT s n c cls t size).s := by
  cases t with
  | mem sp pa k zp =>
    have read := loadMem_keeps s n c cls sp pa k size
    unfold readT
    dsimp only
    split
    · exact read.trans (accessView_addPoisonZ ..)
    · exact read
  | spad o off => exact .refl s
  | remote m rl off => exact .refl s

theorem detPut_keeps (s : State) (n c : Nat) (e : DetEntry) : Keeps accessView s (detPut s n c e) :=
  accessView_modCo s n c fun _ => rfl

theorem storeMem_keeps (s : State) (n c : Nat) (cls : Option Nat) (sp : Space) (pa : Nat) (k : Kind) (size mask v : Nat) :
    Keeps accessView s (storeMem s n c cls sp pa k size mask v) := by
  unfold storeMem
  extract_lets whole off r m old x
  split
  · exact (l1Get_keeps ..).trans (accessView_modCo _ n c fun _ => rfl)
  · split
    · exact (l1Drop_keeps ..).trans (detPut_keeps ..)
    · exact ((l1Drop_keeps ..).trans (accessView_touch ..)).trans (accessView_homeWrite ..)

theorem accessCore_spadWrite (k : Core) (off size mask v : Nat) : accessCore (spadWrite k off size mask v) = accessCore k := by
  unfold spadWrite
  dsimp only
  split <;> rfl

theorem writeT_keeps (s : State) (n c : Nat) (cls : Option Nat) (t : Target) (size mask v : Nat) :
    Keeps accessView s (writeT s n c cls t size mask v) := by
  cases t with
  | mem sp pa k zp => exact storeMem_keeps ..
  | spad o off => exact accessView_modCo s n o fun _ => accessCore_spadWrite ..
  | remote m rl off => exact .refl s

theorem poisonT_keeps (s : State) (n c : Nat) (t : Target) : Keeps accessView s (poisonT s n c t) := by
  cases t with
  | mem sp pa k zp =>
    unfold poisonT
    dsimp only
    split
    · exact accessView_modCo s n c fun _ => rfl
    · split
      · split
        · exact accessView_modCo s n c fun _ => rfl
        · exact accessView_setPoison ..
      · exact accessView_setPoison ..
  | spad o off =>
    unfold poisonT
    exact accessView_modCo s n o fun _ => rfl
  | remote m rl off => exact .refl s

/-! The window, and engines. -/

theorem performWindow_keeps (s : State) (n : Nat) (r : WinReq) : Keeps accessView s (performWindow s n r).1 := by
  unfold performWindow
  extract_lets rep need cls
  have checked := chkLocal_keeps accessView_noHome (accessView_tlbCache n none) s (smGet (nd s n).troot 0 r.asid) r.asid
    r.off r.size need true
  split
  · exact .refl s
  · exact .refl s
  · next sp pa kind zp s' h =>
    have there := checked.ok h
    extract_lets t
    have dropped : Keeps accessView s t := by
      unfold t
      split
      · exact there.trans (l1Drop_keeps ..)
      · exact there
    split
    · split
      · exact .refl s
      · have read : Keeps accessView s (touch t n cls sp pa r.size false) := dropped.trans (accessView_touch ..)
        split
        · exact read.trans (accessView_addPoisonZ ..)
        · exact read
    · have stored := (dropped.trans (accessView_touch _ n cls sp pa r.size true)).trans
        (accessView_homeWrite _ n sp pa r.size (fullMask r.size) r.data.toNat)
      dsimp only
      split
      · exact stored.trans (accessView_setPoison ..)
      · exact stored
    · split
      · exact .refl s
      · split
        · exact .refl s
        · exact ((dropped.trans (accessView_touch ..)).trans (accessView_touch ..)).trans (accessView_homeWrite ..)
  · exact .refl s

theorem engWindow_keeps (a : Agent) (m : Nat) (rl : Bool) (off size : Nat) (op : WinOp) (v : Nat) (p : Bool) (s : State) :
    Keeps accessView s (engWindow a m rl off size op v p s).s := by
  unfold engWindow windowNow
  dsimp only
  split
  · exact .refl s
  · exact performWindow_keeps ..

theorem engRead_keeps (a : Agent) (t : Target) (size : Nat) (s : State) : Keeps accessView s (engRead a t size s).s := by
  cases t with
  | remote m rl off => exact engWindow_keeps ..
  | spad o off => exact readT_keeps ..
  | mem sp pa k zp =>
    unfold engRead
    extract_lets near
    clear_value near
    cases near with
    | some c => exact readT_keeps ..
    | none =>
      have passed : Keeps accessView s (touch s a.n (some a.cls) sp (pa / 128 * 128) size false) := accessView_touch ..
      dsimp only
      split
      · exact passed.trans (accessView_addPoisonZ ..)
      · exact passed

theorem engWrite_keeps (a : Agent) (t : Target) (size v : Nat) (poison : Bool) (s : State) :
    Keeps accessView s (engWrite a t size v poison s).2 := by
  have near (c : Nat) (t : Target) :
      Keeps accessView s (if poison then poisonT (writeT s a.n c (some a.cls) t size (fullMask size) v) a.n c t
        else writeT s a.n c (some a.cls) t size (fullMask size) v) := by
    split
    · exact (writeT_keeps ..).trans (poisonT_keeps ..)
    · exact writeT_keeps ..
  cases t with
  | remote m rl off => exact engWindow_keeps a m rl off size .store v poison s
  | spad o off => exact near ..
  | mem sp pa k zp =>
    have dropped : Keeps accessView s (match a.c with | some c => l1Drop s a.n c sp pa true | none => s) := by
      split
      · exact l1Drop_keeps ..
      · exact .refl s
    have stored := (dropped.trans (accessView_touch _ a.n (some a.cls) sp pa size true)).trans
      (accessView_homeWrite _ a.n sp pa size (fullMask size) v)
    unfold engWrite
    dsimp only
    by_cases hk : k = .determ
    · rw [if_pos hk]
      exact near ..
    · rw [if_neg hk]
      cases poison with
      | false => exact stored
      | true => exact stored.trans (accessView_setPoison ..)

/-! What an instruction reads before it issues. -/

theorem loadPiece_keeps {va : Word} {size : Nat} {s s' : State} {x : Nat × Bool} (h : loadPiece va size s = .go x s') :
    Keeps accessView s s' := by
  have checked := chk_keeps s s.cur.node s.cur.core va size .r
  unfold loadPiece at h
  dsimp only at h
  split at h
  · cases h
  · cases h
  · next t s1 hc =>
    have there := checked.ok hc
    split at h
    · split at h
      · cases h
      · split at h
        · cases h
        · cases h
          exact there.trans (engRead_keeps ..)
    · split at h
      · cases h
      · cases h
        exact there.trans (readT_keeps ..)

theorem readWhole_keeps {va : Word} {size : Nat} {s s' : State} {v : Nat} (h : readWhole va size s = .go v s') :
    Keeps accessView s s' := by
  unfold readWhole at h
  dsimp only at h
  split at h
  · cases h
  · split at h
    · cases h
    · cases h
    · next x s1 h1 =>
      have first := loadPiece_keeps h1
      split at h
      · split at h
        · cases h
        · cases h
          exact first
      · split at h
        · cases h
        · cases h
        · next y s2 h2 =>
          split at h
          · cases h
          · injection h with _ hs
            subst hs
            exact first.trans (loadPiece_keeps h2)

theorem accessPre_keeps {s s' : State} {va : Word} {size align : Nat} {need : Need} {write : Bool} {x : Access}
    (h : accessPre s va size align need write = .go x s') : Keeps accessView s s' := by
  have checked := chk_keeps s s.cur.node s.cur.core va size need
  unfold accessPre at h
  dsimp only at h
  split at h
  · cases h
  · split at h
    · cases h
    · cases h
    · next t s1 hc =>
      split at h
      · cases h
      · split at h
        · cases h
        · split at h
          · cases h
          · split at h
            · cases h
            · cases h
            · cases h
              exact checked.ok hc

end Sys2Proof.Machine
end

section
/-! PROOFS. What a transfer that sets out leaves of the nodes: the fabric's own queues are all that it changes (R314, R318). -/

namespace Sys2Proof.Machine

/-- A node but for the queues of the fabric. -/
def fabricRest (d : Node) : Node := { d with links := [], netSeq := 0, paceq := [] }

/-- A reader of nodes that sees no transfer. -/
def SeesNoFabric {α : Type} (f : Node → α) : Prop := ∀ d, f (fabricRest d) = f d

section
variable {α : Type} {f : Node → α}

/-- A step under a reader that sees no more of a node than `g` leaves of it. -/
theorem Keeps.under {g : Node → Node} (hf : ∀ d, f (g d) = f d) (s : State) (n : Nat) {u : Node → Node}
    (h : g (u (nd s n)) = g (nd s n)) : Keeps f s (Machine.modNd s n u) :=
  .modNd s n (by rw [← hf, h, hf])

theorem modLink_keeps (hf : SeesNoFabric f) (s : State) (n key : Nat) (u : Link → Link) : Keeps f s (modLink s n key u) := by
  unfold modLink
  exact .under hf s n rfl

theorem inject_keeps (hf : SeesNoFabric f) (s : State) (n size : Nat) (p : Parcel) : Keeps f s (inject s n size p) := by
  unfold inject routeOn
  dsimp only
  split
  · exact modLink_keeps hf ..
  · exact .refl s

theorem injectAll_keeps (hf : SeesNoFabric f) (n : Nat) (p : Parcel) (fuel left : Nat) (s : State) :
    Keeps f s (injectAll n p fuel left s) := by
  induction fuel generalizing left s with
  | zero => exact .refl s
  | succ fuel ih =>
    have first := inject_keeps hf s n (nextPacket p.what left) p
    unfold injectAll
    dsimp only
    split
    · exact first
    · exact first.trans (ih ..)

theorem netPut_keeps (hf : SeesNoFabric f) (s : State) (n left : Nat) (p : Parcel) : Keeps f s (netPut s n left p) := by
  unfold netPut
  split
  · exact injectAll_keeps hf ..
  · exact .under hf s n rfl

theorem netSend_keeps (hf : SeesNoFabric f) (s : State) (n m ch tenant bytes : Nat) (i : Instr) :
    Keeps f s (netSend s n m ch tenant bytes i) := by
  unfold netSend
  split
  · exact .schedule ..
  · exact .trans (.under hf s n rfl) (netPut_keeps hf ..)

theorem travel_keeps (hf : SeesNoFabric f) (s : State) (n m bytes : Nat) (i : Instr) : Keeps f s (travel s n m bytes i) :=
  netSend_keeps hf ..

/-! A collective that stops (R357). -/

/-- A node but for what a collective that stops changes: its entries, their staging, the waits of cores and of saved
contexts, and the transfers to its partners. -/
def collRest (d : Node) : Node := { fabricRest d with cores := [], areas := [], tiles := [], staging := 0 }

theorem stopTile_keeps (hf : ∀ d, f (collRest d) = f d) (s : State) (n e state code : Nat) :
    Keeps f s (stopTile s n e state code) := by
  unfold stopTile collComplete freeRuns modTile
  exact (((Keeps.under hf s n rfl).trans (.under hf _ n rfl)).trans (.under hf _ n rfl)).trans (.under hf _ n rfl)

theorem abortPeers_keeps (hf : ∀ d, f (collRest d) = f d) (s : State) (n e : Nat) : Keeps f s (abortPeers s n e) := by
  have blind : SeesNoFabric f := fun d => by rw [← hf, ← hf d]; rfl
  unfold abortPeers
  refine .foldl _ (fun s j => ?_) _ s
  dsimp only
  split
  · exact .refl s
  · exact travel_keeps blind ..

theorem stopColl_keeps (hf : ∀ d, f (collRest d) = f d) (s : State) (n e state code : Nat) :
    Keeps f s (stopColl s n e state code) := by
  unfold stopColl
  dsimp only
  split
  · exact .refl s
  · exact ((stopTile_keeps hf ..).trans (abortPeers_keeps hf ..)).trans
      (.foldl _ (fun s x => (stopTile_keeps hf ..).trans (abortPeers_keeps hf ..)) _ _)

end

end Sys2Proof.Machine
end

section
/-! PROOFS. What the host and the environment do to a node that runs (R209, R269, R318, R444 to R452). -/

namespace Sys2Proof.Machine

/-! Register writes (R445, R451). -/

theorem exec_registerWrite (n off size : Nat) (v : Word) (s : State) :
    exec (.registerWrite n off size v) s = .next (if size ≠ 8 ∨ off % 8 ≠ 0 then s else windowWrite s n off v) := rfl

theorem windowWrite_start (s : State) (n : Nat) {off : Nat} (v : Word) (h : off < 0x70) :
    windowWrite s n off v = startReg s n off v := by
  rw [windowWrite, if_pos h]

/-- The words of the configuration are those of PHASE 3. -/
theorem windowWrite_config {s : State} {n : Nat} (v : Word) (h : (nd s n).phase = 3) :
    windowWrite s n 0x28 v = modNd s n (fun d => { d with dways := fld v 4 0 })
    ∧ windowWrite s n 0x30 v = modNd s n (fun d => { d with epHome := v })
    ∧ windowWrite s n 0x38 v = modNd s n (fun d => { d with dspill := v })
    ∧ windowWrite s n 0x40 v = modNd s n (fun d => { d with retIdle := v &&& 0xFFFF }) := by
  refine ⟨?_, ?_, ?_, ?_⟩ <;> rw [windowWrite_start _ _ _ (by decide)] <;> simp [startReg, h]

theorem windowWrite_configured {s : State} {n : Nat} (v : Word) (h : (nd s n).phase = 4) :
    windowWrite s n 0x28 v = s ∧ windowWrite s n 0x30 v = s ∧ windowWrite s n 0x38 v = s := by
  refine ⟨?_, ?_, ?_⟩ <;> rw [windowWrite_start _ _ _ (by decide)] <;> simp [startReg, h]

theorem fld_low5 (v : Word) : fld v 4 0 = v.toNat % 32 := by
  simp [fld, bitsOf]

theorem exec_tenantConfigWrite (n t w : Nat) (v : Word) (s : State) :
    exec (.tenantConfigWrite n t w v) s = .next (tenantWrite s n t w v) := rfl

theorem tenantWrite_none {s : State} {n t w : Nat} {v : Word}
    (h : ((nd s n).phase ≠ 3 ∧ (nd s n).phase ≠ 4) ∨ 64 ≤ t ∨ tnWord w v = none) : tenantWrite s n t w v = s := by
  unfold tenantWrite
  dsimp only
  split
  · rfl
  · next hn =>
    have hw : tnWord w v = none := by tauto
    rw [hw]

theorem tenantWrite_some {s : State} {n t w : Nat} {v x : Word} (hp : (nd s n).phase = 3 ∨ (nd s n).phase = 4) (ht : t < 64)
    (hw : tnWord w v = some x) : tenantWrite s n t w v = later s (.tnWord n t w x) := by
  have allowed : ¬(((nd s n).phase ≠ 3 ∧ (nd s n).phase ≠ 4) ∨ 64 ≤ t) := by omega
  rw [tenantWrite, if_neg allowed, hw]

/-! The host's reads and writes of HBM (R447). -/

theorem exec_hostMemoryAccess (n pa : Nat) (store : Bool) (bytes : List Byte) (s : State) :
    exec (.hostMemoryAccess n pa store bytes) s
      = .next (if 2 ^ 39 < pa + bytes.length then s
          else if store then hostStore n (bytes.length + 1) pa bytes s else hostTouch s n pa bytes.length) := rfl

theorem seesNoPort_homeMem : SeesNoPort homeMem := by
  intro d sl l
  funext sp
  cases sp <;> rfl

/-- A read of the host changes no byte. -/
theorem hostTouch_keeps (s : State) (n pa len : Nat) : Keeps homeMem s (hostTouch s n pa len) := by
  unfold hostTouch
  split
  · exact .refl s
  · exact .foldl _ (fun s l => touchUncharged_keeps seesNoPort_homeMem s n .hbm (128 * l) 128 false) _ s

/-- A write of the host within one line. -/
theorem hostStore_line (s : State) (n pa : Nat) {bs : List Byte} (h : bs ≠ []) (hl : pa % 128 + bs.length ≤ 128) :
    hostStore n (bs.length + 1) pa bs s
      = modNd (touch s n none .hbm pa bs.length true) n
          fun d => homeWrite d .hbm pa bs.length (fullMask bs.length) (bytesVal bs) := by
  have size : min bs.length (128 - pa % 128) = bs.length := by omega
  have last (k : Nat) (s : State) (a : Nat) : hostStore n k a [] s = s := by cases k <;> rfl
  rw [hostStore, if_neg (by simpa using h), size]
  dsimp only
  rw [List.take_length, List.drop_length]
  exact last ..

theorem bytesVal_lt (bs : List Byte) : bytesVal bs < 2 ^ (8 * bs.length) := by
  induction bs with
  | nil => simp [bytesVal]
  | cons b r ih =>
    have low := b.isLt
    rw [bytesVal, List.length_cons, Nat.mul_succ, Nat.pow_add]
    omega

/-- What the host writes within one line is read back, and the other bytes stay (R2). -/
theorem hostStore_line_bytes {s : State} {n pa : Nat} {bs : List Byte} (hl : pa % 128 + bs.length ≤ 128)
    (wf : Memory.wf (nd s n).hbm = true) (y : State) (hy : y = hostStore n (bs.length + 1) pa bs s) :
    homeRead (nd y n) .hbm pa bs.length = bytesVal bs
    ∧ ∀ b, b < homeAddr (nd s n) .hbm pa ∨ homeAddr (nd s n) .hbm pa + bs.length ≤ b →
        smGet (homeMem (nd y n) .hbm) 0 b = smGet (homeMem (nd s n) .hbm) 0 b := by
  by_cases hb : bs = []
  · subst hb hy
    exact ⟨rfl, fun _ _ => rfl⟩
  · have passed : Keeps homeMem s (touch s n none .hbm pa bs.length true) := touchUncharged_keeps seesNoPort_homeMem ..
    have same := congrFun (passed.nodes n) .hbm
    have wf' : Memory.wf (homeMem (nd (touch s n none .hbm pa bs.length true) n) .hbm) = true := by rw [same]; exact wf
    obtain ⟨read, rest, -⟩ := homeMemory _ .hbm pa bs.length (bytesVal bs) wf'
    rw [hy, hostStore_line s n pa hb hl, nd_modNd_same]
    refine ⟨read.trans (Nat.mod_eq_of_lt (bytesVal_lt bs)), fun b h => ?_⟩
    rw [← same]
    exact rest b h

/-! A node that is lost (R450). -/

theorem exec_nodelost (n lost : Nat) (s : State) : exec (.nodelost n lost) s = .next (nodeLost s n lost) := rfl

theorem loseColl_keeps (s : State) (n m : Nat) : Keeps Node.lost s (loseColl s n m) :=
  .foldl _ (fun _ _ => stopColl_keeps (fun _ => rfl) ..) _ s

/-- What waits for a lost node is told so by events alone. -/
def tellCore (lost n : Nat) (s : State) (x : Nat × Core) : State :=
  let s := (tagsTo x.2 lost).foldl (fun s t => schedule s 0 (.windowPeergone n x.1 t)) s
  let s := match x.2.tlbWait with
    | some w => if w.left.contains lost then schedule s 0 (.tlbinvPeergone n x.1) else s
    | none => s
  match (seqIn x.2 .ctrl).hold with
  | .parkget _ _ m _ => if m = lost then schedule s 0 (.pparkgetPeergone n x.1) else s
  | _ => s

theorem tellCore_keeps {α : Type} {f : Node → α} (lost n : Nat) (s : State) (x : Nat × Core) :
    Keeps f s (tellCore lost n s x) := by
  have tags : Keeps f s ((tagsTo x.2 lost).foldl (fun s t => schedule s 0 (.windowPeergone n x.1 t)) s) :=
    .foldl _ (fun s t => .schedule ..) _ s
  unfold tellCore
  extract_lets s1 s2
  have told : Keeps f s s2 := by
    unfold s2
    split
    · split
      · exact tags.trans (.schedule ..)
      · exact tags
    · exact tags
  split
  · split
    · exact told.trans (.schedule ..)
    · exact told
  · exact told

/-- A node that loses another notes it; every other node notes nothing. -/
theorem loseOn_lost (lost n : Nat) (s : State) (k : Nat) :
    (nd (loseOn lost n s) k).lost
      = if k = n ∧ lost ∉ (nd s k).lost then (nd s k).lost ++ [lost] else (nd s k).lost := by
  have rest (t : State) : Keeps Node.lost t (loseColl (((nd ((nd t n).cores.foldl (tellCore lost n) t) n).outMsgs.filter
      fun o => o.msg.dst == lost).foldl (fun s o => schedule s 0 (.messagePeergone n o.msg.ep o.msg.sseq))
        ((nd t n).cores.foldl (tellCore lost n) t)) n lost) :=
    ((Keeps.foldl _ (tellCore_keeps lost n) _ t).trans (.foldl _ (fun s o => .schedule ..) _ _)).trans (loseColl_keeps ..)
  refine ((rest _).nodes k).trans ?_
  rw [nd_modNd]
  by_cases hk : k = n
  · subst hk
    by_cases hm : lost ∈ (nd s k).lost <;> simp [hm]
  · simp [hk]

theorem isLost_loseOn (lost n : Nat) (s : State) (k m : Nat) (h : isLost s k m = true ∨ k = n ∧ m = lost) :
    isLost (loseOn lost n s) k m = true := by
  simp only [isLost, loseOn_lost, List.contains_iff_mem] at h ⊢
  split
  · rcases h with h | ⟨-, rfl⟩ <;> simp_all
  · rcases h with h | ⟨rfl, rfl⟩ <;> simp_all

theorem isLost_losers (lost : Nat) (l : List Nat) (s : State) (k : Nat) (h : isLost s k lost = true ∨ k ∈ l) :
    isLost (l.foldl (fun s m => loseOn lost m s) s) k lost = true := by
  induction l generalizing s with
  | nil => exact h.resolve_right List.not_mem_nil
  | cons n r ih =>
    refine ih _ ?_
    rcases h with h | h
    · exact .inl (isLost_loseOn _ _ _ _ _ (.inl h))
    · rcases List.mem_cons.mp h with rfl | h
      · exact .inl (isLost_loseOn _ _ _ _ _ (.inr ⟨rfl, rfl⟩))
      · exact .inr h

theorem nodeLost_idle {s : State} {n : Nat} (m : Nat) (h3 : (nd s n).phase ≠ 3) (h4 : (nd s n).phase ≠ 4) :
    nodeLost s n m = s := by
  rw [nodeLost, if_pos ⟨h3, h4⟩]

theorem nodeLost_all {s : State} {n : Nat} (m : Nat) (h : (nd s n).phase = 3 ∨ (nd s n).phase = 4) {k : Nat}
    (hk : k ∈ allNodes s) : isLost (nodeLost s n m) k m = true := by
  have runs : ¬((nd s n).phase ≠ 3 ∧ (nd s n).phase ≠ 4) := by omega
  rw [nodeLost, if_neg runs]
  exact isLost_losers m _ _ k (.inr hk)

/-! The shutter table is cleared (R452). -/

theorem exec_shutclr (n : Nat) (s : State) : exec (.shutclr n) s = .next (shutterEnd s n) := rfl

/-- What the queues of destinations hold sets out: owner, runs, shadow and rotations stay as they are. -/
theorem shutterFlush_keeps (s : State) (n : Nat) :
    Keeps (fun d => { d.shutter with sendq := [], back := [] }) s (shutterFlush s n) := by
  unfold shutterFlush modSh
  exact Keeps.trans (.modNd s n rfl) (.foldl _ (fun s e => netPut_keeps (fun _ => rfl) ..) _ _)

theorem shutterEnd_idle {s : State} {n : Nat} (h : (nd s n).shutter.started = none) :
    shutterEnd s n = shutterFlush (shutterIdle s n) n := by
  simp only [shutterEnd, h]

theorem shutterEnd_running {s : State} {n : Nat} {x : Nat × Nat} (h : (nd s n).shutter.started = some x) :
    (nd (shutterEnd s n) n).shutter.runs = [] ∧ ∃ t k, (nd (shutterEnd s n) n).shutter.started = some (t, k) := by
  simp only [shutterEnd, h, modSh, nd_modNd_same]
  exact ⟨trivial, _, _, rfl⟩

theorem shutterEnd_clears {s : State} {n : Nat} (h : (nd s n).shutter.started = none) :
    (nd (shutterEnd s n) n).shutter.owner = none ∧ (nd (shutterEnd s n) n).shutter.runs = []
    ∧ (nd (shutterEnd s n) n).shutter.shadow = [] := by
  have flushed := (shutterFlush_keeps (shutterIdle s n) n).nodes n
  have idle : (nd (shutterIdle s n) n).shutter
      = { (nd s n).shutter with owner := none, shadow := [], active := [], runs := [], started := none } := by
    rw [shutterIdle, modSh, nd_modNd_same]
  rw [shutterEnd_idle h]
  rw [idle] at flushed
  exact ⟨congrArg Shutter.owner flushed, congrArg Shutter.runs flushed, congrArg Shutter.shadow flushed⟩

/-! Errors that strike, and a module of a link (R209, R444). -/

theorem exec_uncorrectableError (n : Nat) (site : ErrSite) (c x : Nat) (s : State) :
    exec (.uncorrectableError n site c x false) s = .next (errorAt s n site c x) := rfl

theorem smGet_smSet_true (m : SMap Bool) (k : Nat) : smGet (smSet m false k true) false k = true := by
  rw [smSet, if_neg (by decide), smGet_smPut_same]

/-- The module is noted at its node. -/
def ucieLost (s : State) (n k : Nat) : State :=
  modNd s n fun d => { d with ucie := if d.ucie.contains k then d.ucie else d.ucie ++ [k] }

theorem exec_ucieModuleLoss (n k : Nat) (s : State) : exec (.ucieModuleLoss n k) s = .next (ucieLost s n k) := rfl

theorem mem_ucieLost (s : State) (n k : Nat) : k ∈ (nd (ucieLost s n k) n).ucie := by
  rw [ucieLost, nd_modNd_same]
  by_cases hk : k ∈ (nd s n).ucie <;> simp [hk]

theorem ucieLost_keeps (s : State) (n k : Nat) : Keeps (fun d => { d with ucie := [] }) s (ucieLost s n k) := .modNd s n rfl

end Sys2Proof.Machine
end

section
/-! PROOFS. What the dispatch unit leaves of the nodes: its writes of control blocks and links, its queues, and an entry that
ends (R368 to R375, R388, R391). -/

namespace Sys2Proof.Machine

/-- A reader of nodes that sees neither a home nor an entry of a queue. -/
structure SeesNoQueue {α : Type} (f : Node → α) : Prop where
  home   : SeesNoHome f
  deques : ∀ d q l, f { d with quads := smPut d.quads q { smGet d.quads {} q with deques := l } } = f d
  dqs    : ∀ d l, f { d with dqs := l } = f d

section
variable {α : Type} {f : Node → α}

theorem unitAt_keeps (hf : SeesNoHome f) (s : State) (n tenant : Nat) (va : Word) (size : Nat) (need : Need) :
    Keeps f s (unitAt s n tenant va size need).2 := by
  have checked := chkAs_keeps hf (tlbCache_none · n) s (smGet (nd s n).troot 0 tenant) tenant va size need
  unfold unitAt
  split
  · next h => exact checked.ok h
  · next m rl off t h =>
    have there := checked.ok h
    have again := chkLocal_keeps hf (tlbCache_none · m) t (smGet (nd t m).troot 0 tenant) tenant off size need false
    split
    · next h => exact there.trans (again.ok h)
    · next h => rw [h] at again; exact there.trans again
    · next h => exact there.trans (again.ok h)
    · exact there
  · next h => rw [h] at checked; exact checked
  · next h => exact checked.ok h
  · exact .refl s

theorem unitWrite_keeps (hf : SeesNoHome f) (s : State) (n tenant : Nat) (va : Word) (u : Nat → Nat) :
    Keeps f s (unitWrite s n tenant va u) := by
  have found := unitAt_keeps hf s n tenant va 8 .w
  unfold unitWrite
  split
  · next h => rwa [h] at found
  · next h =>
    rw [h] at found
    exact (found.trans (touchUncharged_keeps hf.port ..)).trans (.home hf _ _ fun d => homeRest_homeWrite ..)

theorem setStatus_keeps (hf : SeesNoHome f) (s : State) (n tenant : Nat) (tcb : Word) (u : Nat → Nat) :
    Keeps f s (setStatus s n tenant tcb u) := unitWrite_keeps hf ..

theorem writeLink_keeps (hf : SeesNoHome f) (n : Nat) (s : State) (x : (Nat × Word × Option Word) × Word) :
    Keeps f s (writeLink n s x) := by
  unfold writeLink
  split
  · exact devWrite_keeps hf ..
  · exact unitWrite_keeps hf ..

theorem fixChain_keeps (hf : SeesNoHome f) (s : State) (n : Nat) (before after : List DEntry) :
    Keeps f s (fixChain s n before after) := .foldl _ (writeLink_keeps hf n) _ s

section
variable (hf : SeesNoQueue f)
include hf

theorem modDq_keeps (s : State) (n q : Nat) (u : DQueue → DQueue) : Keeps f s (modDq s n q u) := .modNd s n (hf.dqs _ _)

theorem putDeq_keeps (s : State) (n c q level : Nat) (l : List DEntry) : Keeps f s (putDeq s n c q level l) := by
  unfold putDeq
  exact .trans (.modQd s n c (hf.deques _ _ _)) (fixChain_keeps hf.home ..)

theorem putPending_keeps (s : State) (n q : Nat) (l : List DEntry) : Keeps f s (putPending s n q l) :=
  (modDq_keeps hf ..).trans (.foldl _ (fun s _ => fixChain_keeps hf.home s ..) _ _)

theorem pushEntry_keeps (s : State) (n : Nat) (e : DEntry) (head : Bool) : Keeps f s (pushEntry s n e head) := by
  unfold pushEntry
  extract_lets e' q into wait
  have deque (y : Nat) : Keeps f s (into y) := putDeq_keeps hf ..
  have pending (b : Bool) : Keeps f s (wait b) := putPending_keeps hf ..
  split
  · exact pending _
  · split
    · exact deque _
    · split
      · exact deque _
      · split
        · exact deque _
        · exact pending _

theorem reserveCore_keeps (s : State) (n c q : Nat) : Keeps f s (reserveCore s n c q) := by
  unfold reserveCore
  split
  · dsimp only
    split
    · exact modDq_keeps hf ..
    · exact .refl s
  · exact .refl s

end

end

end Sys2Proof.Machine
end

section
/-! PROOFS. The frame boundary (R32, R33, R35, R377, R430, R456): which steps leave heat, temperatures and budgets alone, what
the quads latch, and how entries age. -/

namespace Sys2Proof.Machine

/-! Release of DETERM stores, waves and leases. -/

/-- A node but for what its DETERM stores, waves and leases are at a boundary. -/
def leaseRest (d : Node) : Node :=
  { fabricRest d with cores := [], staged := [], shutter := {}, leases := [], lines := [], pools := [], poolIdx := [], circIdx := [],
                      retiredW := 0, spareW := 0, spareR := 0 }

theorem leaseRest_cores (d : Node) (l : SMap Core) : leaseRest { d with cores := l } = leaseRest d := rfl

theorem leaseRest_leases (d : Node) (l : SMap (Option LeaseEntry)) : leaseRest { d with leases := l } = leaseRest d := rfl

theorem leaseRest_pools (d : Node) (l : SMap Nat) (i c : SMap (BitVec 640)) :
    leaseRest { d with pools := l, poolIdx := i, circIdx := c } = leaseRest d := rfl

theorem leaseRest_shutter (d : Node) (x : Shutter) : leaseRest { d with shutter := x } = leaseRest d := rfl

theorem leaseRest_stageEntries (d : Node) (l : List DetEntry) : leaseRest (stageEntries d l).2 = leaseRest d := by
  induction l generalizing d with
  | nil => rfl
  | cons e r ih =>
    unfold stageEntries
    split
    · exact ih _
    · exact ih _

section
variable {α : Type} {f : Node → α} (hf : ∀ d, f (leaseRest d) = f d)
include hf

theorem seesNoFabric_of_lease : SeesNoFabric f := fun d => by rw [← hf, ← hf d]; rfl

theorem drainDet_keeps (s : State) (n c : Nat) : Keeps f s (drainDet s n c) := by
  unfold drainDet
  dsimp only
  split
  · exact .refl s
  · refine .trans (t := modNd s n fun _ => (stageEntries (nd s n) (co s n c).detBuf).2) ?_ (.under hf _ n rfl)
    exact .under hf s n (leaseRest_stageEntries ..)

theorem quantumEnd_keeps (s : State) (n : Nat) : Keeps f s (quantumEnd s n) := by
  refine .trans (t := drainAll s n) (.foldl _ (fun s c => drainDet_keeps hf s n c) _ s) (.foldl _ (fun s x => ?_) _ _)
  dsimp only
  split
  · exact .refl s
  · exact .modCo s n x.1 (f := f) (by rw [← hf, leaseRest_cores, hf])

theorem setPools_keeps (s : State) (n : Nat) : Keeps f s (setPools s n) := by
  unfold setPools
  exact .under hf s n (leaseRest_pools ..)

theorem putLine_keeps (s : State) (n dim : Nat) (t : LineTab) : Keeps f s (putLine s n dim t) := by
  unfold putLine
  refine .under hf s _ ?_
  rfl

theorem entryLose_keeps (s : State) (h : Holding) (i : Nat) : Keeps f s (entryLose s h i) := by
  unfold entryLose
  refine .under hf s h.src ?_
  split
  · split <;> rfl
  · rfl

theorem retireWave_keeps (s : State) (n dir i : Nat) : Keeps f s (retireWave s n dir i) := by
  unfold retireWave
  extract_lets m s' dim ext plus x seg t hit
  have counted : Keeps f s s' := .under hf s n rfl
  split
  · exact (counted.trans (.under hf _ n rfl)).trans (.under hf _ m rfl)
  · exact (counted.trans (putLine_keeps hf ..)).trans (.foldl _ (fun s h => entryLose_keeps hf s h i) _ _)

theorem retireWaves_keeps (s : State) (n dir : Nat) : Keeps f s (retireWaves s n dir) := by
  unfold retireWaves
  extract_lets l s'
  have cleared : Keeps f s s' := .under hf s n rfl
  split
  · exact cleared
  · exact (cleared.trans (.foldl _ (fun s i => retireWave_keeps hf s n dir i) _ _)).trans
      (.foldl _ (fun s m => setPools_keeps hf s m) _ _)

theorem lineBoundary_keeps (s : State) (n dim frame : Nat) : Keeps f s (lineBoundary s n dim frame) := by
  have blind := seesNoFabric_of_lease hf
  unfold lineBoundary
  exact ((putLine_keeps hf ..).trans (.foldl _ (fun s h => travel_keeps blind s ..) _ _)).trans
    (.foldl _ (fun s q => travel_keeps blind s ..) _ _)

theorem leaseBoundary_keeps (s : State) (n frame : Nat) : Keeps f s (leaseBoundary s n frame) := by
  unfold leaseBoundary
  extract_lets s1 s2 s3 x
  have waves : Keeps f s s1 := .foldl _ (fun s dir => retireWaves_keeps hf s n dir) _ s
  have lines : Keeps f s1 s2 := by
    refine .foldl _ (fun s dim => ?_) _ s1
    split
    · exact .refl s
    · exact lineBoundary_keeps hf ..
  have leases : Keeps f s2 s3 := by
    refine .trans (t := modNd s2 n fun d => { d with leases := entriesBoundary frame d.leases }) ?_ (setPools_keeps hf _ n)
    exact .under hf s2 n (leaseRest_leases ..)
  have done := (waves.trans lines).trans leases
  split
  · refine done.trans (t := s3) ?_
    unfold shutterIdle modSh
    exact .under hf s3 n (leaseRest_shutter ..)
  · exact done

end

end Sys2Proof.Machine
end

section
/-! PROOFS. The frame boundary's latches (R35), budgets (R33, R430) and ages (R377). -/

namespace Sys2Proof.Machine

/-! Levels. -/

section
variable {α : Type} (d : α)

/-- A map that is changed at each of some consecutive keys. -/
theorem smGet_foldl_upFrom (g : Nat → α → α) (a k : Nat) (m : SMap α) (j : Nat) :
    smGet ((upFrom a k).foldl (fun m q => smPut m q (g q (smGet m d q))) m) d j
      = if a ≤ j ∧ j < a + k then g j (smGet m d j) else smGet m d j := by
  induction k generalizing a m with
  | zero => rw [if_neg (by omega)]; rfl
  | succ k ih =>
    rw [upFrom, List.foldl_cons, ih]
    by_cases hj : j = a
    · subst hj
      rw [if_neg (by omega), if_pos (by omega), smGet_smPut_same]
    · rw [smGet_smPut_ne _ _ _ hj]
      by_cases h : a ≤ j ∧ j < a + (k + 1)
      · rw [if_pos h, if_pos (by omega)]
      · rw [if_neg h, if_neg (by omega)]

/-- A map that gives each of some consecutive keys its value. -/
theorem smGet_map_upFrom (g : Nat → α) {a k j : Nat} (h : a ≤ j ∧ j < a + k) :
    smGet ((upFrom a k).map fun q => (q, g q)) d j = g j := by
  induction k generalizing a with
  | zero => omega
  | succ k ih =>
    rw [upFrom, List.map_cons, smGet]
    by_cases hj : a = j
    · subst hj; simp
    · rw [if_neg hj]
      exact ih (by omega)

theorem smGet_mapVal {β : Type} (g : α → β) (m : SMap α) (j : Nat) :
    smGet (m.map fun x => (x.1, g x.2)) (g d) j = g (smGet m d j) := by
  induction m with
  | nil => rfl
  | cons x r ih =>
    rw [List.map_cons, smGet, smGet, ih]
    split <;> rfl

end

/-- The latched level and temperature of each quad of a node. -/
def quadHeat (d : Node) : Nat → Nat × Nat := fun q => ((smGet d.quads {} q).heat, (smGet d.quads {} q).temp)

theorem postOpen_keeps {α : Type} {f : Node → α}
    (hf : ∀ d, f { d with attn := [], attHead := 0, attLost := 0 } = f d) (s : State) (n kind : Nat) :
    Keeps f s (postOpen s n kind) := by
  have fresh : Keeps f s { s with free := s.free + 1 + 1 } := .sameNodes rfl rfl rfl
  unfold postOpen postAttn
  refine fresh.trans (.under hf _ n ?_)
  dsimp only
  split <;> rfl

/-- A quad with the next reading of its sensor. -/
def sampled (k q : Nat) (x : Quad) : Quad := { x with sensor := (Config.freeWord (k + q)).toNat % 256 }

/-- The sensors are read for the next boundary: no latched level changes. -/
theorem sampleSensors_keeps (s : State) (n : Nat) : Keeps (fun d => (d.budget, quadHeat d)) s (sampleSensors s n) := by
  unfold sampleSensors
  extract_lets k d put quads power
  have unlatched (q : Nat) : (smGet quads {} q).heat = (qd s n q).heat ∧ (smGet quads {} q).temp = (qd s n q).temp := by
    have each : quads = (upFrom 0 64).foldl (fun m q => smPut m q (sampled k q (smGet m {} q))) (nd s n).quads := rfl
    rw [each, smGet_foldl_upFrom]
    split <;> exact ⟨rfl, rfl⟩
  clear_value quads power
  refine .trans (t := modNd s n fun d => { d with quads := quads, power := power }) ?_ (.sameNodes rfl rfl rfl)
  exact .modNd s n (Prod.ext rfl (funext fun q => Prod.ext (unlatched q).1 (unlatched q).2))

theorem touchTherm_keeps {α : Type} {f : Node → α} (hf : SeesNoPort f) (s : State) (n : Nat) : Keeps f s (touchTherm s n) := by
  unfold touchTherm
  dsimp only
  split
  · exact touchUncharged_keeps hf ..
  · exact .refl s

/-- The quads as a boundary latches them. -/
def latched (s : State) (n : Nat) (t : ThermTab) (hot : Bool) : SMap Quad :=
  (upFrom 0 64).foldl (fun m q => smPut m q (latchQuad t hot s.now { smGet m {} q with since := sinceOf s (smGet m {} q) }))
    (nd s n).quads

theorem latchQuad_reads (t : ThermTab) (hot : Bool) (now : Nat) (x : Quad) :
    (latchQuad t hot now x).heat = nextHeat t x.heat x.sensor ∧ (latchQuad t hot now x).temp = x.sensor := by
  unfold latchQuad
  extract_lets heat level q'
  split <;> exact ⟨rfl, rfl⟩

theorem quadHeat_latched (s : State) (n : Nat) (t : ThermTab) (hot : Bool) {d : Node} (hd : d.quads = latched s n t hot)
    {q : Nat} (hq : q < 64) : quadHeat d q = (nextHeat t (qd s n q).heat (qd s n q).sensor, (qd s n q).sensor) := by
  rw [quadHeat, hd, latched,
    smGet_foldl_upFrom {} (fun _ x => latchQuad t hot s.now { x with since := sinceOf s x }), if_pos (by omega)]
  exact Prod.ext (latchQuad_reads ..).1 (latchQuad_reads ..).2

/-- A boundary with the built-in table latches levels and temperatures (R35, R456). -/
theorem latchLevels_builtin {s : State} {n : Nat} (h : bit (nd s n).thermTab 0 = false) :
    ∃ hot, Keeps (fun d => (d.budget, quadHeat d))
      (modNd s n fun d => { d with quads := latched s n builtinTab hot, powHot := hot }) (latchLevels s n) := by
  have own : touchTherm s n = s := by simp [touchTherm, h]
  have table : thermTable (nd s n) = some builtinTab := by simp [thermTable, h]
  refine ⟨powerOver (nd s n) || ((nd s n).powHot && !powerUnder (nd s n)), ?_⟩
  unfold latchLevels
  simp only [own, table, Option.getD_some, Option.isNone_some, Bool.false_eq_true, if_false]
  refine .trans ?_ (sampleSensors_keeps ..)
  split
  · exact postOpen_keeps (fun _ => rfl) ..
  · exact .refl _

theorem latchLevels_budget (s : State) (n : Nat) : Keeps Node.budget s (latchLevels s n) := by
  have sampled (t : State) : Keeps Node.budget t (sampleSensors t n) := (sampleSensors_keeps t n).comp Prod.fst
  have posted (t : State) (k : Nat) : Keeps Node.budget t (postOpen t n k) := postOpen_keeps (fun _ => rfl) ..
  unfold latchLevels
  extract_lets s1 d above hot tab t now old quads s2 s3
  have first : Keeps Node.budget s s1 := touchTherm_keeps (fun _ _ _ => rfl) ..
  have second : Keeps Node.budget s s2 := first.trans (.modNd s1 n rfl)
  have third : Keeps Node.budget s s3 := by
    unfold s3
    split
    · exact second.trans (posted ..)
    · exact second
  refine .trans ?_ (sampled _)
  split
  · exact third.trans (posted ..)
  · exact third

/-! Budgets. -/

theorem bucketOf_refillAll (s : State) (n : Nat) {k : Nat} (h : k < 16) :
    bucketOf (nd (refillAll s n) n) k = refill (budgetWord (nd s n) k) := by
  rw [refillAll, nd_modNd_same]
  unfold bucketOf
  dsimp only
  rw [smGet_map_upFrom {} (fun k => refill (budgetWord (nd s n) k)) (by omega)]

theorem refillAll_heat (s : State) (n : Nat) : Keeps quadHeat s (refillAll s n) := .modNd s n rfl

end Sys2Proof.Machine
end

section
/-! PROOFS. The frame boundary after its latches: entries that end or move (R374, R377, R380, R391), the slices, and what host,
environment and boundary do in all (O45). -/

namespace Sys2Proof.Machine

/-! An entry that ends. -/

/-- A node but for what an entry that ends changes beside its home: the gang, the list of cancelled pairs, the collectives
that they stop, and the pool of save areas. -/
def entryRest (d : Node) : Node := { collRest d with gangs := [], cancels := [], cancelWait := [], saveArea := 0 }

section
variable {α : Type} {f : Node → α} (hf : SeesNoHome f) (he : ∀ d, f (entryRest d) = f d)

include he in
theorem addCancel_keeps (s : State) (n t : Nat) (g : BitVec 32) : Keeps f s (addCancel s n t g) := by
  have blind (d : Node) : f (collRest d) = f d := by rw [← he, ← he d]; rfl
  unfold addCancel
  dsimp only
  split
  · exact .refl s
  · split
    · exact .under he s n rfl
    · exact .trans (.under he s n rfl) (.foldl _ (fun s x => stopColl_keeps blind s ..) _ _)

include he in
theorem gangLeave_keeps (s : State) (n r m : Nat) (b : Bool) : Keeps f s (gangLeave s n r m b) := by
  unfold gangLeave
  split
  · exact .refl s
  · exact .under he s n rfl

include hf he

theorem returnArea_keeps (s : State) (n : Nat) (va : Word) : Keeps f s (returnArea s n none va) := by
  have dropped : Keeps f s (dropArea s n none va) := by
    unfold dropArea
    exact .trans (devWrite_keeps hf ..) (.under he _ n rfl)
  unfold returnArea
  exact (dropped.trans (devWrite_keeps hf ..)).trans (.under he _ n rfl)

theorem endEntry_keeps (s : State) (n : Nat) (e : DEntry) (state code : Nat) : Keeps f s (endEntry s n e state code) := by
  unfold endEntry
  extract_lets s1 s2
  have first : Keeps f s s1 := setStatus_keeps hf ..
  have second : Keeps f s s2 := by
    unfold s2
    split
    · next g _ =>
      have left := first.trans (gangLeave_keeps he s1 n g.1 g.2 (state == 6))
      dsimp only
      split
      · exact left.trans (addCancel_keeps he ..)
      · exact left
    · exact first
  split
  · exact second.trans (returnArea_keeps hf he ..)
  · exact second

theorem pushPending_keeps (hq : SeesNoQueue f) (s : State) (n q : Nat) : Keeps f s (pushPending s n q) := by
  have each (l : List DEntry) (a : List DEntry × State) :
      Keeps f a.2 (l.foldl (fun (a : List DEntry × State) e =>
        if e.gang.isSome ∨ (pushQuad (nd a.2 n) q).isNone then (a.1 ++ [e], a.2)
        else if cancelled (nd a.2 n) (ctlTenant e.ctl) e.gin then (a.1, endEntry a.2 n e 7 0)
        else (a.1, pushEntry a.2 n e false)) a).2 := by
    induction l generalizing a with
    | nil => exact .refl _
    | cons e r ih =>
      refine .trans ?_ (ih _)
      dsimp only
      split
      · exact .refl _
      · split
        · exact endEntry_keeps hf he ..
        · exact pushEntry_keeps hq ..
  unfold pushPending
  extract_lets l r
  split
  · exact .refl s
  · exact (each l ([], s)).trans (putPending_keeps hq ..)

end

/-! Ages and levels. -/

theorem chainAll_keeps {α : Type} {f : Node → α} (hf : SeesNoHome f) (s : State) (n : Nat) (before : Node) :
    Keeps f s (chainAll s n before) := by
  unfold chainAll
  refine .trans ?_ (.foldl _ (fun s x => .foldl _ (fun s lv => fixChain_keeps hf s ..) _ s) _ _)
  exact .foldl _ (fun s x => .foldl _ (fun s l => fixChain_keeps hf s ..) _ s) _ s

/-- What a boundary leaves for the frame that begins: the buckets and the latched levels. -/
def frameView (d : Node) : SMap Bucket × (Nat → Nat × Nat) := (d.bucket, quadHeat d)

theorem quadHeat_of (d : Node) (l : SMap Quad)
    (h : ∀ q, (smGet l {} q).heat = (smGet d.quads {} q).heat ∧ (smGet l {} q).temp = (smGet d.quads {} q).temp) :
    quadHeat { d with quads := l } = quadHeat d := funext fun q => Prod.ext (h q).1 (h q).2

theorem frameView_noQueue : SeesNoQueue frameView where
  home := fun _ => rfl
  deques := fun d q l => Prod.ext rfl (quadHeat_of d _ fun j => by
    by_cases hj : j = q
    · subst hj
      rw [smGet_smPut_same]
      exact ⟨rfl, rfl⟩
    · rw [smGet_smPut_ne _ _ _ hj]
      exact ⟨rfl, rfl⟩)
  dqs := fun _ _ => rfl

/-- A quad whose entries have grown older. -/
def ageQuad (q : Quad) : Quad := if q.deques.isEmpty then q else { q with deques := (upFrom 0 16).foldl ageLevels q.deques }

theorem ageAll_keeps (s : State) (n : Nat) : Keeps frameView s (ageAll s n) := by
  unfold ageAll
  refine .trans (.modNd s n (Prod.ext rfl (quadHeat_of _ _ fun q => ?_))) (chainAll_keeps frameView_noQueue.home ..)
  have older := smGet_mapVal {} ageQuad (nd s n).quads q
  refine (congrArg (fun x : Quad => x.heat = _ ∧ x.temp = _) older).mpr ?_
  unfold ageQuad
  split <;> exact ⟨rfl, rfl⟩

theorem requestPreempt_keeps {α : Type} {f : Node → α} (hf : ∀ d l, f { d with cores := l } = f d) (s : State) (n c why : Nat) :
    Keeps f s (requestPreempt s n c why) := by
  have asked (w : Nat) (s : State) (x : Nat) :
      Keeps f s (modCo s n x fun k => if k.preempt.isNone then { k with preempt := some w } else k) := .modCo s n x (hf _ _)
  unfold requestPreempt
  dsimp only
  split
  · exact (asked ..).trans (.foldl _ (fun s m => asked 3 s _) _ _)
  · exact asked ..

theorem priorityPreempt_keeps {α : Type} {f : Node → α} (hf : ∀ d l, f { d with cores := l } = f d) (s : State) (n : Nat) :
    Keeps f s (priorityPreempt s n) := by
  refine .foldl _ (fun s q => ?_) _ s
  split
  · exact requestPreempt_keeps hf ..
  · exact .refl s

theorem slicesBoundary_keeps {α : Type} {f : Node → α} (hf : ∀ d l, f { d with slices := l } = f d) (s : State) (n : Nat) :
    Keeps f s (slicesBoundary s n) := by
  unfold slicesBoundary
  exact .trans (.modNd s n (hf _ _)) (.foldl _ (fun s x => .schedule s ..) _ _)

/-! The boundary. -/

/-- What follows the refill. -/
def boundaryTail (t : State) (n : Nat) : State :=
  slicesBoundary (priorityPreempt (ageAll ((upFrom 0 16).foldl (fun s q => pushPending s n q) t) n) n) n

/-- What precedes the latches. -/
def boundaryHead (s : State) (n : Nat) : State := leaseBoundary (quantumEnd s n) n (frameOf s n)

theorem exec_frameBoundary (n : Nat) (s : State) : exec (.frameBoundary n) s
    = .next (modNd (boundaryTail (refillAll (latchLevels (boundaryHead s n) n) n) n) n fun d => { d with frame := frameOf s n }) := rfl

theorem boundaryTail_keeps (t : State) (n : Nat) : Keeps frameView t (boundaryTail t n) := by
  have pushed : Keeps frameView t ((upFrom 0 16).foldl (fun s q => pushPending s n q) t) :=
    .foldl _ (fun s q => pushPending_keeps frameView_noQueue.home (fun _ => rfl) frameView_noQueue s n q) _ t
  exact ((pushed.trans (ageAll_keeps ..)).trans (priorityPreempt_keeps (fun _ _ => rfl) ..)).trans
    (slicesBoundary_keeps (fun _ _ => rfl) ..)

theorem boundaryHead_keeps (s : State) (n : Nat) :
    Keeps (fun d => (d.budget, d.thermTab, d.quads)) s (boundaryHead s n) :=
  (quantumEnd_keeps (fun _ => rfl) ..).trans (leaseBoundary_keeps (fun _ => rfl) ..)

section
variable {s z t : State} {n : Nat} (head : Keeps (fun d => (d.budget, d.thermTab, d.quads)) s z)
  (tail : Keeps frameView (refillAll (latchLevels z n) n) t)
include head tail

/-- After the refill the buckets are full for the frame that begins (R33, R430). -/
theorem boundary_bucket {k : Nat} (hk : k < 16) : bucketOf (nd t n) k = refill (budgetWord (nd s n) k) := by
  have buckets : (nd t n).bucket = (nd (refillAll (latchLevels z n) n) n).bucket := congrArg Prod.fst (tail.nodes n)
  have budgets : (nd (latchLevels z n) n).budget = (nd s n).budget :=
    ((latchLevels_budget _ n).nodes n).trans (congrArg Prod.fst (head.nodes n))
  rw [bucketOf, buckets, ← bucketOf, bucketOf_refillAll _ n hk, budgetWord, budgets, budgetWord]

/-- After the latches every quad has its next level and its sensor's temperature (R35). -/
theorem boundary_heat (hb : bit (nd s n).thermTab 0 = false) {q : Nat} (hq : q < 64) :
    quadHeat (nd t n) q = (nextHeat builtinTab (qd s n q).heat (qd s n q).sensor, (qd s n q).sensor) := by
  have quads : (nd z n).quads = (nd s n).quads := congrArg (·.2.2) (head.nodes n)
  have table : (nd z n).thermTab = (nd s n).thermTab := congrArg (·.2.1) (head.nodes n)
  obtain ⟨hot, levels⟩ := latchLevels_builtin (s := z) (n := n) (by rw [table]; exact hb)
  have latch := congrFun ((levels.comp Prod.snd).nodes n) q
  dsimp only at latch
  have kept : quadHeat (nd t n) q = quadHeat (nd (refillAll (latchLevels z n) n) n) q :=
    congrFun (congrArg Prod.snd (tail.nodes n)) q
  rw [kept, congrFun ((refillAll_heat _ n).nodes n) q, latch,
    quadHeat_latched z n builtinTab hot (by rw [nd_modNd_same]) hq, qd, quads, qd]

end

/-- The next level never falls by more than one, holds within the hysteresis, and is LIMIT at its threshold (R35). -/
theorem nextHeat_bounds {t : ThermTab} {old temp : Nat} (ho : old ≤ 3) :
    nextHeat t old temp ≤ 3 ∧ (t.lim ≤ temp → nextHeat t old temp = 3)
    ∧ (threshold t old ≤ temp + t.hyst → old ≤ nextHeat t old temp) ∧ old - 1 ≤ nextHeat t old temp := by
  have limit : threshold t 3 = t.lim := rfl
  unfold nextHeat
  extract_lets up
  have top : up ≤ 3 := by
    unfold up
    split_ifs <;> omega
  have full : t.lim ≤ temp → up = 3 := fun h => if_pos h
  clear_value up
  split
  · omega
  · split
    · next h =>
      have below : t.lim ≤ temp → old = 3 := fun h => by have := full h; omega
      refine ⟨by omega, fun hl => ?_, by omega, le_rfl⟩
      have high := h.2
      rw [below hl, limit] at high
      omega
    · next h =>
      exact ⟨ho, fun h => by have := full h; omega, by omega, by omega⟩

/-! Ages (R377). -/

theorem agePending_young {l : List DEntry} (h : ∀ x ∈ l, x.wait < 7) (r : List DEntry) :
    agePending (l ++ r) = ((r.map older).filter fun e => decide (8 ≤ e.wait) && decide (e.level < 3)).map
        (fun e => { e with wait := 0, level := e.level + 1 })
      ++ (l.map older ++ ((r.map older).filter fun e => !(decide (8 ≤ e.wait) && decide (e.level < 3))).map
        fun e => { e with aged := e.aged || decide (8 ≤ e.wait) }) := by
  have young : ∀ x ∈ l.map older, x.wait < 8 := by
    intro x hx
    obtain ⟨e, he, rfl⟩ := List.mem_map.mp hx
    have := h e he
    show e.wait + 1 < 8
    omega
  have none : (l.map older).filter (fun e => decide (8 ≤ e.wait) && decide (e.level < 3)) = [] :=
    List.filter_eq_nil_iff.mpr fun x hx => by have := young x hx; simp; omega
  have all : (l.map older).filter (fun e => !(decide (8 ≤ e.wait) && decide (e.level < 3))) = l.map older :=
    List.filter_eq_self.mpr fun x hx => by have := young x hx; simp; omega
  have same : (l.map older).map (fun e => { e with aged := e.aged || decide (8 ≤ e.wait) }) = l.map older :=
    List.map_congr_left (fun x hx => by
      have := young x hx
      have old : decide (8 ≤ x.wait) = false := by simp; omega
      show { x with aged := x.aged || decide (8 ≤ x.wait) } = id x
      rw [old, Bool.or_false, id]) |>.trans (List.map_id _)
  unfold agePending
  dsimp only
  rw [List.map_append, List.filter_append, List.filter_append, none, all, List.nil_append, List.map_append, same]

theorem agePending_kept {l : List DEntry} (h : ∀ x ∈ l, x.wait < 7) : agePending l = l.map older := by
  have young := agePending_young h []
  rw [List.append_nil] at young
  rw [young]
  exact List.append_nil _

section
variable {l : List DEntry} {e : DEntry} (h : ∀ x ∈ l, x.wait < 7) (hw : 7 ≤ e.wait)
include h hw

theorem agePending_moves (hl : e.level < 3) :
    agePending (l ++ [e]) = { e with wait := 0, level := e.level + 1 } :: l.map older := by
  have old : decide (8 ≤ (older e).wait) = true := decide_eq_true (Nat.succ_le_succ hw)
  have low : decide ((older e).level < 3) = true := decide_eq_true hl
  rw [agePending_young h, List.map_singleton, List.filter_singleton, List.filter_singleton, old, low]
  exact congrArg _ (List.append_nil _)

theorem agePending_top (hl : 3 ≤ e.level) : agePending (l ++ [e]) = l.map older ++ [{ older e with aged := true }] := by
  have old : decide (8 ≤ (older e).wait) = true := decide_eq_true (Nat.succ_le_succ hw)
  have high : decide ((older e).level < 3) = false := decide_eq_false (Nat.not_lt.mpr hl)
  rw [agePending_young h, List.map_singleton, List.filter_singleton, List.filter_singleton, old, high]
  show l.map older ++ [{ older e with aged := (older e).aged || decide (8 ≤ (older e).wait) }] = _
  rw [old, Bool.or_true]

end

/-! What O45 claims of the environment, and of the boundary. -/

/-- Settles O45: the actions of host and environment by the equations above, the boundary by what its steps leave alone. -/
theorem hostEvents : Obligations.HostEvents := by
  refine ⟨⟨fun s n off size v => ⟨fun h => ?_, fun h => ?_⟩, fun s n v h => ?_, fun s n v h => windowWrite_configured v h,
    fun s n t w v => ⟨fun h => ?_, fun x hp ht hw => ?_⟩, fun s n pa st bs h => ?_, fun s n pa bs h => ?_,
    fun s n pa bs h hl wf => ?_, fun s n m => ⟨fun h3 h4 => ?_, fun h => ⟨_, rfl, fun k hk => nodeLost_all m h hk⟩⟩,
    fun s n => ⟨fun h => ⟨_, exec_shutclr n s, shutterEnd_clears h⟩, fun h => ?_⟩, fun s n site c x => ⟨_, rfl, rfl⟩,
    fun s n => ⟨fun site c x => exec_uncorrectableError .., fun c off => ?_, fun c row => ?_, fun sp c pa => rfl,
      fun c sp pa => rfl⟩, fun s n k => ⟨_, exec_ucieModuleLoss n k s, mem_ucieLost s n k, (ucieLost_keeps s n k).nodes⟩⟩,
    fun s n => ⟨_, exec_frameBoundary n s, ?_⟩, fun t old temp _ _ ho => nextHeat_bounds ho, fun l e h =>
      ⟨agePending_kept h, agePending_moves h, agePending_top h⟩⟩
  · rw [exec_registerWrite, if_pos h]
  · rw [exec_registerWrite, if_neg (by omega)]
  · obtain ⟨ways, home, spill, idle⟩ := windowWrite_config v h
    simp only [ways, home, spill, idle, nd_modNd_same, fld_low5, and_self]
  · rw [exec_tenantConfigWrite, tenantWrite_none h]
  · rw [exec_tenantConfigWrite, tenantWrite_some hp ht hw]
  · rw [exec_hostMemoryAccess, if_pos h]
  · refine ⟨hostTouch s n pa bs.length, ?_, fun sp => congrFun ((hostTouch_keeps s n pa bs.length).nodes n) sp⟩
    rw [exec_hostMemoryAccess, if_neg (by omega), if_neg Bool.false_ne_true]
  · refine ⟨hostStore n (bs.length + 1) pa bs s, ?_, hostStore_line_bytes hl wf _ rfl⟩
    rw [exec_hostMemoryAccess, if_neg (by omega), if_pos rfl]
  · rw [exec_nodelost, nodeLost_idle m h3 h4]
  · obtain ⟨x, hx⟩ := Option.ne_none_iff_exists'.mp h
    exact ⟨_, exec_shutclr n s, shutterEnd_running hx⟩
  · simp only [errorAt, co_modCo_same, smGet_smSet_true]
  · simp only [errorAt, co_modCo_same, smGet_smSet_true]
  · have head := boundaryHead_keeps s n
    have tail := boundaryTail_keeps (refillAll (latchLevels (boundaryHead s n) n) n) n
    generalize boundaryHead s n = z at head tail ⊢
    generalize boundaryTail (refillAll (latchLevels z n) n) n = t at tail ⊢
    rw [nd_modNd_same]
    unfold qd
    rw [nd_modNd_same]
    exact ⟨rfl, fun k hk => boundary_bucket head tail hk, fun hb q hq => ⟨congrArg Prod.fst (boundary_heat head tail hb hq),
      congrArg Prod.snd (boundary_heat head tail hb hq)⟩⟩

end Sys2Proof.Machine
end

section
/-! PROOFS. How a task leaves its core (R371, R372, R415, R416, R420, R453): what frees a core, whom a request to leave reaches,
and what the host's actions do. -/

namespace Sys2Proof.Machine

/-! A core that is freed. -/

theorem cores_noQueue : SeesNoQueue Node.cores := ⟨fun _ => rfl, fun _ _ _ => rfl, fun _ _ => rfl⟩

/-- A core without a task. -/
def Freed (s : State) (n c : Nat) : Prop := (co s n c).mode = .free ∧ (co s n c).task = none

theorem freeCore_freed (s : State) (n c : Nat) (saved : Bool) : Freed (freeCore s n c saved) n c := by
  rw [Freed, freeCore, co_modCo_same]
  exact ⟨rfl, rfl⟩

theorem Freed.keeps {s t : State} {n c : Nat} (h : Freed s n c) (k : Keeps Node.cores s t) : Freed t n c := by
  have same : co t n c = co s n c := by rw [co, k.nodes n, co]
  rwa [Freed, same]

theorem leaveCore_freed (s : State) (n c : Nat) (t : Task) (b : Bool) : Freed (leaveCore s n c t b) n c :=
  (freeCore_freed ..).keeps (reserveCore_keeps cores_noQueue ..)

theorem requeueTask_freed (s : State) (n c : Nat) (t : Task) (area : Option Word) : Freed (requeueTask s n c t area) n c := by
  cases area with
  | some va => exact ((freeCore_freed ..).keeps (reserveCore_keeps cores_noQueue ..)).keeps (pushEntry_keeps cores_noQueue ..)
  | none =>
    unfold requeueTask
    exact (leaveCore_freed ..).keeps (pushEntry_keeps cores_noQueue ..)

section
variable {s : State} {n c code st : Nat} {t : Task}

/-- A task that ends, its release made (R371, R372). -/
theorem exec_taskRetire (hd : retireTaskDue s n c = true) (hm : (co s n c).mode = .ending code st)
    (ht : (co s n c).task = some t) (x : State) (hx : x = endRelease s n c ((st == 5 && t.views != 0) || st == 4)) :
    ((co x n c).detBuf = [] → ∃ y, exec (.taskRetire n c) s = .next y ∧ Freed y n c)
    ∧ ((co x n c).detBuf ≠ [] → exec (.taskRetire n c) s = .next x) := by
  have step : exec (.taskRetire n c) s = execTaskRetire n c s := rfl
  subst hx
  rw [step, execTaskRetire, hd, hm, ht]
  dsimp only
  constructor
  · intro h
    rw [h]
    simp only [List.isEmpty_nil, Bool.not_true, Bool.false_eq_true, if_false]
    split
    · exact ⟨_, rfl, requeueTask_freed ..⟩
    · exact ⟨_, rfl, requeueTask_freed ..⟩
    · exact ⟨_, rfl, leaveCore_freed ..⟩
    · exact ⟨_, rfl, leaveCore_freed ..⟩
  · intro h
    simp only [Bool.not_true, Bool.false_eq_true, if_false]
    rw [if_pos (by simpa using h)]

/-- A pre-emption that is due cuts the core at its quiet point (R415, R416). -/
theorem exec_preemptionCut (hd : preemptDue s n c = true) :
    exec (.preemptionCut n c) s = .next (takeTrap (modCo s n c fun k => { k with preempt := none }) n c
      (if betweenEmpty (co s n c) then ⟨codeBudget, (co s n c).preempt.getD 0, 8, false, true, 0, 0⟩
       else ⟨codeQuietSpan, 1, 8, false, false, 0, 0⟩)) := by
  have step : exec (.preemptionCut n c) s = execPreemptionCut n c s := rfl
  rw [step, execPreemptionCut, hd]
  rfl

/-- A save, its release made, without an area in the pool. -/
theorem exec_contextSave_noArea {x : State} (hd : saveDue s n c = true) (ht : (co s n c).task = some t)
    (hx : x = endRelease s n c true) (hb : (co x n c).detBuf = []) (hv : (nd x n).saveArea = 0) :
    exec (.contextSave n c) s = .next (abandonSave x n c 0 0) := by
  have step : exec (.contextSave n c) s = execContextSave n c s := rfl
  subst hx
  rw [step, execContextSave, hd, ht]
  dsimp only
  rw [hb, hv]
  rfl

/-- What is saved of a core leaves it free, and the pool's next area is that of the chain (R420). -/
theorem exec_contextSave_saves {x x1 x2 : State} {chain : Nat} {u : Unit} (hd : saveDue s n c = true)
    (ht : (co s n c).task = some t) (hx : x = endRelease s n c true) (hb : (co x n c).detBuf = [])
    (hv : (nd x n).saveArea ≠ 0) (h1 : devRead x n (some c) ((nd x n).saveArea + 16) 8 = (.inr chain, x1))
    (h2 : saveContext x1 n c (nd x n).saveArea (nd x1 n).saveLen.toNat = (.inr u, x2)) :
    exec (.contextSave n c) s = .next (requeueTask (modNd x2 n fun d => { d with saveArea := BitVec.ofNat 64 chain }) n c t
      (some (nd x n).saveArea)) := by
  have step : exec (.contextSave n c) s = execContextSave n c s := rfl
  subst hx
  rw [step, execContextSave, hd, ht]
  dsimp only
  rw [hb, if_neg hv, h1]
  dsimp only
  rw [h2]
  rfl

end

/-- A task that goes back to its queue leaves the pool of save areas alone. -/
theorem requeueTask_saveArea (s : State) (n c : Nat) (t : Task) (va : Word) :
    Keeps Node.saveArea s (requeueTask s n c t (some va)) := by
  have blind : SeesNoQueue Node.saveArea := ⟨fun _ => rfl, fun _ _ _ => rfl, fun _ _ => rfl⟩
  have freed (s : State) : Keeps Node.saveArea s (freeCore s n c true) := by
    have rings : Keeps Node.saveArea s (clearRings s n c) := .modQd s n _ rfl
    have bars : Keeps Node.saveArea (clearRings s n c) (dropBars (clearRings s n c) n c) := .sameNodes rfl rfl rfl
    exact (rings.trans bars).trans (.modCo _ n c rfl)
  have status : Keeps Node.saveArea s (setStatus (unitWrite s n (ctlTenant t.ctl) (t.tcb + 112) fun _ => va.toNat) n
      (ctlTenant t.ctl) t.tcb (stWord 4 0)) := (unitWrite_keeps blind.home ..).trans (setStatus_keeps blind.home ..)
  exact ((status.trans (freed _)).trans (reserveCore_keeps blind ..)).trans (pushEntry_keeps blind ..)

/-! A class without core-cycles (R33, R415). -/

/-- What is asked to leave stays asked. -/
theorem requestPreempt_asked (s : State) (n c why j : Nat) (h : j = c ∨ (co s n j).preempt ≠ none) :
    (co (requestPreempt s n c why) n j).preempt ≠ none := by
  have more (s : State) (w x : Nat) (h : j = x ∨ (co s n j).preempt ≠ none) :
      (co (modCo s n x fun k => if k.preempt.isNone then { k with preempt := some w } else k) n j).preempt ≠ none := by
    by_cases hj : j = x
    · subst hj
      rw [co_modCo_same]
      split
      · exact Option.some_ne_none w
      · next hk => simpa using hk
    · rw [co_modCo_ne _ _ fun e => hj e.2]
      exact h.resolve_left hj
  have others (l : List (Nat × Word × Nat)) (s : State) (h : (co s n j).preempt ≠ none) :
      (co (l.foldl (fun s m => modCo s n m.2.2 fun k => if k.preempt.isNone then { k with preempt := some 3 } else k) s) n j).preempt
        ≠ none := by
    induction l generalizing s with
    | nil => exact h
    | cons m r ih => exact ih _ (more s 3 m.2.2 (.inr h))
  unfold requestPreempt
  dsimp only
  split
  · exact others _ _ (more s why c h)
  · exact more s why c h

theorem requestPreempts_asked (n why : Nat) (l : List (Nat × Core)) (s : State) (j : Nat)
    (h : (∃ x ∈ l, x.1 = j) ∨ (co s n j).preempt ≠ none) :
    (co (l.foldl (fun s x => requestPreempt s n x.1 why) s) n j).preempt ≠ none := by
  induction l generalizing s with
  | nil => exact h.resolve_left (by simp)
  | cons x r ih =>
    refine ih _ ?_
    rcases h with ⟨y, hy, rfl⟩ | h
    · rcases List.mem_cons.mp hy with rfl | hr
      · exact .inr (requestPreempt_asked _ _ _ _ _ (.inl rfl))
      · exact .inl ⟨y, hr, rfl⟩
    · exact .inr (requestPreempt_asked _ _ _ _ _ (.inr h))

/-- A value of a map that is not the default stands in it. -/
theorem mem_of_smGet_ne {α : Type} {d : α} {m : SMap α} {k : Nat} (h : smGet m d k ≠ d) : (k, smGet m d k) ∈ m := by
  induction m with
  | nil => exact absurd rfl h
  | cons x r ih =>
    rw [smGet] at h ⊢
    split at h
    · next hk =>
      rw [if_pos hk]
      exact hk ▸ List.mem_cons_self
    · next hk =>
      rw [if_neg hk]
      exact List.mem_cons_of_mem _ (ih h)

theorem exec_budgetExhausted_idle {s : State} {n k act : Nat} (h : act ≠ 0 ∨ (bucketOf (nd s n) k).cyc ≠ some 0) :
    exec (.budgetExhausted n k act) s = .next s := by
  have step : exec (.budgetExhausted n k act) s = execBudgetExhausted n k act s := rfl
  rw [step, execBudgetExhausted, if_pos h]

/-- Every task of a class whose cycles are used up is asked to leave. -/
theorem exec_budgetExhausted {s : State} {n k : Nat} (h : (bucketOf (nd s n) k).cyc = some 0) :
    ∃ y, exec (.budgetExhausted n k 0) s = .next y
      ∧ ∀ c, (co s n c).mode = .run → (co s n c).task ≠ none → classOf (co s n c) = k → (co y n c).preempt ≠ none := by
  have step : exec (.budgetExhausted n k 0) s = execBudgetExhausted n k 0 s := rfl
  have due : ¬((0 : Nat) ≠ 0 ∨ (bucketOf (nd s n) k).cyc ≠ some 0) := by simp [h]
  refine ⟨_, by rw [step, execBudgetExhausted, if_neg due], fun c hm ht hc => ?_⟩
  refine requestPreempts_asked _ _ _ _ _ ?_
  by_cases hp : (co s n c).preempt = none
  · left
    have there : (c, co s n c) ∈ (nd s n).cores := mem_of_smGet_ne fun e => ht (congrArg Core.task e)
    refine ⟨_, List.mem_filter.mpr ⟨there, ?_⟩, rfl⟩
    have asks : budgetDue s n c = true := by
      simp [budgetDue, hm, hp, hc, h, Option.isSome_iff_ne_none.mpr ht]
    simp [asks, hc]
  · exact .inr hp

/-! Cancelled pairs (R391). -/

theorem exec_cancelToken (n t : Nat) (g : BitVec 32) (s : State) : exec (.cancelToken n t g) s = .next (addCancel s n t g) := rfl

theorem cancelColl_cancels (s : State) (n t : Nat) (g : BitVec 32) : Keeps Node.cancels s (cancelColl s n t g) :=
  .foldl _ (fun _ _ => stopColl_keeps (fun _ => rfl) ..) _ s

/-- A pair that the list has, or has a place for, is cancelled. -/
theorem addCancel_cancelled {s : State} {n t : Nat} {g : BitVec 32}
    (h : cancelled (nd s n) t g = true ∨ (nd s n).cancels.length < 64) : cancelled (nd (addCancel s n t g) n) t g = true := by
  unfold addCancel
  dsimp only
  split
  · assumption
  · next hn =>
    rw [if_neg (Nat.not_le.mpr (h.resolve_left hn)), cancelled, (cancelColl_cancels _ n t g).nodes n, nd_modNd_same]
    simp

/-- A pair that a full list has no place for waits. -/
theorem addCancel_waits {s : State} {n t : Nat} {g : BitVec 32} (hn : cancelled (nd s n) t g = false)
    (h : 64 ≤ (nd s n).cancels.length) : (nd (addCancel s n t g) n).cancelWait = (nd s n).cancelWait ++ [(t, g)] := by
  rw [addCancel, hn, if_neg Bool.false_ne_true, if_pos h, nd_modNd_same]

/-! The host's actions (R453). -/

/-- A disposal of a held context. -/
theorem hostAction_held {s : State} {n c : Nat} {h : Bool} {k : Cause} (hm : (co s n c).mode = .hostHeld h k) (action code : Nat)
    (ha : action = 2 → (co s n c).saved ≠ none) : hostAction s n c action code = dispose s n c action code (s.now + 4) := by
  have acts : ¬(action = 2 ∧ (co s n c).saved.isNone) := fun x => ha x.1 (Option.isNone_iff_eq_none.mp x.2)
  rw [hostAction, hm]
  exact if_neg acts

theorem hostAction_none {s : State} {n c : Nat} (hm : ∀ h k, (co s n c).mode ≠ .hostHeld h k) (action code : Nat) :
    hostAction s n c action code = s := by
  unfold hostAction
  split
  · next h => exact absurd h (hm _ _)
  · rfl

theorem hostSaveq_none {s : State} {n c : Nat} (hm : ∀ h k, (co s n c).mode ≠ .hostHeld h k) : hostSaveq s n c = s := by
  unfold hostSaveq
  split
  · next h => exact absurd h (hm _ _)
  · rfl

end Sys2Proof.Machine
end

section
/-! PROOFS. Merges, removals of translations for other nodes, their answers, and retention (R208, R386, R427, R433). -/

namespace Sys2Proof.Machine

/-! The merge engines. -/

section
variable {α : Type} {f : Node → α} (hf : SeesNoHome f)
include hf

theorem mergeLines_keeps (n root asid : Nat) (need : Need) (fuel : Nat) (va : Word) (len : Nat) (s : State) :
    Keeps f s (mergeLines n root asid need fuel va len s).2 := by
  induction fuel generalizing va len s with
  | zero => exact .refl s
  | succ fuel ih =>
    unfold mergeLines
    split
    · exact .refl s
    · extract_lets size
      have checked := chkAs_keeps hf (tlbCache_none · n) s (BitVec.ofNat 64 root) asid va size need
      split
      · next h =>
        have rest := (checked.ok h).trans (ih (va + BitVec.ofNat 64 size) (len - size) _)
        dsimp only
        split
        · next h => rwa [h] at rest
        · exact rest
      · next h => rw [h] at checked; exact checked
      · next h => exact checked.ok h
      · exact .refl s

theorem mergeRead_keeps (n c : Nat) (l : List MLine) (s : State) : Keeps f s (mergeRead n c l s).2 := by
  induction l generalizing s with
  | nil => exact .refl s
  | cons x r ih =>
    unfold mergeRead
    extract_lets s' p v
    have passed : Keeps f s s' := touchUncharged_keeps hf.port ..
    have read : Keeps f s (if p = true then addPoisonZ s' n c else s') := by
      split
      · exact passed.trans (addPoisonZ_keeps hf ..)
      · exact passed
    have rest := read.trans (ih _)
    split
    · exact passed
    · split
      · next h => rwa [h] at rest
      · exact rest

theorem mergeView_keeps (s : State) (n c : Nat) (g : Group) (v : Word × Nat × Nat × Nat × Nat) (dst src : Word) :
    Keeps f s (mergeView s n c g v dst src).2 := by
  unfold mergeView
  extract_lets fuel put
  have there := mergeLines_keeps hf n g.root.toNat g.asid .rw fuel dst (vLen v) s
  split
  · next h => rwa [h] at there
  · next dl s1 h =>
    rw [h] at there
    have back := there.trans (mergeLines_keeps hf n g.root.toNat g.asid .r fuel src (vLen v) s1)
    split
    · next h => rwa [h] at back
    · next sl s2 h =>
      rw [h] at back
      have old := back.trans (mergeRead_keeps hf n c dl s2)
      split
      · next h => rwa [h] at old
      · next xs s3 h =>
        rw [h] at old
        have new := old.trans (mergeRead_keeps hf n c sl s3)
        split
        · next h => rwa [h] at new
        · next h =>
          rw [h] at new
          refine new.trans (.foldl _ (fun s e => ?_) _ _)
          exact (touchUncharged_keeps hf.port ..).trans (homeWrite_keeps hf ..)

theorem mergeViews_keeps (n c : Nat) (g : Group) (dst src : Nat → Word) (l : List (Word × Nat × Nat × Nat × Nat)) (i : Nat)
    (s : State) : Keeps f s (mergeViews n c g dst src l i s).2.2 := by
  induction l generalizing i s with
  | nil => exact .refl s
  | cons v r ih =>
    have first := mergeView_keeps hf s n c g v (dst i) (src i)
    unfold mergeViews
    split
    · next h => rwa [h] at first
    · next h =>
      rw [h] at first
      exact first.trans (ih ..)

end

section
variable {s : State} {n r : Nat} {x : Group}

theorem groupOfRec_modGroup {s t : State} (h : Keeps Node.groups s t) (hx : groupOfRec (nd s n) r = some x) (u : Group → Group) :
    groupOfRec (nd (modGroup t n r u) n) r = some (u x) := by
  have same : groupOfRec (nd t n) r = some x := by rw [groupOfRec, h.nodes n, ← groupOfRec, hx]
  rw [modGroup, nd_modNd_same, same]
  exact smGet_smPut_same ..

theorem mergeDue_fault (h : mergeDue s n r = true) (hx : groupOfRec (nd s n) r = some x) : x.fault = none := by
  unfold mergeDue at h
  rw [hx] at h
  simp only [Bool.and_eq_true] at h
  obtain ⟨⟨⟨quiet, -⟩, -⟩, -⟩ := h
  exact Option.isNone_iff_eq_none.mp quiet

variable (hd : mergeDue s n r = true) (hx : groupOfRec (nd s n) r = some x)

include hd hx in
/-- A step that combines two ranges: with every view applied the range is complete, and a fault stops the group (R386). -/
theorem exec_mergeStep_range {a m b : Nat} (h : dueStep x.complete 13 0 (x.n - 1) = some (a, m, b))
    (z : Nat × Option (Nat × Word) × State)
    (hz : z = mergeViews n (stepCore x a m b) x (viewVa x.marea x.table a) (viewVa x.marea x.table m)
      (x.table.drop (smGet x.at_ 0 (4096 * a + b))) (smGet x.at_ 0 (4096 * a + b)) s) :
    ∃ y g, exec (.mergeStep n r) s = .next y ∧ groupOfRec (nd y n) r = some g ∧ g.fault = z.2.1
      ∧ (z.2.1 = none → (a, b) ∈ g.complete) := by
  have step : exec (.mergeStep n r) s = execMergeStep n r s := rfl
  have groups : Keeps Node.groups s z.2.2 := hz ▸ mergeViews_keeps (fun _ => rfl) ..
  have quiet := mergeDue_fault hd hx
  rw [step, execMergeStep, hd, hx]
  dsimp only
  rw [h]
  dsimp only
  rw [← hz]
  refine ⟨_, _, rfl, groupOfRec_modGroup groups hx _, ?_⟩
  cases z.2.1 with
  | some f => exact ⟨rfl, nofun⟩
  | none => exact ⟨quiet, fun _ => List.mem_cons_self⟩

/-- The base of a view, the destination of the final fold. -/
def foldBase (x : Group) (i : Nat) : Word := match x.table[i]? with | some v => vBase v | none => 0

/-- A group after its final fold. -/
def foldEnds (z : Nat × Option (Nat × Word) × State) (y : Group) : Group := match z.2.1 with
  | some f => { y with fault := some f, fold := z.1 }
  | none => { y with fold := z.1, done := true }

include hd hx in
/-- The final fold of a group whose ranges are complete. -/
theorem exec_mergeStep_fold (h : dueStep x.complete 13 0 (x.n - 1) = none) (z : Nat × Option (Nat × Word) × State)
    (hz : z = mergeViews n (smGet x.who 0 (x.n - 1)) x (foldBase x)
      (viewVa x.marea x.table 0) (x.table.drop x.fold) x.fold s) :
    ∃ y g, exec (.mergeStep n r) s = .next y ∧ groupOfRec (nd y n) r = some g ∧ g.fault = z.2.1
      ∧ (z.2.1 = none → g.done = true) := by
  have step : exec (.mergeStep n r) s = execMergeStep n r s := rfl
  have groups : Keeps Node.groups s z.2.2 := hz ▸ mergeViews_keeps (fun _ => rfl) ..
  have quiet := mergeDue_fault hd hx
  have ends : exec (.mergeStep n r) s = .next (modGroup z.2.2 n r (foldEnds z)) := by
    rw [step, execMergeStep, hd, hx]
    dsimp only
    rw [h, hz]
    rfl
  refine ⟨_, _, ends, groupOfRec_modGroup groups hx _, ?_⟩
  unfold foldEnds
  cases z.2.1 with
  | some f => exact ⟨rfl, nofun⟩
  | none => exact ⟨quiet, fun _ => rfl⟩

end

/-! Removals of translations (R427). -/

theorem mem_insertBy {α : Type} (key : α → Nat) (x : α) (l : List α) : x ∈ insertBy key x l := by
  induction l with
  | nil => exact List.mem_cons_self
  | cons y r ih =>
    unfold insertBy
    split
    · exact List.mem_cons_self
    · exact List.mem_cons_of_mem _ ih

/-- What has set out for a node is under way to it. -/
theorem underWay_travel (s : State) (n m bytes : Nat) (i : Instr) : underWay (travel s n m bytes i) n m i = true := by
  unfold travel netSend underWay
  by_cases h : n = m
  · rw [if_pos h, if_pos h]
    exact List.any_eq_true.mpr ⟨(s.now, i), mem_insertBy .., by simp⟩
  · rw [if_neg h, if_neg h]
    simp [netPut, parcelOf]

/-- The removals of this node's own translations leave what other nodes have asked. -/
theorem tlbRemove_asks (s : State) (n asid mode : Nat) (va : Word) : Keeps Node.tlbAsks s (tlbRemove s n asid mode va) := by
  have cleaned (s : State) (c : Nat) (l : L1Line) : Keeps Node.tlbAsks s (l1Clean s n c l) := by
    unfold l1Clean
    exact .trans ((writeBack_keeps s n l).comp fun v => v.1.tlbAsks) (.modCo _ n c rfl)
  have released (s : State) (c : Nat) : Keeps Node.tlbAsks s (releaseL1 s n c 3 true) :=
    .foldl _ (fun s l => cleaned s c l) _ s
  unfold tlbRemove
  exact .trans (.foldl _ (fun s _ => released s _) _ s) (.modNd _ n rfl)

theorem tlbQuiet_asks (s : State) (n due : Nat) (dets : List (Nat × Nat)) (l : List TlbAsk) :
    tlbQuiet (modNd s n fun d => { d with tlbAsks := l }) n due dets = tlbQuiet s n due dets := by
  rw [tlbQuiet, nd_modNd_same]
  rfl

section
variable {s : State} {n : Nat} {a : TlbAsk}

/-- The only removal asked for is answered once what used it is performed. -/
theorem tlbAnswers_quiet (h : (nd s n).tlbAsks = [a]) (hq : tlbQuiet s n a.due a.dets = true) :
    tlbAnswers s n = travel (modNd s n fun d => { d with tlbAsks := [] }) n a.src 32 (.tlbinvAnswer a.src a.core n) := by
  simp [tlbAnswers, h, answerable, hq]

/-- Until then it waits. -/
theorem tlbAnswers_waits (h : (nd s n).tlbAsks = [a]) (hq : tlbQuiet s n a.due a.dets = false) :
    tlbAnswers s n = modNd s n fun d => { d with tlbAsks := [a] } := by
  simp [tlbAnswers, h, answerable, hq]

end

theorem exec_remoteTlbinv (n src k asid mode : Nat) (va : Word) (s : State) : exec (.remoteTlbinv n src k asid mode va) s
    = .next (tlbAnswers (modNd (tlbRemove s n asid mode va) n fun d =>
        { d with tlbAsks := d.tlbAsks ++ [⟨src, k, pendingUntil s n, detsUnder (nd s n) asid mode va⟩] }) n) := rfl

/-- A node that is asked for nothing else answers at once, or notes what it is asked. -/
theorem remoteTlbinv_alone {x : State} {n : Nat} {a : TlbAsk} (h : (nd x n).tlbAsks = []) (y : State)
    (hy : y = tlbAnswers (modNd x n fun d => { d with tlbAsks := d.tlbAsks ++ [a] }) n) :
    (tlbQuiet x n a.due a.dets = true →
      (nd y n).tlbAsks = [] ∧ underWay y n a.src (.tlbinvAnswer a.src a.core n) = true)
    ∧ (tlbQuiet x n a.due a.dets = false → (nd y n).tlbAsks = [a]) := by
  have noted : modNd x n (fun d => { d with tlbAsks := d.tlbAsks ++ [a] }) = modNd x n fun d => { d with tlbAsks := [a] } := by
    simp only [modNd, h, List.nil_append]
  have asks : (nd (modNd x n fun d => { d with tlbAsks := [a] }) n).tlbAsks = [a] := by rw [nd_modNd_same]
  rw [noted] at hy
  rw [hy, ← tlbQuiet_asks x n a.due a.dets [a]]
  constructor
  · intro hq
    rw [tlbAnswers_quiet asks hq]
    refine ⟨?_, underWay_travel ..⟩
    have sent := travel_keeps (f := Node.tlbAsks) (fun _ => rfl)
    rw [(sent _ n a.src 32 _).nodes n, nd_modNd_same]
  · intro hq
    rw [tlbAnswers_waits asks hq, nd_modNd_same]

theorem exec_tlbinvAnswer (n c m : Nat) (s : State) : exec (.tlbinvAnswer n c m) s = .next (modCo s n c fun k =>
    if k.tlbOwed.contains m then { k with tlbOwed := k.tlbOwed.erase m }
    else { k with tlbWait := k.tlbWait.map fun w => { w with left := w.left.filter fun x => x != m } }) := rfl

/-- A TLBINV that waits gives up the nodes that do not answer: after 10 frames, or with one of them lost. -/
def giveUp (s : State) (n : Nat) (w : TlbWait) : TlbWait :=
  if !w.left.isEmpty && (decide (w.sent + peerTime ≤ s.now) || w.left.any (isLost s n)) then { w with gone := true } else w

theorem exec_tlbinvPeergone (n c : Nat) (s : State) : exec (.tlbinvPeergone n c) s
    = .next (modCo s n c fun k => { k with tlbWait := k.tlbWait.map (giveUp s n) }) := rfl

theorem giveUp_left (s : State) (n : Nat) (w : TlbWait) : (giveUp s n w).left = w.left := by
  unfold giveUp
  split <;> rfl

theorem giveUp_gone (s : State) (n : Nat) (w : TlbWait) : (giveUp s n w).gone = true
    ↔ w.gone = true ∨ (w.left ≠ [] ∧ (w.sent + peerTime ≤ s.now ∨ w.left.any (isLost s n) = true)) := by
  have due : (!w.left.isEmpty && (decide (w.sent + peerTime ≤ s.now) || w.left.any (isLost s n))) = true
      ↔ w.left ≠ [] ∧ (w.sent + peerTime ≤ s.now ∨ w.left.any (isLost s n) = true) := by
    simp only [Bool.and_eq_true, Bool.or_eq_true, decide_eq_true_eq, Bool.not_eq_true', List.isEmpty_eq_false_iff, ne_eq]
  unfold giveUp
  split
  · next h => exact ⟨fun _ => .inr (due.mp h), fun _ => rfl⟩
  · next h => exact ⟨.inl, fun g => g.resolve_right fun k => h (due.mpr k)⟩

/-! Retention (R208, R433). -/

theorem exec_retentionEntryDone (n i : Nat) (s : State) : exec (.retentionEntryDone n i) s
    = if (slcOf (nd s n) i).state ≠ 1 then .next s
      else if slcWakes (slcOf (nd s n) i) then .next (beginExit s n i)
      else .next (modSlc s n i fun y => { y with state := 2, until_ := 0 }) := rfl

theorem exec_retentionExitDone (n i : Nat) (s : State) : exec (.retentionExitDone n i) s
    = .next (if (slcOf (nd s n) i).state = 3 then modSlc s n i fun y => { y with state := 0, until_ := 0, idle := 0 } else s) := rfl

theorem slcOf_modSlc (s : State) (n i : Nat) (u : Slice → Slice) : slcOf (nd (modSlc s n i u) n) i = u (slcOf (nd s n) i) := by
  rw [modSlc, nd_modNd_same]
  exact smGet_smPut_same ..

/-! What O43 claims. -/

/-- Settles O43: how tasks leave a core, by the equations of each step; the merges and the answers of other nodes. -/
theorem taskEnds : Obligations.TaskEnds := by
  refine ⟨⟨fun s n c code st t hd hm ht => exec_taskRetire hd hm ht _ rfl, fun s n c hd => ?_,
    fun s n c t hd ht hb => ⟨fun hv => exec_contextSave_noArea hd ht rfl hb hv, fun chain x1 u x2 hv h1 h2 => ?_⟩,
    fun s n k => ⟨fun act h => exec_budgetExhausted_idle (.inl h), fun h => exec_budgetExhausted_idle (.inr h),
      exec_budgetExhausted⟩,
    fun s n t g => ⟨exec_cancelToken .., addCancel_cancelled, addCancel_waits⟩, fun s n c => ⟨fun h k hm => ?_, fun hm => ?_⟩⟩,
    fun s n r x hd hx => ⟨fun a m b h => exec_mergeStep_range hd hx h _ rfl, fun h => exec_mergeStep_fold hd hx h _ rfl⟩,
    fun s n src k asid mode va => ⟨exec_remoteTlbinv .., fun h => ?_⟩, fun s n c m w hw => ⟨fun hm => ?_, fun hm => ?_⟩,
    fun s n c w hw => ?_, fun s n i => ?_⟩
  · rw [exec_preemptionCut hd]
    exact ⟨fun h => by rw [if_pos h]; rfl, fun h => by rw [h]; rfl⟩
  · refine ⟨_, exec_contextSave_saves hd ht rfl hb hv h1 h2, (requeueTask_freed ..).1, ?_⟩
    rw [(requeueTask_saveArea ..).nodes n, nd_modNd_same]
  · have held := hostAction_held hm
    have saveq : hostSaveq s n c = modCo s n c fun x => { x with mode := .saving, saveHeld := some (h, k) } := by
      rw [hostSaveq, hm]
    refine ⟨congrArg _ (held 0 0 nofun), fun code => congrArg _ (held 1 _ nofun), fun hs => congrArg _ (held 2 0 fun _ => hs),
      fun hs => congrArg Host.Outcome.next (a₁ := hostAction s n c 2 0) ?_, congrArg _ (held 3 0 nofun),
      congrArg _ (held 4 0 nofun), congrArg _ saveq⟩
    rw [hostAction, hm]
    exact if_pos ⟨rfl, by rw [hs]; rfl⟩
  · have none := hostAction_none hm
    refine ⟨fun code => congrArg _ (none 1 _), fun i hi => ?_⟩
    simp only [List.mem_cons, List.not_mem_nil, or_false] at hi
    rcases hi with rfl | rfl | rfl | rfl | rfl
    · exact congrArg _ (none 0 0)
    · exact congrArg _ (none 2 0)
    · exact congrArg _ (none 3 0)
    · exact congrArg _ (none 4 0)
    · exact congrArg _ (hostSaveq_none hm)
  · have asks := ((tlbRemove_asks s n asid mode va).nodes n).trans h
    obtain ⟨quiet, waits⟩ := remoteTlbinv_alone
      (a := ⟨src, k, pendingUntil s n, detsUnder (nd s n) asid mode va⟩) asks _ rfl
    exact ⟨fun hq => ⟨_, exec_remoteTlbinv .., quiet hq⟩, fun hq => ⟨_, exec_remoteTlbinv .., waits hq⟩⟩
  · have free : (co s n c).tlbOwed.contains m = false := by simpa using hm
    refine ⟨_, { w with left := w.left.filter fun x => x != m }, exec_tlbinvAnswer .., ?_⟩
    simp only [co_modCo_same, free, hw, Bool.false_eq_true, if_false, Option.map_some, and_self]
  · have owed : (co s n c).tlbOwed.contains m = true := by simpa using hm
    refine ⟨_, exec_tlbinvAnswer .., ?_⟩
    simp only [co_modCo_same, owed, hw, if_true, and_self]
  · refine ⟨_, giveUp s n w, exec_tlbinvPeergone .., ?_, giveUp_left .., giveUp_gone ..⟩
    rw [co_modCo_same, hw]
    rfl
  · simp only [exec_retentionEntryDone, exec_retentionExitDone]
    refine ⟨fun h hw => ⟨_, by rw [if_neg (not_not.mpr h), hw]; rfl, by rw [slcOf_modSlc]⟩, fun h hw => ?_, fun h => ?_,
      fun h => ⟨_, by rw [if_pos h], by rw [slcOf_modSlc]⟩, fun h => ?_⟩
    · rw [if_neg (not_not.mpr h), hw]
      rfl
    · rw [if_pos h]
    · rw [if_neg h]

end Sys2Proof.Machine
end

section
/-! PROOFS. What an issue leaves, whatever flags it waits for, as a reader of nodes sees it; and the two outcomes of an
instruction that may not go on yet (R60, R95). -/

namespace Sys2Proof.Machine

open Sys2Proof.Claims

section
variable {α : Type} {o : Op α} {s s' : State}

/-- One that waits is blocked; what it has done so far stands only where it says so. -/
theorem runOp_hold_of_canIssue (h : CanIssueWith s o.tk o.seqs o.srcs o.flying (o.flags s) (o.pops s) (o.pushes s))
    (hd : decodeFault o s = none) (hp : o.pre s = .hold s') :
    runOp o s = .next (setBlocked (if o.keep then s' else s)) := by
  simp [runOp, issueOp, finish, h.runs, hd, h.span, h.flags, h.pops, h.ready, hp]

/-- One that finds no room takes nothing. -/
theorem runOp_full_of_canIssue {x : α} (h : CanIssueWith s o.tk o.seqs o.srcs o.flying (o.flags s) (o.pops s) (o.pushes s))
    (hd : decodeFault o s = none) (hp : o.pre s = .go x s') (hr : o.room s = false) :
    runOp o s = .next (setBlocked s) := by
  simp [runOp, issueOp, finish, h.runs, hd, h.span, h.flags, h.pops, h.ready, hp, hr]

end

/-! Readers of what an issue moves. -/

/-- A core but for its tokens and flags. -/
def tokenCore (k : Core) : Core := { k with fifos := [], evt := 0 }

/-- A core but for what an issue moves and what is in flight. -/
def issueCore (k : Core) : Core := { coreRest k with evt := 0 }

/-- What is read of the sequencers of a core. -/
def seqCore (k : Core) : SMap Sequencer × Sequencer × CoreMode := (k.seqs, k.hseq, k.mode)

section
variable {α β : Type} {f : Node → α}

theorem SeesCores.weaken {γ : Type} {g : Core → β} {h : Core → γ} (hf : SeesCores g f) (hg : ∀ k l, h k = h l → g k = g l) :
    SeesCores h f := fun d c k e => hf d c k (hg _ _ e)

theorem Keeps.modCc_sees {g : Core → β} (hf : SeesCores g f) (s : State) {u : Core → Core} (h : ∀ k, g (u k) = g k) :
    Keeps f s (Machine.modCc s u) := .modCo_sees hf s _ _ h

theorem popTok_keeps (hf : SeesCores tokenCore f) (s : State) (i k : Nat) : Keeps f s (popTok s i k) := by
  unfold popTok
  split
  · exact .refl s
  · refine .trans ?_ (.later ..)
    exact .modCc_sees hf s fun _ => rfl

theorem reserveTok_keeps (hf : SeesCores tokenCore f) (s : State) (i k : Nat) : Keeps f s (reserveTok s i k) := by
  unfold reserveTok
  split
  · exact .refl s
  · exact .modCc_sees hf s fun _ => rfl

theorem clearFlags_keeps (hf : SeesCores tokenCore f) (s : State) (m : BitVec 16) : Keeps f s (clearFlags s m) := by
  unfold clearFlags
  split
  · exact .refl s
  · exact .modCc_sees hf s fun _ => rfl

theorem takeTokens_keeps (hf : SeesCores tokenCore f) (s : State) (t : Tok) (a b : List (Nat × Nat)) :
    Keeps f s (takeTokens s t a b) :=
  (Keeps.foldl _ (fun s _ => popTok_keeps hf s _ _) _ s).trans (.foldl _ (fun s _ => reserveTok_keeps hf s _ _) _ _)

theorem retirePushes_keeps (s : State) (t : Tok) (p : List (Nat × Nat)) : Keeps f s (retirePushes s t p) := by
  refine .foldl _ (fun s i => ?_) _ s
  unfold pushLater
  split
  · exact .refl s
  · exact .later ..

theorem signal_keeps (s : State) (m : BitVec 16) : Keeps f s (signal s m) := by
  unfold signal
  split
  · exact .refl s
  · exact .later ..

theorem issueCore_tokens (k l : Core) (h : tokenCore k = tokenCore l) : issueCore k = issueCore l :=
  (congrArg issueCore h :)

theorem issueCore_putSeq (k : Core) (q : Seq) (x : Sequencer) : issueCore (putSeq k q x) = issueCore k := by
  rw [issueCore, coreRest_putSeq, issueCore]

/-- An issue moves its sequencer, tokens and flags alone. -/
theorem takeIssue_keeps {γ : Type} (hf : SeesCores issueCore f) (o : Op γ) (s : State) : Keeps f s (takeIssue o s) := by
  have moved := (clearFlags_keeps (hf.weaken issueCore_tokens) s (o.flags s)).trans
    (takeTokens_keeps (hf.weaken issueCore_tokens) _ o.tk (o.pops s) (o.pushes s))
  have stepped (s : State) (u : Sequencer → Sequencer) : Keeps f s (modCs s u) :=
    .modSq_sees hf s _ _ _ fun _ _ _ => issueCore_putSeq ..
  unfold takeIssue
  dsimp only
  split
  · exact (moved.trans (stepped ..)).trans (retirePushes_keeps ..)
  · exact moved.trans (stepped ..)

/-- A result put in flight. -/
theorem flyReg_keeps (hf : SeesCores issueCore f) (s : State) (d : Reg) (v : Word) (lat : Nat) (tok : Option Nat)
    (sig : BitVec 16) : Keeps f s (flyReg s d v lat tok sig) := by
  unfold flyReg fly
  refine .trans (t := modCc s fun k => supersedeAll k s.cur.seq d) ?_ ?_
  · exact .modCc_sees hf s fun _ => rfl
  · exact .modCc_sees hf _ fun _ => rfl

end

/-! Where control stands. -/

theorem Keeps.sameSeq {s t : State} (h : Keeps (coresVia seqCore) s t) : cs t = cs s := by
  have same := h.readCore
  rw [seqCore, seqCore, Prod.mk.injEq, Prod.mk.injEq] at same
  obtain ⟨seqs, hseq, mode⟩ := same
  rw [cs, cs, sq, sq, h.cur]
  rw [cc, h.cur] at seqs hseq mode
  exact seqIn_congr seqs hseq mode s.cur.seq

theorem seqs_of_tokens : SeesCores tokenCore (coresVia seqCore) := seesCores_via fun _ _ h => (congrArg seqCore h :)

theorem flyReg_seq (s : State) (d : Reg) (v : Word) (lat : Nat) (tok : Option Nat) (sig : BitVec 16) :
    cs (flyReg s d v lat tok sig) = cs s := by
  refine Keeps.sameSeq ?_
  have blind : SeesCores seqCore (coresVia seqCore) := seesCores_via fun _ _ => id
  unfold flyReg fly
  refine .trans (t := modCc s fun k => supersedeAll k s.cur.seq d) ?_ ?_
  · exact .modCc_sees blind s fun _ => rfl
  · exact .modCc_sees blind _ fun _ => rfl

/-- The continuation is that of the sequencer as it stood, in the image of its core. -/
theorem takeIssue_pc {γ : Type} (o : Op γ) (s : State) : (cs (takeIssue o s)).pc = (continuation s (cs s) o.len).pc := by
  have before : cs (takeTokens (clearFlags s (o.flags s)) o.tk (o.pops s) (o.pushes s)) = cs s :=
    ((clearFlags_keeps seqs_of_tokens s _).trans (takeTokens_keeps seqs_of_tokens ..)).sameSeq
  unfold takeIssue
  dsimp only
  split
  · rw [(retirePushes_keeps (f := coresVia seqCore) ..).sameSeq, cs_modCs, before]
  · rw [cs_modCs, before]

theorem continuation_congr {s t : State} (h : Keeps Node.cores s t) (len : Nat) :
    continuation t (cs t) len = continuation s (cs s) len := by
  have core : cc t = cc s := by rw [cc, h.cur, co, h.nodes, ← co, ← cc]
  have seq : cs t = cs s := (h.comp fun l c => seqCore (smGet l {} c)).sameSeq
  rw [seq, continuation, core, continuation]

/-! What of the node and of the moving core reads the same after an issue. -/

/-- A node but for its cores, and each core but for what an issue moves. -/
def issueView (d : Node) : Node × (Nat → Core) := (nodeRest d, coresVia issueCore d)

theorem issueView_cores : SeesCores issueCore issueView := fun d c k h =>
  Prod.ext rfl (seesCores_via (fun _ _ => id) d c k h)

section
variable {s t : State}

theorem Keeps.issueNode (h : Keeps issueView s t) : nodeRest (cn t) = nodeRest (cn s) :=
  Keeps.readNode (f := nodeRest) (h.comp Prod.fst)

theorem Keeps.issueCore (h : Keeps issueView s t) : issueCore (cc t) = Machine.issueCore (cc s) :=
  Keeps.readCore (g := Machine.issueCore) (h.comp Prod.snd)

end

end Sys2Proof.Machine
end

section
/-! PROOFS. Contexts of endpoints (R300, R302, R303): the cache, the home, and EPOPEN and EPCLOSE. -/

namespace Sys2Proof.Machine

open Sys2Proof.Claims

/-! The cache of contexts. -/

/-- A context but for its place in the cache and what is on its way home. -/
def epCore (x : Endpoint) : Endpoint := { x with cached := false, used := 0, fetching := false, sentHome := none }

/-- The contexts of a node as far as `epCore` sees them. -/
def epView (d : Node) : Nat → Endpoint := fun e => epCore (epOf d e)

theorem epOf_modEp (s : State) (n e j : Nat) (u : Endpoint → Endpoint) :
    epOf (nd (modEp s n e u) n) j = if j = e then u (epOf (nd s n) e) else epOf (nd s n) j := by
  rw [modEp, nd_modNd_same]
  exact smGet_smPut ..

theorem epOf_modEp_same (s : State) (n e : Nat) (u : Endpoint → Endpoint) :
    epOf (nd (modEp s n e u) n) e = u (epOf (nd s n) e) := by
  rw [epOf_modEp, if_pos rfl]

/-- A change of a context, under a reader that sees none. -/
theorem modEp_blind {α : Type} {f : Node → α} (hf : ∀ d l, f { d with eps := l } = f d) (s : State) (n e : Nat)
    (u : Endpoint → Endpoint) : Keeps f s (modEp s n e u) := .modNd s n (hf _ _)

theorem modEp_view (s : State) (n e : Nat) {u : Endpoint → Endpoint} (h : ∀ x, epCore (u x) = epCore x) :
    Keeps epView s (modEp s n e u) := by
  refine .modNd s n (funext fun j => ?_)
  by_cases hj : j = e
  · subst hj
    simp only [epView, epOf, smGet_smPut_same, h]
  · simp only [epView, epOf, smGet_smPut_ne _ _ _ hj]

theorem epHomeWrite_blind {α : Type} {f : Node → α} (hf : ∀ d l, f { d with eps := l } = f d) (hh : SeesNoHome f) (s : State)
    (n e : Nat) : Keeps f s (epHomeWrite s n e) := by
  have fresh : Keeps f s { s with free := s.free + 1 } := .sameNodes rfl rfl rfl
  unfold epHomeWrite
  extract_lets v a s1 s2
  clear_value v
  have noted : Keeps f s s1 := fresh.trans (modEp_blind hf ..)
  have low : Keeps f s1 s2 := devWrite_keeps hh ..
  exact (noted.trans low).trans (devWrite_keeps hh ..)

theorem epHomeWrite_view (s : State) (n e : Nat) : Keeps epView s (epHomeWrite s n e) := by
  have blind : SeesNoHome epView := fun _ => rfl
  have fresh : Keeps epView s { s with free := s.free + 1 } := .sameNodes rfl rfl rfl
  unfold epHomeWrite
  extract_lets v a s1 s2
  clear_value v
  have noted : Keeps epView s s1 := fresh.trans (modEp_view _ n e fun _ => rfl)
  have low : Keeps epView s1 s2 := devWrite_keeps blind ..
  exact (noted.trans low).trans (devWrite_keeps blind ..)

/-- Whatever goes to the cache or to its home, the contexts stay what they are. -/
theorem epCache_view (s : State) (n e : Nat) : Keeps epView s (epCache s n e) := by
  have out (t : State) (j : Nat) : Keeps epView t (modEp t n j fun y => { y with cached := false }) :=
    modEp_view t n j fun _ => rfl
  have into (t : State) (now : Nat) :
      Keeps epView t (modEp t n e fun y => { y with cached := true, used := now, fetching := false }) :=
    modEp_view t n e fun _ => rfl
  unfold epCache
  split
  · exact (out s e).trans (epHomeWrite_view ..)
  · refine .trans ?_ (into _ _)
    split
    · exact .refl s
    · split
      · exact .refl s
      · exact (epHomeWrite_view ..).trans (out ..)

theorem epCache_blind {α : Type} {f : Node → α} (hf : ∀ d l, f { d with eps := l } = f d) (hh : SeesNoHome f) (s : State)
    (n e : Nat) : Keeps f s (epCache s n e) := by
  unfold epCache
  split
  · exact (modEp_blind hf ..).trans (epHomeWrite_blind hf hh ..)
  · refine .trans ?_ (modEp_blind hf ..)
    split
    · exact .refl s
    · split
      · exact .refl s
      · exact (epHomeWrite_blind hf hh ..).trans (modEp_blind hf ..)

theorem epCache_cached {s : State} {n e : Nat} (h : epPlace s n e = true) : (epOf (nd (epCache s n e) n) e).cached = true := by
  unfold epCache
  rw [h, if_neg (by decide)]
  exact congrArg Endpoint.cached (epOf_modEp_same ..)

/-! Whether the cache has a place depends on the other contexts and on the operations under way. -/

theorem smPut_filter_ne {α : Type} (m : SMap α) (k : Nat) (v : α) (p : Nat × α → Bool) :
    (smPut m k v).filter (fun x => p x && x.1 != k) = m.filter (fun x => p x && x.1 != k) := by
  induction m with
  | nil => simp [smPut]
  | cons x r ih =>
    unfold smPut
    split
    · simp
    · split
      · next h => simp [h]
      · rw [List.filter_cons, List.filter_cons, ih]

theorem smPut_any {α : Type} (d : α) (m : SMap α) (k : Nat) (v : α) (p : α → Bool) (hd : p d = false)
    (hv : p v = p (smGet m d k)) : (smPut m k v).any (fun x => p x.2) = m.any fun x => p x.2 := by
  have held (l : SMap α) (h : p (smGet l d k) = true) : l.any (fun x => p x.2) = true := by
    refine List.any_eq_true.mpr ⟨_, mem_of_smGet_ne (d := d) (k := k) fun e => ?_, h⟩
    rw [e, hd] at h
    exact Bool.false_ne_true h
  induction m with
  | nil => simpa [smPut, smGet, hd] using hv
  | cons x r ih =>
    unfold smPut
    split
    · rw [List.any_cons]
      cases hp : p v with
      | false => rfl
      | true => rw [held _ (hv ▸ hp)]; rfl
    · split
      · next h =>
        rw [smGet, if_pos h] at hv
        simp [hv]
      · next h =>
        rw [smGet, if_neg h] at hv
        rw [List.any_cons, List.any_cons, ih hv]

/-- The operations of endpoints that a node holds: sent, armed, in saved contexts and in the queues of cores. -/
def opsView (d : Node) : (List OutMsg × SMap (Option Armed) × List (Nat × Core × List (Nat × Ring))) × (Nat → Bool) :=
  ((d.outMsgs, d.armed, d.areas), fun e => d.cores.any fun c => epOnCore e c.2)

theorem opsView_cores : SeesCores issueCore opsView := fun d c k h =>
  Prod.ext rfl (funext fun e => smPut_any {} d.cores c k (epOnCore e) rfl (by
    have same := congrArg (epOnCore e) h
    exact same))

theorem epPlace_congr {s t : State} {n e : Nat} (he : epsCached t n e = epsCached s n e) (ho : opsView (nd t n) = opsView (nd s n)) :
    epPlace t n e = epPlace s n e := by
  obtain ⟨lists, queues⟩ := Prod.ext_iff.mp ho
  obtain ⟨sent, rest⟩ := Prod.ext_iff.mp lists
  obtain ⟨armed, areas⟩ := Prod.ext_iff.mp rest
  dsimp only [opsView] at sent armed areas queues
  have busy (j : Nat) : epBusy t n j = epBusy s n j := by rw [epBusy, sent, areas, congrFun queues j, epBusy]
  have fired (j : Nat) : epFired (nd t n) j = epFired (nd s n) j := by rw [epFired, armed, epFired]
  simp only [epPlace, epVictim, he, busy, fired]

end Sys2Proof.Machine
end

section
/-! PROOFS. EPOPEN and EPCLOSE (R302, R303). -/

namespace Sys2Proof.Machine

open Sys2Proof.Claims

section
variable {f : FE} {s s' : State}

theorem same_pastE (s : State) (f : FE) : SameOperands s (pastE s f) := by
  unfold pastE pastWith
  exact same_takeIssue _ s
theorem same_begunE (s : State) (f : FE) : SameOperands s (begunE s f) := same_takeIssue _ s
theorem pastE_keeps (s : State) (f : FE) : Keeps issueView s (pastE s f) := by
  unfold pastE pastWith
  exact takeIssue_keeps issueView_cores _ s
theorem begunE_keeps (s : State) (f : FE) : Keeps issueView s (begunE s f) := takeIssue_keeps issueView_cores _ s

/-- What an issue of an F-E instruction takes, whatever it checks or does. -/
theorem takeIssue_pastE {α : Type} (o : Op α) (s : State) (f : FE) (h1 : o.len = 2) (h2 : o.tk = f.tk) (h3 : o.flags s = f.wait)
    (h4 : o.pops s = []) (h5 : o.pushes s = []) (h6 : o.now = true) : takeIssue o s = pastE s f := by
  unfold pastE pastWith
  exact takeIssue_congr o _ s h1 h2 h3 h4 h5 h6

theorem takeIssue_begunE {α : Type} (o : Op α) (s : State) (f : FE) (h1 : o.len = 2) (h2 : o.tk = f.tk) (h3 : o.flags s = f.wait)
    (h4 : o.pops s = []) (h5 : o.pushes s = []) (h6 : o.now = false) : takeIssue o s = begunE s f :=
  takeIssue_congr o _ s h1 h2 h3 h4 h5 h6

theorem exec_epopen (f : FE) (s : State) : exec (.epopen f) s = execEpopen f s := rfl
theorem exec_epclose (f : FE) (s : State) : exec (.epclose f) s = execEpclose f s := rfl

/-- The context that an image of 256 bytes opens. -/
def imageEp (v : Nat) : Endpoint :=
  { opened := true, w0 := BitVec.ofNat 64 v, rqBase := BitVec.ofNat 64 (v >>> 64),
    rqPost := BitVec.ofNat 16 (v >>> 176), rqTake := BitVec.ofNat 16 (v >>> 160),
    sSeq := BitVec.ofNat 32 (v >>> 224), rSeq := BitVec.ofNat 32 (v >>> 192) }

section
variable (h : CanIssueE s f [.ctrl] [f.a, f.b] 0) (hp : privileged (cc s) = true) (ha : (reg s f.a).toNat < 4096)
include h hp ha

theorem exec_epopen_fault {k : Cause} (hr : readWhole (reg s f.b) 256 s = .fault k s') :
    exec (.epopen f) s = .next (takeTrap s' s.cur.node s.cur.core k) := by
  rw [exec_epopen, execEpopen]
  refine runOp_fault_of_canIssue h.issue (decodeFault_none rfl (.inr h.task) h.issue.taken (by simp [hp])) ?_
  dsimp only
  rw [if_neg (Nat.not_le.mpr ha), hr]

theorem exec_epopen_hold (hr : readWhole (reg s f.b) 256 s = .hold s') : exec (.epopen f) s = .next (setBlocked s) := by
  rw [exec_epopen, execEpopen]
  refine runOp_hold_of_canIssue (s' := s') h.issue (decodeFault_none rfl (.inr h.task) h.issue.taken (by simp [hp])) ?_
  dsimp only
  rw [if_neg (Nat.not_le.mpr ha), hr]

variable {v : Nat} (hr : readWhole (reg s f.b) 256 s = .go v s')
include hr

theorem exec_epopen_refused (hx : (epOf (cn s) (reg s f.a).toNat).opened = true ∨ epImageOk s v = false) :
    exec (.epopen f) s = .next (takeTrap (keepTlb s s' s.cur.node s.cur.core) s.cur.node s.cur.core (causeHere s codeIllegal)) := by
  have bad : ((epOf (cn s) (reg s f.a).toNat).opened || !epImageOk s v) = true := by
    rcases hx with hx | hx <;> simp [hx]
  rw [exec_epopen, execEpopen]
  refine runOp_fault_of_canIssue h.issue (decodeFault_none rfl (.inr h.task) h.issue.taken (by simp [hp])) ?_
  dsimp only
  rw [if_neg (Nat.not_le.mpr ha), hr]
  dsimp only
  rw [if_pos bad]

theorem exec_epopen_opens (ho : (epOf (cn s) (reg s f.a).toNat).opened = false) (hi : epImageOk s v = true) :
    exec (.epopen f) s = .next (signal (epCache (modEp (pastE s' f) s.cur.node (reg s f.a).toNat fun _ => imageEp v)
      s.cur.node (reg s f.a).toNat) f.sig) := by
  have good : ¬((epOf (cn s) (reg s f.a).toNat).opened || !epImageOk s v) = true := by simp [ho, hi]
  have read := readWhole_keeps hr
  have cur : (pastE s' f).cur = s.cur := (same_pastE s' f).cur.trans read.cur
  have operand : reg (pastE s' f) f.a = reg s f.a := ((same_pastE s' f).reg f.a).trans (read.accessReg f.a)
  rw [exec_epopen, execEpopen]
  refine (runOp_of_canIssue (x := v) (s' := s') h.issue
    (decodeFault_none rfl (.inr h.task) h.issue.taken (by simp [hp])) ?_ rfl).trans ?_
  · dsimp only
    rw [if_neg (Nat.not_le.mpr ha), hr]
    dsimp only
    rw [if_neg good]
  · rw [takeIssue_pastE _ s' f rfl rfl rfl rfl rfl rfl]
    dsimp only
    rw [cur, operand]
    rfl

end

/-- Only the moving sequencer of CTRL in a privileged context opens or closes an endpoint. -/
theorem exec_endpoint_priv (hm : mayIssue s = true) (ht : inHandler (cc s) = false) (hq : s.cur.seq = .ctrl)
    (hp : privileged (cc s) = false) :
    exec (.epopen f) s = .next (takeTrap s s.cur.node s.cur.core (causeHere s codePriv))
    ∧ exec (.epclose f) s = .next (takeTrap s s.cur.node s.cur.core (causeHere s codePriv)) := by
  rw [exec_epopen, execEpopen, exec_epclose, execEpclose]
  exact ⟨runOp_decode _ s hm (decodeFault_priv rfl (.inr ht) (by simp [hq]) (by simp [hp])),
    runOp_decode _ s hm (decodeFault_priv rfl (.inr ht) (by simp [hq]) (by simp [hp]))⟩

end

/-! What is opened. -/

theorem Keeps.sameCs {s t : State} (h : Keeps Node.cores s t) : cs t = cs s :=
  Keeps.sameSeq (h.comp fun l c => seqCore (smGet l {} c))

/-- A context that is opened is the image's, whatever the cache makes of it. -/
theorem opened_context (p : State) (n i : Nat) (x : Endpoint) (sig : BitVec 16) (y : State)
    (hy : y = signal (epCache (modEp p n i fun _ => x) n i) sig) :
    cs y = cs p ∧ y.cur = p.cur ∧ epCore (epOf (nd y n) i) = epCore x
    ∧ (epPlace (modEp p n i fun _ => x) n i = true → (epOf (nd y n) i).cached = true) := by
  have cores : Keeps Node.cores p y := by
    rw [hy]
    exact ((modEp_blind (fun _ _ => rfl) ..).trans (epCache_blind (fun _ _ => rfl) (fun _ => rfl) ..)).trans (signal_keeps ..)
  have signalled : Keeps Node.eps (epCache (modEp p n i fun _ => x) n i) y := hy ▸ signal_keeps ..
  have same : epOf (nd y n) i = epOf (nd (epCache (modEp p n i fun _ => x) n i) n) i := by
    rw [epOf, signalled.nodes n, epOf]
  refine ⟨cores.sameCs, cores.cur, ?_, fun hplace => ?_⟩
  · rw [same, ← epView, congrFun ((epCache_view _ n i).nodes n) i, epView, epOf_modEp_same]
  · rw [same]
    exact epCache_cached hplace

/-- An issue, and the other context itself, change no place in the cache. -/
theorem epPlace_opened {s p : State} (h : Keeps issueView s p) (ho : Keeps opsView s p) (n i : Nat) (x : Endpoint) :
    epPlace (modEp p n i fun _ => x) n i = epPlace s n i := by
  have eps := congrArg (fun v => v.1.eps) (h.nodes n)
  change (nd p n).eps = (nd s n).eps at eps
  refine epPlace_congr ?_ (((modEp_blind (f := opsView) (fun _ _ => rfl) p n i _).nodes n).trans (ho.nodes n))
  rw [epsCached, modEp, nd_modNd_same, eps]
  exact smPut_filter_ne ..

/-! What is closed. -/

theorem disarmAll_cores (s : State) (n e : Nat) : Keeps Node.cores s (disarmAll s n e) := .modNd s n rfl

section
variable {f : FE} {s : State} {e : Nat} (h : CanIssueE s f [.ctrl] [f.a] 0) (hp : privileged (cc s) = true)
  (ho : epOperand s (reg s f.a) = .inr e)
include h hp ho

/-- An endpoint with an operation under way waits, and its armed operations are disarmed already. -/
theorem exec_epclose_waits (hb : epBusy (disarmAll s s.cur.node e) s.cur.node e = true
      ∨ epFired (cn (disarmAll s s.cur.node e)) e = true) :
    exec (.epclose f) s = .next (setBlocked (disarmAll s s.cur.node e)) := by
  have busy : (epBusy (disarmAll s s.cur.node e) s.cur.node e || epFired (cn (disarmAll s s.cur.node e)) e) = true := by
    rcases hb with hb | hb <;> simp [hb]
  rw [exec_epclose, execEpclose]
  refine (runOp_hold_of_canIssue (s' := disarmAll s s.cur.node e) h.issue
    (decodeFault_none rfl (.inr h.task) h.issue.taken (by simp [hp])) ?_).trans rfl
  dsimp only
  rw [ho]
  exact if_pos busy

/-- One without goes home and is closed. -/
theorem exec_epclose_closes (hb : epBusy (disarmAll s s.cur.node e) s.cur.node e = false)
    (hf : epFired (cn (disarmAll s s.cur.node e)) e = false) :
    exec (.epclose f) s = .next (signal (modEp (epHomeWrite (pastE (disarmAll s s.cur.node e) f) s.cur.node e) s.cur.node e
      fun x => { x with opened := false, cached := false }) f.sig) := by
  have free : ¬(epBusy (disarmAll s s.cur.node e) s.cur.node e || epFired (cn (disarmAll s s.cur.node e)) e) = true := by
    simp [hb, hf]
  have cur : (pastE (disarmAll s s.cur.node e) f).cur = s.cur := (same_pastE ..).cur
  have home (t : State) : (epHomeWrite t s.cur.node e).cur = t.cur :=
    (epHomeWrite_blind (f := fun _ => ()) (fun _ _ => rfl) (fun _ => rfl) t _ _).cur
  rw [exec_epclose, execEpclose]
  refine (runOp_of_canIssue (x := e) (s' := disarmAll s s.cur.node e) h.issue
    (decodeFault_none rfl (.inr h.task) h.issue.taken (by simp [hp])) ?_ rfl).trans ?_
  · dsimp only
    rw [ho]
    exact if_neg free
  · rw [takeIssue_pastE _ (disarmAll s s.cur.node e) f rfl rfl rfl rfl rfl rfl]
    dsimp only
    rw [cur, home, cur]

end

/-- A closed context: control goes on, the context is closed, and nothing is armed for it. -/
theorem closed_context (f : FE) (s : State) (n e : Nat) (hf : epFired (nd (disarmAll s n e) n) e = false) (y : State)
    (hy : y = signal (modEp (epHomeWrite (pastE (disarmAll s n e) f) n e) n e fun x => { x with opened := false, cached := false })
      f.sig) :
    y.cur = s.cur ∧ (cs y).pc = (cs (pastE s f)).pc ∧ (epOf (nd y n) e).opened = false ∧ (epOf (nd y n) e).cached = false
    ∧ ∀ a ∈ (nd y n).armed, ∀ b, a.2 = some b → b.ep ≠ e := by
  have written {α : Type} {r : Node → α} (hr : ∀ d l, r { d with eps := l } = r d) (hh : SeesNoHome r) :
      Keeps r (pastE (disarmAll s n e) f) y := by
    rw [hy]
    exact ((epHomeWrite_blind hr hh ..).trans (modEp_blind hr ..)).trans (signal_keeps ..)
  have cores : Keeps Node.cores (pastE (disarmAll s n e) f) y := written (fun _ _ => rfl) (fun _ => rfl)
  have kept : Keeps Node.armed (disarmAll s n e) y :=
    ((pastE_keeps ..).comp fun v => v.1.armed).trans (written (fun _ _ => rfl) (fun _ => rfl))
  have same : epOf (nd y n) e
      = { epOf (nd (epHomeWrite (pastE (disarmAll s n e) f) n e) n) e with opened := false, cached := false } := by
    have signalled := (signal_keeps (f := Node.eps) (modEp (epHomeWrite (pastE (disarmAll s n e) f) n e) n e
      fun x => { x with opened := false, cached := false }) f.sig).nodes n
    rw [← hy] at signalled
    rw [epOf, signalled, ← epOf, epOf_modEp_same]
  refine ⟨cores.cur.trans (same_pastE ..).cur, ?_, by rw [same], by rw [same], fun a ha b hb => ?_⟩
  · rw [cores.sameCs, pastE, pastWith, takeIssue_pc, continuation_congr (disarmAll_cores s n e), pastE, pastWith, takeIssue_pc]
  · rw [kept.nodes n] at ha
    intro he
    have fired : b.fired = true := by
      rw [disarmAll, nd_modNd_same] at ha
      have passes := (List.mem_filter.mp ha).2
      rw [hb] at passes
      simpa [he] using passes
    have there : epFired (nd (disarmAll s n e) n) e = true := by
      refine List.any_eq_true.mpr ⟨a, ha, ?_⟩
      rw [hb]
      simp [he, fired]
    rw [hf] at there
    exact Bool.false_ne_true there

end Sys2Proof.Machine
end

section
/-! PROOFS. MRECV and MPOLL (R305, R312): a posted buffer, and the status of an endpoint. -/

namespace Sys2Proof.Machine

open Sys2Proof.Claims

theorem exec_mrecv (f : FE) (s : State) : exec (.mrecv f) s = execMrecv f s := rfl
theorem exec_mpoll (f : FE) (s : State) : exec (.mpoll f) s = execMpoll f s := rfl

/-! The store of a descriptor. -/

/-- A descriptor's store at the slot of its ring: at another node through the window, here at its home. -/
def recvStore (p : State) (t : Target) (slot : Word) (v : Nat) : State :=
  match t with
  | .remote m rl off => sendStore p m rl off 16 slot (BitVec.ofNat 1024 v) false
  | t => (engWrite (coreAgent p p.cur.node p.cur.core (classOf (cc p))) t 16 v false p).2

theorem sendStore_cur (s : State) (m : Nat) (rl : Bool) (off size : Nat) (va : Word) (data : BitVec 1024) (b : Bool) :
    (sendStore s m rl off size va data b).cur = s.cur := by
  unfold sendStore sendWindow
  extract_lets r w n c req
  split
  · rfl
  · split
    · exact (performWindow_keeps _ n req).cur
    · exact (netSend_keeps (f := fun _ => ()) (fun _ => rfl) ..).cur

theorem recvStore_cur (p : State) (t : Target) (slot : Word) (v : Nat) : (recvStore p t slot v).cur = p.cur := by
  cases t with
  | remote m rl off => exact sendStore_cur ..
  | spad o off => exact (engWrite_keeps ..).cur
  | mem sp pa k zp => exact (engWrite_keeps ..).cur

theorem epNeed_cur (s : State) (n e : Nat) : (epNeed s n e).cur = s.cur := by
  unfold epNeed epFetch
  dsimp only
  split
  · rfl
  · split <;> rfl

/-- The posted descriptor in its ring, and its number on the way to the register. -/
def recvPosted (f : FE) (p : State) (i : Nat) (t : Target) : State :=
  let e := epOf (cn p) i
  let w := recvStore p t (rqSlot e e.rqPost) ((reg p f.b).toNat + (reg p f.d).toNat * 2 ^ 64)
  let y := modEp (epNeed w p.cur.node i) p.cur.node i fun e => { e with rqPost := e.rqPost + 1 }
  flyReg y f.d (e.rqPost.setWidth 64) 2 (pushKey y f.tk) f.sig

/-- What MRECV answers for each outcome of the test of its slot. -/
def recvOutcome (f : FE) (s : State) (i : Nat) : Pre Access → Out
  | .fault k s' => .next (takeTrap s' s.cur.node s.cur.core k)
  | .hold _ => .next (setBlocked s)
  | .go x s' =>
    if hbmHold s' s.cur.node s.cur.core (classOf (cc s)) (atHome x.t) 16 true = true
        ∨ epRing (epOf (cn s) i) ≤ epAvail (epOf (cn s) i) then .next (setBlocked s)
    else .next (recvPosted f (begunE s' f) i x.t)

section
variable {f : FE} {s : State} {i : Nat} (h : CanIssueE s f [.ctrl] [f.a, f.b, f.d] 1) (ho : epOperand s (reg s f.a) = .inr i)
  (hl : (reg s f.d).toNat ≤ 2 ^ 24)
include h ho hl

theorem exec_mrecv_outcome : exec (.mrecv f) s
    = recvOutcome f s i (accessPre s (rqSlot (epOf (cn s) i) (epOf (cn s) i).rqPost) 16 16 .w true) := by
  have small : ¬2 ^ 24 < (reg s f.d).toNat := Nat.not_lt.mpr hl
  rw [exec_mrecv, execMrecv]
  cases ha : accessPre s (rqSlot (epOf (cn s) i) (epOf (cn s) i).rqPost) 16 16 .w true with
  | fault k s' =>
    refine runOp_fault_of_canIssue h.issue (decodeFault_none rfl (.inr h.task) h.issue.taken rfl) ?_
    simp only [ho, if_neg small, ha]
  | hold s' =>
    refine runOp_hold_of_canIssue (s' := s') h.issue (decodeFault_none rfl (.inr h.task) h.issue.taken rfl) ?_
    simp only [ho, if_neg small, ha]
  | go x s' =>
    rw [recvOutcome]
    by_cases hd : hbmHold s' s.cur.node s.cur.core (classOf (cc s)) (atHome x.t) 16 true = true
    · rw [if_pos (.inl hd)]
      refine runOp_hold_of_canIssue (s' := s) h.issue (decodeFault_none rfl (.inr h.task) h.issue.taken rfl) ?_
      simp only [ho, if_neg small, ha, if_pos hd]
    · by_cases hr : epRing (epOf (cn s) i) ≤ epAvail (epOf (cn s) i)
      · rw [if_pos (.inr hr)]
        refine runOp_full_of_canIssue (x := (i, x.t)) (s' := s') h.issue
          (decodeFault_none rfl (.inr h.task) h.issue.taken rfl) ?_ ?_
        · simp only [ho, if_neg small, ha, if_neg hd]
        · simp only [ho, decide_eq_false (Nat.not_lt.mpr hr)]
      · rw [if_neg (not_or.mpr ⟨hd, hr⟩)]
        refine (runOp_of_canIssue (x := (i, x.t)) (s' := s') h.issue
          (decodeFault_none rfl (.inr h.task) h.issue.taken rfl) ?_ ?_).trans ?_
        · simp only [ho, if_neg small, ha, if_neg hd]
        · simp only [ho, decide_eq_true (Nat.not_le.mp hr)]
        · rw [takeIssue_begunE _ s' f rfl rfl rfl rfl rfl rfl]
          rfl

end

/-- The key of a token that an instruction pushes is the moving sequencer's. -/
theorem pushKey_congr {s t : State} (h : t.cur = s.cur) (k : Tok) : pushKey t k = pushKey s k := by
  rw [pushKey, h, pushKey]

/-- The same with the operands as they stood before the issue. -/
theorem recvPosted_begunE {s s' : State} (f : FE) (i : Nat) (t : Target) (h : s'.cur = s.cur) :
    let e := epOf (cn s') i
    let p := begunE s' f
    let w := recvStore p t (rqSlot e e.rqPost) ((reg s' f.b).toNat + (reg s' f.d).toNat * 2 ^ 64)
    recvPosted f p i t = flyReg (modEp (epNeed w w.cur.node i) w.cur.node i fun e => { e with rqPost := e.rqPost + 1 }) f.d
      (e.rqPost.setWidth 64) 2 (pushKey s f.tk) f.sig := by
  have eps : epOf (cn (begunE s' f)) i = epOf (cn s') i :=
    Keeps.readNode (f := fun d => epOf d i) ((begunE_keeps s' f).comp fun v => epOf v.1 i)
  have cur (e : Endpoint) (v : Nat) : (recvStore (begunE s' f) t (rqSlot e e.rqPost) v).cur = (begunE s' f).cur := recvStore_cur ..
  have same := same_begunE s' f
  unfold recvPosted
  dsimp only
  rw [eps, same.reg, same.reg, cur, pushKey_congr (s := s)]
  exact (epNeed_cur ..).trans ((cur ..).trans (same.cur.trans h))

/-! The status. -/

section
variable {f : FE} {s : State} (h : CanIssueE s f [.ctrl] [f.a] 1)
include h

theorem exec_mpoll_fault {code : Nat} (ho : epOperand s (reg s f.a) = .inl code) :
    exec (.mpoll f) s = .next (takeTrap s s.cur.node s.cur.core (causeHere s code)) := by
  rw [exec_mpoll, execMpoll]
  refine runOp_fault_of_canIssue h.issue (decodeFault_none rfl (.inr h.task) h.issue.taken rfl) ?_
  simp only [ho]

theorem exec_mpoll_status {i : Nat} (ho : epOperand s (reg s f.a) = .inr i) :
    exec (.mpoll f) s = .next (flyReg (epNeed (begunE s f) s.cur.node i) f.d (epStatus (epOf (cn s) i)) 12 (pushKey s f.tk) f.sig) := by
  have cur : (begunE s f).cur = s.cur := (same_begunE s f).cur
  rw [exec_mpoll, execMpoll]
  refine (runOp_of_canIssue (x := (i, epStatus (epOf (cn s) i))) (s' := s) h.issue
    (decodeFault_none rfl (.inr h.task) h.issue.taken rfl) ?_ rfl).trans ?_
  · simp only [ho]
  · rw [takeIssue_begunE _ s f rfl rfl rfl rfl rfl rfl]
    dsimp only
    rw [cur, pushKey_congr (s := s) cur]

end

/-! The test of an endpoint operand (R302). -/

theorem epOperand_illegal {s : State} {v : Word} (h : 4096 ≤ v.toNat) : epOperand s v = .inl codeIllegal := by
  rw [epOperand, if_pos h]

theorem epOperand_perm {s : State} {v : Word} (h : v.toNat < 4096)
    (he : (epOf (cn s) v.toNat).opened = false ∨ epTenant (epOf (cn s) v.toNat) ≠ tenantOf (cc s)) :
    epOperand s v = .inl codePerm := by
  rw [epOperand, if_neg (Nat.not_le.mpr h)]
  dsimp only
  rw [if_pos (by rcases he with he | he <;> simp [he])]

theorem epOperand_open {s : State} {v : Word} (h : v.toNat < 4096) (ho : (epOf (cn s) v.toNat).opened = true)
    (ht : epTenant (epOf (cn s) v.toNat) = tenantOf (cc s)) : epOperand s v = .inr v.toNat := by
  rw [epOperand, if_neg (Nat.not_le.mpr h)]
  dsimp only
  rw [if_neg (by simp [ho, ht])]

end Sys2Proof.Machine
end

section
/-! PROOFS. The message instructions (R304 to R306, R310, R311): what takes a number and a place, what is armed, and what fires. -/

namespace Sys2Proof.Machine

open Sys2Proof.Claims

/-! What a fault leaves of the moving agent. -/

theorem keepTlb_cur (s r : State) (n c : Nat) : (keepTlb s r n c).cur = s.cur := rfl

theorem readWhole_fault_cur {va : Word} {size : Nat} {s s' : State} {k : Cause} (h : readWhole va size s = .fault k s') :
    s'.cur = s.cur := by
  unfold readWhole at h
  dsimp only at h
  split at h
  · cases h
    rfl
  · split at h
    · cases h
    · cases h
      exact keepTlb_cur ..
    · split at h
      · split at h
        · cases h
          exact keepTlb_cur ..
        · cases h
      · split at h
        · cases h
        · cases h
          exact keepTlb_cur ..
        · split at h
          · injection h with _ hs
            subst hs
            exact keepTlb_cur ..
          · cases h

theorem msgPre_fault_cur {f : FE} {u : MsgUse} {s s' : State} {k : Cause} (h : msgPre f u s = .fault k s') :
    s'.cur = s.cur := by
  unfold msgPre at h
  split at h
  · cases h
    rfl
  · split at h
    · next hr =>
      cases h
      exact readWhole_fault_cur hr
    · cases h
    · dsimp only at h
      split at h
      · cases h
        exact keepTlb_cur ..
      · split at h
        · cases h
          exact keepTlb_cur ..
        · split at h
          · cases h
            exact keepTlb_cur ..
          · cases h

/-! What takes a number and a place (R305, R306). -/

section
variable {f : FE} {op : MsgOp} {s s' : State} (h : CanIssueE s f [.ctrl] [f.a, f.b] 1)
include h

/-- The message instruction's own test, as its descriptor is used. -/
def msgUse (op : MsgOp) : MsgUse := ⟨op == .write, op == .read, false⟩

theorem runOp_msgOp_fault {k : Cause} (hp : msgPre f (msgUse op) s = .fault k s') :
    runOp (msgOp f op) s = .next (takeTrap s' s'.cur.node s'.cur.core k) := by
  rw [msgPre_fault_cur hp]
  exact runOp_fault_of_canIssue h.issue (decodeFault_none rfl (.inr h.task) h.issue.taken rfl) hp

theorem runOp_msgOp_hold (hp : msgPre f (msgUse op) s = .hold s') : runOp (msgOp f op) s = .next (setBlocked s) :=
  runOp_hold_of_canIssue h.issue (decodeFault_none rfl (.inr h.task) h.issue.taken rfl) hp

theorem runOp_msgOp_full {x : Nat × BitVec 512} (hp : msgPre f (msgUse op) s = .go x s')
    (hr : 32 ≤ (cc s).msgq.length ∨ (cc s).firedQ ≠ []) : runOp (msgOp f op) s = .next (setBlocked s) := by
  refine runOp_full_of_canIssue h.issue (decodeFault_none rfl (.inr h.task) h.issue.taken rfl) hp ?_
  show (msgRoom (cc s) && (cc s).firedQ.isEmpty) = false
  rcases hr with hr | hr
  · simp [msgRoom, Nat.not_lt.mpr hr]
  · simp [hr]

theorem runOp_msgOp_goes {x : Nat × BitVec 512} (hp : msgPre f (msgUse op) s = .go x s')
    (hq : (cc s).msgq.length < 32) (hf : (cc s).firedQ = []) :
    runOp (msgOp f op) s = .next ((msgOp f op).eff x (pastE s' f)) := by
  have room : (msgRoom (cc s) && (cc s).firedQ.isEmpty) = true := by simp [msgRoom, hq, hf]
  rw [← takeIssue_pastE (msgOp f op) s' f rfl rfl rfl rfl rfl rfl]
  exact runOp_of_canIssue h.issue (decodeFault_none rfl (.inr h.task) h.issue.taken rfl) hp room

end

/-- The need of a context touches no core and no number. -/
theorem epNeed_view (s : State) (n e : Nat) : Keeps epView s (epNeed s n e) := by
  unfold epNeed epFetch
  dsimp only
  split
  · exact modEp_view s n e fun _ => rfl
  · split
    · exact .refl s
    · refine .trans ?_ (.schedule ..)
      exact modEp_view s n e fun _ => rfl

theorem epNeed_blind {α : Type} {f : Node → α} (hf : ∀ d l, f { d with eps := l } = f d) (s : State) (n e : Nat) :
    Keeps f s (epNeed s n e) := by
  unfold epNeed epFetch
  dsimp only
  split
  · exact modEp_blind hf ..
  · split
    · exact .refl s
    · exact (modEp_blind hf ..).trans (.schedule ..)

theorem cs_modCc_of (s : State) {u : Core → Core} (h : ∀ k, seqCore (u k) = seqCore k) : cs (modCc s u) = cs s :=
  Keeps.sameSeq (.modCc_sees (seesCores_via fun _ _ => id) s h)

/-- A message queued: the entry stands last, its endpoint's number is taken, and control goes on. -/
theorem msgOp_queued (f : FE) (op : MsgOp) (e : Nat) (x : BitVec 512) (p : State) (y : State)
    (hy : y = (msgOp f op).eff (e, x) p) :
    let q := (epOf (cn p) e).sSeq
    (cc y).msgq = (cc p).msgq ++ [msgEntry p op e x q f.sig] ∧ (epOf (cn y) e).sSeq = q + 1 ∧ cs y = cs p := by
  obtain ⟨z, hz⟩ : ∃ z, z = modEp (epNeed p p.cur.node e) p.cur.node e fun y =>
      { y with sSeq := y.sSeq + 1, sendPend := satAdd y.sendPend (if op = .read then 0 else 1) 65535 } := ⟨_, rfl⟩
  obtain ⟨w, hw⟩ : ∃ w, w = modCc z fun k => { k with msgq := k.msgq ++ [msgEntry p op e x (epOf (cn p) e).sSeq f.sig] } :=
    ⟨_, rfl⟩
  have eff : y = flyReg w f.d ((epOf (cn p) e).sSeq.setWidth 64) 2 none 0 := by rw [hy, hw, hz]; rfl
  have cores : Keeps Node.cores p z := hz ▸ (epNeed_blind (fun _ _ => rfl) ..).trans (modEp_blind (fun _ _ => rfl) ..)
  have flown : Keeps issueView w y := eff ▸ flyReg_keeps issueView_cores ..
  have number : (epOf (cn z) e).sSeq = (epOf (cn p) e).sSeq + 1 := by
    have same := congrArg Endpoint.sSeq (congrFun ((epNeed_view p p.cur.node e).nodes p.cur.node) e)
    change (epOf (nd (epNeed p p.cur.node e) p.cur.node) e).sSeq = (epOf (cn p) e).sSeq at same
    rw [cn, cores.cur, hz, epOf_modEp_same, same]
  have queue : (cc z).msgq = (cc p).msgq := by rw [cc, cores.cur, co, cores.nodes, ← co, ← cc]
  refine ⟨?_, ?_, ?_⟩
  · have same := congrArg Core.msgq flown.issueCore
    change (cc y).msgq = (cc w).msgq at same
    rw [same, hw, cc_modCc, queue]
  · have same := congrArg (fun d => (epOf d e).sSeq) flown.issueNode
    change (epOf (cn y) e).sSeq = (epOf (cn w) e).sSeq at same
    have queued : Keeps (fun d => epOf d e) z w := hw ▸ .modCo z _ _ rfl
    rw [same, ← number, queued.readNode]
  · rw [eff, flyReg_seq, hw, ← cores.sameCs]
    exact cs_modCc_of z fun _ => rfl

end Sys2Proof.Machine
end

section
/-! PROOFS. Armed operations (R310, R311), TDISARM, and what O34 claims in all. -/

namespace Sys2Proof.Machine

open Sys2Proof.Claims

/-! What is armed. -/

/-- The operation that TSEND or TWRITE arms. -/
def armedNow (p : State) (write : Bool) (e : Nat) (x : BitVec 512) (sig : BitVec 16) : Armed :=
  let k := cc p
  ⟨write, e, x, p.cur.core, tenantOf k, ginOf k, classOf k, fld k.asid 5 0, k.ptRoot, taskId k, k.armCount + 1, false, 0, sig⟩

/-- The state with it armed at entry `i`, and its number on the way to the register. -/
def armPlaced (p : State) (n e i : Nat) (a : Armed) (d : Reg) (count : BitVec 20) : State :=
  let w := modNd (modCc p fun k => { k with armCount := k.armCount + 1 }) n fun d => { d with armed := smPut d.armed i (some a) }
  flyReg (epNeed w n e) d (BitVec.ofNat 64 (i + count.toNat * 4096)) 2 none 0

theorem armOp_eff (f : FE) (write : Bool) (e : Nat) (x : BitVec 512) {p : State} {i : Nat} (h : freeArmed (cn p) = some i) :
    (armOp f write).eff (e, x) p
      = if armedMet (nd (armPlaced p p.cur.node e i (armedNow p write e x f.sig) f.d ((cc p).armCount + 1)) p.cur.node)
          (armedNow p write e x f.sig)
        then fireArmed (armPlaced p p.cur.node e i (armedNow p write e x f.sig) f.d ((cc p).armCount + 1)) p.cur.node i
        else armPlaced p p.cur.node e i (armedNow p write e x f.sig) f.d ((cc p).armCount + 1) := by
  unfold armOp
  dsimp only
  rw [h]
  rfl

section
variable {f : FE} {write : Bool} {e : Nat} {x : BitVec 512} {s s' : State} (h : CanIssueE s f [.ctrl] [f.a, f.b] 1)
  (hp : msgPre f ⟨write, false, true⟩ s = .go (e, x) s')
include h hp

theorem runOp_armOp_full (hn : freeArmed (cn s) = none) : runOp (armOp f write) s = .next (setBlocked s) := by
  refine runOp_full_of_canIssue h.issue (decodeFault_none rfl (.inr h.task) h.issue.taken rfl) hp ?_
  show (freeArmed (cn s)).isSome = false
  rw [hn]
  rfl

/-- The lowest free entry is armed, and fires at once where its threshold has been reached. -/
theorem runOp_armOp_arms {i : Nat} (hs : freeArmed (cn s) = some i) (hs' : freeArmed (cn s') = some i) :
    let p := pastE s' f
    let a := armedNow p write e x f.sig
    let t := armPlaced p s'.cur.node e i a f.d ((cc s').armCount + 1)
    runOp (armOp f write) s = .next (if armedMet (nd t s'.cur.node) a then fireArmed t s'.cur.node i else t) := by
  have kept := pastE_keeps s' f
  have cur : (pastE s' f).cur = s'.cur := (same_pastE s' f).cur
  have armed : freeArmed (cn (pastE s' f)) = some i :=
    (Keeps.readNode (f := freeArmed) (kept.comp fun v => freeArmed v.1)).trans hs'
  have count := congrArg Core.armCount kept.issueCore
  change (cc (pastE s' f)).armCount = (cc s').armCount at count
  dsimp only
  rw [runOp_of_canIssue h.issue (decodeFault_none rfl (.inr h.task) h.issue.taken rfl) hp
    (show (freeArmed (cn s)).isSome = true by rw [hs]; rfl), takeIssue_pastE (armOp f write) s' f rfl rfl rfl rfl rfl rfl,
    armOp_eff f write e x armed, cur, count]

end

/-! What fires. -/

/-- A fired operation that finds a place takes its endpoint's number, leaves its entry, and stands last in the queue. -/
theorem fireArmed_queued {s : State} {n i : Nat} {a : Armed} (ha : smGet (nd s n).armed none i = some a) (hf : a.fired = false)
    (hc : cancelled (nd s n) a.tenant a.gin = false) (hq : (co s n a.core).msgq.length < 32) (he : (co s n a.core).firedQ = []) :
    let q := (epOf (nd s n) a.ep).sSeq
    let y := fireArmed s n i
    (co y n a.core).msgq = (co s n a.core).msgq ++ [firedEntry a q] ∧ (nd y n).armed = smDel (nd s n).armed i
    ∧ (epOf (nd y n) a.ep).sSeq = q + 1 := by
  obtain ⟨z, hz⟩ : ∃ z, z = modEp (epNeed s n a.ep) n a.ep fun e =>
      { e with sSeq := e.sSeq + 1, sendPend := satAdd e.sendPend 1 65535 } := ⟨_, rfl⟩
  obtain ⟨w, hw⟩ : ∃ w, w = acquireL1 z n a.core 3 false := ⟨_, rfl⟩
  have taken {α : Type} {r : Node → α} (hr : ∀ d l, r { d with eps := l } = r d) : Keeps r s z :=
    hz ▸ (epNeed_blind hr ..).trans (modEp_blind hr ..)
  have acquired {α : Type} {r : Node → α} (hr : SeesCores accessCore r) : Keeps r z w := by
    rw [hw, acquireL1, if_neg (by decide)]
    exact .modCo_sees hr z n a.core fun _ => rfl
  have core : accessCore (co w n a.core) = accessCore (co s n a.core) :=
    Keeps.core (g := accessCore) ((taken fun _ _ => rfl).trans (acquired (seesCores_via fun _ _ => id))) n a.core
  have queue := congrArg Core.msgq core
  have waiting := congrArg Core.firedQ core
  change (co w n a.core).msgq = (co s n a.core).msgq at queue
  change (co w n a.core).firedQ = (co s n a.core).firedQ at waiting
  have armed : (nd w n).armed = (nd s n).armed := ((taken fun _ _ => rfl).trans (acquired fun _ _ _ _ => rfl)).nodes n
  have number : (epOf (nd w n) a.ep).sSeq = (epOf (nd s n) a.ep).sSeq + 1 := by
    have here : Keeps (fun d => epOf d a.ep) z w := acquired fun _ _ _ _ => rfl
    have same := congrArg Endpoint.sSeq (congrFun ((epNeed_view s n a.ep).nodes n) a.ep)
    change (epOf (nd (epNeed s n a.ep) n) a.ep).sSeq = (epOf (nd s n) a.ep).sSeq at same
    rw [here.nodes n, hz, epOf_modEp_same, same]
  have room : (co w n a.core).msgq.length < 32 ∧ (co w n a.core).firedQ.isEmpty = true := by
    rw [queue, waiting, he]
    exact ⟨hq, rfl⟩
  have fires : fireArmed s n i = modCo (modNd w n fun d => { d with armed := smDel d.armed i }) n a.core fun k =>
      { k with msgq := k.msgq ++ [firedEntry a (epOf (nd s n) a.ep).sSeq] } := by
    rw [fireArmed, ha]
    dsimp only
    rw [hf, hc, if_neg Bool.false_ne_true, if_neg Bool.false_ne_true, ← hz, ← hw, if_pos room]
  dsimp only
  rw [fires]
  refine ⟨?_, ?_, ?_⟩
  · rw [co_modCo_same]
    have same : co (modNd w n fun d => { d with armed := smDel d.armed i }) n a.core = co w n a.core := by
      rw [co, nd_modNd_same, co]
    rw [same, queue]
  · rw [nd_modCo, if_pos rfl, nd_modNd_same, ← armed]
  · rw [nd_modCo, if_pos rfl, nd_modNd_same, ← number]
    rfl

/-! What is taken back (R311). -/

theorem exec_tdisarm (f : FE) (s : State) : exec (.tdisarm f) s = execTdisarm f s := rfl

theorem fld_high_zero (v : Word) : fld v 63 32 = 0 ↔ v.toNat < 2 ^ 32 := by
  have := v.isLt
  simp only [fld, bitsOf, Nat.shiftRight_eq_div_pow]
  omega

section
variable {f : FE} {s : State} (h : CanIssueE s f [.ctrl] [f.a] 1)
include h

theorem exec_tdisarm_illegal (hv : 2 ^ 32 ≤ (reg s f.a).toNat) :
    exec (.tdisarm f) s = .next (takeTrap s s.cur.node s.cur.core (causeHere s codeIllegal)) := by
  have high : fld (reg s f.a) 63 32 ≠ 0 := fun e => Nat.not_lt.mpr hv ((fld_high_zero _).mp e)
  rw [exec_tdisarm, execTdisarm]
  refine runOp_fault_of_canIssue h.issue (decodeFault_none rfl (.inr h.task) h.issue.taken rfl) ?_
  exact if_pos high

theorem exec_tdisarm_goes (hv : (reg s f.a).toNat < 2 ^ 32) : exec (.tdisarm f) s
    = .next (later (flyReg (begunE s f) f.d 0 2 (pushKey s f.tk) f.sig) (.tdisarm s.cur.node s.cur.core (reg s f.a) f.d)) := by
  have same := same_begunE s f
  rw [exec_tdisarm, execTdisarm]
  refine (runOp_of_canIssue (x := ()) (s' := s) h.issue
    (decodeFault_none rfl (.inr h.task) h.issue.taken rfl) ?_ rfl).trans ?_
  · exact if_neg (not_not.mpr ((fld_high_zero _).mpr hv))
  · rw [takeIssue_begunE _ s f rfl rfl rfl rfl rfl rfl]
    dsimp only
    rw [same.cur, same.reg, pushKey_congr (s := s) same.cur]

end

section
variable {s : State} {n c : Nat} {w : Word} {d : Reg}

theorem lateDisarm_none (h : smGet (nd s n).armed none (fld w 11 0) = none) : lateDisarm s n c w d = s := by
  rw [lateDisarm, h]

variable {a : Armed} (h : smGet (nd s n).armed none (fld w 11 0) = some a)
include h

theorem lateDisarm_other (ho : a.fired = true ∨ a.count.toNat ≠ fld w 31 12 ∨ a.tenant ≠ tenantOf (co s n c)) :
    lateDisarm s n c w d = s := by
  have other : (a.fired || a.count.toNat != fld w 31 12 || a.tenant != tenantOf (co s n c)) = true := by
    rcases ho with ho | ho | ho <;> simp [ho]
  rw [lateDisarm, h]
  exact if_pos other

theorem lateDisarm_own (hf : a.fired = false) (hc : a.count.toNat = fld w 31 12) (ht : a.tenant = tenantOf (co s n c)) :
    (nd (lateDisarm s n c w d) n).armed = smDel (nd s n).armed (fld w 11 0)
    ∧ (co (lateDisarm s n c w d) n c).inflight
      = (co s n c).inflight.map fun r => if r.dest == .sreg .ctrl d then { r with val := 1 } else r := by
  have own : ¬(a.fired || a.count.toNat != fld w 31 12 || a.tenant != tenantOf (co s n c)) = true := by simp [hf, hc, ht]
  rw [lateDisarm, h]
  dsimp only
  rw [if_neg own]
  refine ⟨?_, ?_⟩
  · rw [nd_modCo, if_pos rfl, nd_modNd_same]
  · rw [co_modCo_same, co, nd_modNd_same, ← co]

end

end Sys2Proof.Machine
end

section
/-! PROOFS. What O34 claims of the endpoint instructions and of the messages, from the equations above. -/

namespace Sys2Proof.Machine

open Sys2Proof.Claims

/-- EPOPEN with its image read: the context is the image's and control goes on. -/
theorem epopen_opens {f : FE} {s s' : State} {v : Nat} (h : CanIssueE s f [.ctrl] [f.a, f.b] 0) (hp : privileged (cc s) = true)
    (ha : (reg s f.a).toNat < 4096) (hr : readWhole (reg s f.b) 256 s = .go v s')
    (ho : (epOf (cn s) (reg s f.a).toNat).opened = false) (hi : epImageOk s v = true) :
    ∃ y, exec (.epopen f) s = .next y ∧ (cs y).pc = (cs (pastE s' f)).pc
      ∧ epCore (epOf (cn y) (reg s f.a).toNat) = epCore (imageEp v)
      ∧ (epPlace s' s.cur.node (reg s f.a).toNat = true → (epOf (cn y) (reg s f.a).toNat).cached = true) := by
  obtain ⟨control, cur, context, cached⟩ := opened_context (pastE s' f) s.cur.node (reg s f.a).toNat (imageEp v) f.sig _ rfl
  have here : (pastE s' f).cur = s.cur := (same_pastE s' f).cur.trans (readWhole_keeps hr).cur
  have ops : Keeps opsView s' (pastE s' f) := by
    unfold pastE pastWith
    exact takeIssue_keeps opsView_cores _ s'
  refine ⟨_, exec_epopen_opens h hp ha hr ho hi, congrArg Sequencer.pc control, ?_, fun hplace => ?_⟩
  · rw [cn, cur, here]
    exact context
  · rw [cn, cur, here]
    exact cached ((epPlace_opened (pastE_keeps s' f) ops ..).trans hplace)

/-- A message instruction that goes on: its entry is the last one of the queue, under the endpoint's next number. -/
theorem msgOp_sets_out {f : FE} {op : MsgOp} {s s' : State} {e : Nat} {x : BitVec 512}
    (h : CanIssueE s f [.ctrl] [f.a, f.b] 1) (hp : msgPre f (msgUse op) s = .go (e, x) s')
    (hq : (cc s).msgq.length < 32) (hf : (cc s).firedQ = []) :
    let q := (epOf (cn s') e).sSeq
    ∃ y m, runOp (msgOp f op) s = .next y ∧ (cc y).msgq = (cc s').msgq ++ [m] ∧ m.op = op ∧ m.ep = e ∧ m.desc = x
      ∧ m.sseq = q ∧ m.sig = f.sig ∧ m.owner = taskId (cc s') ∧ m.joinId = none
      ∧ (epOf (cn y) e).sSeq = q + 1 ∧ (cs y).pc = (cs (pastE s' f)).pc := by
  obtain ⟨queued, number, control⟩ := msgOp_queued f op e x (pastE s' f) _ rfl
  have kept := pastE_keeps s' f
  have context := congrArg (fun d => (epOf d e).sSeq) kept.issueNode
  have queue := congrArg Core.msgq kept.issueCore
  have owner := congrArg taskId kept.issueCore
  change (epOf (cn (pastE s' f)) e).sSeq = (epOf (cn s') e).sSeq at context
  change (cc (pastE s' f)).msgq = (cc s').msgq at queue
  change taskId (cc (pastE s' f)) = taskId (cc s') at owner
  refine ⟨_, msgEntry (pastE s' f) op e x (epOf (cn (pastE s' f)) e).sSeq f.sig, runOp_msgOp_goes h hp hq hf, ?_, rfl, rfl, rfl,
    context, rfl, owner, rfl, ?_, congrArg Sequencer.pc control⟩
  · rw [queued, queue]
  · rw [number, context]

/-- What O34 claims of a message instruction. -/
theorem msgOp_outcomes (op : MsgOp) {i : FE → Instr} (hi : ∀ f s, exec (i f) s = runOp (msgOp f op) s) (f : FE) (s : State)
    (h : CanIssueE s f [.ctrl] [f.a, f.b] 1) :
    (∀ k s', msgPre f (msgUse op) s = .fault k s' → exec (i f) s = .next (takeTrap s' s'.cur.node s'.cur.core k))
    ∧ (∀ s', msgPre f (msgUse op) s = .hold s' → exec (i f) s = .next (setBlocked s))
    ∧ ∀ e x s', msgPre f (msgUse op) s = .go (e, x) s' →
      ((cc s).msgq.length < 32 → (cc s).firedQ = [] →
        let q := (epOf (cn s') e).sSeq
        ∃ y m, exec (i f) s = .next y ∧ (cc y).msgq = (cc s').msgq ++ [m] ∧ m.op = op ∧ m.ep = e ∧ m.desc = x
          ∧ m.sseq = q ∧ m.sig = f.sig ∧ m.owner = taskId (cc s') ∧ m.joinId = none
          ∧ (epOf (cn y) e).sSeq = q + 1 ∧ (cs y).pc = (cs (pastE s' f)).pc)
      ∧ (32 ≤ (cc s).msgq.length ∨ (cc s).firedQ ≠ [] → exec (i f) s = .next (setBlocked s)) := by
  rw [hi]
  exact ⟨fun k s' hp => runOp_msgOp_fault h hp, fun s' hp => runOp_msgOp_hold h hp,
    fun e x s' hp => ⟨fun hq hf => msgOp_sets_out h hp hq hf, fun hr => runOp_msgOp_full h hp hr⟩⟩

/-- What O34 claims of TSEND and TWRITE. -/
theorem armOp_outcomes (write : Bool) {j : FE → Instr} (hj : ∀ f s, exec (j f) s = runOp (armOp f write) s) (f : FE) (s : State)
    (e : Nat) (x : BitVec 512) (s' : State) (h : CanIssueE s f [.ctrl] [f.a, f.b] 1)
    (hp : msgPre f ⟨write, false, true⟩ s = .go (e, x) s') :
    (∀ i, freeArmed (cn s) = some i → freeArmed (cn s') = some i →
      ∃ a : Armed, a.write = write ∧ a.ep = e ∧ a.desc = x ∧ a.core = s'.cur.core ∧ a.count = (cc s').armCount + 1
        ∧ a.fired = false ∧ a.owner = taskId (cc s') ∧
        let t := armPlaced (pastE s' f) s'.cur.node e i a f.d ((cc s').armCount + 1)
        exec (j f) s = .next (if armedMet (nd t s'.cur.node) a then fireArmed t s'.cur.node i else t))
    ∧ (freeArmed (cn s) = none → exec (j f) s = .next (setBlocked s)) := by
  have kept := pastE_keeps s' f
  have count := congrArg (fun k => k.armCount + 1) kept.issueCore
  have owner := congrArg taskId kept.issueCore
  rw [hj]
  have cur := (same_pastE s' f).cur
  refine ⟨fun i hs hs' => ⟨armedNow (pastE s' f) write e x f.sig, rfl, rfl, rfl, ?_, count, rfl, owner,
    runOp_armOp_arms h hp hs hs'⟩, runOp_armOp_full h hp⟩
  rw [armedNow, cur]

/-- Settles O34: each instruction's outcomes, by what its issue, the cache of contexts and the queues leave alone. -/
theorem endpoints : Obligations.Endpoints := by
  refine ⟨⟨fun f s h hp ha => ⟨fun v s' hr => ⟨fun ho hi => ?_, exec_epopen_refused h hp ha hr⟩,
      fun k s' hr => exec_epopen_fault h hp ha hr, fun s' hr => exec_epopen_hold h hp ha hr⟩,
    fun f s hm ht hq hp => exec_endpoint_priv hm ht hq hp, fun f s e h hp ho => ⟨fun hb hf => ?_, exec_epclose_waits h hp ho⟩,
    fun f s i h ho hl => ?_, fun f s h => ⟨fun hv => exec_mpoll_fault h (epOperand_illegal hv),
      fun hv he => exec_mpoll_fault h (epOperand_perm hv he), fun hv ho ht => exec_mpoll_status h (epOperand_open hv ho ht)⟩⟩,
    fun z hz => ?_, fun z hz => ?_, fun s n i a ha hf hc hq he => fireArmed_queued ha hf hc hq he,
    fun f s h => ⟨exec_tdisarm_illegal h, exec_tdisarm_goes h, fun n c d w => ⟨lateDisarm_none, fun a ha =>
      ⟨lateDisarm_other ha, lateDisarm_own ha⟩⟩⟩⟩
  · obtain ⟨y, goes, control, context, cached⟩ := epopen_opens h hp ha hr ho hi
    exact ⟨y, goes, control, congrArg Endpoint.opened context, cached, congrArg Endpoint.w0 context,
      congrArg Endpoint.rqBase context, congrArg Endpoint.sSeq context, congrArg Endpoint.rSeq context,
      congrArg Endpoint.sendPend context, congrArg Endpoint.errCode context⟩
  · obtain ⟨cur, control, closed, uncached, disarmed⟩ := closed_context f s s.cur.node e hf _ rfl
    refine ⟨_, exec_epclose_closes h hp ho hb hf, control, ?_⟩
    rw [cn, cur]
    exact ⟨closed, uncached, disarmed⟩
  · have outcome := exec_mrecv_outcome h ho hl
    refine ⟨fun x s' hx => ?_, fun s' hx => ?_, fun k s' hx => ?_⟩
    · rw [hx] at outcome
      have kept := accessPre_keeps hx
      have cls : classOf (cc s') = classOf (cc s) := by rw [classOf, taskCtl, kept.accessTask, ← taskCtl, ← classOf]
      rw [recvOutcome, ← cls, ← kept.cur] at outcome
      refine ⟨fun hd => ?_, fun hd hv => ?_, fun hv => ?_⟩
      · rw [outcome, if_pos (.inl hd)]
      · rw [outcome, if_neg (not_or.mpr ⟨by rw [hd]; decide, Nat.not_le.mpr hv⟩)]
        exact congrArg _ (recvPosted_begunE f i x.t kept.cur)
      · rw [outcome, if_pos (.inr hv)]
    · rw [outcome, hx, recvOutcome]
    · rw [outcome, hx, recvOutcome]
  · simp only [List.mem_cons, List.not_mem_nil, or_false] at hz
    rcases hz with rfl | rfl | rfl
    · exact msgOp_outcomes .send fun _ _ => rfl
    · exact msgOp_outcomes .write fun _ _ => rfl
    · exact msgOp_outcomes .read fun _ _ => rfl
  · simp only [List.mem_cons, List.not_mem_nil, or_false] at hz
    rcases hz with rfl | rfl
    · exact armOp_outcomes false fun _ _ => rfl
    · exact armOp_outcomes true fun _ _ => rfl

end Sys2Proof.Machine
end

section
/-! PROOFS. The integer lanes (R80, R136): a lane as an integer, an exact result wrapped or clamped to its type, and O27. -/

namespace Sys2Proof.Machine

/-! Sign extension and wrapping (R8, R9). -/

/-- Two's complement is the balanced remainder. -/
theorem sextN_eq_bmod (a : Nat) {n : Nat} (hn : 0 < n) : sextN a n = Int.bmod a (2 ^ n) := by
  have := Nat.two_pow_pred_mul_two hn
  rw [sextN, Int.bmod, ← Int.natCast_mod]
  split <;> split <;> omega

theorem sextN_lower (a : Nat) {n : Nat} (hn : 0 < n) : -((2 ^ n / 2 : Nat) : Int) ≤ sextN a n := by
  rw [sextN_eq_bmod a hn]
  exact_mod_cast Int.le_bmod (Nat.two_pow_pos n)

theorem sextN_upper (a : Nat) {n : Nat} (hn : 0 < n) : sextN a n ≤ ((2 ^ n / 2 : Nat) : Int) - 1 := by
  have := Int.bmod_lt (x := a) (Nat.two_pow_pos n)
  have := Nat.two_pow_pred_mul_two hn
  rw [sextN_eq_bmod a hn]
  omega

/-- Only the residue of a value is left of it at a width. -/
theorem cast_wrapN (n : Nat) (v : Int) : (wrapN n v : Int) = v % (2 ^ n : Nat) :=
  Int.toNat_of_nonneg (Int.emod_nonneg v (by exact_mod_cast (Nat.two_pow_pos n).ne'))

theorem wrapN_of_modEq {n c : Nat} {v : Int} (h : v ≡ c [ZMOD (2 ^ n : Nat)]) : wrapN n v = c % 2 ^ n := by
  zify
  rw [cast_wrapN, h]
  norm_cast

theorem sextN_wrapN {n : Nat} {v : Int} (hn : 0 < n) (lo : -((2 ^ n / 2 : Nat) : Int) ≤ v)
    (hi : v ≤ ((2 ^ n / 2 : Nat) : Int) - 1) : sextN (wrapN n v) n = v := by
  have := Nat.two_pow_pred_mul_two hn
  rw [sextN_eq_bmod _ hn, cast_wrapN, Int.emod_bmod]
  exact Int.bmod_eq_of_le (by omega) (by omega)

theorem sextN_modEq (a : Nat) {n : Nat} (hn : 0 < n) : sextN a n ≡ a [ZMOD (2 ^ n : Nat)] := by
  rw [sextN_eq_bmod a hn]
  exact Int.bmod_emod ..

/-! The lanes. -/

section
variable {x : VCtx} (a b : Nat)

theorem laneInt_modEq (w : Nat) (u : Bool) (hw : 0 < 8 * w) : laneInt w u a ≡ a [ZMOD (2 ^ (8 * w) : Nat)] := by
  cases u
  · exact sextN_modEq a hw
  · rfl

/-- Without SAT a lane is the residue of any number that is congruent to the exact result. -/
theorem int2_wraps {g : Int → Int → Int} {c : Nat} (hw : 0 < 8 * x.w) (sat : x.f.sat = false)
    (hg : ∀ p q : Int, p ≡ a [ZMOD (2 ^ (8 * x.w) : Nat)] → q ≡ b [ZMOD (2 ^ (8 * x.w) : Nat)] →
      g p q ≡ c [ZMOD (2 ^ (8 * x.w) : Nat)]) : int2 g x a b = c % 2 ^ (8 * x.w) := by
  rw [int2, intFit, sat]
  exact wrapN_of_modEq (hg _ _ (laneInt_modEq a _ _ hw) (laneInt_modEq b _ _ hw))

/-- With SAT and the unsigned bit a lane is the value in 0 … 2^(8w) - 1 that is nearest to the exact result. -/
theorem cast_int2_sat_unsigned {g : Int → Int → Int} (sat : x.f.sat = true) (uns : x.f.aux.getLsbD 0 = true) :
    (int2 g x a b : Int) = max 0 (min (g a b) (((2 ^ (8 * x.w) : Nat) : Int) - 1)) := by
  have := Nat.two_pow_pos (8 * x.w)
  simp only [int2, intFit, sat, uns, laneInt, intLo, intHi, if_true, cast_wrapN]
  exact Int.emod_eq_of_lt (by omega) (by omega)

/-- With SAT and signed a lane is the value in -2^(8w-1) … 2^(8w-1) - 1 that is nearest to the exact result. -/
theorem sextN_int2_sat {g : Int → Int → Int} (hw : 0 < 8 * x.w) (sat : x.f.sat = true)
    (sgn : x.f.aux.getLsbD 0 = false) :
    sextN (int2 g x a b) (8 * x.w)
      = max (-((2 ^ (8 * x.w) / 2 : Nat) : Int))
          (min (g (sextN a (8 * x.w)) (sextN b (8 * x.w))) (((2 ^ (8 * x.w) / 2 : Nat) : Int) - 1)) := by
  have := Nat.two_pow_pred_mul_two hw
  have := Nat.two_pow_pos (8 * x.w)
  simp only [int2, intFit, sat, sgn, laneInt, intLo, intHi, if_true, Bool.false_eq_true, if_false]
  rw [show 2 ^ (8 * x.w - 1) = 2 ^ (8 * x.w) / 2 by omega]
  exact sextN_wrapN hw (by omega) (by omega)

/-- An unsigned result that the type holds stands as it is. -/
theorem int2_unsigned_fits {g : Int → Int → Int} {c : Nat} (sat : x.f.sat = false) (uns : x.f.aux.getLsbD 0 = true)
    (hg : g a b = c) (hc : c < 2 ^ (8 * x.w)) : int2 g x a b = c := by
  rw [int2, intFit, sat, uns]
  exact (wrapN_of_modEq (congrArg (· % _) hg)).trans (Nat.mod_eq_of_lt hc)

/-- A signed result that the type holds stands as it is. -/
theorem sextN_int2_fits {g : Int → Int → Int} (hw : 0 < 8 * x.w) (sat : x.f.sat = false)
    (sgn : x.f.aux.getLsbD 0 = false)
    (lo : -((2 ^ (8 * x.w) / 2 : Nat) : Int) ≤ g (sextN a (8 * x.w)) (sextN b (8 * x.w)))
    (hi : g (sextN a (8 * x.w)) (sextN b (8 * x.w)) ≤ ((2 ^ (8 * x.w) / 2 : Nat) : Int) - 1) :
    sextN (int2 g x a b) (8 * x.w) = g (sextN a (8 * x.w)) (sextN b (8 * x.w)) := by
  rw [int2, intFit, sat, sgn]
  exact sextN_wrapN hw lo hi

end

/-- Settles O27: wrapping keeps residues, clamping is the nearest value held, and a minimum or maximum is an operand. -/
theorem integerLanes : Obligations.IntegerLanes := by
  intro x a b width ha hb
  have hw : 0 < 8 * x.w := by omega
  refine ⟨fun sat => ⟨?_, ?_, ?_⟩, fun sat uns => ⟨?_, ?_, ?_⟩, fun sat sgn => ⟨?_, ?_, ?_⟩, fun sat uns => ⟨?_, ?_⟩,
    fun sat sgn => ⟨?_, ?_⟩⟩
  · exact int2_wraps a b hw sat fun p q hp hq => (hp.add hq).trans (by rw [Nat.cast_add])
  · refine int2_wraps a b hw sat fun p q hp hq => (hp.sub hq).trans ?_
    rw [Nat.cast_add, Nat.cast_sub hb.le, add_sub_left_comm]
    exact Int.modEq_modulus_add_iff.mpr rfl
  · exact int2_wraps a b hw sat fun p q hp hq => (hp.mul hq).trans (by rw [Nat.cast_mul])
  · have := cast_int2_sat_unsigned (g := fun p q => p + q) a b sat uns
    omega
  · have := cast_int2_sat_unsigned (g := fun p q => p - q) a b sat uns
    omega
  · have := cast_int2_sat_unsigned (g := fun p q => p * q) a b sat uns
    rw [← Nat.cast_mul] at this
    omega
  · exact sextN_int2_sat a b hw sat sgn
  · exact sextN_int2_sat a b hw sat sgn
  · exact sextN_int2_sat a b hw sat sgn
  · exact int2_unsigned_fits a b sat uns (Nat.cast_min a b).symm (min_lt_of_left_lt ha)
  · exact int2_unsigned_fits a b sat uns (Nat.cast_max a b).symm (max_lt ha hb)
  · exact sextN_int2_fits a b hw sat sgn (le_min (sextN_lower a hw) (sextN_lower b hw))
      (min_le_of_left_le (sextN_upper a hw))
  · exact sextN_int2_fits a b hw sat sgn (le_max_of_le_left (sextN_lower a hw))
      (max_le (sextN_upper a hw) (sextN_upper b hw))

end Sys2Proof.Machine
end

section
/-! PROOFS. What an instruction of a sequencer can answer (R95, R457), and that a trap taken is noted (R405), whatever its
cut writes and its handler's image gives. -/

namespace Sys2Proof.Machine

/-- An instruction that keeps nothing of a wait waits, takes a trap for a fault that it meets, or has its effect on the
state that its issue leaves. -/
theorem runOp_cases {α : Type} {o : Op α} {s x : State} (hk : o.keep = false) (h : runOp o s = .next x) :
    x = setBlocked s
    ∨ (∃ k s', (decodeFault o s ≠ none ∨ spanFull s = true ∨ o.pre s = .fault k s')
        ∧ x = takeTrap s' s.cur.node s.cur.core k)
    ∨ ∃ v s', o.pre s = .go v s' ∧ x = o.eff v (takeIssue o s') := by
  unfold runOp issueOp at h
  split at h
  · exact .inl (Host.Outcome.next.inj h).symm
  · split at h
    · next code hd => exact .inr (.inl ⟨_, _, .inl (by simp [hd]), (Host.Outcome.next.inj h).symm⟩)
    · split at h
      · next hs => exact .inr (.inl ⟨_, _, .inr (.inl hs), (Host.Outcome.next.inj h).symm⟩)
      · split at h
        · exact .inl (Host.Outcome.next.inj h).symm
        · split at h
          · next hp => exact .inr (.inl ⟨_, _, .inr (.inr hp), (Host.Outcome.next.inj h).symm⟩)
          · rw [hk] at h
            exact .inl (Host.Outcome.next.inj h).symm
          · next hp =>
            split at h
            · exact .inr (.inr ⟨_, _, hp, (Host.Outcome.next.inj h).symm⟩)
            · exact .inl (Host.Outcome.next.inj h).symm

/-! Accesses leave the note of the last trap as it is. -/

@[simp] theorem touchSlice_trap (s : State) (n sl : Nat) : (touchSlice s n sl).trap = s.trap := by
  unfold touchSlice
  dsimp only
  split <;> rfl

@[simp] theorem touch_trap (s : State) (n : Nat) (cls : Option Nat) (sp : Space) (pa bytes : Nat) (write : Bool) :
    (touch s n cls sp pa bytes write).trap = s.trap := by
  cases sp with
  | host => rfl
  | deep => exact touchSlice_trap ..
  | hbm => exact (modNd_trap ..).trans (touchSlice_trap ..)

@[simp] theorem keepTlb_trap (s t : State) (n c : Nat) : (keepTlb s t n c).trap = s.trap := rfl

@[simp] theorem tlbCache_trap (s : State) (n : Nat) (c : Option Nat) (e : TlbEntry) : (tlbCache s n c e).trap = s.trap := by
  cases c <;> rfl

theorem walkOnce_trap (s : State) (n : Nat) (root : Word) (asid va : Nat) : (walkOnce s n root asid va).2.trap = s.trap := by
  have read (l : List (Nat × Nat)) (t : State) :
      (l.foldl (fun s t => touch s n none .hbm (pteAddr t.1 t.2 va) 8 false) t).trap = t.trap := by
    induction l generalizing t with
    | nil => rfl
    | cons x r ih => exact (ih _).trans (touch_trap ..)
  unfold walkOnce
  extract_lets d ts s' r x
  have found : r.2.2.trap = s.trap := by
    unfold r
    split
    · rfl
    · split <;> rfl
  have walked : x.trap = s.trap := (read ..).trans found
  split <;> exact walked

theorem leafFor_trap (s : State) (n : Nat) (c : Option Nat) (root : Word) (asid va : Nat) :
    (leafFor s n c root asid va).2.trap = s.trap := by
  unfold leafFor
  extract_lets held
  clear_value held
  cases held with
  | none => exact walkOnce_trap ..
  | some e =>
    dsimp -zeta only
    extract_lets same
    split
    · rfl
    · split
      · rfl
      · exact walkOnce_trap { s with free := s.free + 1 } ..

theorem xlate_trap (s : State) (n : Nat) (c : Option Nat) (root : Word) (asid va : Nat) (need : Need) (win : Bool) :
    (xlate s n c root asid va need win).s.trap = s.trap := by
  have leaf := leafFor_trap s n c root asid va
  unfold xlate
  extract_lets r x
  split
  · exact leaf
  · extract_lets pa inside t y
    split
    · exact leaf
    · split
      · exact (tlbCache_trap ..).trans leaf
      · refine (tlbCache_trap ..).trans (.trans ?_ leaf)
        unfold y
        split
        · rfl
        · exact (modNd_trap ..).trans (touch_trap ..)

/-- The note of the last trap in the state that a check gives, where it gives one. -/
def Chk.TrapIs (p : Option (Nat × Nat × Cause)) : Chk → Prop
  | .ok _ t => t.trap = p
  | .fault _ t => t.trap = p
  | .wait => True

theorem Chk.trapIs_ite {c : Prop} [Decidable c] {x y : Chk} {p : Option (Nat × Nat × Cause)} (hx : x.TrapIs p)
    (hy : y.TrapIs p) : (if c then x else y).TrapIs p := by
  split <;> assumption

theorem chkSpad_trap (s : State) (n c va size : Nat) (need : Need) : (chkSpad s n c va size need).TrapIs s.trap := by
  have here : s.trap = s.trap := rfl
  unfold chkSpad
  extract_lets p off
  refine Chk.trapIs_ite here ?_
  split
  · exact Chk.trapIs_ite here here
  · exact Chk.trapIs_ite here (Chk.trapIs_ite here (Chk.trapIs_ite here (Chk.trapIs_ite trivial here)))

theorem chkLocal_trap (s : State) (n : Nat) (c : Option Nat) (root : Word) (asid va size : Nat) (need : Need) (win : Bool) :
    (chkLocal s n c root asid va size need win).TrapIs s.trap := by
  have walked := xlate_trap s n c root asid va need win
  unfold chkLocal
  split
  · split
    · exact chkSpad_trap ..
    · exact (rfl : s.trap = s.trap)
  · extract_lets x
    split
    · exact walked
    · split <;> exact walked

theorem chk_trap (s : State) (n c : Nat) (va : Word) (size : Nat) (need : Need) : (chk s n c va size need).TrapIs s.trap := by
  have here : s.trap = s.trap := rfl
  unfold chk chkAs
  exact Chk.trapIs_ite (Chk.trapIs_ite here (chkLocal_trap ..)) (Chk.trapIs_ite (Chk.trapIs_ite here here) here)

theorem devWrite_trap (s : State) (n : Nat) (c : Option Nat) (va : Word) (size v : Nat) :
    (devWrite s n c va size v).2.trap = s.trap := by
  have checked : (chkDevice s n c va size .w).TrapIs s.trap := Chk.trapIs_ite (chkLocal_trap ..) (rfl : s.trap = s.trap)
  unfold devWrite
  split
  · next h => rw [h] at checked; exact (modNd_trap ..).trans ((touch_trap ..).trans checked)
  · next h => rw [h] at checked; exact checked
  · next h => rw [h] at checked; exact checked
  · rfl

theorem readLine_trap (s : State) (n c : Nat) (va : Word) : (readLine s n c va).2.trap = s.trap := by
  have checked := chk_trap s n c va 64 .rx
  unfold readLine
  extract_lets cls
  split
  · next h => rw [h] at checked; exact checked
  · rfl
  · next h =>
    rw [h] at checked
    split
    · split
      · exact (modNd_trap ..).trans ((touch_trap ..).trans checked)
      · rfl
    · exact (touch_trap ..).trans checked
  · next h => rw [h] at checked; exact checked
  · next m rl off t h =>
    rw [h] at checked
    extract_lets asid
    split
    · exact checked
    · have again := chkLocal_trap t m none (smGet (nd t m).troot 0 asid) asid off 64 .rx true
      split
      · next h =>
        rw [h] at again
        have there := again.trans checked
        split
        · split
          · exact (modNd_trap ..).trans ((touch_trap ..).trans there)
          · exact checked
        · exact (touch_trap ..).trans there
      · exact checked
      · exact checked
      · exact checked

/-! The steps of a cut do so too (R405 to R409). -/

@[simp] theorem holdForHost_trap (s : State) (n c : Nat) (h : Bool) (k : Cause) : (holdForHost s n c h k).trap = s.trap := rfl

theorem mqComplete_trap (s : State) (n c id : Nat) : (mqComplete s n c id).trap = s.trap := by
  unfold mqComplete
  split
  · rfl
  · dsimp only
    split <;> rfl

theorem retireDone_trap (s : State) (n c : Nat) : (retireDone s n c).trap = s.trap := by
  unfold retireDone
  split
  · rfl
  · dsimp only
    split
    · split
      · split
        · exact mqComplete_trap ..
        · rfl
      · rfl
    · rfl

theorem stopHead_trap (s : State) (n c : Nat) : (stopHead s n c).trap = s.trap := by
  unfold stopHead
  split
  · rfl
  · split
    · rfl
    · split
      · exact mqComplete_trap ..
      · exact mqComplete_trap ..
      · exact mqComplete_trap ..
      · rfl
      · rfl

theorem stopMatrix_trap (s : State) (n c : Nat) : (stopMatrix s n c).trap = s.trap :=
  (stopHead_trap ..).trans (retireDone_trap ..)

theorem gangHold_trap (s : State) (n c : Nat) (on : Bool) : (gangHold s n c on).trap = s.trap := by
  unfold gangHold
  split
  · rfl
  · split <;> rfl

theorem gangWithdraw_trap (s : State) (n c : Nat) : (gangWithdraw s n c).trap = s.trap := by
  unfold gangWithdraw
  split
  · rfl
  · split
    · rfl
    · split
      · rfl
      · split <;> rfl

theorem enterHandler_trap (s : State) (n c : Nat) (k : Cause) : (enterHandler s n c k).trap = s.trap := by
  have read := readLine_trap s n c (handlerBase (nd s n))
  unfold enterHandler
  dsimp only
  split
  · exact read
  · split <;> exact read

theorem tryEnter_trap (s : State) (n c : Nat) (k : Cause) : (tryEnter s n c k).trap = s.trap := by
  unfold tryEnter
  split
  · rfl
  · exact enterHandler_trap ..

theorem finishCut_trap (s : State) (n c : Nat) (k : Cause) : (finishCut s n c k).trap = s.trap := by
  unfold finishCut
  extract_lets word t va image w1 w2 u
  have first : w1.2.trap = s.trap := devWrite_trap t n (some c) va 128 _
  have second : u.trap = s.trap := (devWrite_trap ..).trans first
  split
  · exact (holdForHost_trap ..).trans first
  · split
    · exact (holdForHost_trap ..).trans second
    · split
      · exact (modCo_trap ..).trans second
      · split
        · exact (modCo_trap ..).trans second
        · split
          · exact (tryEnter_trap ..).trans second
          · exact (holdForHost_trap ..).trans second

/-- A trap that is taken is noted with its core and its cause. -/
@[simp] theorem takeTrap_trap (s : State) (n c : Nat) (k : Cause) : (takeTrap s n c k).trap = some (n, c, k) := by
  unfold takeTrap
  extract_lets s1 s2 s3 s4
  have noted : s1.trap = some (n, c, k) := rfl
  have stopped : s2.trap = some (n, c, k) := (stopMatrix_trap ..).trans noted
  have held : s3.trap = some (n, c, k) := by
    unfold s3
    split
    · exact stopped
    · exact (gangHold_trap ..).trans ((gangWithdraw_trap ..).trans stopped)
  have cutting : s4.trap = some (n, c, k) := held
  split
  · exact noted
  · split
    · exact cutting
    · exact (finishCut_trap ..).trans cutting

/-- Where an instruction answers a state without a trap, it has waited or gone on. -/
theorem runOp_cases_of_no_trap {α : Type} {o : Op α} {s x : State} (hk : o.keep = false) (h : runOp o s = .next x)
    (ht : x.trap = none) : x = setBlocked s ∨ ∃ v s', o.pre s = .go v s' ∧ x = o.eff v (takeIssue o s') := by
  rcases runOp_cases hk h with hb | ⟨k, s', -, rfl⟩ | hg
  · exact .inl hb
  · rw [takeTrap_trap] at ht
    cases ht
  · exact .inr hg

end Sys2Proof.Machine
end

section
/-! PROOFS. Registers under an issue (R93, R96): what is read after a write, what a register instruction answers at latency 1
and above, and what it leaves unchanged. -/

namespace Sys2Proof.Machine

open Sys2Proof.Claims

/-! Registers. -/

/-- A write of a register is a write of its sequencer: older results of the register are no register's value yet (R96). -/
theorem cs_writeReg (s : State) (d : Reg) (v : Word) : cs (writeReg s d v) = regWrite (cs s) d v := by
  unfold writeReg
  split
  · next h => rw [h, regWrite_zero]
  · have same (k : Core) : seqIn (supersedeAll k s.cur.seq d) s.cur.seq = seqIn k s.cur.seq := seqIn_congr rfl rfl rfl _
    rw [cs_modCc, modCs_cur, same, cc_modCs, seqIn_putSeq_same]

theorem reg_writeReg (s : State) (d r : Reg) (v : Word) :
    reg (writeReg s d v) r = if r = 0 then 0 else if r = d then v else reg s r := by
  rw [reg, cs_writeReg, regRead_regWrite, reg]

theorem reg_writeReg_ne (s : State) {d r : Reg} (v : Word) (h : r ≠ d) : reg (writeReg s d v) r = reg s r := by
  rw [reg_writeReg, if_neg h]
  split
  · next h0 => rw [h0, reg, regRead_zero]
  · rfl

theorem IssueFrame.writeReg (s : State) (d : Reg) (v : Word) : IssueFrame s (writeReg s d v) := by
  unfold Machine.writeReg
  split
  · exact .refl s
  · refine .trans (.modCs s _ fun k => ?_) (.modCc _ _ ?_ ?_ ?_)
    · unfold regWrite
      split <;> rfl
    all_goals exact fun _ => rfl

theorem IssueFrame.setBlocked (s : State) : IssueFrame s (setBlocked s) := by
  unfold Machine.setBlocked
  refine .modCs s _ ?_
  exact fun _ => rfl

theorem same_setBlocked (s : State) : SameOperands s (setBlocked s) := by
  refine same_modCs s _ ?_ ?_ ?_ <;> exact fun _ => rfl

theorem same_flyReg (s : State) (d : Reg) (v : Word) (lat : Nat) (tok : Option Nat) (sig : BitVec 16) :
    SameOperands s (flyReg s d v lat tok sig) := by
  unfold flyReg fly
  refine .trans (same_modCc s _ ?_ ?_ ?_) (same_modCc _ _ ?_ ?_ ?_) <;> exact fun _ => rfl

theorem same_past (s : State) (t : Tok) (len : Nat) : SameOperands s (past s t len) := by
  unfold past pastWith
  exact same_takeIssue _ s

theorem same_begun (s : State) (t : Tok) (len : Nat) : SameOperands s (begun s t len) := same_takeIssue _ s

/-! Instructions that write a register. -/

section
variable {len lat : Nat} {t : Tok} {srcs : List Reg} {d : Reg} {f : State → Word} {s : State} {v : Word}

/-- An instruction whose result takes one cc writes it and goes on (R101). -/
theorem runOp_regOp (h : CanIssue s t allSeqs srcs 0) (hf : f (past s t len) = v) :
    runOp (regOp len t srcs d 1 f) s = .next (writeReg (past s t len) d v) := by
  rw [← hf, runOp_of_canIssue (o := regOp len t srcs d 1 f) h (decodeFault_none rfl (.inl rfl) (mem_allSeqs _) rfl) rfl rfl]
  rfl

/-- One whose result takes longer puts it in flight (R96). -/
theorem runOp_regOp_flies (hl : ¬lat ≤ 1) (h : CanIssue s t allSeqs srcs 1) (hf : f (begun s t len) = v) :
    runOp (regOp len t srcs d lat f) s = .next (flyReg (begun s t len) d v lat (pushKey s t) 0) := by
  have slow : regOp len t srcs d lat f =
      { len := len, tk := t, srcs := srcs, flying := 1, now := false, pre := preOk,
        eff := fun _ s => flyReg s d (f s) lat (pushKey s t) 0 } := by
    simp only [regOp, hl, decide_false, if_false]
  rw [← hf, ← pushKey_congr (same_begun s t len).cur t, slow,
    runOp_of_canIssue h (decodeFault_none rfl (.inl rfl) (mem_allSeqs _) rfl) rfl rfl]
  rfl

/-- Whatever such an instruction answers while the quiet span is not full, no more than its sequencer's issue state and the
destination has changed: it has no fault of its own (R93, R101). -/
theorem runOp_regOp_frame {x : State} (hs : spanFull s = false) (h : runOp (regOp len t srcs d lat f) s = .next x) :
    IssueFrame s x ∧ ∀ r, r ≠ d → reg x r = reg s r := by
  rcases runOp_cases rfl h with rfl | ⟨k, s', hk, -⟩ | ⟨v, s', hv, rfl⟩
  · exact ⟨.setBlocked s, fun r _ => (same_setBlocked s).reg r⟩
  · rcases hk with hk | hk | hk
    · exact absurd (decodeFault_none rfl (.inl rfl) (mem_allSeqs _) rfl) hk
    · rw [hs] at hk
      cases hk
    · cases hk
  · cases hv
    have issued : IssueFrame s (takeIssue (regOp len t srcs d lat f) s) := .takeIssue _ s rfl
    have same : SameOperands s (takeIssue (regOp len t srcs d lat f) s) := same_takeIssue _ s
    by_cases hl : lat ≤ 1
    · simp only [regOp, if_pos hl] at issued same ⊢
      exact ⟨issued.trans (.writeReg ..), fun r hr => (reg_writeReg_ne _ _ hr).trans (same.reg r)⟩
    · simp only [regOp, if_neg hl] at issued same ⊢
      exact ⟨issued.trans (.flyReg ..), fun r _ => (same.trans (same_flyReg ..)).reg r⟩

end

/-- An instruction that only computes its destination `d` from what its sequencer holds. -/
def ComputesReg (i : Instr) (d : Reg) : Prop :=
  ∃ len t srcs lat f, ∀ s, exec i s = runOp (regOp len t srcs d lat f) s

theorem ComputesReg.frame {i : Instr} {d : Reg} {s x : State} (hi : ComputesReg i d) (hs : spanFull s = false)
    (h : exec i s = .next x) : OnlyOwn s x ∧ ∀ r, r ≠ d → reg x r = reg s r := by
  obtain ⟨len, t, srcs, lat, f, hf⟩ := hi
  obtain ⟨frame, rest⟩ := runOp_regOp_frame hs ((hf s).symm.trans h)
  exact ⟨frame.toOnlyOwn, rest⟩

end Sys2Proof.Machine
end

section
/-! PROOFS. The functions of the scalar instructions (R101 to R103), each as the claims write it. -/

namespace Sys2Proof.Machine

open Sys2Proof.Claims

/-! Sign and zero extension (R9). -/

theorem toWord_sextN (x : Nat) {n : Nat} (hn : 0 < n) : toWord (sextN x n) = (BitVec.ofNat n x).signExtend 64 := by
  rw [toWord, sextN_eq_bmod x hn, BitVec.signExtend, BitVec.toInt_ofNat']

theorem sextW_eq (x : Word) {n : Nat} (hn : 0 < n) : sextW x n = (x.setWidth n).signExtend 64 := by
  rw [sextW, toWord_sextN _ hn, BitVec.ofNat_toNat]

theorem zextW_eq (x : Word) (n : Nat) : zextW x n = (x.setWidth n).setWidth 64 := by
  apply BitVec.eq_of_toNat_eq
  simp [zextW]

/-! Shifts by 64 and more (R102). -/

theorem shlW_eq (x n : Word) : shlW x n = x <<< n.toNat := by
  unfold shlW
  split
  · next h => exact (BitVec.shiftLeft_eq_zero h).symm
  · rfl

theorem shrW_eq (x n : Word) : shrW x n = x >>> n.toNat := by
  unfold shrW
  split
  · next h => exact (BitVec.ushiftRight_eq_zero h).symm
  · rfl

theorem sarW_eq (x n : Word) : sarW x n = x.sshiftRight n.toNat := by
  ext i hi
  rw [sarW, BitVec.getElem_sshiftRight, BitVec.getElem_sshiftRight]
  by_cases h : n.toNat ≤ 63
  · simp only [Nat.min_eq_left h]
  · rw [dif_neg (by omega : ¬n.toNat + i < 64), Nat.min_eq_right (by omega)]
    split
    · next h0 =>
      obtain rfl : i = 0 := by omega
      rw [BitVec.msb_eq_getLsbD_last, BitVec.getLsbD_eq_getElem (by decide)]
    · rfl

/-! Counts of bits. -/

theorem length_takeWhile_range {p : Nat → Bool} {n k : Nat} (hk : k ≤ n) (h : ∀ i < k, p i = true)
    (hs : k < n → p k = false) : ((List.range n).takeWhile p).length = k := by
  obtain ⟨m, rfl⟩ := Nat.exists_eq_add_of_le hk
  rw [List.range_add, List.takeWhile_append_of_pos fun i hi => h i (List.mem_range.mp hi), List.length_append,
    List.length_range]
  cases m with
  | zero => rfl
  | succ m => simp [List.range_succ_eq_map, hs]

theorem clzW_eq (x : Word) : clzW x = BitVec.ofNat 64 (((List.range 64).takeWhile fun i => !x.getMsbD i).length) := by
  unfold clzW
  congr 1
  split
  · next h => rw [h, length_takeWhile_range (Nat.le_refl 64) (by simp) (by simp)]
  · next h =>
    have hx : x.toNat ≠ 0 := fun e => h (BitVec.eq_of_toNat_eq e)
    have top : Nat.log2 x.toNat < 64 := (Nat.log2_lt hx).mpr x.isLt
    refine (length_takeWhile_range (by omega) (fun i hi => ?_) fun _ => ?_).symm
    · have small : x.toNat < 2 ^ (63 - i) := Nat.lt_log2_self.trans_le (Nat.pow_le_pow_right (by decide) (by omega))
      simp [BitVec.getMsbD_eq_getLsbD, BitVec.getLsbD, Nat.testBit_lt_two_pow small]
    · have here : 64 - 1 - (63 - Nat.log2 x.toNat) = Nat.log2 x.toNat := by omega
      rw [BitVec.getMsbD_eq_getLsbD, here, BitVec.getLsbD, Nat.testBit_log2 hx]
      simp; omega

theorem popCount_eq (x n : Nat) : popCount x n = ((List.range n).filter fun i => x.testBit i).length := by
  induction n generalizing x with
  | zero => rfl
  | succ n ih =>
    have shifted : ((List.range n).filter fun i => x.testBit (i + 1)).length = popCount (x / 2) n := by
      rw [ih]
      simp only [Nat.testBit_add_one]
    rw [popCount, ← shifted, List.range_succ_eq_map, List.filter_cons, List.filter_map, Nat.testBit_zero]
    by_cases h : x % 2 = 1
    · simp [h, Function.comp_def, Nat.add_comm]
    · have even : x % 2 = 0 := by omega
      simp [even, Function.comp_def]

theorem popcW_eq (x : Word) : popcW x = BitVec.ofNat 64 (((List.range 64).filter fun i => x.getLsbD i).length) := by
  rw [popcW, popCount_eq]
  rfl

/-! Products and quotients (R101, R102). -/

theorem mulhW_eq (x y : Word) : mulhW x y = ((x.signExtend 128 * y.signExtend 128) >>> 64).setWidth 64 := by
  have upper (i : Int) : BitVec.ofInt 64 (i / 2 ^ 64) = ((BitVec.ofInt 128 i) >>> 64).setWidth 64 := by
    apply BitVec.eq_of_toNat_eq
    simp only [BitVec.toNat_ofInt, BitVec.toNat_setWidth, BitVec.toNat_ushiftRight, Nat.shiftRight_eq_div_pow]
    norm_num
    omega
  rw [mulhW, upper, BitVec.ofInt_mul]
  rfl

theorem mulhuW_eq (x y : Word) : mulhuW x y = ((x.setWidth 128 * y.setWidth 128) >>> 64).setWidth 64 := by
  apply BitVec.eq_of_toNat_eq
  simp only [mulhuW, BitVec.toNat_ofNat, BitVec.toNat_setWidth, BitVec.toNat_ushiftRight, BitVec.toNat_mul,
    Nat.shiftRight_eq_div_pow, ← Nat.mul_mod]
  omega

theorem divW_eq (x y : Word) : divW x y = if y = 0 then BitVec.allOnes 64 else x.sdiv y := by
  have quotient : BitVec.ofInt 64 (x.toInt.tdiv y.toInt) = x.sdiv y :=
    BitVec.eq_of_toInt_eq (by rw [BitVec.toInt_ofInt, BitVec.toInt_sdiv])
  rw [divW, quotient]

theorem divuW_eq (x y : Word) : divuW x y = if y = 0 then BitVec.allOnes 64 else x / y := by
  have quotient : BitVec.ofNat 64 (x.toNat / y.toNat) = x / y := by
    rw [← BitVec.toNat_udiv, BitVec.ofNat_toNat, BitVec.setWidth_eq]
  rw [divuW, quotient]

theorem remW_eq (x y : Word) : remW x y = if y = 0 then x else x.srem y := by
  have rest : BitVec.ofInt 64 (x.toInt.tmod y.toInt) = x.srem y := by
    rw [← BitVec.toInt_srem, BitVec.ofInt_toInt]
  rw [remW, rest]

theorem remuW_eq (x y : Word) : remuW x y = if y = 0 then x else x % y := by
  have rest : BitVec.ofNat 64 (x.toNat % y.toNat) = x % y := by
    rw [← BitVec.toNat_umod, BitVec.ofNat_toNat, BitVec.setWidth_eq]
  rw [remuW, rest]

end Sys2Proof.Machine
end

section
/-! PROOFS. The scalar instructions (O1, O2, O3): each row of their tables by its definition and its function. -/

namespace Sys2Proof.Machine

open Sys2Proof.Claims

section
variable {f g : Word → Word → Word} {i : Tok → Reg → SOp → SOp → Instr}

/-- A function of two operands in one cc. -/
theorem alu2_result (hi : ∀ t d a b s, exec (i t d a b) s = runOp (alu2 t d a b 1 f) s) (hf : ∀ x y, f x y = g x y)
    (t : Tok) (d : Reg) (a b : SOp) (s : State) (h : CanIssue s t allSeqs (sopSrcs a ++ sopSrcs b) 0) :
    exec (i t d a b) s = .next (writeReg (past s t (1 + sopLen a + sopLen b)) d (g (opv s a) (opv s b))) := by
  have same := same_past s t (1 + sopLen a + sopLen b)
  rw [hi, alu2, runOp_regOp h (by rw [hf, same.opv, same.opv])]

/-- One whose result takes longer. -/
theorem alu2_flies {lat : Nat} (hi : ∀ t d a b s, exec (i t d a b) s = runOp (alu2 t d a b lat f) s)
    (hf : ∀ x y, f x y = g x y) (hl : ¬lat ≤ 1) (t : Tok) (d : Reg) (a b : SOp) (s : State)
    (h : CanIssue s t allSeqs (sopSrcs a ++ sopSrcs b) 1) :
    exec (i t d a b) s
      = .next (flyReg (begun s t (1 + sopLen a + sopLen b)) d (g (opv s a) (opv s b)) lat (pushKey s t) 0) := by
  have same := same_begun s t (1 + sopLen a + sopLen b)
  rw [hi, alu2, runOp_regOp_flies hl h (by rw [hf, same.opv, same.opv])]

end

/-- A function of one operand. -/
theorem alu1_result {f g : Word → Word} {i : Tok → Reg → SOp → Instr}
    (hi : ∀ t d a s, exec (i t d a) s = runOp (alu1 t d a f) s) (hf : ∀ x, f x = g x)
    (t : Tok) (d : Reg) (a : SOp) (s : State) (h : CanIssue s t allSeqs (sopSrcs a) 0) :
    exec (i t d a) s = .next (writeReg (past s t (1 + sopLen a)) d (g (opv s a))) := by
  rw [hi, alu1, runOp_regOp h (by rw [hf, (same_past s t _).opv])]

/-- A function of a register and an immediate. -/
theorem aluI_result {w : Nat} {f g : Word → BitVec w → Word} {i : Tok → Reg → Reg → BitVec w → Instr}
    (hi : ∀ t d a n s, exec (i t d a n) s = runOp (aluI t d a fun x => f x n) s) (hf : ∀ x n, f x n = g x n)
    (t : Tok) (d a : Reg) (n : BitVec w) (s : State) (h : CanIssue s t allSeqs [a] 0) :
    exec (i t d a n) s = .next (writeReg (past s t 1) d (g (reg s a) n)) := by
  rw [hi, aluI, runOp_regOp h (by rw [hf, (same_past s t 1).reg])]

theorem exec_csel (t : Tok) (d : Reg) (a b : SOp) (s : State) (h : CanIssue s t allSeqs (d :: sopSrcs a ++ sopSrcs b) 0) :
    exec (.csel t d a b) s
      = .next (writeReg (past s t (1 + sopLen a + sopLen b)) d (if opv s a = 0 then reg s d else opv s b)) := by
  have same := same_past s t (1 + sopLen a + sopLen b)
  refine runOp_regOp h ?_
  rw [same.opv, same.opv, same.reg, ite_not]

theorem exec_li (t : Tok) (d : Reg) (i : BitVec 17) (s : State) (h : CanIssue s t allSeqs [] 0) :
    exec (.li t d i) s = .next (writeReg (past s t 1) d (i.signExtend 64)) := runOp_regOp h rfl

theorem add_shiftLeft (x y : Word) (k : Nat) : x + y <<< k = x + BitVec.twoPow 64 k * y := by
  rw [BitVec.shiftLeft_eq_mul_twoPow, BitVec.mul_comm]

/-- A six-bit amount is below 64 as it stands (R103). -/
theorem toNat_setWidth_six (n : BitVec 6) : (n.setWidth 64 : Word).toNat = n.toNat := by
  have := n.isLt
  rw [BitVec.toNat_setWidth]
  omega

/-- Settles O1: each instruction's function is the one that R101 to R103 give. -/
theorem scalarResults : Obligations.ScalarResults := by
  refine ⟨?_, ⟨?_, exec_csel⟩, ?_, ?_, exec_li⟩
  · exact List.forall_iff_forall_mem.mp ⟨alu2_result (fun _ _ _ _ _ => rfl) fun _ _ => rfl,
      alu2_result (fun _ _ _ _ _ => rfl) fun _ _ => rfl,
      alu2_result (fun _ _ _ _ _ => rfl) fun _ _ => rfl,
      alu2_result (fun _ _ _ _ _ => rfl) fun _ _ => rfl,
      alu2_result (fun _ _ _ _ _ => rfl) fun _ _ => rfl,
      alu2_result (fun _ _ _ _ _ => rfl) fun _ _ => rfl,
      alu2_result (fun _ _ _ _ _ => rfl) fun _ _ => by simp only [BitVec.sle, decide_eq_true_eq],
      alu2_result (fun _ _ _ _ _ => rfl) fun _ _ => by simp only [BitVec.sle, decide_eq_true_eq],
      alu2_result (fun _ _ _ _ _ => rfl) fun _ _ => by simp only [BitVec.ule, decide_eq_true_eq],
      alu2_result (fun _ _ _ _ _ => rfl) fun _ _ => by simp only [BitVec.ule, decide_eq_true_eq],
      alu2_result (fun _ _ _ _ _ => rfl) shlW_eq,
      alu2_result (fun _ _ _ _ _ => rfl) shrW_eq,
      alu2_result (fun _ _ _ _ _ => rfl) sarW_eq,
      alu2_result (fun _ _ _ _ _ => rfl) fun _ _ => rfl,
      alu2_result (fun _ _ _ _ _ => rfl) fun _ _ => sextW_eq _ (by decide),
      alu2_result (fun _ _ _ _ _ => rfl) fun _ _ => by simp [boolW],
      alu2_result (fun _ _ _ _ _ => rfl) fun _ _ => by simp [boolW],
      alu2_result (fun _ _ _ _ _ => rfl) fun _ _ => rfl,
      alu2_result (fun _ _ _ _ _ => rfl) fun _ _ => rfl,
      alu2_result (fun _ _ _ _ _ => rfl) fun _ _ => rfl,
      alu2_result (fun _ _ _ _ _ => rfl) fun _ _ => rfl,
      alu2_result (fun _ _ _ _ _ => rfl) fun x y => add_shiftLeft x y 1,
      alu2_result (fun _ _ _ _ _ => rfl) fun x y => add_shiftLeft x y 2,
      alu2_result (fun _ _ _ _ _ => rfl) fun x y => add_shiftLeft x y 3,
      alu2_result (fun _ _ _ _ _ => rfl) fun x y => add_shiftLeft x y 4⟩
  · exact List.forall_iff_forall_mem.mp ⟨alu1_result (fun _ _ _ _ => rfl) fun _ => rfl,
      alu1_result (fun _ _ _ _ => rfl) fun x => sextW_eq x (by decide),
      alu1_result (fun _ _ _ _ => rfl) fun x => sextW_eq x (by decide),
      alu1_result (fun _ _ _ _ => rfl) fun x => sextW_eq x (by decide),
      alu1_result (fun _ _ _ _ => rfl) fun x => zextW_eq x 32,
      alu1_result (fun _ _ _ _ => rfl) clzW_eq,
      alu1_result (fun _ _ _ _ => rfl) popcW_eq⟩
  · exact List.forall_iff_forall_mem.mp ⟨aluI_result (f := fun x i => x + i.signExtend 64) (fun _ _ _ _ _ => rfl) fun _ _ => rfl,
      aluI_result (f := fun x i => x &&& i.setWidth 64) (fun _ _ _ _ _ => rfl) fun _ _ => rfl,
      aluI_result (f := fun x i => x ||| i.setWidth 64) (fun _ _ _ _ _ => rfl) fun _ _ => rfl,
      aluI_result (f := fun x i => x ^^^ i.setWidth 64) (fun _ _ _ _ _ => rfl) fun _ _ => rfl⟩
  · have rotate (x : Word) (n : BitVec 6) : rotlW x (n.setWidth 64) = x.rotateLeft n.toNat := by
      rw [rotlW, toNat_setWidth_six, Nat.mod_eq_of_lt n.isLt]
    exact List.forall_iff_forall_mem.mp ⟨aluI_result (f := fun x n => shlW x (n.setWidth 64)) (fun _ _ _ _ _ => rfl)
        fun x n => by rw [shlW_eq, toNat_setWidth_six],
      aluI_result (f := fun x n => shrW x (n.setWidth 64)) (fun _ _ _ _ _ => rfl)
        fun x n => by rw [shrW_eq, toNat_setWidth_six],
      aluI_result (f := fun x n => sarW x (n.setWidth 64)) (fun _ _ _ _ _ => rfl)
        fun x n => by rw [sarW_eq, toNat_setWidth_six],
      aluI_result (f := fun x n => rotlW x (n.setWidth 64)) (fun _ _ _ _ _ => rfl) rotate⟩

/-- Settles O2: the products' upper halves and the quotients are those of BitVec, zero divisors apart. -/
theorem mulDivResults : Obligations.MulDivResults := by
  unfold Obligations.MulDivResults
  exact List.forall_iff_forall_mem.mp ⟨alu2_flies (fun _ _ _ _ _ => rfl) (fun _ _ => rfl) (by decide),
    alu2_flies (fun _ _ _ _ _ => rfl) mulhW_eq (by decide),
    alu2_flies (fun _ _ _ _ _ => rfl) mulhuW_eq (by decide),
    alu2_flies (fun _ _ _ _ _ => rfl) divW_eq (by decide),
    alu2_flies (fun _ _ _ _ _ => rfl) divuW_eq (by decide),
    alu2_flies (fun _ _ _ _ _ => rfl) remW_eq (by decide),
    alu2_flies (fun _ _ _ _ _ => rfl) remuW_eq (by decide)⟩

/-- Settles O3: what is read of a sequencer after a write, and ADD to s0 as the row of O1. -/
theorem registerZero : Obligations.RegisterZero := by
  have discarded (s : State) (v : Word) : writeReg s 0 v = s := if_pos rfl
  refine ⟨fun s => regRead_zero _, discarded, fun s d v hd => ?_, fun t a b s h => ?_⟩
  · rw [reg_writeReg, if_neg hd, if_pos rfl]
  · rw [alu2_result (i := Instr.add) (fun _ _ _ _ _ => rfl) (fun _ _ => rfl) t 0 a b s h, discarded]

end Sys2Proof.Machine
end

section
/-! PROOFS. Branches, calls, returns and traps (R104 to R108): their outcomes, and what a transfer leaves unchanged (O4 to O7). -/

namespace Sys2Proof.Machine

open Sys2Proof.Claims

/-! Targets. -/

theorem pcOf_eq_append (line : BitVec 24) (unit : BitVec 4) : pcOf line.toNat unit.toNat = line ++ unit := by
  apply BitVec.eq_of_toNat_eq
  have hl := line.isLt
  have hu := unit.isLt
  rw [pcOf, BitVec.toNat_ofNat, BitVec.toNat_append, ← Nat.shiftLeft_add_eq_or_of_lt hu, Nat.shiftLeft_eq]
  omega

theorem lineOk_iff (s : State) (line : BitVec 24) :
    lineOk s line.toNat = true ↔ line ≠ 0 ∧ line.toNat < (imageOf (cc s)).2.1 := by
  have nonzero : line.toNat ≠ 0 ↔ line ≠ 0 := not_congr (BitVec.toNat_inj (y := 0))
  simp [lineOk, nonzero]

theorem targetOk_iff (s : State) (v : Word) :
    targetOk s v = true
      ↔ v.toNat < 2 ^ 28 ∧ v.toNat % 16 ≠ 15 ∧ v.toNat / 16 ≠ 0 ∧ v.toNat / 16 < (imageOf (cc s)).2.1 := by
  simp only [targetOk, lineOk, Bool.and_eq_true, decide_eq_true_eq, bne_iff_ne, and_assoc]

/-- A transfer issues no earlier than 3 cc later (R107). -/
theorem cs_jumpTo (s : State) (x : BitVec 28) :
    cs (jumpTo s x) = { cs s with pc := x, past := false, notBefore := coreCyc s s.cur.node s.cur.core + 3 } :=
  cs_modCs ..

/-! Frames of transfers. -/

theorem IssueFrame.jumpTo (s : State) (x : BitVec 28) : IssueFrame s (jumpTo s x) := by
  unfold Machine.jumpTo
  refine .modCs s _ ?_
  exact fun _ => rfl

theorem same_jumpTo (s : State) (x : BitVec 28) : SameOperands s (jumpTo s x) := by
  unfold jumpTo
  refine same_modCs s _ ?_ ?_ ?_ <;> exact fun _ => rfl

/-- What a transfer leaves: every register, and all but its own sequencer. -/
structure TransferFrame (s t : State) : Prop extends OnlySeq s t where
  same : SameOperands s t

theorem TransferFrame.trans {s t u : State} (h : TransferFrame s t) (g : TransferFrame t u) : TransferFrame s u where
  nodes n := (g.nodes n).trans (h.nodes n)
  cores n c hc := (g.cores n c (h.same.cur ▸ hc)).trans (h.cores n c hc)
  rest := g.rest.trans h.rest
  seqs q hq := by
    have later := g.seqs q (h.same.cur ▸ hq)
    rw [h.same.cur] at later
    exact later.trans (h.seqs q hq)
  same := h.same.trans g.same

theorem IssueFrame.transfer {s t : State} (h : IssueFrame s t) (same : SameOperands s t) : TransferFrame s t :=
  ⟨h.toOnlySeq, same⟩

/-- A change of the return stack alone. -/
theorem TransferFrame.modStack (s : State) (f : Sequencer → List (BitVec 28)) :
    TransferFrame s (modCs s fun k => { k with rstack := f k }) := by
  refine ⟨⟨fun n => nodeRest_modCo .., fun n c hc => co_modCo_ne s _ hc, ?_, fun q hq => ?_⟩, same_modCs s _ ?_ ?_ ?_⟩
  · rw [cc_modCs, coreRest_putSeq]
  · rw [modCs, sq_modSq, if_neg fun e => hq e.2.2]
  all_goals exact fun _ => rfl

theorem TransferFrame.jumpTo (s : State) (x : BitVec 28) : TransferFrame s (jumpTo s x) :=
  (IssueFrame.jumpTo s x).transfer (same_jumpTo s x)

theorem TransferFrame.callTo (s : State) (x : BitVec 28) : TransferFrame s (callTo s x) :=
  (TransferFrame.modStack s fun k => returnPc k :: k.rstack).trans (.jumpTo _ x)

/-- An instruction whose checks change nothing and whose effect is a transfer is one, where it takes no trap. -/
theorem runOp_transfer {α : Type} {o : Op α} {s x : State} (hk : o.keep = false) (hf : o.flags s = 0)
    (hp : ∀ v s', o.pre s = .go v s' → s' = s) (he : ∀ v p, TransferFrame p (o.eff v p)) (h : runOp o s = .next x)
    (ht : x.trap = none) : TransferFrame s x := by
  rcases runOp_cases_of_no_trap hk h ht with rfl | ⟨v, s', hv, rfl⟩
  · exact (IssueFrame.setBlocked s).transfer (same_setBlocked s)
  · obtain rfl := hp v s' hv
    exact ((IssueFrame.takeIssue o _ hf).transfer (same_takeIssue o _)).trans (he v _)

/-! Branches (R104). -/

section
variable {t : Tok} {srcs : List Reg} {l : BitVec 24} {u : BitVec 4} {taken : State → Bool} {s : State}

theorem branchOp_pre_state {v : Bool} {s' : State} (h : (branchOp t srcs l u taken).pre s = .go v s') : s' = s := by
  unfold branchOp at h
  dsimp only at h
  split at h
  · cases h
  · cases h
    rfl

/-- A branch that does something of its own, `after`, before it transfers. -/
def countingBranch (t : Tok) (srcs : List Reg) (l : BitVec 24) (u : BitVec 4) (taken : State → Bool) (after : State → State) :
    Op Bool :=
  { branchOp t srcs l u taken with eff := fun b s => (branchOp t srcs l u taken).eff b (after s) }

/-- The outcomes of a branch under its condition `p`. -/
theorem runOp_branch {p : Prop} (after : State → State) (hp : taken s = true ↔ p) (h : CanIssue s t allSeqs srcs 0) :
    let run := runOp (countingBranch t srcs l u taken after) s
    (¬p → run = .next (after (past s t 2)))
    ∧ (p → l ≠ 0 ∧ l.toNat < (imageOf (cc s)).2.1 → run = .next (jumpTo (after (past s t 2)) (l ++ u)))
    ∧ (p → ¬(l ≠ 0 ∧ l.toNat < (imageOf (cc s)).2.1) →
        run = .next (takeTrap s s.cur.node s.cur.core (causeHere s codeIllegal))) := by
  intro run
  rw [← hp, ← lineOk_iff, Bool.not_eq_true, Bool.not_eq_true, ← pcOf_eq_append]
  have decoded := decodeFault_none (o := countingBranch t srcs l u taken after) (s := s) rfl (.inl rfl) (mem_allSeqs _) rfl
  refine ⟨fun hn => ?_, fun ht hl => ?_, fun ht hl => ?_⟩
  · exact runOp_of_canIssue h decoded (x := false) (s' := s) (by simp [countingBranch, branchOp, hn]) rfl
  · exact runOp_of_canIssue h decoded (x := true) (s' := s) (by simp [countingBranch, branchOp, ht, hl]) rfl
  · exact runOp_fault_of_canIssue h decoded (by simp [countingBranch, branchOp, ht, hl])

end

/-- A row of the branches. -/
theorem branch_outcomes {i : Tok → Reg → BitVec 24 → BitVec 4 → Instr} {marks : List Nat} {p : Word → Prop}
    {taken : Word → Bool} (hp : ∀ v, taken v = true ↔ p v)
    (hi : ∀ t a l u s, exec (i t a l u) s = runOp (branchOp t (marks.map fun _ => a) l u fun s => taken (reg s a)) s)
    (t : Tok) (a : Reg) (l : BitVec 24) (u : BitVec 4) (s : State) (h : CanIssue s t allSeqs (marks.map fun _ => a) 0) :
    (¬p (reg s a) → exec (i t a l u) s = .next (past s t 2))
    ∧ (p (reg s a) → l ≠ 0 ∧ l.toNat < (imageOf (cc s)).2.1 → exec (i t a l u) s = .next (jumpTo (past s t 2) (l ++ u)))
    ∧ (p (reg s a) → ¬(l ≠ 0 ∧ l.toNat < (imageOf (cc s)).2.1) →
        exec (i t a l u) s = .next (takeTrap s s.cur.node s.cur.core (causeHere s codeIllegal))) := by
  rw [hi]
  exact runOp_branch id (hp _) h

/-- What BLOOP does to its counter. -/
def countDown (a : Reg) (s : State) : State := writeReg s a (reg s a - 1)
/-- Whether BLOOP finds its counter above 0 once it is down. -/
def countLeft (a : Reg) (s : State) : Bool := decide (reg s a - 1 ≠ 0)
/-- BLOOP as the branch that it is. -/
def bloopOp (t : Tok) (a : Reg) (l : BitVec 24) (u : BitVec 4) : Op Bool :=
  countingBranch t [a] l u (countLeft a) (countDown a)

theorem exec_bloop (t : Tok) (a : Reg) (l : BitVec 24) (u : BitVec 4) (s : State) :
    exec (.bloop t a l u) s = runOp (bloopOp t a l u) s := rfl

/-- Settles O5: every branch by the one lemma on its operation, BLOOP with its count taken down first. -/
theorem branches : Obligations.Branches := by
  refine ⟨⟨List.forall_iff_forall_mem.mp ⟨?_, ?_, ?_, ?_, ?_, ?_, ?_⟩, fun s x => ?_⟩, fun t a l u s h => ?_⟩
  · exact branch_outcomes (taken := fun _ => true) (fun v => by simp) fun _ _ _ _ _ => rfl
  · exact branch_outcomes (taken := fun v => decide (v = 0)) (fun v => by simp) fun _ _ _ _ _ => rfl
  · exact branch_outcomes (taken := fun v => decide (v ≠ 0)) (fun v => by simp) fun _ _ _ _ _ => rfl
  · exact branch_outcomes (taken := fun v => decide (v.toInt < 0)) (fun v => by simp) fun _ _ _ _ _ => rfl
  · exact branch_outcomes (taken := fun v => decide (0 ≤ v.toInt)) (fun v => by simp) fun _ _ _ _ _ => rfl
  · exact branch_outcomes (taken := fun v => decide (0 < v.toInt)) (fun v => by simp) fun _ _ _ _ _ => rfl
  · exact branch_outcomes (taken := fun v => decide (v.toInt ≤ 0)) (fun v => by simp) fun _ _ _ _ _ => rfl
  · rw [cs_jumpTo]
    exact ⟨rfl, rfl⟩
  · have more : countLeft a s = true ↔ reg s a ≠ 1 := by rw [countLeft, decide_eq_true_eq, Ne, sub_eq_zero]
    have counted : countDown a (past s t 2) = writeReg (past s t 2) a (reg s a - 1) := by
      rw [countDown, (same_past s t 2).reg]
    obtain ⟨stays, jumps, faults⟩ := runOp_branch (l := l) (u := u) (countDown a) more h
    rw [counted] at stays jumps
    refine ⟨fun h1 => ?_, jumps, faults⟩
    rw [h1, sub_self] at stays
    exact stays (not_not.mpr rfl)

/-! Calls and returns (R105, R106). -/

section
variable {t : Tok} {a : SOp} {l : BitVec 24} {u : BitVec 4} {s : State}

theorem exec_call (t : Tok) (l : BitVec 24) (u : BitVec 4) (s : State) : exec (.call t l u) s = execCall t l u s := rfl
theorem exec_ret (t : Tok) (s : State) : exec (.ret t) s = execRet t s := rfl
theorem exec_jmpr (t : Tok) (a : SOp) (s : State) : exec (.jmpr t a) s = execJmpr t a s := rfl
theorem exec_callr (t : Tok) (a : SOp) (s : State) : exec (.callr t a) s = execCallr t a s := rfl

/-- CALL with its line checked and its return address to be pushed. -/
theorem call_outcomes (h : CanIssue s t allSeqs [] 0) :
    let trap (code : Nat) : Out := .next (takeTrap s s.cur.node s.cur.core (causeHere s code))
    (endsLine s 2 = true → exec (.call t l u) s = trap codeIllegal)
    ∧ (endsLine s 2 = false → lineOk s l.toNat = false → exec (.call t l u) s = trap codeIllegal)
    ∧ (endsLine s 2 = false → lineOk s l.toNat = true →
        (16 ≤ (cs s).rstack.length → exec (.call t l u) s = trap codeRstack)
        ∧ ((cs s).rstack.length < 16 → exec (.call t l u) s = .next (callTo (past s t 2) (pcOf l.toNat u.toNat)))) := by
  intro trap
  rw [exec_call, execCall]
  refine ⟨fun he => runOp_decode _ s h.runs (decodeFault_illegal he), fun he hl => ?_, fun he hl => ⟨fun hf => ?_, fun hf => ?_⟩⟩
  · exact runOp_fault_of_canIssue h (decodeFault_none he (.inl rfl) (mem_allSeqs _) rfl) (by simp [hl])
  · exact runOp_fault_of_canIssue h (decodeFault_none he (.inl rfl) (mem_allSeqs _) rfl) (by simp [hl, hf])
  · exact runOp_of_canIssue h (decodeFault_none he (.inl rfl) (mem_allSeqs _) rfl) (x := ()) (s' := s)
      (by simp [hl, Nat.not_le.mpr hf]) rfl

theorem callr_outcomes (h : CanIssue s t allSeqs (sopSrcs a) 0) :
    let trap (code : Nat) : Out := .next (takeTrap s s.cur.node s.cur.core (causeHere s code))
    (endsLine s (1 + sopLen a) = true → exec (.callr t a) s = trap codeIllegal)
    ∧ (endsLine s (1 + sopLen a) = false → targetOk s (opv s a) = false → exec (.callr t a) s = trap codeIllegal)
    ∧ (endsLine s (1 + sopLen a) = false → targetOk s (opv s a) = true → 16 ≤ (cs s).rstack.length →
        exec (.callr t a) s = trap codeRstack)
    ∧ (endsLine s (1 + sopLen a) = false → targetOk s (opv s a) = true → (cs s).rstack.length < 16 →
        exec (.callr t a) s = .next (callTo (past s t (1 + sopLen a)) ((opv s a).setWidth 28))) := by
  intro trap
  rw [exec_callr, execCallr]
  refine ⟨fun he => runOp_decode _ s h.runs (decodeFault_illegal he), fun he hl => ?_, fun he hl hf => ?_, fun he hl hf => ?_⟩
  · exact runOp_fault_of_canIssue h (decodeFault_none he (.inl rfl) (mem_allSeqs _) rfl) (by simp [hl])
  · exact runOp_fault_of_canIssue h (decodeFault_none he (.inl rfl) (mem_allSeqs _) rfl) (by simp [hl, hf])
  · exact runOp_of_canIssue h (decodeFault_none he (.inl rfl) (mem_allSeqs _) rfl) (x := opv s a) (s' := s)
      (by simp [hl, Nat.not_le.mpr hf]) rfl

theorem ret_outcomes (h : CanIssue s t allSeqs [] 0) :
    ((cs s).rstack = [] → exec (.ret t) s = .next (takeTrap s s.cur.node s.cur.core (causeHere s codeRstack)))
    ∧ ∀ x r, (cs s).rstack = x :: r →
        exec (.ret t) s = .next (jumpTo (modCs (past s t 1) fun k => { k with rstack := k.rstack.tail }) x) := by
  rw [exec_ret, execRet]
  refine ⟨fun he => ?_, fun x r hr => ?_⟩
  · exact runOp_fault_of_canIssue h (decodeFault_none rfl (.inl rfl) (mem_allSeqs _) rfl) (by simp [he])
  · exact runOp_of_canIssue h (decodeFault_none rfl (.inl rfl) (mem_allSeqs _) rfl) (x := x) (s' := s) (by simp [hr]) rfl

theorem jmpr_outcomes (h : CanIssue s t allSeqs (sopSrcs a) 0) :
    (targetOk s (opv s a) = false →
        exec (.jmpr t a) s = .next (takeTrap s s.cur.node s.cur.core (causeHere s codeIllegal)))
    ∧ (targetOk s (opv s a) = true →
        exec (.jmpr t a) s = .next (jumpTo (past s t (1 + sopLen a)) ((opv s a).setWidth 28))) := by
  rw [exec_jmpr, execJmpr]
  refine ⟨fun hl => ?_, fun hl => ?_⟩
  · exact runOp_fault_of_canIssue h (decodeFault_none rfl (.inl rfl) (mem_allSeqs _) rfl) (by simp [hl])
  · exact runOp_of_canIssue h (decodeFault_none rfl (.inl rfl) (mem_allSeqs _) rfl) (x := opv s a) (s' := s) (by simp [hl]) rfl

end

/-- A change of the moving sequencer is told by its value there. -/
theorem modCs_congr {s : State} {f g : Sequencer → Sequencer} (h : f (cs s) = g (cs s)) : modCs s f = modCs s g := by
  have here : f (seqIn (smGet (nd s s.cur.node).cores {} s.cur.core) s.cur.seq)
      = g (seqIn (smGet (nd s s.cur.node).cores {} s.cur.core) s.cur.seq) := h
  simp only [modCs, modSq, modCo, modNd, here]

/-- Settles O6: the outcomes of the four instructions, with the tests of their targets as R106 words them. -/
theorem callsAndReturns : Obligations.CallsAndReturns := by
  unfold Obligations.CallsAndReturns
  intro ok push trap
  have okay (s : State) (v : Word) : targetOk s v = true ↔ ok s v := targetOk_iff s v
  refine ⟨fun t l u s h => ?_, fun t s h => ?_, fun t a s h => ?_, fun t a s h => ?_⟩
  · rw [← pcOf_eq_append, ← lineOk_iff, Bool.not_eq_true]
    exact call_outcomes h
  · refine ⟨(ret_outcomes h).1, fun x r hr => ?_⟩
    have stack : (cs (past s t 1)).rstack = x :: r := ((IssueFrame.past s t 1).seq Sequencer.rstack).trans hr
    rw [(ret_outcomes h).2 x r hr, modCs_congr (g := fun k => { k with rstack := r }) (by rw [stack, List.tail_cons])]
  · rw [← okay, Bool.not_eq_true]
    exact jmpr_outcomes h
  · rw [← okay, Bool.not_eq_true]
    exact callr_outcomes h

/-! Traps that a program asks for (R108). -/

theorem exec_trap (t : Tok) (a : SOp) (s : State) : exec (.trap t a) s = execTrap t a s := rfl
theorem exec_brk (t : Tok) (s : State) : exec (.brk t) s = execBrk t s := rfl

/-- Settles O7: both have issued where their trap is taken, a value above 31 has not. -/
theorem trapAndBreak : Obligations.TrapAndBreak := by
  refine ⟨fun t a s h => ?_, fun t s h => ?_⟩
  · have here := (same_past s t (1 + sopLen a)).cur
    rw [exec_trap, execTrap]
    refine ⟨fun hv => ?_, fun hv => ?_⟩
    · rw [runOp_of_canIssue (x := causeHere s (0xC0 + (opv s a).toNat)) (s' := s) h
        (decodeFault_none rfl (.inl rfl) (mem_allSeqs _) rfl) (by simp [Nat.not_lt.mpr hv]) rfl]
      exact congrArg (fun c : Cur => Host.Outcome.next (takeTrap (past s t (1 + sopLen a)) c.node c.core
        (causeHere s (0xC0 + (opv s a).toNat)))) here
    · exact runOp_fault_of_canIssue (k := causeHere s codeIllegal) h (decodeFault_none rfl (.inl rfl) (mem_allSeqs _) rfl)
        (by simp [hv])
  · have here := (same_past s t 1).cur
    rw [exec_brk, execBrk, runOp_of_canIssue (x := causeHere s 0xFF) (s' := s) h
      (decodeFault_none rfl (.inl rfl) (mem_allSeqs _) rfl) rfl rfl]
    exact congrArg (fun c : Cur => Host.Outcome.next (takeTrap (past s t 1) c.node c.core (causeHere s 0xFF))) here

/-! What these instructions leave unchanged (O4). -/

/-- A transfer leaves all but its own sequencer's control alone where it takes no trap. -/
def Transfers (i : Instr) : Prop := ∀ s x, exec i s = .next x → x.trap = none → TransferFrame s x

theorem branch_transfers {i : Instr} {t : Tok} {srcs : List Reg} {l : BitVec 24} {u : BitVec 4} {taken : State → Bool}
    (hi : ∀ s, exec i s = runOp (branchOp t srcs l u taken) s) : Transfers i := by
  intro s x h
  refine runOp_transfer rfl rfl (fun v s' => branchOp_pre_state) (fun b p => ?_) ((hi s).symm.trans h)
  cases b
  · exact (IssueFrame.refl p).transfer (.rfl' p)
  · exact .jumpTo ..

theorem call_transfers (t : Tok) (l : BitVec 24) (u : BitVec 4) : Transfers (.call t l u) := by
  intro s x h
  refine runOp_transfer rfl rfl (fun v s' hv => ?_) (fun _ _ => .callTo ..) h
  dsimp only at hv
  split at hv
  · cases hv
  · split at hv
    · cases hv
    · cases hv
      rfl

theorem callr_transfers (t : Tok) (a : SOp) : Transfers (.callr t a) := by
  intro s x h
  refine runOp_transfer rfl rfl (fun v s' hv => ?_) (fun _ _ => .callTo ..) h
  dsimp only at hv
  split at hv
  · cases hv
  · split at hv
    · cases hv
    · cases hv
      rfl

theorem ret_transfers (t : Tok) : Transfers (.ret t) := by
  intro s x h
  refine runOp_transfer rfl rfl (fun v s' hv => ?_)
    (fun _ p => (TransferFrame.modStack p fun k => k.rstack.tail).trans (.jumpTo ..)) h
  dsimp only at hv
  split at hv
  · cases hv
  · cases hv
    rfl

theorem jmpr_transfers (t : Tok) (a : SOp) : Transfers (.jmpr t a) := by
  intro s x h
  refine runOp_transfer rfl rfl (fun v s' hv => ?_) (fun _ _ => .jumpTo ..) h
  dsimp only at hv
  split at hv
  · cases hv
    rfl
  · cases hv

/-- BLOOP changes its counter beside that. -/
theorem bloop_frame {t : Tok} {a : Reg} {l : BitVec 24} {u : BitVec 4} {s x : State} (h : exec (.bloop t a l u) s = .next x)
    (ht : x.trap = none) : OnlySeq s x ∧ ∀ r, r ≠ a → reg x r = reg s r := by
  rcases runOp_cases_of_no_trap (o := bloopOp t a l u) rfl h ht with rfl | ⟨b, s', hv, rfl⟩
  · exact ⟨(IssueFrame.setBlocked s).toOnlySeq, fun r _ => (same_setBlocked s).reg r⟩
  · obtain rfl : s' = s := branchOp_pre_state (t := t) (srcs := [a]) (u := u) hv
    have issued : IssueFrame s' (takeIssue (bloopOp t a l u) s') := .takeIssue _ s' rfl
    have same : SameOperands s' (takeIssue (bloopOp t a l u) s') := same_takeIssue _ s'
    have counted := issued.trans (.writeReg _ a (reg (takeIssue (bloopOp t a l u) s') a - 1))
    have others (r : Reg) (hr : r ≠ a) : reg (countDown a (takeIssue (bloopOp t a l u) s')) r = reg s' r :=
      (reg_writeReg_ne _ _ hr).trans (same.reg r)
    cases b
    · exact ⟨counted.toOnlySeq, others⟩
    · exact ⟨(counted.trans (.jumpTo ..)).toOnlySeq, fun r hr => ((same_jumpTo ..).reg r).trans (others r hr)⟩

/-- Settles O4: every register instruction by the frame of their one operation, every transfer by that of its effect. -/
theorem registerFrame : Obligations.RegisterFrame := by
  refine ⟨⟨fun e he t d a b s x hs h => ?_, fun e he t d a s x hs h => ?_, fun t d a i s x hs h => ?_,
    fun t d a n s x hs h => ?_, fun t d i s x hs h => ?_, fun t a l u s x h ht => bloop_frame h ht⟩, fun i s x hi h ht => ?_⟩
  · refine ComputesReg.frame ?_ hs h
    fin_cases he <;> exact ⟨_, _, _, _, _, fun _ => rfl⟩
  · refine ComputesReg.frame ?_ hs h
    fin_cases he <;> exact ⟨_, _, _, _, _, fun _ => rfl⟩
  · rcases h with h | h | h | h <;> exact ComputesReg.frame ⟨_, _, _, _, _, fun _ => rfl⟩ hs h
  · rcases h with h | h | h | h <;> exact ComputesReg.frame ⟨_, _, _, _, _, fun _ => rfl⟩ hs h
  · exact ComputesReg.frame ⟨_, _, _, _, _, fun _ => rfl⟩ hs h
  · have frame : TransferFrame s x := by
      rcases hi with ⟨t, a, l, u, hi⟩ | ⟨t, a, hi⟩
      · simp only [List.mem_cons, List.not_mem_nil, or_false] at hi
        rcases hi with rfl | rfl | rfl | rfl | rfl | rfl | rfl | rfl | rfl
        case inr.inr.inr.inr.inr.inr.inr.inl => exact call_transfers t l u s x h ht
        case inr.inr.inr.inr.inr.inr.inr.inr => exact ret_transfers t s x h ht
        all_goals exact branch_transfers (fun _ => rfl) s x h ht
      · simp only [List.mem_cons, List.not_mem_nil, or_false] at hi
        rcases hi with rfl | rfl
        · exact jmpr_transfers t a s x h ht
        · exact callr_transfers t a s x h ht
    exact ⟨frame.toOnlySeq, frame.same.reg⟩

end Sys2Proof.Machine
end

section
/-! PROOFS. The sequencer instructions (O9): what each waits for, and the values that they read. -/

namespace Sys2Proof.Machine

open Sys2Proof.Claims

/-! Sequencers (R113 to R118). -/

theorem exec_nop (t : Tok) (s : State) : exec (.nop t) s = execNop t s := rfl
theorem exec_sqstop (t : Tok) (s : State) : exec (.sqstop t) s = execSqstop t s := rfl
theorem exec_sqwait (t : Tok) (a : SOp) (s : State) : exec (.sqwait t a) s = execSqwait t a s := rfl
theorem exec_sqsig (t : Tok) (a : SOp) (s : State) : exec (.sqsig t a) s = execSqsig t a s := rfl
theorem exec_waitstep (t : Tok) (a : SOp) (s : State) : exec (.waitstep t a) s = execWaitstep t a s := rfl
theorem exec_rdstep (t : Tok) (d : Reg) (s : State) : exec (.rdstep t d) s = execRdstep t d s := rfl
theorem exec_rdcyc (t : Tok) (d : Reg) (s : State) : exec (.rdcyc t d) s = execRdcyc t d s := rfl
theorem exec_sqid (t : Tok) (d : Reg) (s : State) : exec (.sqid t d) s = execSqid t d s := rfl

/-- An instruction that acts as it issues has its effect on the state past it. -/
theorem runOp_acts {o : Op Unit} {s : State}
    (h : CanIssueWith s o.tk o.seqs o.srcs o.flying (o.flags s) (o.pops s) (o.pushes s)) (hd : decodeFault o s = none)
    (hp : o.pre s = .go () s) (hr : o.room s = true) (hn : o.now = true) :
    runOp o s = .next (o.eff () (pastWith s o.tk o.len (o.flags s) (o.pops s) (o.pushes s))) := by
  rw [runOp_of_canIssue h hd hp hr]
  exact congrArg (fun p => Host.Outcome.next (o.eff () p)) (takeIssue_congr o _ s rfl rfl rfl rfl rfl hn)

section
variable {t : Tok} {a : SOp} {d : Reg} {s : State}

theorem exec_nop_goes (h : CanIssue s t allSeqs [] 0) : exec (.nop t) s = .next (past s t 1) := by
  rw [exec_nop]
  exact runOp_acts h (decodeFault_none rfl (.inl rfl) (mem_allSeqs _) rfl) rfl rfl rfl

/-- SQSTOP stops its sequencer where the issue has left it, once all is retired. -/
theorem exec_sqstop_stops (h : CanIssue s t allSeqs [] 0) (hr : allRetired s = true) :
    exec (.sqstop t) s = .next (stopSeq (past s t 1)) := by
  rw [exec_sqstop]
  exact runOp_acts h (decodeFault_none rfl (.inl rfl) (mem_allSeqs _) rfl) rfl hr rfl

theorem exec_sqstop_waits (h : CanIssue s t allSeqs [] 0) (hr : allRetired s = false) :
    exec (.sqstop t) s = .next (setBlocked s) := by
  rw [exec_sqstop]
  exact runOp_full_of_canIssue (x := ()) (s' := s) h (decodeFault_none rfl (.inl rfl) (mem_allSeqs _) rfl) rfl hr

theorem exec_sqwait_goes (h : CanIssueWith s t allSeqs (sopSrcs a) 0 ((opv s a).setWidth 16) [] []) :
    exec (.sqwait t a) s = .next (pastWith s t (1 + sopLen a) ((opv s a).setWidth 16) [] []) := by
  have flags : (if srcsReady s (sopSrcs a) = true then (opv s a).setWidth 16 else 0) = (opv s a).setWidth 16 :=
    if_pos h.ready
  rw [← flags] at h ⊢
  rw [exec_sqwait]
  exact runOp_acts h (decodeFault_none rfl (.inl rfl) (mem_allSeqs _) rfl) rfl rfl rfl

theorem exec_sqsig_goes (h : CanIssue s t allSeqs (sopSrcs a) 0) (hm : (opv s a).setWidth 16 ≠ (0 : BitVec 16)) :
    exec (.sqsig t a) s = .next (later (past s t (1 + sopLen a)) (.flags s.cur.node s.cur.core ((opv s a).setWidth 16))) := by
  have same := same_past s t (1 + sopLen a)
  have signalled : signal (past s t (1 + sopLen a)) ((opv (past s t (1 + sopLen a)) a).setWidth 16)
      = later (past s t (1 + sopLen a)) (.flags s.cur.node s.cur.core ((opv s a).setWidth 16)) := by
    rw [signal, same.opv, if_neg hm, same.cur]
  rw [← signalled, exec_sqsig]
  exact runOp_acts h (decodeFault_none rfl (.inl rfl) (mem_allSeqs _) rfl) rfl rfl rfl

theorem exec_waitstep_goes (h : CanIssue s t allSeqs (sopSrcs a) 0) (hr : (opv s a).toNat ≤ gsc s s.cur.node) :
    exec (.waitstep t a) s = .next (past s t (1 + sopLen a)) := by
  rw [exec_waitstep]
  exact runOp_acts h (decodeFault_none rfl (.inl rfl) (mem_allSeqs _) rfl) rfl (decide_eq_true hr) rfl

theorem exec_waitstep_waits (h : CanIssue s t allSeqs (sopSrcs a) 0) (hr : gsc s s.cur.node < (opv s a).toNat) :
    exec (.waitstep t a) s = .next (setBlocked s) := by
  rw [exec_waitstep]
  exact runOp_full_of_canIssue (x := ()) (s' := s) h (decodeFault_none rfl (.inl rfl) (mem_allSeqs _) rfl) rfl
    (decide_eq_false (Nat.not_le.mpr hr))

end

/-! Clocks under an issue (R35, R115). -/

@[simp] theorem clearFlags_bornAt (s : State) (m : BitVec 16) : (clearFlags s m).bornAt = s.bornAt := by
  unfold clearFlags
  split <;> rfl

@[simp] theorem popTok_bornAt (s : State) (f k : Nat) : (popTok s f k).bornAt = s.bornAt := by
  unfold popTok
  split <;> rfl

@[simp] theorem reserveTok_bornAt (s : State) (f k : Nat) : (reserveTok s f k).bornAt = s.bornAt := by
  unfold reserveTok
  split <;> rfl

@[simp] theorem pushLater_bornAt (s : State) (f k : Nat) : (pushLater s f k).bornAt = s.bornAt := by
  unfold pushLater
  split <;> rfl

theorem takeIssue_bornAt {α : Type} (o : Op α) (s : State) : (takeIssue o s).bornAt = s.bornAt := by
  unfold takeIssue
  dsimp only
  split <;> simp [takeTokens, retirePushes]

/-- A step of a sequencer takes no time of a core's own clock. -/
theorem IssueFrame.coreCyc {s t : State} (h : IssueFrame s t) (hb : t.bornAt = s.bornAt) (n c : Nat) :
    coreCyc t n c = Machine.coreCyc s n c := by
  have quad : qd t n (quadOf c) = qd s n (quadOf c) := h.node n fun d => smGet d.quads {} (quadOf c)
  simp only [Machine.coreCyc, sinceOf, quad, h.now, hb]

/-- Settles O9: each instruction by its operation; what it waits for is its room, and the clocks stand under an issue. -/
theorem sequencerInstructions : Obligations.SequencerInstructions := by
  refine ⟨⟨fun t s h => exec_nop_goes h, fun t s h => ⟨fun hr => ?_, exec_sqstop_waits h⟩, fun t a s => exec_sqwait_goes,
    fun t a s => exec_sqsig_goes, fun s n c m => ?_, fun t a s h => ⟨exec_waitstep_goes h, exec_waitstep_waits h⟩⟩,
    fun t d s => ⟨fun h => ⟨?_, ?_⟩, fun h => ?_⟩⟩
  · refine ⟨_, exec_sqstop_stops h hr, ?_⟩
    rw [stopSeq, cs_modCs]
    exact ⟨rfl, rfl⟩
  · rw [applyLate, co_modCo_same]
  · have issued := IssueFrame.begun s t 1
    rw [exec_rdstep]
    exact runOp_regOp_flies (by decide) h (by rw [issued.gsc, issued.cur])
  · have issued := IssueFrame.begun s t 1
    rw [exec_rdcyc]
    exact runOp_regOp_flies (by decide) h (by rw [issued.coreCyc (takeIssue_bornAt ..), issued.cur])
  · rw [exec_sqid]
    exact runOp_regOp h (by rw [sqidWord, (same_past s t 1).cur]; rfl)

end Sys2Proof.Machine
end

section
/-! PROOFS. The queue registers (R111, R112, R216): the instructions (O10), and that a queue register is a queue. -/

namespace Sys2Proof.Machine

open Sys2Proof.Claims

/-! A queue. -/

@[simp] theorem queueOf_putQueue_same (k : Core) (q : Nat) (x : QReg) : queueOf (putQueue k q x) q = x := smGet_smPut_same ..

theorem queueOf_queuePop (s : State) (q : Nat) :
    queueOf (cc (queuePop s q)) q
      = { queueOf (cc s) q with
          entries := (queueOf (cc s) q).entries.tail
          base := (queueOf (cc s) q).base + 1
          freed := (queueOf (cc s) q).freed + 1 } := by
  rw [queuePop, cc_later, cc_modCc, queueOf_putQueue_same]

theorem queueOf_queueReserve (s : State) (q : Nat) :
    queueOf (cc (queueReserve s q).2) q
      = { queueOf (cc s) q with entries := (queueOf (cc s) q).entries ++ [.reserved] } := by
  rw [queueReserve, cc_modCc, queueOf_putQueue_same]

theorem modNth_append {α : Type} (f : α → α) (l r : List α) (i : Nat) : modNth f (l ++ r) (l.length + i) = l ++ modNth f r i := by
  induction l with
  | nil => rw [List.nil_append, List.nil_append, List.length_nil, Nat.zero_add]
  | cons x l ih => rw [List.cons_append, List.length_cons, Nat.add_right_comm, modNth, ih, List.cons_append]

/-- The slot reserved last is the one that is filled under its serial number. -/
theorem queueFill_last (k : Core) (q : Nat) (e : QEntry) {l : List QEntry} (h : (queueOf k q).entries = l ++ [.reserved]) :
    (queueOf (queueFill k q ((queueOf k q).base + l.length) e) q).entries = l ++ [e] := by
  rw [queueFill, queueOf_putQueue_same, h, Nat.add_sub_cancel_left]
  exact modNth_append (fun _ => e) l [.reserved] 0

/-- An issue moves no queue. -/
theorem IssueFrame.queueOf {s t : State} (h : IssueFrame s t) (q : Nat) : queueOf (cc t) q = Machine.queueOf (cc s) q :=
  h.core fun k => Machine.queueOf k q

/-! The instructions. -/

section
variable {t : Tok} {a : SOp} {d b : BitVec 5} {s : State}

theorem exec_qput (t : Tok) (a : SOp) (b : BitVec 5) (s : State) : exec (.qput t a b) s = execQput t a b s := rfl
theorem exec_qget (t : Tok) (d b : BitVec 5) (s : State) : exec (.qget t d b) s = execQget t d b s := rfl
theorem exec_qpeek (t : Tok) (d b : BitVec 5) (s : State) : exec (.qpeek t d b) s = execQpeek t d b s := rfl
theorem exec_qcnt (t : Tok) (d b : BitVec 5) (s : State) : exec (.qcnt t d b) s = execQcnt t d b s := rfl

theorem exec_qput_goes (h : CanIssue s t allSeqs (sopSrcs a) 0) (hq : qProducer b.toNat = s.cur.seq)
    (hr : queueRoom s b.toNat = true) :
    exec (.qput t a b) s
      = .next (let r := queueReserve (past s t (1 + sopLen a)) b.toNat
               later r.2 (.qFill s.cur.node s.cur.core b.toNat r.1 (opv s a))) := by
  have same := same_past s t (1 + sopLen a)
  rw [← same.opv, ← same.cur, exec_qput]
  exact runOp_acts h (decodeFault_none (by simp [hq]) (.inl rfl) (mem_allSeqs _) rfl) rfl hr rfl

/-- A head that holds a value is read, and QGET takes it. -/
theorem exec_qhead_goes {v : Word} (h : CanIssue s t allSeqs [] 0) (hq : qConsumer b.toNat = s.cur.seq)
    (hv : queueHead s b.toNat = some (.filled v)) :
    exec (.qget t d b) s = .next (writeReg (queuePop (past s t 1) b.toNat) d v)
    ∧ exec (.qpeek t d b) s = .next (writeReg (past s t 1) d v) := by
  rw [exec_qget, exec_qpeek]
  constructor <;> exact runOp_of_canIssue h (decodeFault_none (by simp [hq]) (.inl rfl) (mem_allSeqs _) rfl)
    (by simp [headPre, hv]) rfl

/-- An empty queue is waited for. -/
theorem exec_qhead_waits (h : CanIssue s t allSeqs [] 0) (hq : qConsumer b.toNat = s.cur.seq)
    (hv : queueHead s b.toNat = none) :
    exec (.qget t d b) s = .next (setBlocked s) ∧ exec (.qpeek t d b) s = .next (setBlocked s) := by
  rw [exec_qget, exec_qpeek]
  constructor <;> exact runOp_hold_of_canIssue (s' := s) h
    (decodeFault_none (by simp [hq]) (.inl rfl) (mem_allSeqs _) rfl) (by simp [headPre, hv])

/-- The fault that a head holds is taken at the instruction (R216). -/
theorem exec_qhead_faults {code : Nat} {v : Word} (h : CanIssue s t allSeqs [] 0) (hq : qConsumer b.toNat = s.cur.seq)
    (hv : queueHead s b.toNat = some (.bad code v)) :
    exec (.qget t d b) s = .next (takeTrap s s.cur.node s.cur.core (causeAt s code v))
    ∧ exec (.qpeek t d b) s = .next (takeTrap s s.cur.node s.cur.core (causeAt s code v)) := by
  rw [exec_qget, exec_qpeek]
  constructor <;> exact runOp_fault_of_canIssue h (decodeFault_none (by simp [hq]) (.inl rfl) (mem_allSeqs _) rfl)
    (by simp [headPre, hv])

/-- Only its consumer reads the head of a queue (R111). -/
theorem exec_qhead_illegal (hm : mayIssue s = true) (hq : qConsumer b.toNat ≠ s.cur.seq) :
    exec (.qget t d b) s = .next (takeTrap s s.cur.node s.cur.core (causeHere s codeIllegal))
    ∧ exec (.qpeek t d b) s = .next (takeTrap s s.cur.node s.cur.core (causeHere s codeIllegal)) := by
  rw [exec_qget, exec_qpeek]
  constructor <;> exact runOp_decode _ s hm (decodeFault_illegal (by simp [hq]))

theorem exec_qput_illegal (hm : mayIssue s = true) (hq : qProducer b.toNat ≠ s.cur.seq) :
    exec (.qput t a b) s = .next (takeTrap s s.cur.node s.cur.core (causeHere s codeIllegal)) := by
  rw [exec_qput]
  exact runOp_decode _ s hm (decodeFault_illegal (by simp [hq]))

theorem exec_qcnt_illegal (hm : mayIssue s = true) (hc : qConsumer b.toNat ≠ s.cur.seq) (hp : qProducer b.toNat ≠ s.cur.seq) :
    exec (.qcnt t d b) s = .next (takeTrap s s.cur.node s.cur.core (causeHere s codeIllegal)) := by
  rw [exec_qcnt]
  exact runOp_decode _ s hm (decodeFault_illegal (by simp [hc, hp]))

/-- QCNT of a queue as it stands before the issue; its producer does not see the removals of this cc (R111). -/
theorem exec_qcnt_goes (h : CanIssue s t allSeqs [] 0) (hq : qConsumer b.toNat = s.cur.seq ∨ qProducer b.toNat = s.cur.seq) :
    let x := queueOf (cc s) b.toNat
    let gone := if qProducer b.toNat = s.cur.seq then x.freed else 0
    exec (.qcnt t d b) s
      = .next (writeReg (past s t 1) d
          (BitVec.ofNat 64 (queueFilled x + gone + 256 * (x.entries.length - queueFilled x)))) := by
  intro x gone
  have issued := IssueFrame.past s t 1
  have party : (qProducer b.toNat != s.cur.seq && qConsumer b.toNat != s.cur.seq) = false := by
    rcases hq with hq | hq <;> simp [hq]
  simp only [x, gone]
  rw [← issued.queueOf, ← issued.cur, exec_qcnt, execQcnt]
  exact runOp_acts h (decodeFault_none party (.inl rfl) (mem_allSeqs _) rfl) rfl rfl rfl

end

/-- Settles O10: the instructions by the state of the head, and the laws of the queue behind them. -/
theorem queueInstructions : Obligations.QueueInstructions :=
  ⟨⟨fun _ _ _ _ => exec_qput_goes, fun _ _ _ _ _ => exec_qhead_goes, fun _ _ _ _ => exec_qhead_waits,
      fun _ _ _ _ _ _ => exec_qhead_faults, fun _ _ _ _ => exec_qcnt_illegal, fun _ _ _ _ => exec_qcnt_goes,
      fun _ _ _ _ _ h => ⟨exec_qput_illegal h.runs, exec_qhead_illegal h.runs⟩⟩,
    fun s q => congrArg QReg.entries (queueOf_queuePop s q), fun s q => congrArg QReg.entries (queueOf_queueReserve s q),
    fun k q v _ h => queueFill_last k q (.filled v) h⟩

end Sys2Proof.Machine
end

section
/-! PROOFS. Token FIFOs (R97, R109, R110): what an issue moves, and the token instructions (O11). -/

namespace Sys2Proof.Machine

open Sys2Proof.Claims

/-! One FIFO. -/

theorem fifo_popTok (s : State) (f k g : Nat) :
    fifo (cc (popTok s f k)) g
      = if g = f then { fifo (cc s) f with n := (fifo (cc s) f).n - k, popped := (fifo (cc s) f).popped + k }
        else fifo (cc s) g := by
  unfold popTok
  split
  · next h =>
    split
    · next hg => simp [h, hg]
    · rfl
  · rw [cc_later, cc_modCc, fifo, putFifo, smGet_smPut]
    rfl

theorem fifo_reserveTok (s : State) (f k g : Nat) :
    fifo (cc (reserveTok s f k)) g
      = if g = f then { fifo (cc s) f with v := (fifo (cc s) f).v + k } else fifo (cc s) g := by
  unfold reserveTok
  split
  · next h =>
    split
    · next hg => simp [h, hg]
    · rfl
  · rw [cc_modCc, fifo, putFifo, smGet_smPut]
    rfl

@[simp] theorem popTok_cur (s : State) (f k : Nat) : (popTok s f k).cur = s.cur := (IssueFrame.popTok s f k).cur
@[simp] theorem reserveTok_cur (s : State) (f k : Nat) : (reserveTok s f k).cur = s.cur := (IssueFrame.reserveTok s f k).cur

/-! The FIFOs of a sequencer and its partners (R59). -/

theorem fifoIn_inj (q : Seq) : ∀ p ∈ [1, 2, 3], ∀ r ∈ [1, 2, 3], (fifoIn q p = fifoIn q r ↔ p = r) := by
  cases q <;> decide

theorem fifoOut_inj (q : Seq) : ∀ p ∈ [1, 2, 3], ∀ r ∈ [1, 2, 3], (fifoOut q p = fifoOut q r ↔ p = r) := by
  cases q <;> decide

theorem fifoIn_ne_fifoOut (q : Seq) : ∀ p ∈ [1, 2, 3], ∀ r ∈ [1, 2, 3], fifoIn q p ≠ fifoOut q r := by
  cases q <;> decide

section
variable (s : State) (t : Tok) (pops pushes : List (Nat × Nat)) {p : Nat} (hp : p ∈ [1, 2, 3])
include hp

/-- A FIFO from which an issue pops: its tokens are gone at once (R97). -/
theorem fifo_takeTokens_in :
    fifo (cc (takeTokens s t pops pushes)) (fifoIn s.cur.seq p)
      = { fifo (cc s) (fifoIn s.cur.seq p) with
          n := (fifo (cc s) (fifoIn s.cur.seq p)).n - popCountOf t pops p
          popped := (fifo (cc s) (fifoIn s.cur.seq p)).popped + popCountOf t pops p } := by
  simp only [List.mem_cons, List.not_mem_nil, or_false] at hp
  rcases hp with rfl | rfl | rfl <;>
    simp [takeTokens, fifo_popTok, fifo_reserveTok, fifoIn_inj, fifoIn_ne_fifoOut]

/-- A FIFO to which an issue pushes: its tokens are reserved (R109). -/
theorem fifo_takeTokens_out :
    fifo (cc (takeTokens s t pops pushes)) (fifoOut s.cur.seq p)
      = { fifo (cc s) (fifoOut s.cur.seq p) with
          v := (fifo (cc s) (fifoOut s.cur.seq p)).v + pushCountOf t pushes p } := by
  simp only [List.mem_cons, List.not_mem_nil, or_false] at hp
  rcases hp with rfl | rfl | rfl <;>
    simp [takeTokens, fifo_popTok, fifo_reserveTok, fifoOut_inj, (fifoIn_ne_fifoOut _ _ _ _ _).symm]

end

theorem cc_pushLater (s : State) (f k : Nat) : cc (pushLater s f k) = cc s := by
  unfold pushLater
  split <;> rfl

theorem cc_retirePushes (s : State) (t : Tok) (p : List (Nat × Nat)) : cc (retirePushes s t p) = cc s := by
  simp only [retirePushes, List.foldl_cons, List.foldl_nil, cc_pushLater]

/-- Of the FIFOs an issue moves what its tokens say. -/
theorem fifo_takeIssue {α : Type} (o : Op α) (s : State) (hf : o.flags s = 0) (g : Nat) :
    fifo (cc (takeIssue o s)) g = fifo (cc (takeTokens s o.tk (o.pops s) (o.pushes s))) g := by
  have unflagged : clearFlags s (o.flags s) = s := if_pos hf
  unfold takeIssue fifo
  dsimp only
  rw [unflagged]
  split
  · rw [cc_retirePushes, cc_modCs, putSeq_fifos]
  · rw [cc_modCs, putSeq_fifos]

theorem fifo_past (s : State) (t : Tok) (len g : Nat) :
    fifo (cc (past s t len)) g = fifo (cc (takeTokens s t [] [])) g := by
  unfold past pastWith
  exact fifo_takeIssue _ s rfl g

theorem fifo_begun (s : State) (t : Tok) (len g : Nat) :
    fifo (cc (begun s t len)) g = fifo (cc (takeTokens s t [] [])) g := by
  unfold begun
  exact fifo_takeIssue _ s rfl g

/-! The instructions (R110). -/

section
variable {t : Tok} {a : SOp} {d b : BitVec 5} {s : State}

theorem exec_tokgive (t : Tok) (a : SOp) (b : BitVec 5) (s : State) : exec (.tokgive t a b) s = execTokgive t a b s := rfl
theorem exec_toktake (t : Tok) (a : SOp) (b : BitVec 5) (s : State) : exec (.toktake t a b) s = execToktake t a b s := rfl
theorem exec_tokcntIn (t : Tok) (d b : BitVec 5) (s : State) : exec (.tokcntIn t d b) s = execTokcntIn t d b s := rfl
theorem exec_tokcntOut (t : Tok) (d b : BitVec 5) (s : State) : exec (.tokcntOut t d b) s = execTokcntOut t d b s := rfl

theorem exec_tokgive_goes (hb : countBad (opv s a).toNat t.push b = false)
    (h : CanIssueWith s t allSeqs (sopSrcs a) 0 0 [] [(b.toNat, (opv s a).toNat)]) :
    exec (.tokgive t a b) s = .next (pastWith s t (1 + sopLen a) 0 [] [(b.toNat, (opv s a).toNat)]) := by
  rw [exec_tokgive]
  exact runOp_acts h (decodeFault_none rfl (.inl rfl) (mem_allSeqs _) rfl) (by simp [hb]) rfl rfl

theorem exec_tokgive_illegal (hb : countBad (opv s a).toNat t.push b = true) (h : CanIssue s t allSeqs (sopSrcs a) 0) :
    exec (.tokgive t a b) s = .next (takeTrap s s.cur.node s.cur.core (causeHere s codeIllegal)) := by
  rw [exec_tokgive]
  exact runOp_trap _ s h.runs (decodeFault_none rfl (.inl rfl) (mem_allSeqs _) rfl) h.span h.flags h.pops h.ready (by simp [hb])

/-- What TOKTAKE pops beside its TK field: its count, unless that count could never issue. -/
def toktakePops (t : Tok) (a : SOp) (b : BitVec 5) (s : State) : List (Nat × Nat) :=
  if srcsReady s (sopSrcs a) && !countBad (opv s a).toNat t.pop b then [(b.toNat, (opv s a).toNat)] else []

theorem exec_toktake_goes (hb : countBad (opv s a).toNat t.pop b = false)
    (h : CanIssueWith s t allSeqs (sopSrcs a) 0 0 [(b.toNat, (opv s a).toNat)] []) :
    exec (.toktake t a b) s = .next (pastWith s t (1 + sopLen a) 0 [(b.toNat, (opv s a).toNat)] []) := by
  have taken : toktakePops t a b s = [(b.toNat, (opv s a).toNat)] := if_pos (by simp [h.ready, hb])
  rw [← taken] at h ⊢
  rw [exec_toktake]
  exact runOp_acts h (decodeFault_none rfl (.inl rfl) (mem_allSeqs _) rfl) (by simp [hb]) rfl rfl

theorem exec_toktake_illegal (hb : countBad (opv s a).toNat t.pop b = true) (h : CanIssue s t allSeqs (sopSrcs a) 0) :
    exec (.toktake t a b) s = .next (takeTrap s s.cur.node s.cur.core (causeHere s codeIllegal)) := by
  have none : toktakePops t a b s = [] := if_neg (by simp [hb])
  have there := h.pops
  rw [← none] at there
  rw [exec_toktake]
  exact runOp_trap _ s h.runs (decodeFault_none rfl (.inl rfl) (mem_allSeqs _) rfl) h.span h.flags there h.ready (by simp [hb])

/-- A count above 16 could never issue (R110). -/
theorem countBad_of_large {n : Nat} (own : BitVec 2) (b : BitVec 5) (h : 16 < n) : countBad n own b = true :=
  decide_eq_true (by omega)

/-- TOKCNT.IN counts what stood before its own pop. -/
theorem exec_tokcntIn_goes (h : CanIssue s t allSeqs [] 0) (hb : b.toNat ∈ [1, 2, 3]) :
    exec (.tokcntIn t d b) s
      = .next (writeReg (past s t 1) d (BitVec.ofNat 64 (fifo (cc s) (fifoIn s.cur.seq b.toNat)).n)) := by
  have there := of_decide_eq_true (List.all_eq_true.mp h.pops _ hb)
  rw [exec_tokcntIn]
  refine runOp_regOp h (congrArg _ ?_)
  rw [(same_past s t 1).cur, fifo_past, fifo_takeTokens_in _ _ _ _ hb]
  exact Nat.sub_add_cancel there

/-- TOKCNT.OUT counts what stood before its own push. -/
theorem exec_tokcntOut_goes (h : CanIssue s t allSeqs [] 0) (hb : b.toNat ∈ [1, 2, 3]) :
    exec (.tokcntOut t d b) s
      = .next (writeReg (past s t 1) d
          (let f := fifo (cc s) (fifoOut s.cur.seq b.toNat)
           BitVec.ofNat 64 (f.n + f.popped + f.v))) := by
  rw [exec_tokcntOut]
  refine runOp_regOp h ?_
  rw [(same_past s t 1).cur, fifo_past, fifo_takeTokens_out _ _ _ _ hb]
  refine congrArg (BitVec.ofNat 64) ?_
  dsimp only
  omega

end

/-- Settles O11: the counts that can issue and those that cannot, then what an issue does to one FIFO of each direction. -/
theorem tokenInstructions : Obligations.TokenInstructions := by
  refine ⟨⟨fun _ _ _ _ => exec_tokgive_goes, fun _ _ _ _ => exec_toktake_goes,
    fun _ _ _ _ h hn => ⟨exec_toktake_illegal (countBad_of_large _ _ hn) h, exec_tokgive_illegal (countBad_of_large _ _ hn) h⟩,
    fun _ _ _ _ h => ⟨fun hb => exec_toktake_illegal hb h, fun hb => exec_tokgive_illegal hb h⟩,
    fun t d b s h lo hi => ?_⟩, fun s t len p hp => ?_⟩
  · have hb : b.toNat ∈ [1, 2, 3] := by
      simp only [List.mem_cons, List.not_mem_nil, or_false]
      omega
    exact ⟨exec_tokcntIn_goes h hb, exec_tokcntOut_goes h hb⟩
  · intro a b c d
    simp only [a, b, c, d, fifo_begun, fifo_takeTokens_in _ _ _ _ hp, fifo_takeTokens_out _ _ _ _ hp]
    exact ⟨rfl, rfl, trivial, trivial⟩

end Sys2Proof.Machine
end

section
/-! PROOFS. The landing of results (R96, R129, R413, R414): what one landing writes, and what a step of landings leaves (O46). -/

namespace Sys2Proof.Machine

/-! One landing. -/

/-- A landing takes no result from a list. -/
theorem landValue_lists (k : Core) (r : Result) :
    (landValue k r).inflight = k.inflight ∧ (landValue k r).landing = k.landing := by
  unfold landValue
  dsimp only
  split <;> split <;> simp

/-- The token that a result retires with is no other reader's concern than that of the FIFOs. -/
theorem landOne_reads {α : Type} {f : Core → α} (hf : ∀ k, f (tokenCore k) = f k) (n c : Nat) (s : State) (r : Result) :
    f (co (landOne n c s r) n c) = f (landValue (co s n c) r) := by
  have tokens : tokenCore (co (landOne n c s r) n c) = tokenCore (landValue (co s n c) r) := by
    unfold landOne landRetire
    split
    · split
      · rw [co_later, co_modCo_same]
      · rw [co_modCo_same, co_modCo_same]
        rfl
    · rw [co_modCo_same]
  rw [← hf, tokens, hf]

theorem landOne_lists (n c : Nat) (s : State) (r : Result) :
    (co (landOne n c s r) n c).inflight = (co s n c).inflight ∧ (co (landOne n c s r) n c).landing = (co s n c).landing :=
  ⟨(landOne_reads (f := Core.inflight) (fun _ => rfl) n c s r).trans (landValue_lists ..).1,
    (landOne_reads (f := Core.landing) (fun _ => rfl) n c s r).trans (landValue_lists ..).2⟩

theorem landAll_lists (n c : Nat) (l : List Result) (s : State) :
    (co (l.foldl (landOne n c) s) n c).inflight = (co s n c).inflight
    ∧ (co (l.foldl (landOne n c) s) n c).landing = (co s n c).landing := by
  induction l generalizing s with
  | nil => exact ⟨rfl, rfl⟩
  | cons r l ih => exact ⟨(ih _).1.trans (landOne_lists n c s r).1, (ih _).2.trans (landOne_lists n c s r).2⟩

/-- A result that goes to a register, and to no relay, is that register's value. -/
theorem sq_landOne_sreg {n c : Nat} {s : State} {r : Result} {q : Seq} {d : Reg} (hd : r.dest = .sreg q d)
    (hr : r.relay = none) : sq (landOne n c s r) n c q = regWrite (sq s n c q) d (r.val.setWidth 64) := by
  rw [sq, landOne_reads (f := fun k => seqIn k q) fun _ => rfl, landValue, hd, hr]
  exact seqIn_putSeq_same ..

theorem acc_landOne_row {n c : Nat} {s : State} {r : Result} {i : Nat} (hd : r.dest = .row i) :
    (co (landOne n c s r) n c).acc
      = smSet (co s n c).acc 0 i (mergeRow (smGet (co s n c).acc 0 i) r.val r.en) := by
  rw [landOne_reads (f := Core.acc) fun _ => rfl, landValue, hd]
  dsimp only
  split <;> rfl

theorem masks_landOne_mask {n c : Nat} {s : State} {r : Result} {m : Nat} (hd : r.dest = .mask m) :
    (co (landOne n c s r) n c).masks = smSet (co s n c).masks 0 m (r.val.setWidth 512) := by
  rw [landOne_reads (f := Core.masks) fun _ => rfl, landValue, hd]
  dsimp only
  split <;> rfl

/-! Steps of landings. -/

theorem exec_scalarResultWrite (n c : Nat) (s : State) : exec (.scalarResultWrite n c) s = .next (landInflight s n c false) := rfl
theorem exec_vectorResultLanding (n c : Nat) (s : State) : exec (.vectorResultLanding n c) s = .next (landInflight s n c true) := rfl
theorem exec_landingBufferLand (n c : Nat) (s : State) : exec (.landingBufferLand n c) s = execLandingBufferLand n c s := rfl

/-- The results of a core that are still to come once the due ones of a kind have left. -/
def undue (s : State) (n c : Nat) (vec : Bool) : State :=
  modCo s n c fun k =>
    { k with inflight := k.inflight.filter fun r => !(decide (r.due ≤ coreCyc s n c) && (isVecResult r == vec)) }

theorem sq_undue (s : State) (n c : Nat) (vec : Bool) (q : Seq) : sq (undue s n c vec) n c q = sq s n c q := by
  rw [undue, sq_modCo, if_pos ⟨rfl, rfl⟩]
  exact seqIn_congr rfl rfl rfl q

theorem landInflight_eq (s : State) (n c : Nat) (vec : Bool) :
    landInflight s n c vec = (dueResults s n c vec).foldl (landOne n c) (undue s n c vec) := rfl

theorem mem_inflight_landInflight (s : State) (n c : Nat) (vec : Bool) (r : Result) :
    r ∈ (co (landInflight s n c vec) n c).inflight
      ↔ r ∈ (co s n c).inflight ∧ ¬(r.due ≤ coreCyc s n c ∧ isVecResult r = vec) := by
  rw [landInflight_eq, (landAll_lists ..).1, undue, co_modCo_same]
  simp only [List.mem_filter, Bool.not_eq_true', Bool.and_eq_false_iff, decide_eq_false_iff_not, beq_eq_false_iff_ne, not_and_or]

theorem landInflight_single {s : State} {n c : Nat} {vec : Bool} {r : Result} (h : dueResults s n c vec = [r]) :
    landInflight s n c vec = landOne n c (undue s n c vec) r ∧ isVecResult r = vec := by
  have mem : r ∈ dueResults s n c vec := by rw [h]; exact List.mem_singleton_self r
  refine ⟨by rw [landInflight_eq, h]; rfl, ?_⟩
  simp only [dueResults, List.mem_filter, Bool.and_eq_true, beq_iff_eq] at mem
  exact mem.2.2

/-- A result for a relay is a vector result (R130, R133). -/
theorem relay_of_not_vec {r : Result} (h : isVecResult r = false) : r.relay = none := by
  cases hr : r.relay with
  | none => rfl
  | some slot => simp [isVecResult, hr] at h

/-- The landing buffer but for the entries that are due. -/
def unlanded (s : State) (n c : Nat) : State :=
  modCo s n c fun k => { k with landing := k.landing.filter fun r => !decide (r.due ≤ coreCyc s n c) }

theorem sq_unlanded (s : State) (n c : Nat) (q : Seq) : sq (unlanded s n c) n c q = sq s n c q := by
  rw [unlanded, sq_modCo, if_pos ⟨rfl, rfl⟩]
  exact seqIn_congr rfl rfl rfl q

theorem exec_landingBufferLand_run {s : State} {n c : Nat} (h : (co s n c).mode = .run) :
    exec (.landingBufferLand n c) s
      = .next (later ((dueLanding s n c).foldl (landOne n c) (unlanded s n c)) (.interlock n c)) := by
  rw [exec_landingBufferLand, execLandingBufferLand, if_neg (not_not.mpr h)]
  rfl

/-- Settles O46: the lists by what a landing leaves of them, the destinations by the one landing of a lone result. -/
theorem landings : Obligations.Landings := by
  refine ⟨fun s n c => ⟨_, exec_scalarResultWrite n c s, mem_inflight_landInflight s n c false, fun r q d h hd => ?_⟩,
    fun s n c => ⟨_, exec_vectorResultLanding n c s, mem_inflight_landInflight s n c true, fun r h => ⟨fun i hd => ?_, fun m hd => ?_⟩⟩,
    fun s n c h => ?_, fun s n c h => ⟨_, exec_landingBufferLand_run h, fun r => ?_, ?_, fun r q d h hd hr => ?_⟩,
    fun s n c => ?_⟩
  · obtain ⟨landed, kind⟩ := landInflight_single h
    rw [landed, sq_landOne_sreg hd (relay_of_not_vec kind), sq_undue]
  · rw [(landInflight_single h).1, acc_landOne_row hd, undue, co_modCo_same]
  · rw [(landInflight_single h).1, masks_landOne_mask hd, undue, co_modCo_same]
  · rw [exec_landingBufferLand, execLandingBufferLand, if_pos h]
  · rw [co_later, (landAll_lists ..).2, unlanded, co_modCo_same]
    simp only [List.mem_filter, Bool.not_eq_true', decide_eq_false_iff_not]
  · rw [later_late]
    exact List.mem_append_right _ (List.mem_singleton_self _)
  · rw [sq_later, h, List.foldl_cons, List.foldl_nil, sq_landOne_sreg hd hr, sq_unlanded]
  · rw [applyLate, co_modCo_same]

end Sys2Proof.Machine
end

section
/-! PROOFS. Loads (R212, R213, R216): the address, what a load has found, and what LD and LDQ leave as they issue. -/

namespace Sys2Proof.Machine

open Sys2Proof.Claims

/-! Addresses and values. -/

theorem memAddr_eq (s : State) (a : Reg) (o : BitVec 9) (size : Nat) :
    memAddr s a o size = reg s a + BitVec.ofNat 64 size * o.signExtend 64 := by
  have offset : toWord (sextN o.toNat 9 * size) = BitVec.ofNat 64 size * o.signExtend 64 := by
    have scaled : toWord (sextN o.toNat 9 * size) = toWord (sextN o.toNat 9) * BitVec.ofNat 64 size := BitVec.ofInt_mul ..
    rw [scaled, toWord_sextN _ (by decide), BitVec.ofNat_toNat, BitVec.setWidth_eq, BitVec.mul_comm]
  rw [memAddr, offset]

theorem extend_signed (v : Word) {size : Nat} (h : 0 < size) : extend true size v.toNat = (v.setWidth (8 * size)).signExtend 64 :=
  sextW_eq v (by omega)

theorem extend_unsigned (v : Word) (size : Nat) : extend false size v.toNat = (v.setWidth (8 * size)).setWidth 64 :=
  zextW_eq v (8 * size)

/-! What a load has found at issue. -/

theorem accessPre_va {s s' : State} {va : Word} {size align : Nat} {need : Need} {write : Bool} {x : Access}
    (h : accessPre s va size align need write = .go x s') : x.va = va := by
  unfold accessPre at h
  dsimp only at h
  split at h
  · cases h
  · split at h
    · cases h
    · cases h
    · split at h
      · cases h
      · split at h
        · cases h
        · split at h
          · cases h
          · split at h
            · cases h
            · cases h
            · cases h
              rfl

theorem loadFound_va {s s' : State} {va : Word} {size : Nat} {x : Found} (h : loadFound s va size = .go x s') : x.x.va = va := by
  unfold loadFound at h
  split at h
  · cases h
  · cases h
  · next y s1 hy =>
    have there := accessPre_va hy
    dsimp only at h
    split at h
    · cases h
    · split at h
      · cases h
        exact there
      · split at h
        · cases h
          exact there
        · cases h
          exact there

/-- A load that goes on has found what its local read gave. -/
theorem loadPre_go {s s' : State} {va : Word} {size : Nat} {x : Found} (h : loadPre s va size = .go x s') :
    loadFound s va size = .go x s' := by
  unfold loadPre at h
  split at h
  · next hf =>
    split at h
    · cases h
    · rw [hf, h]
  · exact h

/-! What a window access that sets out leaves of the cores. -/

theorem sendWindow_cores (s : State) (m : Nat) (rl : Bool) (tag off size : Nat) (op : WinOp) (data : BitVec 1024) (p : Bool) :
    Keeps (coresVia accessCore) s (sendWindow s m rl tag off size op data p) := by
  unfold sendWindow
  dsimp only
  split
  · exact .schedule ..
  · split
    · exact ((performWindow_keeps ..).comp Prod.snd).trans (.schedule ..)
    · exact (netSend_keeps (fun _ => rfl) ..).trans (.schedule ..)

theorem Keeps.coreSeq {s t : State} (h : Keeps (coresVia accessCore) s t) : cs t = cs s :=
  Keeps.sameSeq (h.comp fun r c => seqCore (r c))

theorem cs_newTag (s : State) : cs (newTag s).2 = cs s := cs_modCc_of s fun _ => rfl

/-! LD (R213). -/

section
variable {t : Tok} {d a : Reg} {o : BitVec 9} {size : Nat} {signed : Bool}

/-- LD as it issues: its sequencer holds for the data, where the issue has left it. -/
theorem loadOp_eff (x : Found) (pc : BitVec 28) (p : State) (y : State)
    (hy : y = (loadOp t d a o size signed).eff (x, pc) p) :
    (cs y).hold = .load (pendLoad p (newTag p).1 x.x size signed (some d) none x.v t pc) ∧ (cs y).pc = (cs p).pc := by
  have sent : Keeps (coresVia accessCore)
      (modCs (newTag p).2 fun k =>
        { k with hold := .load (pendLoad p (newTag p).1 x.x size signed (some d) none x.v t pc) }) y := by
    rw [hy]
    unfold loadOp
    dsimp only
    split
    · exact sendWindow_cores ..
    · exact .schedule ..
  rw [sent.coreSeq, cs_modCs, cs_newTag]
  exact ⟨rfl, rfl⟩

/-- The outcomes of a row of the loads. -/
theorem load_outcomes {i : Tok → Reg → Reg → BitVec 9 → Instr}
    (hi : ∀ t d a o s, exec (i t d a o) s = runOp (loadOp t d a o size signed) s)
    (t : Tok) (d a : Reg) (o : BitVec 9) (s : State) (h : CanIssue s t [.ctrl, .load, .store] [a] 0) :
    (∀ k s', loadPre s (memAddr s a o size) size = .fault k s' →
      exec (i t d a o) s = .next (takeTrap s' s.cur.node s.cur.core k))
    ∧ (∀ s', loadPre s (memAddr s a o size) size = .hold s' → exec (i t d a o) s = .next (setBlocked s))
    ∧ ∀ x s', loadPre s (memAddr s a o size) size = .go x s' →
      ∃ y p, exec (i t d a o) s = .next y ∧ (cs y).hold = .load p ∧ (cs y).pc = (cs (begun s' t 1)).pc
        ∧ p.va = memAddr s a o size ∧ p.size = size ∧ p.signed = signed ∧ p.reg = some d
        ∧ p.data = x.v.map (BitVec.ofNat 64) := by
  have decoded : decodeFault (loadOp t d a o size signed) s = none := decodeFault_none rfl (.inl rfl) h.taken rfl
  rw [hi]
  refine ⟨fun k s' hp => ?_, fun s' hp => ?_, fun x s' hp => ?_⟩
  · exact runOp_fault_of_canIssue h decoded (by simp only [loadOp, hp])
  · exact runOp_hold_of_canIssue (s' := s') h decoded (by simp only [loadOp, hp])
  · have goes := runOp_of_canIssue (x := (x, (cs s').pc)) (s' := s') h decoded (by simp only [loadOp, hp]) rfl
    obtain ⟨hold, pc⟩ := loadOp_eff (t := t) (d := d) (a := a) (o := o) (size := size) (signed := signed) x (cs s').pc
      (begun s' t 1) _ rfl
    exact ⟨_, _, goes, hold, pc, loadFound_va (loadPre_go hp), rfl, rfl, rfl, rfl⟩

end

/-! LDQ (R216). -/

@[simp] theorem cc_newTag (s : State) : cc (newTag s).2 = { cc s with nextTag := (cc s).nextTag + 1 } := cc_modCc ..

@[simp] theorem cc_queueReserve_loads (s : State) (q : Nat) : (cc (queueReserve s q).2).loads = (cc s).loads := by
  rw [queueReserve, cc_modCc, putQueue]

@[simp] theorem cs_queueReserve (s : State) (q : Nat) : cs (queueReserve s q).2 = cs s := cs_modCc_of s fun _ => rfl

/-- A load more is outstanding. -/
def addLoad (s : State) (p : PendAcc) : State := modCc s fun k => { k with loads := k.loads ++ [p] }

@[simp] theorem cc_addLoad (s : State) (p : PendAcc) : cc (addLoad s p) = { cc s with loads := (cc s).loads ++ [p] } := cc_modCc ..
@[simp] theorem cs_addLoad (s : State) (p : PendAcc) : cs (addLoad s p) = cs s := cs_modCc_of s fun _ => rfl

section
variable {t : Tok} {d : BitVec 5} {a : Reg} {o : BitVec 9} {size : Nat} {signed : Bool}

/-- What LDQ has outstanding: the slot it reserves, with its bytes or the poison that it has found. -/
def queuedLoad (t : Tok) (d : BitVec 5) (size : Nat) (signed : Bool) (x : Found) (p : State) : PendAcc :=
  let l := pendLoad p (newTag p).1 x.x size signed none (some (d.toNat, (queueReserve (newTag p).2 d.toNat).1)) x.v t (cs p).pc
  if x.bad then { l with data := some 0, code := codePoison } else l

/-- LDQ as it issues: its slot is reserved, its load outstanding, and its sequencer goes on. -/
theorem loadQueueOp_eff (x : Found) (p : State) (y : State) (hy : y = (loadQueueOp t d a o size signed).eff x p) :
    (cc y).loads = (cc p).loads ++ [queuedLoad t d size signed x p]
    ∧ (queueOf (cc y) d.toNat).entries = (queueOf (cc p) d.toNat).entries ++ [.reserved]
    ∧ cs y = cs p := by
  have sent : Keeps (coresVia accessCore) (addLoad (queueReserve (newTag p).2 d.toNat).2 (queuedLoad t d size signed x p)) y := by
    rw [hy]
    unfold loadQueueOp
    dsimp only
    split
    · exact sendWindow_cores ..
    · exact .schedule ..
  have core := Keeps.readCore (g := accessCore) sent
  have loads := congrArg Core.loads core
  have entries := congrArg (fun k => (queueOf k d.toNat).entries) core
  refine ⟨loads.trans ?_, entries.trans ?_, ?_⟩
  · simp only [accessCore, cc_addLoad, cc_queueReserve_loads, cc_newTag]
  · have reserved := congrArg QReg.entries (queueOf_queueReserve (newTag p).2 d.toNat)
    rw [cc_newTag] at reserved
    exact (congrArg (fun k => (queueOf k d.toNat).entries) (cc_addLoad ..)).trans reserved
  · rw [sent.coreSeq, cs_addLoad, cs_queueReserve, cs_newTag]

theorem queuedLoad_queue (x : Found) (p : State) :
    (queuedLoad t d size signed x p).queue
      = some (d.toNat, (queueOf (cc p) d.toNat).base + (queueOf (cc p) d.toNat).entries.length) := by
  have slot : (queueReserve (newTag p).2 d.toNat).1
      = (queueOf (cc p) d.toNat).base + (queueOf (cc p) d.toNat).entries.length := by
    rw [queueReserve, cc_newTag]
    rfl
  rw [← slot]
  unfold queuedLoad
  dsimp only
  split <;> rfl

/-- The bytes that a queued load is to extend, and where they come from. -/
theorem queuedLoad_access (x : Found) (p : State) :
    (queuedLoad t d size signed x p).va = x.x.va ∧ (queuedLoad t d size signed x p).size = size
      ∧ (queuedLoad t d size signed x p).signed = signed ∧ (queuedLoad t d size signed x p).reg = none := by
  unfold queuedLoad
  dsimp only
  split <;> exact ⟨rfl, rfl, rfl, rfl⟩

theorem queuedLoad_clean {x : Found} (h : x.bad = false) (p : State) :
    (queuedLoad t d size signed x p).code = 0 ∧ (queuedLoad t d size signed x p).data = x.v.map (BitVec.ofNat 64) := by
  simp only [queuedLoad, h]
  exact ⟨rfl, rfl⟩

theorem queuedLoad_poison {x : Found} (h : x.bad = true) (p : State) : (queuedLoad t d size signed x p).code = codePoison := by
  simp only [queuedLoad, h, if_true]

/-- The outcomes of a row of the LDQ forms. -/
theorem ldq_outcomes {i : Tok → BitVec 5 → Reg → BitVec 9 → Instr}
    (hi : ∀ t d a o s, exec (i t d a o) s = runOp (loadQueueOp t d a o size signed) s)
    (t : Tok) (d : BitVec 5) (a : Reg) (o : BitVec 9) (s : State) :
    (mayIssue s = true → qProducer d.toNat ≠ s.cur.seq →
      exec (i t d a o) s = .next (takeTrap s s.cur.node s.cur.core (causeHere s 0x01)))
    ∧ (CanIssue s t [.ctrl, .load] [a] 0 → qProducer d.toNat = s.cur.seq → queueRoom s d.toNat = true →
      ((cc s).loads.filter fun p => match p.queue with | some (j, _) => qProducer j == s.cur.seq | none => false).length < 32 →
      (∀ k s', loadFound s (memAddr s a o size) size = .fault k s' →
        exec (i t d a o) s = .next (takeTrap s' s.cur.node s.cur.core k))
      ∧ ∀ x s', loadFound s (memAddr s a o size) size = .go x s' →
      ∃ y p l, exec (i t d a o) s = .next y ∧ (cc y).loads = l ++ [p] ∧ p.va = memAddr s a o size
        ∧ p.size = size ∧ p.signed = signed ∧ p.reg = none
        ∧ (x.bad = false → p.code = 0 ∧ p.data = x.v.map (BitVec.ofNat 64)) ∧ (x.bad = true → p.code = 0x07)
        ∧ p.queue = some (d.toNat, (queueOf (cc s') d.toNat).base + (queueOf (cc s') d.toNat).entries.length)
        ∧ (queueOf (cc y) d.toNat).entries = (queueOf (cc s') d.toNat).entries ++ [.reserved]
        ∧ (cs y).pc = (cs (begun s' t 1)).pc ∧ (cs y).hold = (cs s').hold) := by
  rw [hi]
  refine ⟨fun hm hq => runOp_decode _ s hm (decodeFault_illegal (bne_iff_ne.mpr hq)), fun h hq hr hl => ?_⟩
  have decoded : decodeFault (loadQueueOp t d a o size signed) s = none :=
    decodeFault_none (bne_eq_false_iff_eq.mpr hq) (.inl rfl) h.taken rfl
  have room : (loadQueueOp t d a o size signed).room s = true := Bool.and_eq_true_iff.mpr ⟨hr, decide_eq_true hl⟩
  refine ⟨fun k s' => runOp_fault_of_canIssue h decoded, fun x s' hp => ?_⟩
  have goes := runOp_of_canIssue h decoded hp room
  have issued := IssueFrame.begun s' t 1
  obtain ⟨loads, entries, seq⟩ :=
    loadQueueOp_eff (t := t) (d := d) (a := a) (o := o) (size := size) (signed := signed) x (begun s' t 1) _ rfl
  obtain ⟨va, hsize, hsigned, hreg⟩ := queuedLoad_access (t := t) (d := d) (size := size) (signed := signed) x (begun s' t 1)
  refine ⟨_, _, _, goes, loads, va.trans (loadFound_va hp), hsize, hsigned, hreg, (queuedLoad_clean · _),
    (queuedLoad_poison · _), ?_, ?_, congrArg Sequencer.pc seq, (congrArg Sequencer.hold seq).trans (issued.seq Sequencer.hold)⟩
  · rw [queuedLoad_queue, issued.queueOf]
  · exact entries.trans (by rw [issued.queueOf])

end

/-! CBLD (R99). -/

theorem exec_cbld (t : Tok) (a : BitVec 5) (n : BitVec 4) (e : BitVec 8) (s : State) : exec (.cbld t a n e) s = execCbld t a n e s := rfl

theorem cbld_outcomes {t : Tok} {a : Reg} {n : BitVec 4} {e : BitVec 8} {s : State} (h : CanIssue s t allSeqs [a] 0) :
    (∀ u s', cbldFrom (reg s a) e.toNat (n.toNat + 1) s = .go u s' → exec (.cbld t a n e) s = .next (past s' t 1))
    ∧ (∀ k s', cbldFrom (reg s a) e.toNat (n.toNat + 1) s = .fault k s' →
        exec (.cbld t a n e) s = .next (takeTrap s' s.cur.node s.cur.core k))
    ∧ ∀ s', cbldFrom (reg s a) e.toNat (n.toNat + 1) s = .hold s' → exec (.cbld t a n e) s = .next (setBlocked s) := by
  rw [exec_cbld]
  refine ⟨fun u s' hp => ?_, fun k s' hp => ?_, fun s' hp => ?_⟩
  · exact runOp_of_canIssue h (decodeFault_none rfl (.inl rfl) (mem_allSeqs _) rfl) hp rfl
  · exact runOp_fault_of_canIssue h (decodeFault_none rfl (.inl rfl) (mem_allSeqs _) rfl) hp
  · exact runOp_hold_of_canIssue (s' := s') h (decodeFault_none rfl (.inl rfl) (mem_allSeqs _) rfl) hp

/-- The bank of the moving sequencer with one more entry loaded. -/
def bankPut (s : State) (entry : Nat) (v : Word) : State :=
  modCs s fun k => { k with bank := smPut k.bank (entry % 256) v }

theorem windowNow_keeps (s : State) (r : WinReq) : Keeps accessView s (windowNow s r).1 := by
  unfold windowNow
  split
  · exact .refl s
  · exact performWindow_keeps ..

/-- A constant that goes on enters the bank: what its checks let through, read at once. -/
theorem cbldOne_go {s s' : State} {entry : Nat} {i : Word} {u : Unit} (h : cbldOne s entry i = .go u s') :
    ∃ t s1 s2 v, chk s s.cur.node s.cur.core (constAddr s i) 8 .r = .ok t s1 ∧ Keeps accessView s s2 ∧ s' = bankPut s2 entry v
      ∧ ((∀ m rl off, t ≠ .remote m rl off) →
          v = BitVec.ofNat 64 (readT s1 s.cur.node s.cur.core (some (classOf (cc s))) t 8).v) := by
  have checked := chk_keeps s s.cur.node s.cur.core (constAddr s i) 8 .r
  unfold cbldOne at h
  dsimp only at h
  split at h
  · cases h
  split at h
  · cases h
  split at h
  · cases h
  · cases h
  next t s1 hc =>
  have there := checked.ok hc
  split at h
  · cases h
  split at h
  · split at h
    · cases h
    split at h
    · cases h
    cases h
    exact ⟨_, _, _, _, hc, there.trans (windowNow_keeps ..), rfl, fun near => absurd rfl (near _ _ _)⟩
  · split at h
    · cases h
    cases h
    exact ⟨_, _, _, _, hc, there.trans (readT_keeps ..), rfl, fun _ => rfl⟩

theorem bankPut_bank {s s2 : State} (h : Keeps accessView s s2) (entry : Nat) (v : Word) :
    (cs (bankPut s2 entry v)).bank = smPut (cs s).bank (entry % 256) v := by
  rw [bankPut, cs_modCs, h.accessSeq]

/-- Settles O13: each row by its operation, the extensions and addresses as words, and the constants one after the other. -/
theorem loads : Obligations.Loads := by
  refine ⟨⟨List.forall_iff_forall_mem.mp ?_, fun v => ?_⟩, ?_, List.forall_iff_forall_mem.mp ?_, fun t a n e s => cbld_outcomes,
    fun s e i h => if_pos h, fun s e i u s' h => ?_, fun k i e s => ⟨fun u s' h => ?_, fun c s' h => ?_⟩⟩
  · exact ⟨load_outcomes fun _ _ _ _ _ => rfl, load_outcomes fun _ _ _ _ _ => rfl, load_outcomes fun _ _ _ _ _ => rfl,
      load_outcomes fun _ _ _ _ _ => rfl, load_outcomes fun _ _ _ _ _ => rfl, load_outcomes fun _ _ _ _ _ => rfl,
      load_outcomes fun _ _ _ _ _ => rfl⟩
  · exact ⟨extend_signed v (by decide), extend_unsigned v 1, extend_signed v (by decide), extend_unsigned v 2,
      extend_signed v (by decide), extend_unsigned v 4, (extend_unsigned v 8).trans (by simp)⟩
  · refine ⟨fun s a o => ?_, (memAddr_eq · · · 2), (memAddr_eq · · · 4), (memAddr_eq · · · 8), fun s a o => ?_⟩
    · rw [memAddr_eq, BitVec.one_mul]
    · exact congrArg (· &&& ~~~127) (memAddr_eq s a o 128)
  · exact ⟨ldq_outcomes fun _ _ _ _ _ => rfl, ldq_outcomes fun _ _ _ _ _ => rfl, ldq_outcomes fun _ _ _ _ _ => rfl,
      ldq_outcomes fun _ _ _ _ _ => rfl, ldq_outcomes fun _ _ _ _ _ => rfl, ldq_outcomes fun _ _ _ _ _ => rfl,
      ldq_outcomes fun _ _ _ _ _ => rfl⟩
  · obtain ⟨t, s1, s2, v, checked, kept, rfl, value⟩ := cbldOne_go h
    rw [bankPut_bank kept]
    refine ⟨fun j hj => smGet_smPut_ne _ _ _ hj, fun t' s1' hc near => ?_⟩
    obtain ⟨rfl, rfl⟩ := Chk.ok.inj (checked.symm.trans hc)
    rw [smGet_smPut_same, value near]
  · rw [cbldFrom, h]
  · rw [cbldFrom, h]

end Sys2Proof.Machine
end

section
/-! PROOFS. A vector instruction alone in its bundle (R65, R95, R127, R145): what its issue takes, its outcomes, and what
its own checks give (R132, R134, R147). -/

namespace Sys2Proof.Machine

open Sys2Proof.Claims

/-! What the issue takes. -/

theorem imageOf_tokens (k l : Core) (h : tokenCore k = tokenCore l) : imageOf k = imageOf l := (congrArg imageOf h :)

/-- Tokens do not tell where control goes on. -/
theorem continuation_takeTokens (s : State) (t : Tok) (a b : List (Nat × Nat)) (k : Sequencer) (len : Nat) :
    continuation (takeTokens s t a b) k len = continuation s k len := by
  have image : imageOf (cc (takeTokens s t a b)) = imageOf (cc s) :=
    Keeps.readCore (takeTokens_keeps (seesCores_via imageOf_tokens) ..)
  rw [continuation, image, continuation]

theorem bundlePops_single (u : VUnit) : bundlePops [u] = popCountOf u.f.tk [] := funext fun _ => Nat.zero_add _
theorem bundlePushes_single (u : VUnit) : bundlePushes [u] = pushCountOf u.f.tk [] := funext fun _ => Nat.zero_add _

/-- A bundle of one instruction takes what an instruction without a bundle takes. -/
theorem takeBundle_single (u : VUnit) (s : State) : takeBundle [u] s = begunV s u.f := by
  have taken : takeBundle [u] s = modCs (takeTokens s u.f.tk [] []) fun k =>
      let c := continuation (takeTokens s u.f.tk [] []) k (0 + unitLen u)
      { k with pc := c.pc, past := c.past, span := if c.quiet then 0 else k.span + 1, quiet := c.quiet, issued := k.issued + 1,
               status := .running } := by
    rw [takeBundle, bundlePops_single, bundlePushes_single]
    rfl
  rw [taken]
  simp only [continuation_takeTokens, Nat.zero_add]
  rfl

/-! What stands in the way. -/

theorem inflightRoom_mono {s : State} {a b : Nat} (hab : a ≤ b) (h : inflightRoom s b = true) : inflightRoom s a = true := by
  simp only [inflightRoom, decide_eq_true_eq] at h ⊢
  omega

/-- A row that the B operand names is one of the instruction's rows, if its function reads B. -/
theorem rowHeld_of_interlocked {k : Core} {u : VUnit} {v : BitVec 7} (hb : u.f.b = .vec v) (hv : v.toNat < 64)
    (hr : u.shape.b ≠ .none ∧ u.shape.b ≠ .quarter) (h : interlocked k u = false) : rowHeld k (rowOf k v.toNat) = false := by
  have mem : rowOf k v.toNat ∈ unitRows k u := by simp [unitRows, hb, hv, hr.1, hr.2]
  simpa using List.any_eq_false.mp h _ mem

/-- Where no row of an instruction is interlocked, its index row is not (R132). -/
theorem indexHeld_of_interlocked {k : Core} {u : VUnit} (hr : u.shape.b ≠ .none ∧ u.shape.b ≠ .quarter)
    (h : interlocked k u = false) : indexHeld k u = false := by
  unfold indexHeld
  split
  · next v _ hb =>
    by_cases hv : v.toNat < 64 <;> simp [hv, rowHeld_of_interlocked hb, hr, h]
  · next v _ hb =>
    by_cases hv : v.toNat < 64 <;> simp [hv, rowHeld_of_interlocked hb, hr, h]
  · rfl

/-! The outcomes. -/

/-- What an instruction alone in its bundle answers for what its own checks have given. -/
def loneOutcome (s : State) (f : FV) : VPre → Out
  | .go p s' => .next (unitEffect (begunV s' f) 0 p)
  | .hold _ => .next (setBlocked s)
  | .fault k s' => .next (takeTrap s' s.cur.node s.cur.core k)

/-- An instruction alone in its bundle that may issue answers what its own checks decide (R95, R145). -/
theorem runBundle_single {s : State} {u : VUnit} (h : CanIssueV s u.f u.shape) :
    runBundle [u] s = loneOutcome s u.f (unitPre u s) := by
  obtain ⟨issue, rows⟩ := h
  have exec : (s.cur.seq != .exec) = false := bne_eq_false_iff_eq.mpr (List.mem_singleton.mp issue.taken)
  have rows : interlocked (cc s) u = false := rows
  have pops := issue.pops
  have room := issue.room
  have ready : srcsReady s (unitSrcs u) = true := issue.ready
  unfold tokensThere at pops
  unfold tokensRoom at room
  rw [runBundle, issueBundle]
  simp only [issue.runs, exec, issue.span, bundlePops_single, bundlePushes_single, List.flatMap_singleton, pops, ready, room,
    rows, List.any_cons, List.any_nil, Bool.not_true, Bool.or_self, Bool.false_eq_true, if_false, Bool.true_and]
  cases hp : unitPre u s with
  | go p s' =>
    have fits : inflightRoom s ([p].filter unitFlies).length = true :=
      inflightRoom_mono (List.length_filter_le ..) issue.slots
    simp only [bundlePre, hp, fits, if_true, takeBundle_single]
    rfl
  | hold s' =>
    simp only [bundlePre, hp]
    rfl
  | fault k s' =>
    simp only [bundlePre, hp]
    rfl

/-- Whatever the state, an instruction alone in its bundle waits, takes a trap, or goes on as its own checks say. -/
theorem issueBundle_single_cases {s : State} {u : VUnit} {i : Issue} (h : issueBundle [u] s = i) :
    i = .blocked s ∨ (∃ k s', i = .trap k s')
    ∨ ∃ p s', unitPre u s = .go p s' ∧ i = .issued (unitEffect (begunV s' u.f) 0 p) := by
  unfold issueBundle at h
  split at h
  · exact .inl h.symm
  split at h
  · exact .inr (.inl ⟨_, _, h.symm⟩)
  split at h
  · exact .inr (.inl ⟨_, _, h.symm⟩)
  split at h
  · exact .inl h.symm
  cases hp : unitPre u s with
  | go p s' =>
    simp only [bundlePre, hp, takeBundle_single] at h
    split at h
    · exact .inl h.symm
    split at h
    · exact .inr (.inr ⟨p, s', rfl, h.symm⟩)
    · exact .inl h.symm
  | hold s' =>
    simp only [bundlePre, hp] at h
    exact .inl h.symm
  | fault k s' =>
    simp only [bundlePre, hp] at h
    exact .inr (.inl ⟨_, _, h.symm⟩)

/-- Where it answers a state without a trap, it has waited or gone on. -/
theorem runBundle_single_of_no_trap {s y : State} {u : VUnit} (h : runBundle [u] s = .next y) (ht : y.trap = none) :
    y = setBlocked s ∨ ∃ p s', unitPre u s = .go p s' ∧ y = unitEffect (begunV s' u.f) 0 p := by
  unfold runBundle at h
  rcases issueBundle_single_cases (s := s) (u := u) rfl with hi | ⟨k, s', hi⟩ | ⟨p, s', hp, hi⟩ <;> rw [hi] at h <;> cases h
  · exact .inl rfl
  · rw [takeTrap_trap] at ht
    cases ht
  · exact .inr ⟨p, s', hp, rfl⟩

/-! An instruction's own checks. -/

section
variable {f : FV} {sh : VShape} {lat : Nat → Nat} {g : VCtx → VVal} {s : State}

/-- A function of lanes whose type fits goes on with its value; only VSETT has a value to check (R134, R147). -/
theorem unitPre_calc (ht : typeFits (ctxOf s f) sh = true) (hg : ∀ w, g (ctxOf s f) ≠ .sett w) :
    unitPre ⟨f, sh, .calc lat g⟩ s
      = .go ⟨⟨f, sh, .calc lat g⟩, ctxOf s f, g (ctxOf s f), [], lat (ctxOf s f).t⟩ s := by
  have fits : typeFits (vctx s ⟨f, sh, .calc lat g⟩) sh = true := ht
  simp only [unitPre, fits, indexHeld, Bool.not_true, Bool.false_eq_true, if_false]
  split
  · next w hw => exact absurd hw (hg w)
  · rfl

theorem unitPre_sett {w : Word} (ht : typeFits (ctxOf s f) sh = true) (hg : g (ctxOf s f) = .sett w) :
    unitPre ⟨f, sh, .calc lat g⟩ s
      = if vtypeOk w then .go ⟨⟨f, sh, .calc lat g⟩, ctxOf s f, .sett w, [], 1⟩ s else .fault (causeHere s codeIllegal) s := by
  have fits : typeFits (vctx s ⟨f, sh, .calc lat g⟩) sh = true := ht
  have value : g (vctx s ⟨f, sh, .calc lat g⟩) = .sett w := hg
  simp only [unitPre, fits, indexHeld, value, Bool.not_true, Bool.false_eq_true, if_false]
  rfl

/-- A function of lanes that goes on does so with its value, on the state as it stands. -/
theorem unitPre_calc_go {p : VPlan} {s' : State} (h : unitPre ⟨f, sh, .calc lat g⟩ s = .go p s') :
    s' = s ∧ p.val = g (ctxOf s f) := by
  by_cases ht : typeFits (ctxOf s f) sh = true
  · by_cases hg : ∃ w, g (ctxOf s f) = .sett w
    · obtain ⟨w, hw⟩ := hg
      rw [unitPre_sett ht hw] at h
      split at h
      · cases h
        exact ⟨rfl, hw.symm⟩
      · cases h
    · rw [unitPre_calc ht fun w hw => hg ⟨w, hw⟩] at h
      cases h
      exact ⟨rfl, rfl⟩
  · have unfit : typeFits (vctx s ⟨f, sh, .calc lat g⟩) sh = false := Bool.eq_false_iff.mpr ht
    simp only [unitPre, unfit, Bool.not_false, if_true] at h
    cases h

/-- A vector access whose type fits and whose rows are free is checked lane by lane (R132, R145). -/
theorem unitPre_load {m : VMode} (ht : typeFits (ctxOf s f) sh = true) (hr : sh.b ≠ .none ∧ sh.b ≠ .quarter)
    (hi : CanIssueV s f sh) : unitPre ⟨f, sh, .load m⟩ s = memPre ⟨f, sh, .load m⟩ (ctxOf s f) m false s := by
  have fits : typeFits (vctx s ⟨f, sh, .load m⟩) sh = true := ht
  have free : indexHeld (cc s) ⟨f, sh, .load m⟩ = false := indexHeld_of_interlocked hr hi.rows
  simp only [unitPre, fits, free, Bool.not_true, Bool.false_eq_true, if_false]
  rfl

theorem unitPre_store {m : VMode} (ht : typeFits (ctxOf s f) sh = true) (hr : sh.b ≠ .none ∧ sh.b ≠ .quarter)
    (hi : CanIssueV s f sh) : unitPre ⟨f, sh, .store m⟩ s = memPre ⟨f, sh, .store m⟩ (ctxOf s f) m true s := by
  have fits : typeFits (vctx s ⟨f, sh, .store m⟩) sh = true := ht
  have free : indexHeld (cc s) ⟨f, sh, .store m⟩ = false := indexHeld_of_interlocked hr hi.rows
  simp only [unitPre, fits, free, Bool.not_true, Bool.false_eq_true, if_false]
  rfl

end

/-- An issue leaves the moving agent. -/
theorem begunV_cur (s : State) (f : FV) : (begunV s f).cur = s.cur := (same_begun ..).cur

end Sys2Proof.Machine
end

section
/-! PROOFS. What a vector function leaves unchanged until its result lands (R122, R127). -/

namespace Sys2Proof.Machine

open Sys2Proof.Claims

theorem IssueFrame.fly (s : State) (lat : Nat) (dest : Dest) (val : Row) (en : Mask) (relay tok : Option Nat) (sig : BitVec 16)
    (vmem : Bool) : IssueFrame s (fly s lat dest val en relay tok sig vmem) := by
  unfold Machine.fly
  refine .modCc s _ ?_ ?_ ?_ <;> exact fun _ => rfl

theorem same_fly (s : State) (lat : Nat) (dest : Dest) (val : Row) (en : Mask) (relay tok : Option Nat) (sig : BitVec 16)
    (vmem : Bool) : SameOperands s (fly s lat dest val en relay tok sig vmem) := by
  unfold fly
  refine same_modCc s _ ?_ ?_ ?_ <;> exact fun _ => rfl

theorem IssueFrame.unitEffect {p : VPlan} (hp : p.val ≠ .none) (s : State) (slot : Nat) : IssueFrame s (unitEffect s slot p) := by
  unfold Machine.unitEffect
  dsimp only
  split
  · exact .fly ..
  · exact .fly ..
  · refine .trans (.modCc s _ ?_ ?_ ?_) (.fly ..) <;> exact fun _ => rfl
  · exact .trans (.later ..) (.retirePushes ..)
  · next none => exact absurd none hp

theorem same_unitEffect {p : VPlan} (hp : p.val ≠ .none) (s : State) (slot : Nat) : SameOperands s (unitEffect s slot p) := by
  unfold unitEffect
  dsimp only
  split
  · exact same_fly ..
  · exact same_fly ..
  · refine .trans (same_modCc s _ ?_ ?_ ?_) (same_fly ..) <;> exact fun _ => rfl
  · exact .trans (same_later ..) (same_retirePushes ..)
  · next none => exact absurd none hp

/-- A vector function that computes a value from its operands, and hands nothing to memory. -/
def ComputesLanes (e : FV → Instr) : Prop :=
  ∃ sh lat g, (∀ x, g x ≠ .none) ∧ ∀ f s, exec (e f) s = runBundle [⟨f, sh, .calc lat g⟩] s

theorem ComputesLanes.of {e : FV → Instr} {sh : VShape} {lat : Nat → Nat} {g : VCtx → VVal}
    (run : ∀ f s, exec (e f) s = runBundle [⟨f, sh, .calc lat g⟩] s) (gives : ∀ x, g x ≠ .none) : ComputesLanes e :=
  ⟨sh, lat, g, gives, run⟩

theorem ComputesLanes.frame {e : FV → Instr} (he : ComputesLanes e) (f : FV) (s y : State) (h : exec (e f) s = .next y)
    (ht : y.trap = none) : OnlySeq s y ∧ ∀ r, reg y r = reg s r := by
  obtain ⟨sh, lat, g, gives, run⟩ := he
  rcases runBundle_single_of_no_trap ((run f s).symm.trans h) ht with rfl | ⟨p, s', hp, rfl⟩
  · exact ⟨(IssueFrame.setBlocked s).toOnlySeq, (same_setBlocked s).reg⟩
  · obtain ⟨rfl, val⟩ := unitPre_calc_go hp
    have landing : p.val ≠ .none := val ▸ gives _
    exact ⟨((IssueFrame.begun ..).trans (.unitEffect landing ..)).toOnlySeq,
      ((same_begun ..).trans (same_unitEffect landing ..)).reg⟩

theorem convertRow_gives (x : VCtx) : convertRow x ≠ .none := by
  unfold convertRow
  dsimp only
  split
  · exact VVal.noConfusion
  · split <;> exact VVal.noConfusion

/-- Settles O28: each function computes a value that stays in flight, or a VTYPE that the next cc sees. All but VCVT give a
value of one kind whatever they read; VCVT gives a row for each relation of its two widths. -/
theorem vectorFrame : Obligations.VectorFrame := by
  refine List.forall_iff_forall_mem.mp (List.Forall.imp (p := ComputesLanes) (fun e he => he.frame) ?_)
  simp only [List.Forall]
  constructorm* _ ∧ _
  any_goals exact .of (fun _ _ => rfl) fun _ => VVal.noConfusion
  exact .of (fun _ _ => rfl) convertRow_gives

end Sys2Proof.Machine
end

section
/-! PROOFS. The vector functions that give a mask or a scalar, and VSETT (R125, R138, R142, R147). -/

namespace Sys2Proof.Machine

open Sys2Proof.Claims

section
variable {e : FV → Instr} {sh : VShape} {lat : Nat} {g : VCtx → VVal}

/-- A function whose value needs no check answers the state in which that value is on its way. -/
theorem exec_lanes (run : ∀ f s, exec (e f) s = runBundle [vfix f sh lat g] s) {f : FV} {s : State} (h : CanIssueV s f sh)
    (ht : typeFits (ctxOf s f) sh = true) (hg : ∀ w, g (ctxOf s f) ≠ .sett w) :
    exec (e f) s = .next (unitEffect (begunV s f) 0 ⟨vfix f sh lat g, ctxOf s f, g (ctxOf s f), [], lat⟩) := by
  rw [run, runBundle_single (u := vfix f sh lat g) h, vfix, unitPre_calc ht hg]
  rfl

/-- A mask is in flight for a mask register, or for none (R125). -/
theorem mask_outcome (run : ∀ f s, exec (e f) s = runBundle [vfix f sh lat g] s) (gives : ∀ x, ∃ v, g x = .mask v) (f : FV)
    (s : State) (h : CanIssueV s f sh) (ht : typeFits (ctxOf s f) sh = true) :
    ∃ v, g (ctxOf s f) = .mask v
      ∧ exec (e f) s = .next (fly (begunV s f) lat (if f.vd.toNat < 8 then .mask f.vd.toNat else .none) (v.setWidth 4096) 1
          none (pushKey s f.tk) 0 false) := by
  obtain ⟨v, hv⟩ := gives (ctxOf s f)
  refine ⟨v, hv, ?_⟩
  rw [exec_lanes run h ht fun w => by rw [hv]; exact VVal.noConfusion, hv, ← pushKey_congr (begunV_cur s f)]
  rfl

/-- A scalar is in flight for a register of EXEC, from which older results are taken (R96, R142). -/
theorem scalar_outcome (run : ∀ f s, exec (e f) s = runBundle [vfix f sh lat g] s) (gives : ∀ x, ∃ v, g x = .scal v) (f : FV)
    (s : State) (h : CanIssueV s f sh) (ht : typeFits (ctxOf s f) sh = true) :
    let d : Reg := f.vd.setWidth 5
    ∃ v, g (ctxOf s f) = .scal v
      ∧ exec (e f) s = .next (fly (modCc (begunV s f) fun k => supersedeAll k .exec d) lat
          (if d = 0 then .none else .sreg .exec d) (v.setWidth 4096) 1 none (pushKey s f.tk) 0 false) := by
  obtain ⟨v, hv⟩ := gives (ctxOf s f)
  refine ⟨v, hv, ?_⟩
  have seq : (begunV s f).cur.seq = .exec := by
    rw [begunV_cur]
    exact List.mem_singleton.mp h.issue.taken
  rw [exec_lanes run h ht fun w => by rw [hv]; exact VVal.noConfusion, hv, ← pushKey_congr (begunV_cur s f), ← seq]
  rfl

end

/-- VSETT writes what VTYPE keeps of a legal value, from the next cc on, and faults otherwise (R123, R147). -/
theorem vsett_outcome (f : FV) (s : State) (h : CanIssueV s f VShape.sett) (ht : typeFits (ctxOf s f) VShape.sett = true) :
    let v := vopVal (cs s) f.a
    (vtypeOk v = true → exec (.vsett f) s
      = .next (retirePushes (later (begunV s f) (.vtype s.cur.node s.cur.core (v &&& 0x1F07))) f.tk []))
    ∧ (vtypeOk v = false → exec (.vsett f) s = .next (takeTrap s s.cur.node s.cur.core (causeHere s 0x01))) := by
  have run : exec (.vsett f) s = loneOutcome s f (unitPre (unitVsett f) s) := runBundle_single (u := unitVsett f) h
  rw [run, unitVsett, vfix, unitPre_sett ht rfl]
  refine ⟨fun legal => ?_, fun illegal => ?_⟩
  · rw [if_pos (by exact legal), ← begunV_cur s f]
    rfl
  · rw [if_neg (by exact Bool.eq_false_iff.mp illegal)]
    rfl

/-- Settles O25: each function by what it gives, a mask, a scalar or a VTYPE. -/
theorem vectorMasksAndScalars : Obligations.VectorMasksAndScalars := by
  refine ⟨List.forall_iff_forall_mem.mp ?_, List.forall_iff_forall_mem.mp ⟨?_, ?_⟩, vsett_outcome⟩
  · simp only [List.Forall]
    constructorm* _ ∧ _
    all_goals exact mask_outcome (fun _ _ => rfl) fun _ => ⟨_, rfl⟩
  · exact scalar_outcome (fun _ _ => rfl) fun _ => ⟨_, rfl⟩
  · exact scalar_outcome (fun _ _ => rfl) fun _ => ⟨_, rfl⟩

end Sys2Proof.Machine
end

section
/-! PROOFS. Vector loads and stores (R132, R144 to R146): the checks and reads of the lanes leave the moving agent where it is,
and the three outcomes. -/

namespace Sys2Proof.Machine

open Sys2Proof.Claims

/-! What the lanes' checks and reads leave. -/

theorem acquireL1_keeps (s : State) (n c scope : Nat) (all : Bool) : Keeps accessView s (acquireL1 s n c scope all) := by
  unfold acquireL1
  split
  · exact .refl s
  · exact accessView_modCo s n c fun _ => rfl

theorem strongAcquire_keeps (s : State) (t : Target) : Keeps accessView s (strongAcquire s t) := by
  unfold strongAcquire
  split
  · split
    · exact acquireL1_keeps ..
    · exact .refl s
  · exact .refl s

theorem winAcquire_keeps (s : State) (n c m off : Nat) : Keeps accessView s (winAcquire s n c m off) := by
  unfold winAcquire
  split
  · exact acquireL1_keeps ..
  · exact .refl s

theorem laneChecks_keeps {w : Nat} {need : Need} {l : List (Nat × Word)} {s s' : State} {ls : List VLane}
    (h : laneChecks w need l s = (.inr ls, false, s')) : Keeps accessView s s' := by
  induction l generalizing s ls with
  | nil =>
    cases h
    exact .refl _
  | cons x r ih =>
    obtain ⟨i, va⟩ := x
    have checked := chk_keeps s s.cur.node s.cur.core va w need
    unfold laneChecks at h
    split at h
    · cases h
    split at h
    · cases h
    · cases h
    next t s1 hc =>
    split at h
    · next hr =>
      cases h
      exact (checked.ok hc).trans (ih hr)
    · exact (checked.ok hc).trans (ih h)

theorem laneRead_keeps {w v : Nat} {l : VLane} {s s' : State} (h : laneRead w l s = .inr (v, s')) : Keeps accessView s s' := by
  unfold laneRead at h
  dsimp only at h
  split at h
  · split at h
    · cases h
    · split at h
      · cases h
      · cases h
        exact (windowNow_keeps ..).trans (winAcquire_keeps ..)
  · split at h
    · cases h
    · cases h
      exact (strongAcquire_keeps ..).trans (readT_keeps ..)

theorem laneReads_keeps {w : Nat} {ls : List VLane} {seen : List (Nat × Nat)} {s s' : State} {vs : List (Nat × Nat)}
    (h : laneReads w ls seen s = (.inr vs, s')) : Keeps accessView s s' := by
  induction ls generalizing seen s vs with
  | nil =>
    cases h
    exact .refl _
  | cons l r ih =>
    unfold laneReads at h
    dsimp only at h
    split at h
    · cases h
    next v s1 hl =>
    have counted : Keeps accessView s (if seen.contains (targetLine l.t) then
        modNd s1 s.cur.node fun d => { d with poisonZ := (nd s s.cur.node).poisonZ } else s1) := by
      split
      · exact (laneRead_keeps hl).trans (accessView_home _ _ fun _ => rfl)
      · exact laneRead_keeps hl
    split at h
    · next hr =>
      cases h
      exact counted.trans (ih hr)
    · exact counted.trans (ih h)

/-- An access that goes on has left no more than its checks, and a load than its reads (R145). -/
theorem memPre_keeps {u : VUnit} {x : VCtx} {m : VMode} {store : Bool} {s s' : State} {p : VPlan}
    (h : memPre u x m store s = .go p s') : Keeps accessView s s' := by
  unfold memPre at h
  dsimp only at h
  split at h
  · cases h
  · cases h
  next ls s1 hc =>
  have checked := laneChecks_keeps hc
  split at h
  · cases h
  cases store with
  | true =>
    simp only [if_true] at h
    split at h
    · cases h
    split at h
    · cases h
    split at h
    · cases h
    · cases h
    · cases h
      exact checked
  | false =>
    simp only [Bool.false_eq_true, if_false] at h
    split at h
    · cases h
    split at h
    · cases h
    split at h
    · cases h
    · next hr =>
      cases h
      exact checked.trans (laneReads_keeps hr)

/-! The outcomes. -/

section
variable {e : FV → Instr} {sh : VShape} {m : VMode}

/-- A load waits, faults, or puts its row in flight, with no slot of the relay (R144, R145). -/
theorem load_lanes_outcome (run : ∀ f s, exec (e f) s = runBundle [⟨f, sh, .load m⟩] s)
    (hr : sh.b ≠ .none ∧ sh.b ≠ .quarter) (f : FV) (s : State) (h : CanIssueV s f sh) (ht : typeFits (ctxOf s f) sh = true) :
    let u : VUnit := ⟨f, sh, .load m⟩
    (∀ k s', memPre u (ctxOf s f) m false s = .fault k s' → exec (e f) s = .next (takeTrap s' s.cur.node s.cur.core k))
    ∧ (∀ s', memPre u (ctxOf s f) m false s = .hold s' → exec (e f) s = .next (setBlocked s))
    ∧ ∀ v en ls lat s', memPre u (ctxOf s f) m false s = .go ⟨u, ctxOf s f, .row v en, ls, lat⟩ s' →
      exec (e f) s = .next (fly (begunV s' f) lat
        (if f.vd.toNat < 64 then .row (rowOf (cc s) f.vd.toNat) else .none) v en none (pushKey s f.tk) 0 true) := by
  intro u
  have ran : exec (e f) s = loneOutcome s f (memPre u (ctxOf s f) m false s) := by
    rw [run, runBundle_single (u := u) h, unitPre_load ht hr h]
  rw [ran]
  refine ⟨fun k s' hp => ?_, fun s' hp => ?_, fun v en ls lat s' hp => ?_⟩
  · rw [hp, loneOutcome]
  · rw [hp, loneOutcome]
  · have cur : (begunV s' f).cur = s.cur := (begunV_cur s' f).trans (memPre_keeps hp).cur
    rw [hp, ← pushKey_congr cur]
    rfl

/-- A store waits, faults, or hands its lanes over (R144, R145). -/
theorem store_lanes_outcome (run : ∀ f s, exec (e f) s = runBundle [⟨f, sh, .store m⟩] s)
    (hr : sh.b ≠ .none ∧ sh.b ≠ .quarter) (f : FV) (s : State) (h : CanIssueV s f sh) (ht : typeFits (ctxOf s f) sh = true) :
    let u : VUnit := ⟨f, sh, .store m⟩
    (∀ k s', memPre u (ctxOf s f) m true s = .fault k s' → exec (e f) s = .next (takeTrap s' s.cur.node s.cur.core k))
    ∧ (∀ s', memPre u (ctxOf s f) m true s = .hold s' → exec (e f) s = .next (setBlocked s))
    ∧ ∀ ls lat s', memPre u (ctxOf s f) m true s = .go ⟨u, ctxOf s f, .none, ls, lat⟩ s' →
      let data := match f.c with
        | .vec v => rowLanes (ctxOf s f).w (vecRow (cc s) v.toNat)
        | o => List.replicate (ctxOf s f).n (scalarLane (ctxOf s f) (ctxOf s f).t o)
      exec (e f) s = .next (retirePushes (laneWrites (ctxOf s f).w data ls (begunV s' f)) f.tk []) := by
  intro u
  have ran : exec (e f) s = loneOutcome s f (memPre u (ctxOf s f) m true s) := by
    rw [run, runBundle_single (u := u) h, unitPre_store ht hr h]
  rw [ran]
  refine ⟨fun k s' hp => ?_, fun s' hp => ?_, fun ls lat s' hp => ?_⟩
  · rw [hp, loneOutcome]
  · rw [hp, loneOutcome]
  · rw [hp]
    rfl

end

/-- Settles O26: each access by its unit and its mode, whose B operand is one that the interlocks of R132 look at. -/
theorem vectorMemory : Obligations.VectorMemory :=
  ⟨List.forall_iff_forall_mem.mp
    ⟨load_lanes_outcome (fun _ _ => rfl) (by decide), load_lanes_outcome (fun _ _ => rfl) (by decide),
      load_lanes_outcome (fun _ _ => rfl) (by decide)⟩,
   List.forall_iff_forall_mem.mp
    ⟨store_lanes_outcome (fun _ _ => rfl) (by decide), store_lanes_outcome (fun _ _ => rfl) (by decide),
      store_lanes_outcome (fun _ _ => rfl) (by decide)⟩⟩

end Sys2Proof.Machine
end

section
/-! PROOFS. The state after reset (R123, R248, R269, R278, R314, R447). -/

namespace Sys2Proof.Machine

@[simp] theorem nd_reset (n : Nat) : nd State.reset n = Node.reset := rfl
@[simp] theorem co_reset (n c : Nat) : co State.reset n c = {} := rfl
@[simp] theorem qd_reset (n q : Nat) : qd State.reset n q = {} := rfl

/-- No barrier counts participants yet, at whatever level it stands. -/
theorem barOf_reset (n lvl own id : Nat) : barOf State.reset n lvl own id = {} := by
  unfold barOf
  split <;> simp [smGet, Node.reset]

/-- Settles O58: a node, a core and a quad after reset are the defaults of their fields. -/
theorem resetValues : Obligations.ResetValues := by
  intro n c
  refine ⟨rfl, rfl, rfl, rfl, fun i => rfl, fun t w => rfl, fun m => rfl, fun lvl own id => ?_⟩
  rw [barOf_reset]

end Sys2Proof.Machine
end

section
/-! PROOFS. The matrix instructions that act at issue (R151, R179, R180): their outcomes, and the shadow set (O29). -/

namespace Sys2Proof.Machine

open Sys2Proof.Claims

section
variable {f : FE} {srcs : List Reg} {seqs : List Seq} {pre : State → Pre Unit} {act : State → State} {s : State}

/-- An F-E instruction without a result acts on the state that its issue leaves, and then sets its SIGMASK (R60). -/
theorem runOp_feAct_goes (h : CanIssueE s f seqs srcs 0) (hp : pre s = .go () s) :
    runOp (feAct f srcs seqs pre act) s = .next (signal (act (pastE s f)) f.sig) := by
  refine (runOp_of_canIssue h.issue (decodeFault_none rfl (.inr h.task) h.issue.taken rfl) hp rfl).trans ?_
  rw [takeIssue_pastE _ s f rfl rfl rfl rfl rfl rfl]
  rfl

/-- One that refuses its operands takes the fault before anything else of it is done. -/
theorem runOp_feAct_faults {k : Cause} (h : CanIssueE s f seqs srcs 0) (hp : pre s = .fault k s) :
    runOp (feAct f srcs seqs pre act) s = .next (takeTrap s s.cur.node s.cur.core k) :=
  runOp_fault_of_canIssue h.issue (decodeFault_none rfl (.inr h.task) h.issue.taken rfl) hp

end

theorem exec_msetn (f : FE) (s : State) : exec (.msetn f) s = execMsetn f s := rfl
theorem exec_msets (f : FE) (s : State) : exec (.msets f) s = execMsets f s := rfl
theorem exec_mseta (f : FE) (s : State) : exec (.mseta f) s = execMseta f s := rfl
theorem exec_mclrs (f : FE) (s : State) : exec (.mclrs f) s = execMclrs f s := rfl

section
variable {f : FE} {s : State} (h : CanIssueE s f matSeqs [f.a, f.b] 0)
include h

/-- MSETN of a level and a count that fit. -/
theorem exec_msetn_goes (hl : (reg s f.a).toNat ≤ 5) (h1 : 1 ≤ (reg s f.b).toNat) (h2 : (reg s f.b).toNat ≤ 2 ^ 24) :
    exec (.msetn f) s
      = .next (signal (later (pastE s f) (.shTc s.cur.node s.cur.core (reg s f.a).toNat (reg s f.b).toNat)) f.sig) := by
  have same := same_pastE s f
  have nonzero : reg s f.b ≠ 0 := fun zero => by rw [zero] at h1; exact absurd h1 (by decide)
  have fits : ¬(5 < (reg s f.a).toNat ∨ reg s f.b = 0 ∨ 2 ^ 24 < (reg s f.b).toNat) :=
    not_or.mpr ⟨hl.not_gt, not_or.mpr ⟨nonzero, h2.not_gt⟩⟩
  rw [exec_msetn, execMsetn, runOp_feAct_goes h (if_neg fits)]
  simp only [same.reg, same.cur]

theorem exec_msetn_illegal (hn : 5 < (reg s f.a).toNat ∨ reg s f.b = 0 ∨ 2 ^ 24 < (reg s f.b).toNat) :
    exec (.msetn f) s = .next (takeTrap s s.cur.node s.cur.core (causeHere s codeIllegal)) := by
  rw [exec_msetn, execMsetn, runOp_feAct_faults h (if_pos hn)]

/-- MSETS of a descriptor's word. -/
theorem exec_msets_goes (hr : fld (reg s f.a) 63 7 = 0) (hw : fld (reg s f.a) 6 4 ≤ 4) :
    exec (.msets f) s
      = .next (signal (later (pastE s f)
          (.shSd s.cur.node s.cur.core (fld (reg s f.a) 3 0) (fld (reg s f.a) 6 4) (reg s f.b))) f.sig) := by
  have same := same_pastE s f
  have fits : ¬(fld (reg s f.a) 63 7 ≠ 0 ∨ 4 < fld (reg s f.a) 6 4) := not_or.mpr ⟨not_not.mpr hr, hw.not_gt⟩
  rw [exec_msets, execMsets, runOp_feAct_goes h (if_neg fits)]
  simp only [same.reg, same.cur]

theorem exec_msets_illegal (hn : fld (reg s f.a) 63 7 ≠ 0 ∨ 4 < fld (reg s f.a) 6 4) :
    exec (.msets f) s = .next (takeTrap s s.cur.node s.cur.core (causeHere s codeIllegal)) := by
  rw [exec_msets, execMsets, runOp_feAct_faults h (if_pos hn)]

theorem exec_mseta_goes :
    exec (.mseta f) s
      = .next (signal (later (pastE s f) (.shAttr s.cur.node s.cur.core (reg s f.a) (reg s f.b))) f.sig) := by
  have same := same_pastE s f
  rw [exec_mseta, execMseta, runOp_feAct_goes (pre := preOk) h rfl]
  simp only [same.reg, same.cur]

end

theorem exec_mclrs_goes {f : FE} {s : State} (h : CanIssueE s f matSeqs [] 0) :
    exec (.mclrs f) s = .next (signal (later (pastE s f) (.shClr s.cur.node s.cur.core)) f.sig) := by
  rw [exec_mclrs, execMclrs, runOp_feAct_goes (pre := preOk) h rfl, (same_pastE s f).cur]

/-- Settles O29: each instruction by its operation, and what its write does to the shadow set as its cc ends. -/
theorem shadowSet : Obligations.ShadowSet := by
  refine ⟨fun f s h => ⟨exec_msetn_goes h, exec_msetn_illegal h, exec_msets_goes h, exec_msets_illegal h, exec_mseta_goes h⟩,
    fun f s => exec_mclrs_goes, fun s n c l k => ?_, fun s n c a t => ?_, fun s n c => ?_, fun s n c i w v hw => ?_⟩
  · rw [applyLate, co_modCo_same]
  · rw [applyLate, co_modCo_same]
  · rw [applyLate, co_modCo_same]
  · dsimp only
    rw [applyLate, co_modCo_same, smGet_smPut_same]
    interval_cases w <;> rfl

end Sys2Proof.Machine
end

section
/-! PROOFS. The matrix queue (R150, R179 to R186): the instructions that put an entry into it, MWAIT, MSTAT and MABORT (O30). -/

namespace Sys2Proof

/-- Of two writes of one entry the later stands. -/
@[simp] theorem smPut_smPut {α : Type} (m : SMap α) (k : Nat) (v w : α) : smPut (smPut m k v) k w = smPut m k w := by
  induction m with
  | nil => simp [smPut]
  | cons x r ih =>
    obtain ⟨i, u⟩ := x
    by_cases below : k < i
    · simp [smPut, below]
    · by_cases here : i = k <;> simp [smPut, below, here, ih]

end Sys2Proof

namespace Sys2Proof.Machine

open Sys2Proof.Claims

theorem modNd_modNd (s : State) (n : Nat) (f g : Node → Node) :
    modNd (modNd s n f) n g = modNd s n fun d => g (f d) := by
  simp [modNd, nd]

theorem modCc_modCc (s : State) (f g : Core → Core) : modCc (modCc s f) g = modCc s fun k => g (f k) := by
  simp [modCc, modCo, modNd_modNd]

/-- Clocks are read of quads alone. -/
theorem Keeps.coreCyc {s t : State} (h : Keeps Node.quads s t) (hb : t.bornAt = s.bornAt) (n c : Nat) :
    coreCyc t n c = Machine.coreCyc s n c := by
  have quad : qd t n (quadOf c) = qd s n (quadOf c) := congrArg (fun m : SMap Quad => smGet m {} (quadOf c)) (h.nodes n)
  simp only [Machine.coreCyc, sinceOf, quad, h.now, hb]

/-- An issue takes no time of a core's own clock, whatever flags it waits for. -/
theorem coreCyc_takeIssue {α : Type} (o : Op α) (s : State) (n c : Nat) : coreCyc (takeIssue o s) n c = coreCyc s n c :=
  ((takeIssue_keeps issueView_cores o s).comp fun v => v.1.quads).coreCyc (takeIssue_bornAt o s) n c

/-! The queue. -/

/-- The state in which an instruction has left its entry in the queue, to act 8 cc later (R150, R164). -/
def matrixQueued (s : State) (f : FE) (op : MOp) : State :=
  modCc (pastE s f) fun k =>
    { k with nextTag := k.nextTag + 1,
             mq := k.mq ++ [⟨op, f.sig, k.nextTag, false, 0, coreCyc s s.cur.node s.cur.core + 8, 0⟩] }

theorem mqPut_pastE (s : State) (f : FE) (op : MOp) : mqPut (pastE s f) op f.sig = matrixQueued s f op := by
  have clock : coreCyc (pastE s f) s.cur.node s.cur.core = coreCyc s s.cur.node s.cur.core := by
    unfold pastE pastWith
    exact coreCyc_takeIssue ..
  rw [mqPut, newTag, modCc_modCc, (same_pastE s f).cur, clock]
  rfl

section
variable {f : FE} {srcs : List Reg} {pre : State → Pre MOp} {room : State → Bool} {op : MOp} {s : State}
  (h : CanIssueE s f matSeqs srcs 0)
include h

/-- A legal operation is appended where the queue has a free entry. -/
theorem runOp_feQueue_goes (hp : pre s = .go op s) (hq : (cc s).mq.length < 4) (hr : room s = true) :
    runOp (feQueue f srcs pre room) s = .next (matrixQueued s f op) := by
  refine (runOp_of_canIssue h.issue (decodeFault_none rfl (.inr h.task) h.issue.taken rfl) hp ?_).trans ?_
  · simp [feQueue, mqRoom, hq, hr]
  · rw [takeIssue_pastE _ s f rfl rfl rfl rfl rfl rfl, ← mqPut_pastE]
    rfl

/-- A full queue is waited for. -/
theorem runOp_feQueue_waits (hp : pre s = .go op s) (hq : 4 ≤ (cc s).mq.length) :
    runOp (feQueue f srcs pre room) s = .next (setBlocked s) := by
  refine runOp_full_of_canIssue h.issue (decodeFault_none rfl (.inr h.task) h.issue.taken rfl) hp ?_
  simp [feQueue, mqRoom, hq.not_gt]

theorem runOp_feQueue_faults {k : Cause} (hp : pre s = .fault k s) :
    runOp (feQueue f srcs pre room) s = .next (takeTrap s s.cur.node s.cur.core k) :=
  runOp_fault_of_canIssue h.issue (decodeFault_none rfl (.inr h.task) h.issue.taken rfl) hp

end

theorem exec_mgo (f : FE) (s : State) : exec (.mgo f) s = execMgo f s := rfl
theorem exec_acopy (f : FE) (s : State) : exec (.acopy f) s = execAcopy f s := rfl
theorem exec_aclr (f : FE) (s : State) : exec (.aclr f) s = execAclr f s := rfl
theorem exec_adload (f : FE) (s : State) : exec (.adload f) s = execAdload f s := rfl
theorem exec_adinv (f : FE) (s : State) : exec (.adinv f) s = execAdinv f s := rfl

/-! MGO (R159, R160): its three checks in their order, then the queue. -/

section
variable {f : FE} {s : State} (h : CanIssueE s f matSeqs [f.a] 0)
include h

theorem exec_mgo_illegal (hn : nestLegal (cc s).shadow (reg s f.a).toNat = false) :
    exec (.mgo f) s = .next (takeTrap s s.cur.node s.cur.core (causeHere s codeIllegal)) := by
  rw [exec_mgo, execMgo, runOp_feQueue_faults h]
  simp only [hn, Bool.not_false, if_true]

section
variable (hn : nestLegal (cc s).shadow (reg s f.a).toNat = true)
include hn

theorem exec_mgo_too_long (hl : fld (cc s).redLimit 23 0 < nestRed (cc s).shadow) :
    exec (.mgo f) s = .next (takeTrap s s.cur.node s.cur.core (causeHere s codeRedLen)) := by
  rw [exec_mgo, execMgo, runOp_feQueue_faults h]
  simp only [hn, Bool.not_true, Bool.false_eq_true, if_false, if_pos hl]

variable (hl : nestRed (cc s).shadow ≤ fld (cc s).redLimit 23 0)
include hl

theorem exec_mgo_busy (hc : chainBusy (cc s).shadow (reg s f.a).toNat = true) :
    exec (.mgo f) s = .next (takeTrap s s.cur.node s.cur.core (causeHere s codeAccBusy)) := by
  rw [exec_mgo, execMgo, runOp_feQueue_faults h]
  simp only [hn, Bool.not_true, Bool.false_eq_true, if_false, if_neg hl.not_gt, hc, if_true]

variable (hc : chainBusy (cc s).shadow (reg s f.a).toNat = false)
include hc

theorem exec_mgo_goes (hq : (cc s).mq.length < 4)
    (hd : rowDue (cc s) (fun i => namesTile (cc s).shadow (reg s f.a).toNat (i / 128)) = false) :
    exec (.mgo f) s = .next (matrixQueued s f (.go (cc s).shadow (reg s f.a).toNat)) := by
  rw [exec_mgo, execMgo]
  refine runOp_feQueue_goes h ?_ hq (by rw [hd]; rfl)
  simp only [hn, Bool.not_true, Bool.false_eq_true, if_false, if_neg hl.not_gt, hc]

theorem exec_mgo_waits (hq : 4 ≤ (cc s).mq.length) : exec (.mgo f) s = .next (setBlocked s) := by
  rw [exec_mgo, execMgo]
  refine runOp_feQueue_waits (op := .go (cc s).shadow (reg s f.a).toNat) h ?_ hq
  simp only [hn, Bool.not_true, Bool.false_eq_true, if_false, if_neg hl.not_gt, hc]

end

/-! ADINV (R186). -/

theorem exec_adinv_goes (hr : fld (reg s f.a) 63 17 = 0) (hq : (cc s).mq.length < 4) :
    exec (.adinv f) s = .next (matrixQueued s f (.adinv (fld (reg s f.a) 15 0) (bit (reg s f.a) 16))) := by
  rw [exec_adinv, execAdinv]
  exact runOp_feQueue_goes h (if_neg (not_not.mpr hr)) hq rfl

theorem exec_adinv_illegal (hr : fld (reg s f.a) 63 17 ≠ 0) :
    exec (.adinv f) s = .next (takeTrap s s.cur.node s.cur.core (causeHere s codeIllegal)) := by
  rw [exec_adinv, execAdinv, runOp_feQueue_faults h (if_pos hr)]

end

/-! ACOPY, ACLR and ADLOAD (R185, R186). -/

/-- What ADLOAD asks of its operands and of the formats in the shadow set (R186). -/
def adloadLegal (s : State) (f : FE) : Prop :=
  fld (reg s f.a) 63 16 = 0 ∧ fld (reg s f.b) 63 32 = 0 ∧ atMode (cc s).shadow < 2
    ∧ formatsGo (atMode (cc s).shadow) (sdFmt (atA (cc s).shadow)) (sdFmt (atB (cc s).shadow)) 4 = true

theorem not_adloadLegal_iff (s : State) (f : FE) :
    ¬ adloadLegal s f
      ↔ fld (reg s f.a) 63 16 ≠ 0 ∨ fld (reg s f.b) 63 32 ≠ 0 ∨ 2 ≤ atMode (cc s).shadow
        ∨ (!formatsGo (atMode (cc s).shadow) (sdFmt (atA (cc s).shadow)) (sdFmt (atB (cc s).shadow)) 4) = true := by
  simp only [adloadLegal, not_and_or, not_lt, Bool.not_eq_true, Bool.not_eq_true', ne_eq]

section
variable {f : FE} {s : State} (h : CanIssueE s f matSeqs [f.a, f.b] 0)
include h

theorem exec_acopy_goes (hq : (cc s).mq.length < 4) (hr : fld (reg s f.a) 63 25 = 0) (hm : fld (reg s f.a) 15 9 = 0)
    (h1 : 1 ≤ (reg s f.b).toNat) (hd : fld (reg s f.a) 8 0 + (reg s f.b).toNat ≤ 512)
    (hs : fld (reg s f.a) 24 16 + (reg s f.b).toNat ≤ 512) :
    exec (.acopy f) s
      = .next (matrixQueued s f (.acopy (fld (reg s f.a) 8 0) (fld (reg s f.a) 24 16) (reg s f.b).toNat)) := by
  rw [exec_acopy, execAcopy]
  refine runOp_feQueue_goes h (if_neg ?_) hq rfl
  rintro (r | r | r | r | r) <;> omega

theorem exec_acopy_illegal
    (hn : (reg s f.b).toNat = 0 ∨ 512 < fld (reg s f.a) 8 0 + (reg s f.b).toNat
      ∨ 512 < fld (reg s f.a) 24 16 + (reg s f.b).toNat) :
    exec (.acopy f) s = .next (takeTrap s s.cur.node s.cur.core (causeHere s codeIllegal)) := by
  rw [exec_acopy, execAcopy, runOp_feQueue_faults h (if_pos (.inr (.inr hn)))]

theorem exec_aclr_goes (hq : (cc s).mq.length < 4) (h1 : 1 ≤ (reg s f.b).toNat)
    (hd : (reg s f.a).toNat + (reg s f.b).toNat ≤ 512) :
    exec (.aclr f) s = .next (matrixQueued s f (.aclr (reg s f.a).toNat (reg s f.b).toNat)) := by
  rw [exec_aclr, execAclr]
  exact runOp_feQueue_goes h (if_neg (not_or.mpr ⟨Nat.one_le_iff_ne_zero.mp h1, hd.not_gt⟩)) hq rfl

theorem exec_aclr_illegal (hn : (reg s f.b).toNat = 0 ∨ 512 < (reg s f.a).toNat + (reg s f.b).toNat) :
    exec (.aclr f) s = .next (takeTrap s s.cur.node s.cur.core (causeHere s codeIllegal)) := by
  rw [exec_aclr, execAclr, runOp_feQueue_faults h (if_pos hn)]

theorem exec_adload_goes (hq : (cc s).mq.length < 4) (hl : adloadLegal s f) :
    exec (.adload f) s
      = .next (matrixQueued s f
          (.adload (fld (reg s f.a) 15 0) (fld (reg s f.b) 15 0) (fld (reg s f.b) 31 16) (cc s).shadow)) := by
  rw [exec_adload, execAdload]
  exact runOp_feQueue_goes h (if_neg fun n => (not_adloadLegal_iff s f).mpr n hl) hq rfl

theorem exec_adload_illegal (hl : ¬ adloadLegal s f) :
    exec (.adload f) s = .next (takeTrap s s.cur.node s.cur.core (causeHere s codeIllegal)) := by
  rw [exec_adload, execAdload, runOp_feQueue_faults h (if_pos ((not_adloadLegal_iff s f).mp hl))]

end

/-! MWAIT and MSTAT (R182, R183). -/

section
variable {f : FE} {srcs : List Reg} {seqs : List Seq} {lat : Nat} {pre : State → Pre Word} {room : State → Bool} {v : Word}
  {s : State} (h : CanIssueE s f seqs srcs 1)
include h

/-- An F-E result is put in flight on the state that its issue leaves (R97). -/
theorem runOp_feResult_goes (hp : pre s = .go v s) (hr : room s = true) :
    runOp (feResult f srcs seqs lat pre room) s = .next (flyReg (begunE s f) f.d v lat (pushKey s f.tk) f.sig) := by
  refine (runOp_of_canIssue h.issue (decodeFault_none rfl (.inr h.task) h.issue.taken rfl) hp hr).trans ?_
  rw [takeIssue_begunE _ s f rfl rfl rfl rfl rfl rfl, ← pushKey_congr (same_begunE s f).cur]
  rfl

theorem runOp_feResult_waits (hp : pre s = .go v s) (hr : room s = false) :
    runOp (feResult f srcs seqs lat pre room) s = .next (setBlocked s) :=
  runOp_full_of_canIssue h.issue (decodeFault_none rfl (.inr h.task) h.issue.taken rfl) hp hr

theorem runOp_feResult_faults {k : Cause} (hp : pre s = .fault k s) :
    runOp (feResult f srcs seqs lat pre room) s = .next (takeTrap s s.cur.node s.cur.core k) :=
  runOp_fault_of_canIssue h.issue (decodeFault_none rfl (.inr h.task) h.issue.taken rfl) hp

end

theorem exec_mwait (f : FE) (s : State) : exec (.mwait f) s = execMwait f s := rfl
theorem exec_mstat (f : FE) (s : State) : exec (.mstat f) s = execMstat f s := rfl
theorem exec_mabort (f : FE) (s : State) : exec (.mabort f) s = execMabort f s := rfl

section
variable {f : FE} {s : State} (h : CanIssueE s f matSeqs [f.a] 1)
include h

theorem exec_mwait_goes (hc : mqCount (cc s) ≤ (reg s f.a).toNat) :
    exec (.mwait f) s = .next (flyReg (begunE s f) f.d (cc s).mprog 2 (pushKey s f.tk) f.sig) := by
  rw [exec_mwait, execMwait]
  exact runOp_feResult_goes h rfl (decide_eq_true hc)

theorem exec_mwait_waits (hc : (reg s f.a).toNat < mqCount (cc s)) : exec (.mwait f) s = .next (setBlocked s) := by
  rw [exec_mwait, execMwait]
  exact runOp_feResult_waits (v := (cc s).mprog) h rfl (decide_eq_false hc.not_ge)

/-- What MSTAT reads, by its operand (R183). -/
def mstatValue (k : Core) : Nat → Option Word
  | 0 => some (mstatWord k)
  | 1 => some k.mprog
  | 2 => some (BitVec.ofNat 64 k.lensHits)
  | 3 => some (BitVec.ofNat 64 k.lensMiss)
  | 4 => some (BitVec.ofNat 64 k.replays)
  | _ => none

theorem exec_mstat_goes {i : Nat} {v : Word} (hi : (reg s f.a).toNat = i) (hv : mstatValue (cc s) i = some v) :
    exec (.mstat f) s = .next (flyReg (begunE s f) f.d v 2 (pushKey s f.tk) f.sig) := by
  rw [exec_mstat, execMstat]
  refine runOp_feResult_goes h ?_ rfl
  dsimp only
  rw [hi]
  unfold mstatValue at hv
  split at hv <;> cases hv <;> rfl

theorem exec_mstat_illegal (hi : 4 < (reg s f.a).toNat) :
    exec (.mstat f) s = .next (takeTrap s s.cur.node s.cur.core (causeHere s codeIllegal)) := by
  obtain ⟨i, large⟩ : ∃ i, (reg s f.a).toNat = i + 5 := Nat.exists_eq_add_of_le' hi
  rw [exec_mstat, execMstat]
  refine runOp_feResult_faults h ?_
  dsimp only
  rw [large]
  rfl

end

/-! MABORT (R184). -/

theorem runsOn_iff (e : MEntry) :
    runsOn e = true
      ↔ e.begun = true ∧ ((∃ d r m, e.op = .acopy d r m) ∨ (∃ r m, e.op = .aclr r m) ∨ ∃ id all, e.op = .adinv id all) := by
  cases hop : e.op <;> simp [runsOn, hop]

/-- What stays in the queue: what runs on, and joins. -/
theorem mem_mq_abortMatrix (s : State) (e : MEntry) :
    e ∈ (cc (abortMatrix s)).mq ↔ e ∈ (cc s).mq ∧ ((∃ id, e.op = .join id) ∨ runsOn e = true) := by
  rw [abortMatrix, cc_modCc]
  dsimp only
  rw [List.mem_filter, Bool.or_eq_true, or_comm]
  cases e.op <;> simp

@[simp] theorem red_abortMatrix (s : State) : (cc (abortMatrix s)).red = none := by
  unfold abortMatrix
  rw [cc_modCc]
@[simp] theorem ret_abortMatrix (s : State) : (cc (abortMatrix s)).ret = (cc s).ret := by
  unfold abortMatrix
  rw [cc_modCc]

/-- The engine is idle where nothing of it runs on. -/
theorem engineEnds_eq_nil (k : Core) : engineEnds k = [] ↔ k.ret = none ∧ k.mq.filter runsOn = [] := by
  rw [engineEnds, List.append_eq_nil_iff, List.map_eq_nil_iff]
  cases k.ret <;> simp

/-- The last of what runs on. -/
theorem foldl_max_engineEnds (k : Core) :
    (engineEnds k).foldl max 0
      = ((k.mq.filter runsOn).map fun e => e.due).foldl max (match k.ret with | some r => r.due | none => 0) := by
  rw [engineEnds, List.foldl_append]
  cases k.ret <;> simp

theorem engineEnds_begunE (s : State) (f : FE) : engineEnds (cc (begunE s f)) = engineEnds (cc s) :=
  (congrArg engineEnds (begunE_keeps s f).issueCore :)

section
variable {f : FE} {s : State} (h : CanIssueE s f matSeqs [] 1)
include h

theorem exec_mabort_waits (hp : (matSeqs.any fun q => q != s.cur.seq && matrixPending s q) = true) :
    exec (.mabort f) s = .next (setBlocked s) := by
  rw [exec_mabort, execMabort]
  refine runOp_full_of_canIssue (x := ()) (s' := s) h.issue (decodeFault_none rfl (.inr h.task) h.issue.taken rfl) rfl ?_
  dsimp only
  rw [hp, Bool.not_true]

variable (hp : (matSeqs.any fun q => q != s.cur.seq && matrixPending s q) = false)
include hp

/-- MABORT of an idle engine retires in its issue cc, and else with the last of what runs on. -/
theorem exec_mabort_goes :
    exec (.mabort f) s
      = .next (if engineEnds (cc s) = [] then signal (retirePushes (abortMatrix (begunE s f)) f.tk []) f.sig
          else flyReg (abortMatrix (begunE s f)) 0 0
            ((engineEnds (cc s)).foldl max 0 - coreCyc s s.cur.node s.cur.core + 1) (pushKey s f.tk) f.sig) := by
  have same := same_begunE s f
  have clock : coreCyc (begunE s f) s.cur.node s.cur.core = coreCyc s s.cur.node s.cur.core := coreCyc_takeIssue ..
  rw [exec_mabort, execMabort]
  refine (runOp_of_canIssue (x := ()) (s' := s) h.issue (decodeFault_none rfl (.inr h.task) h.issue.taken rfl) rfl ?_).trans ?_
  · dsimp only
    rw [hp, Bool.not_false]
  · rw [takeIssue_begunE _ s f rfl rfl rfl rfl rfl rfl]
    dsimp only
    rw [engineEnds_begunE, same.cur, clock, pushKey_congr same.cur]
    cases engineEnds (cc s) <;> rfl

theorem exec_mabort_idle (hr : (cc s).ret = none) (hg : (cc s).mq.filter runsOn = []) :
    exec (.mabort f) s = .next (signal (retirePushes (abortMatrix (begunE s f)) f.tk []) f.sig) := by
  rw [exec_mabort_goes h hp, if_pos ((engineEnds_eq_nil _).mpr ⟨hr, hg⟩)]

theorem exec_mabort_going (hg : (cc s).ret ≠ none ∨ (cc s).mq.filter runsOn ≠ []) :
    exec (.mabort f) s
      = .next (flyReg (abortMatrix (begunE s f)) 0 0
          ((((cc s).mq.filter runsOn).map fun e => e.due).foldl max (match (cc s).ret with | some r => r.due | none => 0)
            - coreCyc s s.cur.node s.cur.core + 1) (pushKey s f.tk) f.sig) := by
  have runs : ¬engineEnds (cc s) = [] := fun idle => by
    obtain ⟨hr, hl⟩ := (engineEnds_eq_nil _).mp idle
    exact hg.elim (fun n => n hr) fun n => n hl
  rw [exec_mabort_goes h hp, if_neg runs, foldl_max_engineEnds]

end

/-- Settles O30: each instruction by its operation, and what MABORT leaves of the queue. -/
theorem matrixQueue : Obligations.MatrixQueue := by
  refine ⟨⟨fun f s h => ⟨exec_mgo_illegal h, exec_mgo_too_long h, exec_mgo_busy h, exec_mgo_goes h, exec_mgo_waits h,
      exec_adinv_goes h, exec_adinv_illegal h⟩, fun f s h hq => ⟨exec_acopy_goes h hq, exec_acopy_illegal h,
      exec_aclr_goes h hq, exec_aclr_illegal h, exec_adload_goes h hq, exec_adload_illegal h⟩⟩,
    fun f s h => ⟨exec_mwait_goes h, exec_mwait_waits h, fun ha => ?_, fun ha => ?_, fun ha => ?_, fun ha => ?_, fun ha => ?_,
      exec_mstat_illegal h⟩, fun f s h => ⟨exec_mabort_waits h, exec_mabort_idle h, exec_mabort_going h⟩, fun s => ?_⟩
  iterate 5 exact exec_mstat_goes h (congrArg BitVec.toNat ha) rfl
  intro y stays
  have kept (e : MEntry) : e ∈ (cc y).mq ↔ e ∈ (cc s).mq ∧ stays e := by
    rw [mem_mq_abortMatrix, runsOn_iff]
  exact ⟨red_abortMatrix s, ret_abortMatrix s, fun e he => (kept e).mp he, fun e he hs => (kept e).mpr ⟨he, hs⟩⟩

end Sys2Proof.Machine
end

section
/-! PROOFS. What the steps of the matrix engine leave: rows written in a range, an entry that begins or completes, and the
retirement of a reduction (R150, R163, R185). -/

namespace Sys2Proof.Machine

/-! Rows written one after the other. -/

/-- Of rows that are written in a range each reads as written, and every other row as before. -/
theorem smGet_foldl_smSet {α : Type} [DecidableEq α] {d : α} (base : Nat) (g : Nat → α) (lo n : Nat) {m : SMap α}
    (w : smWf d m = true) (j : Nat) :
    smGet ((upFrom lo n).foldl (fun a i => smSet a d (base + i) (g i)) m) d j
      = if base + lo ≤ j ∧ j < base + lo + n then g (j - base) else smGet m d j := by
  induction n generalizing lo m with
  | zero => rw [if_neg (by omega)]; rfl
  | succ n ih =>
    rw [upFrom, List.foldl_cons, ih (lo + 1) (smWf_smSet w _ _)]
    by_cases first : j = base + lo
    · rw [if_neg (by omega), if_pos (by omega), first, smGet_smSet_same w, Nat.add_sub_cancel_left]
    · rw [smGet_smSet_ne _ _ _ first]
      exact if_congr (by omega) rfl rfl

/-- The same for rows at their own numbers. -/
theorem smGet_foldl_smSet_id {α : Type} [DecidableEq α] {d : α} (g : Nat → α) (lo n : Nat) {m : SMap α}
    (w : smWf d m = true) (j : Nat) :
    smGet ((upFrom lo n).foldl (fun a i => smSet a d i (g i)) m) d j = if lo ≤ j ∧ j < lo + n then g j else smGet m d j := by
  have each := smGet_foldl_smSet 0 g lo n w j
  simpa only [Nat.zero_add, Nat.sub_zero] using each

theorem smGet_accCopy {acc : SMap Row} (w : smWf 0 acc = true) (dst src m i : Nat) :
    smGet (accCopy acc dst src m) 0 i
      = if dst ≤ i ∧ i < dst + m then smGet acc 0 (i - dst + src) else smGet acc 0 i := by
  rw [accCopy, smGet_foldl_smSet dst (fun i => smGet acc 0 (src + i)) 0 m w, Nat.add_comm src]
  rfl

theorem smGet_accClear {acc : SMap Row} (w : smWf 0 acc = true) (first m i : Nat) :
    smGet (accClear acc first m) 0 i = if first ≤ i ∧ i < first + m then 0 else smGet acc 0 i :=
  smGet_foldl_smSet_id (fun _ => 0) first m w i

/-- A retirement writes the 128 rows of its tile and no other (R163). -/
theorem smGet_retireRows {acc : SMap Row} (w : smWf 0 acc = true) (r : Reduction) (j : Nat) :
    smGet (retireRows acc r) 0 j
      = if 128 * r.tile ≤ j ∧ j < 128 * r.tile + 128 then smGet r.work 0 (j - 128 * r.tile) else smGet acc 0 j :=
  smGet_foldl_smSet (128 * r.tile) (fun i => smGet r.work 0 i) 0 128 w j

/-! Entries of the matrix queue. -/

/-- Clocks are read of quads alone, which no core holds. -/
@[simp] theorem coreCyc_modCo (s : State) (n c m d : Nat) (f : Core → Core) : coreCyc (modCo s n c f) m d = coreCyc s m d := by
  simp [coreCyc, sinceOf]

/-- A change of the entries of an identifier is one of the head alone, where no other entry has it. -/
theorem map_entry_head {e : MEntry} {r : List MEntry} (hu : ∀ z ∈ r, z.id ≠ e.id) (f : MEntry → MEntry) :
    ((e :: r).map fun y => if y.id == e.id then f y else y) = f e :: r := by
  rw [List.map_cons, if_pos (beq_self_eq_true _)]
  refine congrArg (f e :: ·) ((List.map_congr_left fun z hz => ?_).trans (List.map_id r))
  simp [hu z hz]

theorem filter_entry_head {e : MEntry} {r : List MEntry} (hu : ∀ z ∈ r, z.id ≠ e.id) :
    ((e :: r).filter fun y => y.id != e.id) = r := by
  simpa [List.filter_cons] using hu

/-- What the completion of an entry does to its core: the entry leaves the queue, and the busy marks that MABORT left end. -/
theorem co_mqComplete (s : State) (n c id : Nat) :
    ∃ d m, co (mqComplete s n c id) n c
      = { co s n c with mq := (co s n c).mq.filter fun y => y.id != id, dropped := d, mDone := m } := by
  unfold mqComplete
  split
  · next absent =>
    have all : ((co s n c).mq.filter fun y => y.id != id) = (co s n c).mq := by
      rw [List.filter_eq_self]
      simpa using absent
    exact ⟨_, _, by rw [all]⟩
  · dsimp only
    split <;> exact ⟨[], (co s n c).mDone + 1, by simp⟩

@[simp] theorem acc_mqComplete (s : State) (n c id : Nat) : (co (mqComplete s n c id) n c).acc = (co s n c).acc := by
  obtain ⟨d, m, same⟩ := co_mqComplete s n c id
  rw [same]

@[simp] theorem ret_mqComplete (s : State) (n c id : Nat) : (co (mqComplete s n c id) n c).ret = (co s n c).ret := by
  obtain ⟨d, m, same⟩ := co_mqComplete s n c id
  rw [same]

theorem mq_mqComplete_head {s : State} {n c : Nat} {e : MEntry} {r : List MEntry} (hq : (co s n c).mq = e :: r)
    (hu : ∀ z ∈ r, z.id ≠ e.id) : (co (mqComplete s n c e.id) n c).mq = r := by
  obtain ⟨d, m, same⟩ := co_mqComplete s n c e.id
  rw [same, hq]
  exact filter_entry_head hu

/-- A retirement writes its rows and is over; what it may complete leaves both as they are. -/
theorem retireDone_rows {s : State} {n c : Nat} {r : Reduction} (hr : (co s n c).ret = some r) :
    (co (retireDone s n c) n c).acc = retireRows (co s n c).acc r ∧ (co (retireDone s n c) n c).ret = none := by
  unfold retireDone
  rw [hr]
  dsimp only
  split
  · split
    · split <;> simp
    · simp
  · simp

theorem retireDone_none {s : State} {n c : Nat} (hr : (co s n c).ret = none) : retireDone s n c = s := by
  rw [retireDone, hr]

end Sys2Proof.Machine
end

section
/-! PROOFS. Reductions (R158 to R164): what starts one, its k-steps, and its retirement. -/

namespace Sys2Proof.Machine

open Sys2Proof.Claims

theorem exec_reductionStart (n c : Nat) (s : State) : exec (.reductionStart n c) s = execReductionStart n c s := rfl
theorem exec_kStep (n c : Nat) (s : State) : exec (.kStep n c) s = execKStep n c s := rfl
theorem exec_reductionRetire (n c : Nat) (s : State) : exec (.reductionRetire n c) s = execReductionRetire n c s := rfl

/-! The start. -/

/-- The working rows with which a reduction starts: its tile's, or zeros (R161). -/
def startRows (x : Shadow) (acc : SMap Row) (tile : Nat) : SMap Row :=
  if atZinit x then [] else (upFrom 0 128).foldl (fun m i => smSet m 0 i (smGet acc 0 (128 * tile + i))) []

theorem smGet_startRows (x : Shadow) (acc : SMap Row) (tile : Nat) {i : Nat} (hi : i < 128) :
    smGet (startRows x acc tile) 0 i = if atZinit x then 0 else smGet acc 0 (128 * tile + i) := by
  unfold startRows
  cases atZinit x with
  | true => rfl
  | false =>
    rw [if_neg Bool.false_ne_true, if_neg Bool.false_ne_true,
      smGet_foldl_smSet_id (fun i => smGet acc 0 (128 * tile + i)) 0 128 rfl, if_pos (by omega)]

/-- The state in which a nest begins with its first reduction: it has a number, which MPROG shows, and RCNT 0 (R173). -/
def nestBegun (s : State) (n c : Nat) (e : MEntry) (start : Nat) : State :=
  let nseq := (fld (co s n c).mprog 63 32 + 1) % 2 ^ 32
  if e.begun then s
  else modCo s n c fun k =>
    { k with mprog := BitVec.ofNat 64 (nseq * 2 ^ 32 + start % 2 ^ 32),
             mq := k.mq.map fun y => if y.id == e.id then { y with begun := true, ahead := nseq } else y }

@[simp] theorem acc_nestBegun (s : State) (n c : Nat) (e : MEntry) (start : Nat) :
    (co (nestBegun s n c e start) n c).acc = (co s n c).acc := by
  unfold nestBegun
  dsimp only
  split
  · rfl
  · rw [co_modCo_same]

/-- A reduction without adapters before its k-step 0, at a cycle of its core. -/
def startedReduction (k : Core) (e : MEntry) (x : Shadow) (q cyc : Nat) : Reduction where
  entry := e.id
  q := q
  kk := 0
  tile := nestTile x q
  work := startRows x k.acc (nestTile x q)
  side := []
  ids := []
  tab := []
  bs := []
  replay := []
  fills := []
  due := cyc
  done := false
  ran := false
  t0 := cyc
  listed := []
  nseq := if e.begun then e.ahead else (fld k.mprog 63 32 + 1) % 2 ^ 32

/-- A reduction whose tile is sound starts on the nest as it has begun. -/
theorem exec_reductionStart_starts {s : State} {n c start : Nat} {e : MEntry} {x : Shadow} (hd : reductionDue s n c = true)
    (ht : turnEntry (co s n c) = some e) (ho : e.op = .go x start) (hi : atIden x = false)
    (hb : atZinit x = false → accBad (co s n c) (128 * nestTile x (start + startedOf (co s n c) e)) 128 = none) :
    let b := nestBegun s n c e start
    exec (.reductionStart n c) s
      = .next (modCo b n c fun k =>
          { k with red := some (startedReduction (co s n c) e x (start + startedOf (co s n c) e) (coreCyc b n c)) }) := by
  intro b
  have sound : (if atZinit x then none else accBad (co s n c) (128 * nestTile x (start + startedOf (co s n c) e)) 128) = none := by
    cases z : atZinit x with
    | true => rfl
    | false => exact hb z
  rw [exec_reductionStart, execReductionStart, hd, Bool.not_true, if_neg Bool.false_ne_true]
  dsimp only
  rw [ht]
  dsimp only
  rw [ho]
  dsimp only
  rw [sound]
  dsimp only
  rw [hi, if_neg Bool.false_ne_true]
  rfl

/-! The k-steps. -/

section
variable {s : State} {n c st : Nat} {r : Reduction} {x : Shadow} (hd : kStepDue s n c = true)
  (hr : (co s n c).red = some r) (hf : r.done = false) (hn : nestOf (co s n c) r.entry = some (x, st))
include hd hr hf hn

/-- What a reduction does whose k-step is over: its next k-step, or its way into retirement. -/
theorem exec_kStep_of_nest :
    exec (.kStep n c) s = .next (if stepsOver x r
      then toRetire (modCo s n c fun k => { k with red := some { r with done := true } }) n c
      else runStep s n c x (nextStep r)) := by
  rw [exec_kStep, execKStep, hd, Bool.not_true, if_neg Bool.false_ne_true]
  dsimp only
  rw [hr]
  dsimp only
  rw [hf, if_neg Bool.false_ne_true, hn]
  dsimp only
  split <;> rfl

theorem exec_kStep_runs (ho : stepsOver x r = false) :
    exec (.kStep n c) s = .next (runStep s n c x (nextStep r)) := by
  rw [exec_kStep_of_nest hd hr hf hn, ho]
  rfl

theorem exec_kStep_over (ho : stepsOver x r = true) :
    exec (.kStep n c) s = .next (toRetire (modCo s n c fun k => { k with red := some { r with done := true } }) n c) := by
  rw [exec_kStep_of_nest hd hr hf hn, ho]
  rfl

end

theorem runStep_faults {s : State} {n c : Nat} {x : Shadow} {r : Reduction} {k : EFault}
    (hm : mainStep (co s n c) x r = .inl k) : runStep s n c x r = matrixFault s n c k := by
  rw [runStep, hm]

/-- A k-step without adapters: the working rows after it, and 32 cycles (R162, R164). -/
theorem runStep_plain {s : State} {n c : Nat} {x : Shadow} {r : Reduction} {work : SMap Row} (ht : r.tab = [])
    (hm : mainStep (co s n c) x r = .inr work) :
    runStep s n c x r
      = modCo s n c fun k => { k with red := some { r with work := work, ran := true, due := coreCyc s n c + 32 } } := by
  have plain : distinctIds r = [] := by rw [distinctIds, ht, List.map_nil]
  have cycles : stepCycles r = 32 := by rw [stepCycles, plain]; rfl
  rw [runStep, hm]
  dsimp only
  rw [plain, List.findSome?_nil]
  dsimp only
  rw [cycles, ht]
  rfl

/-- A reduction without adapters that is done goes into retirement, which takes 64 cycles (R163, R164). -/
theorem toRetire_plain {s : State} {n c : Nat} {r : Reduction} (hr : (co s n c).red = some r) (hx : (co s n c).ret = none)
    (hd : r.done = true) (hp : r.replay = []) (ht : r.tab = []) :
    toRetire s n c = modCo s n c fun k => { k with red := none, ret := some { r with due := coreCyc s n c + 64 } } := by
  rw [toRetire, hr, hx]
  dsimp only
  rw [hd, hp, ht]
  rfl

/-- The retirement that is due is done. -/
theorem exec_reductionRetire_due {s : State} {n c : Nat} (hd : retireDue s n c = true) :
    exec (.reductionRetire n c) s = .next (retireDone s n c) := by
  rw [exec_reductionRetire, execReductionRetire, if_pos hd]

@[simp] theorem nextStep_tab (r : Reduction) : (nextStep r).tab = r.tab := by
  unfold nextStep
  split <;> rfl
@[simp] theorem nextStep_done (r : Reduction) : (nextStep r).done = r.done := by
  unfold nextStep
  split <;> rfl
theorem nextStep_kk (r : Reduction) : (nextStep r).kk = if r.ran then r.kk + 1 else r.kk := by
  unfold nextStep
  split <;> rfl

/-! What O31 claims of reductions. -/

theorem reduction_starts {s : State} {n c start : Nat} {e : MEntry} {x : Shadow} (hd : reductionDue s n c = true)
    (ht : turnEntry (co s n c) = some e) (ho : e.op = .go x start) (hi : atIden x = false)
    (hb : atZinit x = false → accBad (co s n c) (128 * nestTile x (start + startedOf (co s n c) e)) 128 = none) :
    ∃ y r, exec (.reductionStart n c) s = .next y ∧ (co y n c).red = some r
      ∧ r.entry = e.id ∧ r.kk = 0 ∧ r.q = start + startedOf (co s n c) e ∧ r.tile = nestTile x r.q ∧ r.ran = false ∧ r.done = false
      ∧ (∀ i, i < 128 → smGet r.work 0 i = if atZinit x then 0 else smGet (co s n c).acc 0 (128 * r.tile + i))
      ∧ (co y n c).acc = (co s n c).acc := by
  refine ⟨_, _, exec_reductionStart_starts hd ht ho hi hb, congrArg Core.red (co_modCo_same ..), rfl, rfl, rfl, rfl, rfl, rfl,
    fun i hl => smGet_startRows x _ _ hl, ?_⟩
  rw [co_modCo_same, acc_nestBegun]

section
variable {s : State} {n c st : Nat} {r : Reduction} {x : Shadow} (hd : kStepDue s n c = true)
  (hr : (co s n c).red = some r) (hf : r.done = false) (ht : r.tab = []) (hn : nestOf (co s n c) r.entry = some (x, st))
include hd hr hf ht hn

theorem kStep_adds {work : SMap Row} (ho : stepsOver x r = false) (hm : mainStep (co s n c) x (nextStep r) = .inr work) :
    ∃ y w, exec (.kStep n c) s = .next y ∧ (co y n c).red = some w ∧ w.kk = (if r.ran then r.kk + 1 else r.kk) ∧ w.work = work
      ∧ w.ran = true ∧ w.done = false ∧ w.due = coreCyc s n c + 32 := by
  refine ⟨_, _, (exec_kStep_runs hd hr hf hn ho).trans (congrArg _ (runStep_plain (by rw [nextStep_tab, ht]) hm)),
    congrArg Core.red (co_modCo_same ..), nextStep_kk r, rfl, rfl, (nextStep_done r).trans hf, rfl⟩

theorem kStep_ends (ho : stepsOver x r = true) (hp : r.replay = []) (hx : (co s n c).ret = none) :
    ∃ y w, exec (.kStep n c) s = .next y ∧ (co y n c).ret = some w ∧ w.work = r.work ∧ w.tile = r.tile
      ∧ w.due = coreCyc s n c + 64 ∧ (co y n c).red = none := by
  have retired := toRetire_plain (s := modCo s n c fun k => { k with red := some { r with done := true } }) (n := n) (c := c)
    (r := { r with done := true }) (by rw [co_modCo_same]) (by rw [co_modCo_same]; exact hx) rfl hp ht
  rw [coreCyc_modCo] at retired
  refine ⟨_, _, (exec_kStep_over hd hr hf hn ho).trans (congrArg _ retired), congrArg Core.ret (co_modCo_same ..), rfl, rfl, rfl,
    congrArg Core.red (co_modCo_same ..)⟩

end

theorem reduction_retires {s : State} {n c : Nat} {r : Reduction} (hd : retireDue s n c = true)
    (hr : (co s n c).ret = some r) (w : smWf 0 (co s n c).acc = true) :
    ∃ y, exec (.reductionRetire n c) s = .next y ∧ (co y n c).ret = none
      ∧ (∀ i, i < 128 → smGet (co y n c).acc 0 (128 * r.tile + i) = smGet r.work 0 i)
      ∧ ∀ j, j < 128 * r.tile ∨ 128 * r.tile + 128 ≤ j → smGet (co y n c).acc 0 j = smGet (co s n c).acc 0 j := by
  obtain ⟨rows, gone⟩ := retireDone_rows hr
  refine ⟨_, exec_reductionRetire_due hd, gone, fun i hi => ?_, fun j hj => ?_⟩
  · rw [rows, smGet_retireRows w, if_pos (by omega), Nat.add_sub_cancel_left]
  · rw [rows, smGet_retireRows w, if_neg (by omega)]

end Sys2Proof.Machine
end

section
/-! PROOFS. Accumulator operations (R150, R185): where one begins, where it is done, and the rows it faults on. -/

namespace Sys2Proof.Machine

theorem exec_accumulatorOpDone (n c : Nat) (s : State) : exec (.accumulatorOpDone n c) s = execAccumulatorOpDone n c s := rfl

/-- An operation at the head acts alone: no reduction is in retirement. -/
theorem accOpDue_alone {s : State} {n c : Nat} (hd : accOpDue s n c = true) : (co s n c).ret = none := by
  simp only [accOpDue, Bool.and_eq_true, Option.isNone_iff_eq_none] at hd
  obtain ⟨⟨_, alone⟩, _⟩ := hd
  exact alone

/-- The state in which the entries of an identifier have begun, to act some cycles later. -/
def entryBegun (s : State) (n c id lat : Nat) : State :=
  modCo s n c fun k => { k with mq := k.mq.map fun y =>
    if y.id == id then { y with begun := true, due := coreCyc s n c + lat } else y }

@[simp] theorem acc_entryBegun (s : State) (n c id lat : Nat) : (co (entryBegun s n c id lat) n c).acc = (co s n c).acc := by
  unfold entryBegun
  rw [co_modCo_same]

theorem mq_entryBegun_head {s : State} {n c : Nat} {e : MEntry} {r : List MEntry} (hq : (co s n c).mq = e :: r)
    (hu : ∀ z ∈ r, z.id ≠ e.id) (lat : Nat) :
    (co (entryBegun s n c e.id lat) n c).mq = { e with begun := true, due := coreCyc s n c + lat } :: r := by
  unfold entryBegun
  rw [co_modCo_same]
  dsimp only
  rw [hq, map_entry_head hu fun y => { y with begun := true, due := coreCyc s n c + lat }]

/-- The fault of an operation whose source rows an uncorrectable error has struck (R174). -/
def sourceBad (k : Core) : MOp → Option EFault
  | .acopy _ src m => accBad k src m
  | _ => none

/-- The cycles of an operation (R164). -/
def accOpCycles : MOp → Nat
  | .acopy _ _ m => m
  | .aclr _ m => ceilDiv m 4
  | _ => 1

section
variable {s : State} {n c : Nat} {e : MEntry} {r : List MEntry} (hd : accOpDue s n c = true) (hq : (co s n c).mq = e :: r)
include hd hq

/-- An operation that has not begun faults on its source, or begins. -/
theorem exec_accOp_first (hb : e.begun = false) :
    exec (.accumulatorOpDone n c) s = .next (match sourceBad (co s n c) e.op with
      | some k => matrixFault s n c k
      | none => entryBegun s n c e.id (accOpCycles e.op)) := by
  rw [exec_accumulatorOpDone, execAccumulatorOpDone, hd, Bool.not_true, if_neg Bool.false_ne_true, hq, List.head?_cons]
  dsimp only
  rw [hb, if_neg Bool.false_ne_true]
  cases e.op
  case acopy dst src m =>
    dsimp only [sourceBad]
    cases accBad (co s n c) src m <;> rfl
  all_goals rfl

theorem accOp_begins (hu : ∀ z ∈ r, z.id ≠ e.id) (hb : e.begun = false) (hs : sourceBad (co s n c) e.op = none) :
    ∃ y z, exec (.accumulatorOpDone n c) s = .next y ∧ (co y n c).mq = z :: r ∧ z.begun = true ∧ z.op = e.op
      ∧ (co y n c).acc = (co s n c).acc := by
  refine ⟨entryBegun s n c e.id (accOpCycles e.op), _, ?_, mq_entryBegun_head hq hu _, rfl, rfl, acc_entryBegun ..⟩
  rw [exec_accOp_first hd hq hb, hs]

theorem accOp_faults {k : EFault} (hb : e.begun = false) (hs : sourceBad (co s n c) e.op = some k) :
    exec (.accumulatorOpDone n c) s = .next (matrixFault s n c k) := by
  rw [exec_accOp_first hd hq hb, hs]

/-- One that has begun is done: where no retirement is under way, the engine stops at it. -/
theorem exec_accOp_done (hb : e.begun = true) :
    exec (.accumulatorOpDone n c) s = .next (stopHead (modCo s n c fun k => { k with red := none }) n c) := by
  rw [exec_accumulatorOpDone, execAccumulatorOpDone, hd, Bool.not_true, if_neg Bool.false_ne_true, hq, List.head?_cons]
  dsimp only
  rw [hb, if_pos rfl, stopMatrix, retireDone_none (accOpDue_alone hd)]

end

section
variable {s : State} {n c : Nat} {e : MEntry} {r : List MEntry} (hq : (co s n c).mq = e :: r) (hb : e.begun = true)
include hq hb

theorem stopHead_aclr {first m : Nat} (ho : e.op = .aclr first m) :
    stopHead s n c = mqComplete (modCo s n c fun k =>
      { k with acc := accClear k.acc first m, accPoison := accClean k.accPoison first m }) n c e.id := by
  rw [stopHead, hq, List.head?_cons]
  dsimp only
  rw [hb, Bool.not_true, if_neg Bool.false_ne_true, ho]

theorem stopHead_acopy {dst src m : Nat} (ho : e.op = .acopy dst src m) :
    stopHead s n c = mqComplete (modCo s n c fun k =>
      { k with acc := accCopy k.acc dst src m, accPoison := accClean k.accPoison dst m }) n c e.id := by
  rw [stopHead, hq, List.head?_cons]
  dsimp only
  rw [hb, Bool.not_true, if_neg Bool.false_ne_true, ho]

end

section
variable {s : State} {n c : Nat} {e : MEntry} {r : List MEntry} (hd : accOpDue s n c = true) (hq : (co s n c).mq = e :: r)
  (hu : ∀ z ∈ r, z.id ≠ e.id) (hb : e.begun = true)
include hd hq hu hb

/-- An operation that is done leaves the queue, and has done to the rows what its change of the core does. -/
theorem accOp_done {f : Core → Core}
    (stops : ∀ s', (co s' n c).mq = e :: r → stopHead s' n c = mqComplete (modCo s' n c f) n c e.id)
    (hf : ∀ k, (f k).mq = k.mq) (hr : ∀ k w, (f { k with red := w }).acc = (f k).acc) :
    ∃ y, exec (.accumulatorOpDone n c) s = .next y ∧ (co y n c).mq = r ∧ (co y n c).acc = (f (co s n c)).acc := by
  have idle : co (modCo s n c fun k => { k with red := none }) n c = { co s n c with red := none } := co_modCo_same ..
  have head : (co (modCo s n c fun k => { k with red := none }) n c).mq = e :: r := by rw [idle, hq]
  refine ⟨_, (exec_accOp_done hd hq hb).trans (congrArg _ (stops _ head)), mq_mqComplete_head ?_ hu, ?_⟩
  · rw [co_modCo_same, hf, head]
  · rw [acc_mqComplete, co_modCo_same, idle, hr]

variable (w : smWf 0 (co s n c).acc = true)
include w

/-- An ACLR clears exactly its rows (R185). -/
theorem aclr_done {first m : Nat} (ho : e.op = .aclr first m) :
    ∃ y, exec (.accumulatorOpDone n c) s = .next y ∧ (co y n c).mq = r
      ∧ ∀ i, smGet (co y n c).acc 0 i = if first ≤ i ∧ i < first + m then 0 else smGet (co s n c).acc 0 i := by
  obtain ⟨y, ran, left, rows⟩ := accOp_done hd hq hu hb (fun s' head => stopHead_aclr head hb ho) (fun _ => rfl) fun _ _ => rfl
  exact ⟨y, ran, left, fun i => by rw [rows, smGet_accClear w]⟩

/-- An ACOPY copies its rows as they stood before any of it was written (R185). -/
theorem acopy_done {dst src m : Nat} (ho : e.op = .acopy dst src m) :
    ∃ y, exec (.accumulatorOpDone n c) s = .next y ∧ (co y n c).mq = r
      ∧ ∀ i, smGet (co y n c).acc 0 i = if dst ≤ i ∧ i < dst + m then smGet (co s n c).acc 0 (i - dst + src)
          else smGet (co s n c).acc 0 i := by
  obtain ⟨y, ran, left, rows⟩ := accOp_done hd hq hu hb (fun s' head => stopHead_acopy head hb ho) (fun _ => rfl) fun _ _ => rfl
  exact ⟨y, ran, left, fun i => by rw [rows, smGet_accCopy w]⟩

end

end Sys2Proof.Machine
end

section
/-! PROOFS. Lens fills and replays (R169, R171, R186), and what O31 claims in all. -/

namespace Sys2Proof.Machine

open Sys2Proof.Claims

theorem exec_lensFill (n c : Nat) (s : State) : exec (.lensFill n c) s = execLensFill n c s := rfl
theorem exec_replay (n c : Nat) (s : State) : exec (.replay n c) s = execReplay n c s := rfl

/-! Fills. -/

section
variable {s : State} {n c id kt nt : Nat} {x : Shadow} {e : MEntry} {r : List MEntry} (hd : lensFillDue s n c = true)
  (hr : (co s n c).red = none) (hq : (co s n c).mq = e :: r) (ho : e.op = .adload id kt nt x) (hb : e.begun = false)
include hd hr hq ho hb

/-- An ADLOAD at the head begins its fill; of ID 0 it has nothing to fill and is complete (R186). -/
theorem exec_lensFill_adload :
    exec (.lensFill n c) s = .next (if id = 0 then mqComplete s n c e.id else entryBegun s n c e.id Config.latFill) := by
  rw [exec_lensFill, execLensFill, hd, Bool.not_true, if_neg Bool.false_ne_true]
  dsimp only
  rw [hr]
  dsimp only
  rw [hq, List.head?_cons]
  dsimp only
  rw [ho]
  dsimp only
  rw [hb, Bool.not_false, if_pos rfl]
  split <;> rfl

variable (hu : ∀ z ∈ r, z.id ≠ e.id)
include hu

theorem adload_zero (hi : id = 0) : ∃ y, exec (.lensFill n c) s = .next y ∧ (co y n c).mq = r := by
  refine ⟨_, exec_lensFill_adload hd hr hq ho hb, ?_⟩
  rw [if_pos hi, mq_mqComplete_head hq hu]

theorem adload_begins (hi : id ≠ 0) :
    ∃ y z, exec (.lensFill n c) s = .next y ∧ (co y n c).mq = z :: r ∧ z.begun = true := by
  refine ⟨_, { e with begun := true, due := coreCyc s n c + Config.latFill }, exec_lensFill_adload hd hr hq ho hb, ?_, rfl⟩
  rw [if_neg hi, mq_entryBegun_head hq hu]

end

theorem exec_lensFill_reduction {s : State} {n c : Nat} {r : Reduction} (hd : lensFillDue s n c = true)
    (hr : (co s n c).red = some r) : exec (.lensFill n c) s = .next (fillsDue n c r.fills.length s) := by
  rw [exec_lensFill, execLensFill, hd, Bool.not_true, if_neg Bool.false_ne_true]
  dsimp only
  rw [hr]

/-- The fill that is due first has left the list of the reduction in progress. -/
def fillLeft (n c : Nat) (l : List (Nat × Nat × Nat × Nat)) (s : State) : State :=
  modCo s n c fun k => { k with red := k.red.map fun r => { r with fills := l } }

section
variable {k n c id kt nt due st : Nat} {s : State} {r : Reduction} {x : Shadow} {l : List (Nat × Nat × Nat × Nat)}
  (hr : (co s n c).red = some r) (hn : nestOf (co s n c) r.entry = some (x, st)) (hf : r.fills = (id, kt, nt, due) :: l)
  (hd : due ≤ coreCyc s n c)
include hr hn hf hd

/-- An entry that is there needs no fill (R169). -/
theorem fillsDue_there
    (ht : ((qd s n (quadOf c)).lens.any fun y => lensIs y (tenantOf (co s n c)) id kt nt (adGen (tabOf r id))) = true) :
    fillsDue n c (k + 1) s = fillsDue n c k (fillLeft n c l s) := by
  rw [fillsDue, hr]
  dsimp only
  rw [hf, hn]
  dsimp only
  rw [if_neg hd.not_gt, if_pos ht]
  rfl

/-- One that is not is filled. -/
theorem fillsDue_filled {s' : State}
    (ht : ((qd s n (quadOf c)).lens.any fun y => lensIs y (tenantOf (co s n c)) id kt nt (adGen (tabOf r id))) = false)
    (hs : fillLens s n c x (tabOf r id) id kt nt = (.inr (), s')) :
    fillsDue n c (k + 1) s = fillsDue n c k (fillLeft n c l s') := by
  rw [fillsDue, hr]
  dsimp only
  rw [hf, hn]
  dsimp only
  rw [if_neg hd.not_gt, ht, if_neg Bool.false_ne_true, hs]
  rfl

end

/-- What is taken out of a list leaves one element fewer. -/
theorem takeFirst_length {α : Type} {p : α → Bool} {l : List α} {y : α × List α} (h : takeFirst p l = some y) :
    y.2.length + 1 = l.length := by
  induction l generalizing y with
  | nil => cases h
  | cons x r ih =>
    rw [takeFirst] at h
    split at h
    · cases h
      rfl
    · obtain ⟨z, hz, rfl⟩ := Option.map_eq_some_iff.mp h
      rw [List.length_cons, List.length_cons, ih hz]

/-- What stays in a lens cache leaves room for one entry more (R169). -/
theorem lensRoom_length {s : State} {n q : Nat} {l : List LensEntry} (h : lensRoom s n q = some l) :
    l.length + 1 ≤ max 64 (qd s n q).lens.length := by
  unfold lensRoom at h
  dsimp only at h
  split at h
  · cases h
    omega
  · obtain ⟨z, hz, rfl⟩ := Option.map_eq_some_iff.mp h
    have fewer := takeFirst_length hz
    rw [List.length_reverse] at fewer ⊢
    omega

/-- A fill that is made puts its entry in front, in a cache that still holds 64 at most (R169). -/
theorem fillLens_front {s s' : State} {n c : Nat} {x : Shadow} {ent id kt nt : Nat}
    (h : fillLens s n c x ent id kt nt = (.inr (), s')) :
    ∃ l, (qd s' n (quadOf c)).lens.head? = some l ∧ lensIs l (tenantOf (co s' n c)) id kt nt (adGen ent) = true
      ∧ (qd s' n (quadOf c)).lens.length ≤ max 64 (qd s n (quadOf c)).lens.length := by
  unfold fillLens at h
  dsimp only at h
  split at h
  · cases h
  next cur room =>
  split at h
  · cases h
  split at h
  · cases h
  cases h
  rw [qd_modQd, if_pos ⟨rfl, rfl⟩, co_modQd]
  exact ⟨_, rfl, by simp [lensIs], lensRoom_length room⟩

/-! Replays. -/

/-- The rows that are ready for a listed k-step (R171). -/
def readyRows (s : State) (n c : Nat) (x : Shadow) (r : Reduction) (kk : Nat) : List (Nat × Nat) :=
  (replayHeads r).filter fun p => p.2 == kk && (replayEntry s n c x r p).isSome

/-- The k-step that is replayed next has a listed row that is ready. -/
theorem replayNext_ready {s : State} {n c kk : Nat} {x : Shadow} {r : Reduction} (h : replayNext s n c x r = some kk) :
    ∃ p ∈ r.replay, p ∈ readyRows s n c x r kk := by
  obtain ⟨p, found, rfl⟩ := Option.map_eq_some_iff.mp h
  have head := List.mem_of_find?_eq_some found
  have ready := List.find?_some found
  refine ⟨p, List.mem_of_mem_filter head, List.mem_filter.mpr ⟨head, ?_⟩⟩
  rw [beq_self_eq_true, Bool.true_and]
  exact ready

theorem exec_replay_runs {s : State} {n c kk st : Nat} {x : Shadow} {r : Reduction} (hd : replayDue s n c = true)
    (hr : (co s n c).red = some r) (hn : nestOf (co s n c) r.entry = some (x, st)) (hk : replayNext s n c x r = some kk)
    (hm : replayMiss s n c x r = []) : exec (.replay n c) s = .next (replayRun s n c x r kk) := by
  rw [exec_replay, execReplay, hd, Bool.not_true, if_neg Bool.false_ne_true]
  dsimp only
  rw [hr]
  dsimp only
  rw [hn]
  dsimp only
  rw [hm, List.foldl_nil, hr, hk]

/-- A lens entry that no error has struck faults no lookup. -/
theorem lensBad_sound (x : Shadow) (ent : Nat) {l : LensEntry} (h : l.bad = false) : lensBad x ent l = none := by
  rw [lensBad, h, if_neg Bool.false_ne_true]

/-- The use of lens entries changes no core. -/
theorem co_foldl_lensUse (l : List LensEntry) (s : State) (n q m c : Nat) :
    co (l.foldl (fun s y => lensUse s n q y) s) m c = co s m c := by
  induction l generalizing s with
  | nil => rfl
  | cons y r ih => rw [List.foldl_cons, ih, lensUse, co_modQd]

/-- On the way into retirement a reduction is in progress no more, or as before; no replay is counted. -/
theorem toRetire_red (s : State) (n c : Nat) :
    (co (toRetire s n c) n c).replays = (co s n c).replays
      ∧ ∀ w, (co (toRetire s n c) n c).red = some w → (co s n c).red = some w := by
  unfold toRetire
  dsimp only
  split
  · split
    · exact ⟨rfl, fun _ => id⟩
    · rw [co_modCo_same]
      exact ⟨rfl, fun _ h => nomatch h⟩
  · exact ⟨rfl, fun _ => id⟩

/-- A replay that no struck entry and no operand stops: its rows leave the list and are counted (R171). -/
theorem replayRun_plain {s : State} {n c kk : Nat} {x : Shadow} {r : Reduction} {a : List (List Val)}
    (ha : operandA (co s n c) x r.q kk = .inr a) (hs : ∀ p e, replayEntry s n c x r p = some e → e.bad = false) :
    ∃ t w, co t n c = co s n c ∧ w.replay = r.replay.filter (fun p => !(readyRows s n c x r kk).contains p)
      ∧ replayRun s n c x r kk = toRetire (modCo t n c fun k =>
          { k with red := some w, replays := k.replays + (readyRows s n c x r kk).length }) n c := by
  have sound : ((readyRows s n c x r kk).findSome? fun p =>
      (replayEntry s n c x r p).bind (lensBad x (tabOf r (r.ids.getD p.1 0)))) = none := by
    refine List.findSome?_eq_none_iff.mpr fun p _ => Option.bind_eq_none_iff.mpr fun e he => ?_
    exact lensBad_sound x _ (hs p e he)
  unfold replayRun
  dsimp only
  rw [← readyRows, sound]
  dsimp only
  rw [ha]
  exact ⟨_, _, co_foldl_lensUse .., rfl, rfl⟩

/-- A replay takes at least one listed k-step off the list. -/
theorem replayRun_progress {s : State} {n c kk : Nat} {x : Shadow} {r : Reduction} {a : List (List Val)}
    (hk : replayNext s n c x r = some kk) (ha : operandA (co s n c) x r.q kk = .inr a)
    (hs : ∀ p e, replayEntry s n c x r p = some e → e.bad = false) :
    (co s n c).replays < (co (replayRun s n c x r kk) n c).replays
      ∧ ∀ w, (co (replayRun s n c x r kk) n c).red = some w → w.replay.length < r.replay.length := by
  obtain ⟨p, listed, ready⟩ := replayNext_ready hk
  obtain ⟨t, w, same, left, ran⟩ := replayRun_plain ha hs
  have nonempty : 0 < (readyRows s n c x r kk).length := List.length_pos_of_mem ready
  obtain ⟨counted, kept⟩ := toRetire_red (modCo t n c fun k =>
    { k with red := some w, replays := k.replays + (readyRows s n c x r kk).length }) n c
  rw [co_modCo_same, same] at counted kept
  rw [ran, counted]
  refine ⟨Nat.lt_add_of_pos_right nonempty, fun v hv => ?_⟩
  cases kept v hv
  rw [left, List.length_filter_lt_length_iff_exists]
  exact ⟨p, listed, by simp [ready]⟩

/-- Settles O31: each step of the engine by what it answers, and by what it leaves of the core. -/
theorem matrixSteps : Obligations.MatrixSteps := by
  refine ⟨⟨fun s n c e x start => reduction_starts, fun s n c r x st hd hr hf ht hn => ⟨fun work => kStep_adds hd hr hf ht hn,
      fun f ho hm => ?_, kStep_ends hd hr hf ht hn⟩, fun s n c r => reduction_retires⟩,
    fun s n c e r hd hq hu => ⟨fun hb hs => accOp_begins hd hq hu hb ?_, fun dst src m k hb ho hs => accOp_faults hd hq hb ?_,
      fun hb w => ⟨fun first m => aclr_done hd hq hu hb w, fun dst src m => acopy_done hd hq hu hb w⟩⟩,
    fun s n c e r id kt nt x hd hr hq ho hb hu => ⟨adload_zero hd hr hq ho hb hu, adload_begins hd hr hq ho hb hu⟩,
    fun s n c r => exec_lensFill_reduction,
    fun k s n c r x st id kt nt due l hr hn hf hd => ⟨fillsDue_there hr hn hf hd, fun s' => fillsDue_filled hr hn hf hd⟩,
    fun s n c x ent id kt nt s' => fillLens_front, fun s n c r x st kk => exec_replay_runs,
    fun s n c r x kk a hr => replayRun_progress⟩
  · rw [exec_kStep_runs hd hr hf hn ho, runStep_faults hm]
  · cases ho : e.op
    case acopy dst src m => exact hs dst src m ho
    all_goals rfl
  · rw [ho]
    exact hs

end Sys2Proof.Machine
end

section
/-! PROOFS. Stores and misaligned accesses (R198, R212, R214, R215, R226): the outcomes of ST, its frame in a scratchpad, and
ALIGN before any other check (O14, O15). -/

namespace Sys2Proof.Machine

open Sys2Proof.Claims

/-! A misaligned address. -/

theorem accessPre_misaligned {s : State} {va : Word} {size align : Nat} {need : Need} {write : Bool}
    (h : va.toNat % align ≠ 0) : accessPre s va size align need write = .fault (causeAt s 0x04 va) s := if_pos h

theorem loadPre_misaligned {s : State} {va : Word} {size : Nat} (h : va.toNat % size ≠ 0) :
    loadPre s va size = .fault (causeAt s 0x04 va) s := by
  rw [loadPre, loadFound, accessPre_misaligned h]

/-! What an issue leaves of the moving task. -/

theorem classOf_past (s : State) (t : Tok) (len : Nat) : classOf (cc (past s t len)) = classOf (cc s) :=
  (IssueFrame.past s t len).core classOf

/-- A claim's sources but the first are ready too. -/
theorem canIssue_tail {s : State} {t : Tok} {seqs : List Seq} {r : Reg} {rs : List Reg} {k : Nat}
    (h : CanIssue s t seqs (r :: rs) k) : CanIssue s t seqs rs k := by
  obtain ⟨runs, taken, span, flags, pops, room, ready, slots⟩ := h
  rw [srcsReady, List.all_cons, Bool.and_eq_true] at ready
  exact ⟨runs, taken, span, flags, pops, room, ready.2, slots⟩

/-! ST (R214). -/

section
variable {t : Tok} {d a : Reg} {o : BitVec 9} {size : Nat} {s s' : State} {x : Access}

theorem storeOp_pre_go (hp : accessPre s (memAddr s a o size) size size .w true = .go x s') :
    (storeOp t d a o size).pre s = if strongReady s' x.t then .go x s' else .hold s' := by
  simp only [storeOp, hp]

/-- ST on the state that its issue leaves: the operands, the agent and its class are those before the issue. -/
theorem storeOp_eff (hp : accessPre s (memAddr s a o size) size size .w true = .go x s') :
    (storeOp t d a o size).eff x (past s' t 1) = match x.t with
      | .remote m rl off => sendStore (strongRelease (past s' t 1) x.t) m rl off size (memAddr s a o size)
          (BitVec.ofNat 1024 ((reg s' d).toNat % 2 ^ (8 * size))) false
      | tg => writeT (strongRelease (past s' t 1) tg) s.cur.node s.cur.core (some (classOf (cc s'))) tg size (fullMask size)
          (reg s' d).toNat := by
  have kept : (past s' t 1).cur = s.cur := (same_past s' t 1).cur.trans (accessPre_keeps hp).cur
  rw [← kept, ← (same_past s' t 1).reg, ← classOf_past s' t 1, ← accessPre_va hp]
  obtain ⟨tg, va⟩ := x
  cases tg <;> rfl

/-- The outcomes of a row of the stores. -/
theorem store_outcomes {i : Tok → Reg → Reg → BitVec 9 → Instr}
    (hi : ∀ t d a o s, exec (i t d a o) s = runOp (storeOp t d a o size) s)
    (t : Tok) (d a : Reg) (o : BitVec 9) (s : State) (h : CanIssue s t [.ctrl, .load, .store] [d, a] 0) :
    (∀ k s', accessPre s (memAddr s a o size) size size .w true = .fault k s' →
      exec (i t d a o) s = .next (takeTrap s' s.cur.node s.cur.core k))
    ∧ (∀ s', accessPre s (memAddr s a o size) size size .w true = .hold s' → exec (i t d a o) s = .next (setBlocked s))
    ∧ (∀ x s', accessPre s (memAddr s a o size) size size .w true = .go x s' → strongReady s' x.t = false →
      exec (i t d a o) s = .next (setBlocked s))
    ∧ (∀ x s', accessPre s (memAddr s a o size) size size .w true = .go x s' → strongReady s' x.t = true →
      exec (i t d a o) s = .next ((storeOp t d a o size).eff x (past s' t 1))) := by
  have decoded : decodeFault (storeOp t d a o size) s = none := decodeFault_none rfl (.inl rfl) h.taken rfl
  rw [hi]
  refine ⟨fun k s' hp => ?_, fun s' hp => ?_, fun x s' hp hs => ?_, fun x s' hp hs => ?_⟩
  · exact runOp_fault_of_canIssue h decoded (by simp only [storeOp, hp])
  · exact runOp_hold_of_canIssue (s' := s') h decoded (by simp only [storeOp, hp])
  · exact runOp_hold_of_canIssue (s' := s') h decoded ((storeOp_pre_go hp).trans (by rw [hs, if_neg Bool.false_ne_true]))
  · exact runOp_of_canIssue h decoded ((storeOp_pre_go hp).trans (if_pos hs)) rfl

end

/-! A store in a scratchpad (R189, R214, R243). -/

theorem spadWrite_narrow (k : Core) (off mask v : Nat) {size : Nat} (h : size ≠ 128) :
    spadWrite k off size mask v = { k with spad := memMasked k.spad off mask v size } := if_neg fun e => h e.1

/-- What an issue leaves of the bytes of a scratchpad. -/
theorem IssueFrame.spad {s p : State} (h : IssueFrame s p) (w : Nat) :
    (co p s.cur.node w).spad = (co s s.cur.node w).spad := by
  by_cases hw : w = s.cur.core
  · have own := h.core Core.spad
    rw [cc, h.cur] at own
    rwa [hw]
  · rw [h.cores _ _ fun e => hw e.2]

/-- The state `p` with other bytes in the scratchpad of core `w` of the moving node. -/
def putSpad (p : State) (n w : Nat) (m : Memory) : State := modCo p n w fun k => { k with spad := m }

@[simp] theorem spad_putSpad (p : State) (n w : Nat) (m : Memory) : (co (putSpad p n w m) n w).spad = m := by
  rw [putSpad, co_modCo_same]

theorem sq_putSpad (p : State) (n w : Nat) (m : Memory) (i c : Nat) (q : Seq) : sq (putSpad p n w m) i c q = sq p i c q := by
  rw [putSpad, sq_modCo]
  split
  · next e => rw [e.1, e.2]; exact seqIn_congr rfl rfl rfl q
  · rfl

theorem reg_putSpad (p : State) (n w : Nat) (m : Memory) (r : Reg) : reg (putSpad p n w m) r = reg p r :=
  congrArg (regRead · r) (sq_putSpad ..)

/-- Bytes written in a scratchpad are its new bytes. -/
theorem putSpad_eq (p : State) (n w : Nat) (g : Memory → Memory) :
    (modCo p n w fun k => { k with spad := g k.spad }) = putSpad p n w (g (co p n w).spad) := rfl

/-- The frame of a scratchpad's new bytes behind an issue: no other byte, core, sequencer or node has changed. -/
theorem putSpad_frame {s p : State} (h : IssueFrame s p) (w : Nat) (m : Memory) {y : State} (hy : y = putSpad p s.cur.node w m) :
    (w ≠ s.cur.core → (cc y).spad = (cc s).spad)
    ∧ (∀ q, q ≠ s.cur.seq → sq y s.cur.node s.cur.core q = sq s s.cur.node s.cur.core q)
    ∧ (∀ n, nodeRest (nd y n) = nodeRest (nd s n))
    ∧ (∀ n c, ¬(n = s.cur.node ∧ (c = s.cur.core ∨ c = w)) → co y n c = co s n c)
    ∧ (w ≠ s.cur.core → { co y s.cur.node w with spad := [] } = { co s s.cur.node w with spad := [] })
    ∧ coreRest { cc y with spad := [] } = coreRest { cc s with spad := [] } := by
  subst hy
  have here : cc (putSpad p s.cur.node w m) = co (putSpad p s.cur.node w m) s.cur.node s.cur.core := by
    rw [cc, putSpad, modCo_cur, h.cur]
  have own : cc p = co p s.cur.node s.cur.core := by rw [cc, h.cur]
  have other {n c : Nat} (e : ¬(n = s.cur.node ∧ c = w)) : co (putSpad p s.cur.node w m) n c = co p n c := co_modCo_ne p _ e
  refine ⟨fun hw => ?_, fun q hq => (sq_putSpad ..).trans (h.seqs q hq), fun n => (nodeRest_modCo ..).trans (h.nodes n),
    fun n c hc => ?_, fun hw => ?_, ?_⟩
  · rw [here, other fun e => hw e.2.symm, h.spad, cc]
  · exact (other fun e => hc ⟨e.1, .inr e.2⟩).trans (h.cores n c fun e => hc ⟨e.1, .inl e.2⟩)
  · rw [putSpad, co_modCo_same, h.cores _ _ fun e => hw e.2]
  · have rest := h.core fun k => { k with spad := [] }
    rw [own] at rest
    rw [here]
    by_cases hw : w = s.cur.core
    · rw [hw, putSpad, co_modCo_same]
      exact rest
    · rw [other fun e => hw e.2.symm]
      exact rest

section
variable {i : Tok → Reg → Reg → BitVec 9 → Instr} {size : Nat} {t : Tok} {d a : Reg} {o : BitVec 9} {s : State} {x : Access}
  {w off : Nat}

/-- A store in a scratchpad: the issue, and the bytes stored (R214). -/
theorem store_spad (hi : ∀ t d a o s, exec (i t d a o) s = runOp (storeOp t d a o size) s) (hn : size ≠ 128)
    (h : CanIssue s t [.ctrl, .load, .store] [d, a] 0) (hp : accessPre s (memAddr s a o size) size size .w true = .go x s)
    (hx : x.t = .spad w off) :
    exec (i t d a o) s = .next (putSpad (past s t 1) s.cur.node w
      (memMasked (co s s.cur.node w).spad off (fullMask size) (reg s d).toNat size)) := by
  have ready : strongReady s x.t = true := by rw [hx]; rfl
  rw [(store_outcomes hi t d a o s h).2.2.2 x s hp ready, storeOp_eff hp, hx]
  have same : (strongRelease (past s t 1) (.spad w off)) = past s t 1 := rfl
  simp only [same, writeT, spadWrite_narrow _ _ _ _ hn]
  rw [← (IssueFrame.past s t 1).spad w]
  exact congrArg _ (putSpad_eq (past s t 1) s.cur.node w fun m => memMasked m off (fullMask size) (reg s d).toNat size)

end

/-- Settles O14: each row by its operation; in a scratchpad the masked write reads back, and the issue has its frame. -/
theorem stores : Obligations.Stores := by
  have rows : ∀ e ∈ ([(Instr.stb, 1), (Instr.sth, 2), (Instr.stw, 4), (Instr.std, 8)]
      : List ((Tok → Reg → Reg → BitVec 9 → Instr) × Nat)),
      (∀ t d a o s, exec (e.1 t d a o) s = runOp (storeOp t d a o e.2) s) ∧ e.2 ≠ 128 := by
    refine List.forall_iff_forall_mem.mp ?_
    exact ⟨⟨fun _ _ _ _ _ => rfl, by decide⟩, ⟨fun _ _ _ _ _ => rfl, by decide⟩, ⟨fun _ _ _ _ _ => rfl, by decide⟩,
      ⟨fun _ _ _ _ _ => rfl, by decide⟩⟩
  refine ⟨fun e he t d a o s h => ?_, fun e he t d a o s x w off h hp hx wf => ?_⟩
  · obtain ⟨faults, waits, unready, goes⟩ := store_outcomes (rows e he).1 t d a o s h
    exact ⟨faults, waits, unready, fun x s' hp hs => (goes x s' hp hs).trans (congrArg _ (storeOp_eff hp))⟩
  · have issued : IssueFrame s (past s t 1) := .past s t 1
    obtain ⟨own, seqs, nodes, cores, peer, rest⟩ := putSpad_frame issued w
      (memMasked (co s s.cur.node w).spad off (fullMask e.2) (reg s d).toNat e.2) rfl
    refine ⟨_, store_spad (rows e he).1 (rows e he).2 h hp hx, ?_, fun b hb => ?_, ?_, own, fun r => ?_, seqs, nodes, cores,
      peer, rest⟩
    · rw [spad_putSpad, memRead_memMasked_fullMask _ _ _ _ wf]
    · rw [spad_putSpad, smGet_memMasked_outside _ _ _ _ _ hb]
    · rw [spad_putSpad]
      exact memMasked_wf _ _ _ _ _ wf
    · exact (reg_putSpad ..).trans ((same_past s t 1).reg r)

/-- Settles O15: ALIGN stands before every other check of loads and of stores. -/
theorem misalignedAccess : Obligations.MisalignedAccess := by
  refine List.forall_iff_forall_mem.mp ?_
  have load {i : Tok → Reg → Reg → BitVec 9 → Instr} {size : Nat} {signed : Bool}
      (hi : ∀ t d a o s, exec (i t d a o) s = runOp (loadOp t d a o size signed) s) (t d a o s)
      (h : CanIssue s t [.ctrl, .load, .store] [d, a] 0) (hm : (memAddr s a o size).toNat % size ≠ 0) :
      exec (i t d a o) s = .next (takeTrap s s.cur.node s.cur.core (causeAt s 0x04 (memAddr s a o size))) :=
    (load_outcomes hi t d a o s (canIssue_tail h)).1 _ _ (loadPre_misaligned hm)
  have store {i : Tok → Reg → Reg → BitVec 9 → Instr} {size : Nat}
      (hi : ∀ t d a o s, exec (i t d a o) s = runOp (storeOp t d a o size) s) (t d a o s)
      (h : CanIssue s t [.ctrl, .load, .store] [d, a] 0) (hm : (memAddr s a o size).toNat % size ≠ 0) :
      exec (i t d a o) s = .next (takeTrap s s.cur.node s.cur.core (causeAt s 0x04 (memAddr s a o size))) :=
    (store_outcomes hi t d a o s h).1 _ _ (accessPre_misaligned hm)
  exact ⟨load fun _ _ _ _ _ => rfl, load fun _ _ _ _ _ => rfl, load fun _ _ _ _ _ => rfl, load fun _ _ _ _ _ => rfl,
    load fun _ _ _ _ _ => rfl, store fun _ _ _ _ _ => rfl, store fun _ _ _ _ _ => rfl, store fun _ _ _ _ _ => rfl⟩

end Sys2Proof.Machine
end

section
/-! PROOFS. The cache operations (R202, R217): PREF, CWB, CINV, CFLUSH and ZERO, and what dropping a line does (O17). -/

namespace Sys2Proof.Machine

open Sys2Proof.Claims

/-! What the checks of an access leave. -/

theorem Chk.Leaves.fault {α : Type} {f : Node → α} {x : Chk} {s t : State} {code : Nat} (h : x.Leaves f s)
    (hx : x = .fault code t) : Keeps f s t := by
  subst hx
  exact h

theorem causeAt_congr {s t : State} (h : t.cur = s.cur) (code : Nat) (va : Word) : causeAt t code va = causeAt s code va := by
  rw [causeAt, h, causeAt]

theorem cur_past (s : State) (t : Tok) (len : Nat) : (past s t len).cur = s.cur := (same_past s t len).cur

/-- An issue leaves the lines of L1 as they are. -/
theorem l1Take_past (s : State) (t : Tok) (len : Nat) (sp : Space) (pa : Nat) :
    l1Take (cc (past s t len)) sp pa = l1Take (cc s) sp pa := (IssueFrame.past s t len).core fun k => l1Take k sp pa

/-! PREF. -/

theorem exec_pref (t : Tok) (a : BitVec 5) (o : BitVec 9) (s : State) : exec (.pref t a o) s = execPref t a o s := rfl

section
variable {t : Tok} {a : Reg} {o : BitVec 9} {s s' : State}

theorem pref_fault {k : Nat} (h : CanIssue s t [.ctrl, .load, .store] [a] 0)
    (hc : chk s s.cur.node s.cur.core (lineAddr s a o) 128 .r = .fault k s') : exec (.pref t a o) s = .next (past s' t 1) := by
  rw [exec_pref]
  unfold execPref
  refine (runOp_of_canIssue (x := none) (s' := s') h (decodeFault_none rfl (.inl rfl) h.taken rfl) ?_ rfl).trans rfl
  simp only [hc]

theorem pref_remote {m off : Nat} {rl : Bool} (h : CanIssue s t [.ctrl, .load, .store] [a] 0)
    (hc : chk s s.cur.node s.cur.core (lineAddr s a o) 128 .r = .ok (.remote m rl off) s') :
    exec (.pref t a o) s = .next (past s' t 1) := by
  rw [exec_pref]
  unfold execPref
  refine (runOp_of_canIssue (x := none) (s' := s') h (decodeFault_none rfl (.inl rfl) h.taken rfl) ?_ rfl).trans rfl
  simp only [hc]

/-- PREF of a line of this node: L1 keeps it or is filled with it, or it passes L2. -/
theorem pref_mem {sp : Space} {pa : Nat} {k : Kind} {zp : Bool} (h : CanIssue s t [.ctrl, .load, .store] [a] 0)
    (hc : chk s s.cur.node s.cur.core (lineAddr s a o) 128 .r = .ok (.mem sp pa k zp) s')
    (hb : bucketHold s' (.mem sp pa k zp) 128 .r = false) :
    exec (.pref t a o) s = .next
      (if l1Holds sp k then
         (if (l1Take (cc s') sp pa).isSome then past s' t 1
          else l1Fill (past s' t 1) s.cur.node s.cur.core (some (classOf (cc s'))) sp pa k true)
       else touch (past s' t 1) s.cur.node (some (classOf (cc s'))) sp (pa / 128 * 128) 128 false) := by
  have there : (past s' t 1).cur = s.cur := (cur_past s' t 1).trans ((chk_keeps ..).ok hc).cur
  rw [exec_pref]
  unfold execPref
  refine (runOp_of_canIssue (x := some (.mem sp pa k zp)) (s' := s') h (decodeFault_none rfl (.inl rfl) h.taken rfl) ?_ rfl).trans
    (congrArg _ ?_)
  · simp only [hc, hb, Bool.false_eq_true, if_false]
  · rw [← there, ← classOf_past s' t 1, ← l1Take_past s' t 1]
    refine if_congr Iff.rfl ?_ rfl
    change (match l1Take (cc (past s' t 1)) sp pa with | some _ => _ | none => _) = _
    cases l1Take (cc (past s' t 1)) sp pa <;> rfl

end

/-! CWB, CINV and CFLUSH. -/

/-- The outcomes of a cache operation of L1: its fault at the line's address, or what it does to the line of a local page. -/
theorem cacheOp_outcomes {i : Tok → Reg → BitVec 9 → Instr} {need : Need} {act : State → Space → Nat → State}
    (hi : ∀ t a o s, exec (i t a o) s = runOp (cacheOp t a o need act) s)
    (t : Tok) (a : Reg) (o : BitVec 9) (s : State) (h : CanIssue s t [.ctrl, .load, .store] [a] 0) :
    let la := lineAddr s a o
    let ask := if inAperture la then .r else need
    (∀ k s', chk s s.cur.node s.cur.core la 128 ask = .fault k s' →
      exec (i t a o) s = .next (takeTrap s' s.cur.node s.cur.core (causeAt s k la)))
    ∧ ∀ tg s', chk s s.cur.node s.cur.core la 128 ask = .ok tg s' →
      exec (i t a o) s = .next (match tg with
        | .mem sp pa _ _ => act (past s' t 1) sp pa
        | _ => past s' t 1) := by
  intro la ask
  have decoded : decodeFault (cacheOp t a o need act) s = none := decodeFault_none rfl (.inl rfl) h.taken rfl
  have checked := chk_keeps s s.cur.node s.cur.core la 128 ask
  rw [hi]
  refine ⟨fun k s' hc => ?_, fun tg s' hc => ?_⟩
  · rw [← causeAt_congr (checked.fault hc).cur]
    refine runOp_fault_of_canIssue h decoded ?_
    simp only [cacheOp, la, ask] at hc ⊢
    rw [hc]
  · refine (runOp_of_canIssue (x := ⟨tg, la⟩) (s' := s') h decoded ?_ rfl).trans (congrArg _ ?_)
    · simp only [cacheOp, la, ask] at hc ⊢
      rw [hc]
    · cases tg <;> rfl

/-! ZERO. -/

theorem exec_zero (t : Tok) (a : BitVec 5) (o : BitVec 9) (s : State) : exec (.zero t a o) s = execZero t a o s := rfl

theorem zero_goes {t : Tok} {a : Reg} {o : BitVec 9} {s s' : State} {x : Access}
    (h : CanIssue s t [.ctrl, .load, .store] [a] 0) (hp : accessPre s (lineAddr s a o) 128 1 .w true = .go x s')
    (hs : strongReady s' x.t = true) :
    exec (.zero t a o) s = .next (match x.t with
      | .remote m rl off => sendStore (strongRelease (past s' t 1) x.t) m rl off 128 (lineAddr s a o) 0 false
      | tg => writeT (strongRelease (past s' t 1) tg) s.cur.node s.cur.core (some (classOf (cc s'))) tg 128 (fullMask 128) 0) := by
  have there : (past s' t 1).cur = s.cur := (cur_past s' t 1).trans (accessPre_keeps hp).cur
  rw [exec_zero]
  unfold execZero
  refine (runOp_of_canIssue (x := x) (s' := s') h (decodeFault_none rfl (.inl rfl) h.taken rfl) ?_ rfl).trans (congrArg _ ?_)
  · simp only [hp, hs, if_true]
  · rw [← there, ← classOf_past s' t 1, ← accessPre_va hp]
    obtain ⟨tg, va⟩ := x
    cases tg <;> rfl

/-! Lines dropped from L1 (R202). -/

/-- What is taken out of a list is one of its elements, in front of those without the property. -/
theorem takeFirst_eq {α : Type} {p : α → Bool} {l : List α} {y : α × List α} (h : takeFirst p l = some y) :
    p y.1 = true ∧ ∃ a b, l = a ++ y.1 :: b ∧ y.2 = a ++ b ∧ ∀ x ∈ a, p x = false := by
  induction l generalizing y with
  | nil => cases h
  | cons x r ih =>
    rw [takeFirst] at h
    split at h
    · next hx =>
      cases h
      exact ⟨hx, [], r, rfl, rfl, fun _ hm => nomatch hm⟩
    · next hx =>
      obtain ⟨z, hz, rfl⟩ := Option.map_eq_some_iff.mp h
      obtain ⟨found, a, b, rfl, rest, before⟩ := ih hz
      exact ⟨found, x :: a, b, rfl, congrArg (x :: ·) rest, List.forall_mem_cons.mpr ⟨Bool.eq_false_iff.mpr hx, before⟩⟩

theorem takeFirst_none {α : Type} {p : α → Bool} {l : List α} (h : ∀ x ∈ l, p x = false) : takeFirst p l = none := by
  induction l with
  | nil => rfl
  | cons x r ih =>
    obtain ⟨hx, hr⟩ := List.forall_mem_cons.mp h
    rw [takeFirst, hx, ih hr]
    rfl

/-- L1 holds a line once, so without it the line is in no way of L1. -/
theorem l1Take_rest {k k' : Core} {sp : Space} {pa : Nat} {l : L1Line} {rest : List L1Line}
    (once : k.l1.Pairwise fun x y => ¬(x.sp = y.sp ∧ x.pa = y.pa)) (h : l1Take k sp pa = some (l, rest)) (hk : k'.l1 = rest) :
    l1Take k' sp pa = none := by
  obtain ⟨found, a, b, held, left, before⟩ := takeFirst_eq h
  rw [held] at once
  have apart := (List.pairwise_cons.mp (List.pairwise_append.mp once).2.1).1
  rw [l1Take, hk, show rest = a ++ b from left]
  simp only [Bool.and_eq_true, beq_iff_eq] at found
  refine takeFirst_none fun x hx => ?_
  rcases List.mem_append.mp hx with hx | hx
  · exact before x hx
  · refine Bool.eq_false_iff.mpr fun same => apart x hx ?_
    simp only [Bool.and_eq_true, beq_iff_eq] at same
    exact ⟨found.1.trans same.1.symm, found.2.trans same.2.symm⟩

/-- A line written back stays where it is in its core. -/
theorem co_writeBack (s : State) (n : Nat) (l : L1Line) (m c : Nat) : co (writeBack s n l) m c = co s m c := by
  have blind : SeesNoHome Node.cores := fun _ => rfl
  have kept : Keeps Node.cores s (writeBack s n l) := by
    unfold writeBack
    split
    · exact .refl s
    · refine .trans (touchUncharged_keeps blind.port s n _ _ _ _) (.home blind _ n fun d => ?_)
      dsimp only
      split <;> simp
  rw [co, kept.nodes, co]

/-- A line that is dropped is no longer held, written back or not. -/
theorem l1Take_l1Drop {s : State} {n c : Nat} (sp : Space) (pa : Nat) (wb : Bool)
    (once : (co s n c).l1.Pairwise fun x y => ¬(x.sp = y.sp ∧ x.pa = y.pa)) :
    l1Take (co (l1Drop s n c sp pa wb) n c) sp pa = none := by
  unfold l1Drop
  split
  · next h => exact h
  · next l rest h =>
    refine l1Take_rest once h ?_
    dsimp only
    split
    · rw [co_writeBack, co_modCo_same]
    · rw [co_modCo_same]

/-- Without write-back no home byte changes. -/
theorem nodeRest_l1Drop (s : State) (n c : Nat) (sp : Space) (pa m : Nat) :
    nodeRest (nd (l1Drop s n c sp pa false) m) = nodeRest (nd s m) := by
  unfold l1Drop
  split
  · rfl
  · dsimp only
    rw [if_neg Bool.false_ne_true]
    exact nodeRest_modCo ..

/-- Settles O17: each operation by its own checks, and a drop by the one line that it takes out of L1. -/
theorem cacheOperations : Obligations.CacheOperations := by
  refine ⟨⟨fun t a o s h => ⟨fun k s' => pref_fault h, fun m rl off s' => pref_remote h, fun sp pa k zp s' => pref_mem h⟩,
    List.forall_iff_forall_mem.mp ?_, fun t a o s x s' => zero_goes⟩,
    fun s n c sp pa once => ⟨l1Take_l1Drop sp pa false once, nodeRest_l1Drop s n c sp pa, l1Take_l1Drop sp pa true once⟩⟩
  exact ⟨cacheOp_outcomes fun _ _ _ _ => rfl, cacheOp_outcomes fun _ _ _ _ => rfl, cacheOp_outcomes fun _ _ _ _ => rfl⟩

end Sys2Proof.Machine
end

section
/-! PROOFS. The block transfers (R218, R219): what their checks find, what their lines leave of the sequencers as they move, and
the transfer that is outstanding (O18). -/

namespace Sys2Proof.Machine

open Sys2Proof.Claims

/-! The checks. -/

theorem blkChecks_keeps {need : Need} {l : List (Word × Nat)} {s s' : State} {ls : List (Target × Nat)}
    (h : blkChecks need l s = (.inr ls, false, s')) : Keeps accessView s s' := by
  induction l generalizing s ls with
  | nil =>
    cases h
    exact .refl _
  | cons x r ih =>
    obtain ⟨va, off⟩ := x
    have checked := chk_keeps s s.cur.node s.cur.core va 128 need
    unfold blkChecks at h
    split at h
    · cases h
    · cases h
    next t s1 hc =>
    split at h
    · next hr =>
      cases h
      exact (checked.ok hc).trans (ih hr)
    · exact (checked.ok hc).trans (ih h)

section
variable {α : Type} {p : Prop} [Decidable p] {s s' s1 : State} {y : α} {r : Pre α}

/-- What goes on has passed a test that faults. -/
theorem ite_fault_go {k : Cause} (h : (if p then .fault k s1 else r) = .go y s') : r = .go y s' := by
  rcases either_of_ite h with h | h
  · cases h
  · exact h

/-- And one that waits. -/
theorem ite_hold_go (h : (if p then .hold s1 else r) = .go y s') : r = .go y s' := by
  rcases either_of_ite h with h | h
  · cases h
  · exact h

end

section
variable {t : Tok} {d : Reg} {a b : SOp} {shape : Word → Option BlkShape} {s s' : State}

theorem blk_illegal (h : shape (opv s b) = none) : (blkOp t d a b shape).pre s = .fault (causeHere s 0x01) s := by
  simp only [blkOp, h, codeIllegal]

theorem blk_misaligned {x : BlkShape} (h : shape (opv s b) = some x) (ha : (opv s a).toNat % 128 ≠ 0) :
    (blkOp t d a b shape).pre s = .fault (causeAt s 0x04 (opv s a)) s := by
  simp only [blkOp, h, if_pos ha, codeAlign]

/-- A transfer that goes on has the shape that opB says, and no more has changed than its checks have left. -/
theorem blk_goes {y : BlkPlan} (h : (blkOp t d a b shape).pre s = .go y s') :
    shape (opv s b) = some y.x ∧ y.next = opv s a + BitVec.ofNat 64 y.x.n * y.x.stride ∧ Keeps accessView s s' := by
  unfold blkOp at h
  dsimp only at h
  split at h
  · cases h
  next x hx =>
  generalize (if x.store = true then Need.w else Need.r) = need at h
  replace h := ite_fault_go (ite_fault_go h)
  split at h
  · cases h
  · cases h
  next ls s1 hc =>
  replace h := ite_hold_go (ite_hold_go (ite_hold_go (ite_fault_go h)))
  split at h
  · cases h
  · cases h
  · cases h
    exact ⟨hx, rfl, blkChecks_keeps hc⟩

end

/-! The lines as they move. -/

theorem l1Clean_keeps (s : State) (n c : Nat) (l : L1Line) : Keeps accessView s (l1Clean s n c l) := by
  unfold l1Clean
  refine (writeBack_keeps s n l).trans (accessView_modCo _ n c ?_)
  exact fun _ => rfl

theorem releaseL1_keeps (s : State) (n c scope : Nat) (all : Bool) : Keeps accessView s (releaseL1 s n c scope all) := by
  unfold releaseL1
  split
  · exact .refl s
  · exact .foldl _ (fun s l => l1Clean_keeps s n c l) _ s

theorem strongRelease_keeps (s : State) (t : Target) : Keeps accessView s (strongRelease s t) := by
  unfold strongRelease
  split
  · exact releaseL1_keeps ..
  · exact .refl s

theorem seqs_blind : SeesCores seqCore (coresVia seqCore) := seesCores_via fun _ _ => id

/-- An access leaves the sequencers of every core alone. -/
theorem Keeps.accessSeqs {s t : State} (h : Keeps accessView s t) : Keeps (coresVia seqCore) s t :=
  h.comp fun v c => seqCore (v.2 c)

theorem sendWindow_seqs (s : State) (m : Nat) (rl : Bool) (tag off size : Nat) (op : WinOp) (data : BitVec 1024) (p : Bool) :
    Keeps (coresVia seqCore) s (sendWindow s m rl tag off size op data p) :=
  (sendWindow_cores ..).comp fun r c => seqCore (r c)

theorem newTag_seqs (s : State) : Keeps (coresVia seqCore) s (newTag s).2 := by
  change Keeps (coresVia seqCore) s (modCc s fun k => { k with nextTag := k.nextTag + 1 })
  refine .modCc_sees seqs_blind s ?_
  exact fun _ => rfl

theorem sendStore_seqs (s : State) (m : Nat) (rl : Bool) (off size : Nat) (va : Word) (data : BitVec 1024) (p : Bool) :
    Keeps (coresVia seqCore) s (sendStore s m rl off size va data p) := by
  unfold sendStore
  refine .trans ((newTag_seqs s).trans (.modCc_sees seqs_blind _ ?_)) (sendWindow_seqs ..)
  exact fun _ => rfl

/-- A line on this node, stored: with its order, and with its poison (R209, R226). -/
theorem blkMove_store (s : State) (tag : Nat) {t : Target} (off va : Nat) (h : ∀ m rl o, t ≠ .remote m rl o) :
    blkMove true tag s ((t, off), va)
      = (let w := writeT (strongRelease s t) s.cur.node s.cur.core (some (classOf (cc s))) t 128 (fullMask 128)
          (spadRead (cc s) off 128)
        if spadPoisoned (cc s) off then poisonT w s.cur.node s.cur.core t else w) := by
  cases t with
  | remote m rl o => exact absurd rfl (h m rl o)
  | mem sp pa k zp => rfl
  | spad c o => rfl

/-- A line on this node, loaded. -/
theorem blkMove_load (s : State) (tag : Nat) {t : Target} (off va : Nat) (h : ∀ m rl o, t ≠ .remote m rl o) :
    blkMove false tag s ((t, off), va)
      = (let g := readT (strongAcquire s t) s.cur.node s.cur.core (some (classOf (cc s))) t 128
        let x := modCo g.s s.cur.node s.cur.core fun k => spadWrite k off 128 (fullMask 128) g.v
        if g.poison then poisonT x s.cur.node s.cur.core (.spad s.cur.core off) else x) := by
  cases t with
  | remote m rl o => exact absurd rfl (h m rl o)
  | mem sp pa k zp => rfl
  | spad c o => rfl

/-- A line that moves leaves every sequencer alone, wherever it lies. -/
theorem blkMove_seqs (store : Bool) (tag : Nat) (s : State) (l : (Target × Nat) × Nat) :
    Keeps (coresVia seqCore) s (blkMove store tag s l) := by
  obtain ⟨⟨t, off⟩, va⟩ := l
  by_cases far : ∃ m rl o, t = .remote m rl o
  · obtain ⟨m, rl, o, rfl⟩ := far
    cases store with
    | true => exact (strongRelease_keeps ..).accessSeqs.trans (sendStore_seqs ..)
    | false => exact sendWindow_seqs ..
  · have near : ∀ m rl o, t ≠ .remote m rl o := fun m rl o e => far ⟨m, rl, o, e⟩
    refine Keeps.accessSeqs ?_
    cases store with
    | true =>
      rw [blkMove_store s tag off va near]
      have stored := (strongRelease_keeps s t).trans (writeT_keeps _ s.cur.node s.cur.core (some (classOf (cc s))) t 128
        (fullMask 128) (spadRead (cc s) off 128))
      dsimp only
      split
      · exact stored.trans (poisonT_keeps ..)
      · exact stored
    | false =>
      rw [blkMove_load s tag off va near]
      have read := (strongAcquire_keeps s t).trans (readT_keeps _ s.cur.node s.cur.core (some (classOf (cc s))) t 128)
      have loaded := read.trans (accessView_modCo _ s.cur.node s.cur.core fun k => accessCore_spadWrite k off 128 (fullMask 128)
        (readT (strongAcquire s t) s.cur.node s.cur.core (some (classOf (cc s))) t 128).v)
      dsimp only
      split
      · exact loaded.trans (poisonT_keeps ..)
      · exact loaded

theorem mergeNew_seqs (s : State) (b m : Nat) : Keeps (coresVia seqCore) s (modCc s (mergeNew b m)) := by
  refine .modCc_sees seqs_blind s fun k => ?_
  unfold mergeNew
  split <;> rfl

/-! The transfer that is outstanding. -/

/-- The state of a transfer's issue once its lines have moved. -/
def blkMoved (y : BlkPlan) (p : State) : State :=
  modCc ((y.lines.zip y.vas).foldl (blkMove y.x.store (newTag p).1) (newTag p).2)
    (mergeNew (cc (newTag p).2).detBuf.length (cc (newTag p).2).detMine.length)

theorem blkMoved_seqs (y : BlkPlan) (p : State) : Keeps (coresVia seqCore) p (blkMoved y p) :=
  ((newTag_seqs p).trans (.foldl _ (blkMove_seqs y.x.store (newTag p).1) _ _)).trans (mergeNew_seqs ..)

/-- The cycles of a transfer: those of its slowest line, and one for each line. -/
def blkLat (y : BlkPlan) (p : State) : Nat :=
  (y.lines.foldl (fun m l => max m (accLat p p.cur.node p.cur.core l.1)) 0) + y.lines.length

/-- The record of a transfer, with its lines of other nodes that are still to come. -/
def blkRecord (t : Tok) (y : BlkPlan) (p : State) : BlkOp :=
  let far := (y.lines.zip y.vas).filter (blkFar y.x.store)
  ⟨(newTag p).1, p.cur.seq, y.x.store, far.map fun l => l.1, far.map fun l => l.2, y.x.off, 128 * y.x.rowLen * y.x.n,
    blkOwn p.cur.core y.lines, pushKey p t, p.now + blkLat y p⟩

/-- A transfer more is outstanding. -/
def addBlk (s : State) (w : BlkOp) : State := modCc s fun k => { k with blks := k.blks ++ [w] }

theorem blks_addBlk (s : State) (w : BlkOp) : (cc (addBlk s w)).blks = (cc s).blks ++ [w] := by rw [addBlk, cc_modCc]

theorem addBlk_seqs (s : State) (w : BlkOp) : Keeps (coresVia seqCore) s (addBlk s w) := by
  refine .modCc_sees seqs_blind s ?_
  exact fun _ => rfl

theorem blks_writeReg (s : State) (d : Reg) (v : Word) : (cc (writeReg s d v)).blks = (cc s).blks :=
  (IssueFrame.writeReg s d v).core Core.blks

theorem blkOp_eff (t : Tok) (d : Reg) (a b : SOp) (shape : Word → Option BlkShape) (y : BlkPlan) (p : State) :
    (blkOp t d a b shape).eff y p
      = schedule (writeReg (addBlk (blkMoved y p) (blkRecord t y p)) d y.next) (blkLat y p)
          (.blkRetire p.cur.node p.cur.core (newTag p).1) := rfl

/-- Only a load waits for lines, and only for those of other nodes. -/
theorem mem_blkRecord_lines {t : Tok} {y : BlkPlan} {p : State} {l : Target × Nat} (h : l ∈ (blkRecord t y p).lines) :
    y.x.store = false ∧ ∃ m rl off, l.1 = .remote m rl off := by
  obtain ⟨z, hz, rfl⟩ := List.mem_map.mp h
  have far := (List.mem_filter.mp hz).2
  unfold blkFar at far
  rw [Bool.and_eq_true, Bool.not_eq_true'] at far
  refine ⟨far.1, ?_⟩
  split at far
  · next m rl off ht => exact ⟨m, rl, off, ht⟩
  · cases far.2

/-- A transfer as it issues: it is outstanding, its register written, and its sequencer goes on. -/
theorem blkOp_issued {t : Tok} {d : Reg} {a b : SOp} {shape : Word → Option BlkShape} {y : BlkPlan} {p z : State}
    (hz : z = (blkOp t d a b shape).eff y p) :
    (cc z).blks = (cc (blkMoved y p)).blks ++ [blkRecord t y p] ∧ (d ≠ 0 → reg z d = y.next) ∧ (cs z).pc = (cs p).pc := by
  subst hz
  rw [blkOp_eff]
  have noted : cs (addBlk (blkMoved y p) (blkRecord t y p)) = cs p := ((blkMoved_seqs y p).trans (addBlk_seqs ..)).sameSeq
  refine ⟨?_, fun hd => ?_, ?_⟩
  · rw [cc_schedule, blks_writeReg, blks_addBlk]
  · rw [reg, cs_schedule, ← reg, reg_writeReg, if_neg hd, if_pos rfl]
  · rw [cs_schedule, cs_writeReg, noted]
    unfold regWrite
    split <;> rfl

/-- The outcomes of a row of the block transfers. -/
theorem blk_outcomes {i : Tok → Reg → SOp → SOp → Instr} {shape : Word → Option BlkShape}
    (hi : ∀ t d a b s, exec (i t d a b) s = runOp (blkOp t d a b shape) s)
    (t : Tok) (d : Reg) (a b : SOp) (s : State) (h : CanIssue s t [.load, .store] (sopSrcs a ++ sopSrcs b) 0) :
    (shape (opv s b) = none → exec (i t d a b) s = .next (takeTrap s s.cur.node s.cur.core (causeHere s 0x01)))
    ∧ (∀ x, shape (opv s b) = some x → (opv s a).toNat % 128 ≠ 0 →
        exec (i t d a b) s = .next (takeTrap s s.cur.node s.cur.core (causeAt s 0x04 (opv s a))))
    ∧ (∀ k s', (blkOp t d a b shape).pre s = .fault k s' → exec (i t d a b) s = .next (takeTrap s' s.cur.node s.cur.core k))
    ∧ (∀ s', (blkOp t d a b shape).pre s = .hold s' → exec (i t d a b) s = .next (setBlocked s))
    ∧ ∀ y s', (blkOp t d a b shape).pre s = .go y s' → ((cc s).blks.filter fun z => z.seq == s.cur.seq).length < 4 →
        ∃ z l w, exec (i t d a b) s = .next z ∧ (cc z).blks = l ++ [w] ∧ shape (opv s b) = some y.x
          ∧ w.store = y.x.store ∧ w.off = y.x.off ∧ w.len = 128 * y.x.rowLen * y.x.n ∧ w.seq = s.cur.seq
          ∧ (d ≠ 0 → reg z d = opv s a + BitVec.ofNat 64 y.x.n * y.x.stride)
          ∧ (cs z).pc = (cs (begun s' t (1 + sopLen a + sopLen b))).pc
          ∧ (∀ l ∈ w.lines, y.x.store = false ∧ ∃ m rl off, l.1 = .remote m rl off) := by
  have decoded : decodeFault (blkOp t d a b shape) s = none := decodeFault_none rfl (.inl rfl) h.taken rfl
  have faults {k s'} (hp : (blkOp t d a b shape).pre s = .fault k s') :
      exec (i t d a b) s = .next (takeTrap s' s.cur.node s.cur.core k) := by
    rw [hi]
    exact runOp_fault_of_canIssue h decoded hp
  refine ⟨fun hb => faults (blk_illegal hb), fun x hx ha => faults (blk_misaligned hx ha), fun k s' => faults,
    fun s' hp => ?_, fun y s' hp hr => ?_⟩
  · rw [hi]
    exact runOp_hold_of_canIssue (s' := s') h decoded hp
  · obtain ⟨hshape, hnext, kept⟩ := blk_goes hp
    have seq : (begun s' t (1 + sopLen a + sopLen b)).cur.seq = s.cur.seq := by
      rw [(same_begun ..).cur, kept.cur]
    obtain ⟨blks, written, pc⟩ := blkOp_issued (t := t) (d := d) (a := a) (b := b) (shape := shape) (y := y)
      (p := begun s' t (1 + sopLen a + sopLen b)) rfl
    refine ⟨_, _, _, (hi ..).trans (runOp_of_canIssue h decoded hp (decide_eq_true hr)), blks, hshape, rfl, rfl, rfl, seq,
      fun hd => (written hd).trans hnext, pc, fun l => mem_blkRecord_lines⟩

/-- Settles O18: each row by its operation, whose effect leaves the one record that the claim speaks of. -/
theorem blockTransfers : Obligations.BlockTransfers := by
  refine List.forall_iff_forall_mem.mp ?_
  exact ⟨blk_outcomes fun _ _ _ _ _ => rfl, blk_outcomes fun _ _ _ _ _ => rfl, blk_outcomes fun _ _ _ _ _ => rfl⟩

end Sys2Proof.Machine
end

section
/-! PROOFS. Loads, block transfers and atomics complete (R196, R213, R216, R219, R238, R239, R242, R410; O47). -/

namespace Sys2Proof.Machine

open Sys2Proof.Claims

/-! What an access leaves of a core's sequencers, at any core. -/

theorem Keeps.seqAt {s t : State} (h : Keeps (coresVia seqCore) s t) (n c : Nat) (q : Seq) : sq t n c q = sq s n c q := by
  have same := h.core n c
  rw [seqCore, seqCore, Prod.mk.injEq, Prod.mk.injEq] at same
  obtain ⟨seqs, hseq, mode⟩ := same
  exact seqIn_congr seqs hseq mode q

theorem Keeps.modeAt {s t : State} (h : Keeps (coresVia seqCore) s t) (n c : Nat) : (co t n c).mode = (co s n c).mode :=
  congrArg (fun k => k.2.2) (h.core n c)

/-! A fault that comes with a reply (R410). -/

theorem cutProgress_run {s : State} {n c : Nat} (h : (co s n c).mode = .run) : cutProgress s n c = s := by
  rw [cutProgress, h]

/-- The sequencer of an access whose issue is taken back. -/
def takenBack (k : Sequencer) (p : PendAcc) : Sequencer :=
  { k with pc := p.pc, past := false, hold := .none, issued := k.issued - 1, span := k.span - 1, status := .blocked }

/-- The tokens of an access whose issue is taken back. -/
def tokensBack (p : PendAcc) (k : Core) : Core :=
  let k := if p.pop < 16 then (let f := fifo k p.pop; putFifo k p.pop { f with n := f.n + 1 }) else k
  match p.tok with
  | some f => let x := fifo k f; putFifo k f { x with v := x.v - 1 }
  | none => k

theorem unissue_eq (s : State) (n c : Nat) (q : Seq) (p : PendAcc) :
    unissue s n c q p = modCo (modSq s n c q (takenBack · p)) n c (tokensBack p) := rfl

theorem tokenCore_tokensBack (p : PendAcc) (k : Core) : tokenCore (tokensBack p k) = tokenCore k := by
  unfold tokensBack
  dsimp only
  split <;> split <;> rfl

/-- An issue taken back has moved its sequencer and tokens alone. -/
theorem unissue_reads {α : Type} {f : Core → α} (hf : ∀ k, f (tokenCore k) = f k) (s : State) (n c : Nat) (q : Seq)
    (p : PendAcc) : f (co (unissue s n c q p) n c) = f (putSeq (co s n c) q (takenBack (sq s n c q) p)) := by
  rw [unissue_eq, co_modCo_same, ← hf, tokenCore_tokensBack, hf, modSq, co_modCo_same, ← sq]

theorem sq_unissue (s : State) (n c : Nat) (q : Seq) (p : PendAcc) :
    sq (unissue s n c q p) n c q = takenBack (sq s n c q) p := by
  rw [sq, unissue_reads (f := fun k => seqIn k q) fun _ => rfl]
  exact seqIn_putSeq_same ..

theorem mode_unissue (s : State) (n c : Nat) (q : Seq) (p : PendAcc) : (co (unissue s n c q p) n c).mode = (co s n c).mode := by
  rw [unissue_reads (f := Core.mode) fun _ => rfl, putSeq_mode]

section
variable {s : State} {n c : Nat} {q : Seq} {p : PendAcc} {code : Nat}

/-- On a core that runs, the fault stands among those of the cc. -/
theorem replyFault_run (h : (co s n c).mode = .run) :
    replyFault s n c q p code = modCo (unissue s n c q p) n c fun x =>
      { x with deferred := x.deferred ++ [⟨code, 0, seqIdx q, false, false, p.va, 0⟩] } := by
  rw [replyFault, faultNow, mode_unissue, h]

/-- In the handler it is taken at once. -/
theorem replyFault_handler (h : (co s n c).mode = .handler) :
    replyFault s n c q p code = takeTrap (unissue s n c q p) n c ⟨code, 0, seqIdx q, false, false, p.va, 0⟩ := by
  rw [replyFault, faultNow, mode_unissue, h]

end

/-! A retirement (R213, R216, R219): its token, its register, and its sequencer goes on. -/

/-- The token of a retirement, where it has one. -/
def landTokAt (s : State) (n c : Nat) (f : Option Nat) : State :=
  match f with
  | some f => modCo s n c fun k => landTok k f 1
  | none => s

theorem landTokAt_reads {α : Type} {f : Core → α} (hf : ∀ k, f (tokenCore k) = f k) (s : State) (n c : Nat) (t : Option Nat) :
    f (co (landTokAt s n c t) n c) = f (co s n c) := by
  cases t with
  | none => rfl
  | some i =>
    rw [landTokAt, co_modCo_same, ← hf]
    exact hf (co s n c)

theorem sq_landTokAt (s : State) (n c : Nat) (t : Option Nat) (q : Seq) : sq (landTokAt s n c t) n c q = sq s n c q :=
  landTokAt_reads (f := fun k => seqIn k q) (fun _ => rfl) s n c t

theorem coreRest_landTokAt (s : State) (n c : Nat) (t : Option Nat) :
    coreRest (co (landTokAt s n c t) n c) = coreRest (co s n c) := by
  cases t with
  | none => rfl
  | some i =>
    rw [landTokAt, co_modCo_same]
    rfl

theorem sq_writeRegAt (s : State) (n c : Nat) (q : Seq) (r : Reg) (v : Word) :
    sq (writeRegAt s n c q r v) n c q = regWrite (sq s n c q) r v := by
  have same (k : Core) : seqIn (supersedeAll k q r) q = seqIn k q := seqIn_congr rfl rfl rfl q
  rw [writeRegAt, sq_modCo, if_pos ⟨rfl, rfl⟩, same, ← sq, sq_modSq, if_pos ⟨rfl, rfl, rfl⟩]

theorem coreRest_writeRegAt (s : State) (n c : Nat) (q : Seq) (r : Reg) (v : Word) :
    coreRest (co (writeRegAt s n c q r v) n c) = coreRest (co s n c) := by
  rw [writeRegAt, co_modCo_same, modSq, co_modCo_same]
  exact coreRest_putSeq ..

/-- An access that held its sequencer holds it no longer, and its register has its value. -/
def holdWritten (s : State) (n c : Nat) (q : Seq) (r : Option Reg) (v : Word) : State :=
  let t := modSq s n c q fun k => { k with hold := .none }
  match r with
  | some d => writeRegAt t n c q d v
  | none => t

theorem coreRest_holdWritten (s : State) (n c : Nat) (q : Seq) (r : Option Reg) (v : Word) :
    coreRest (co (holdWritten s n c q r v) n c) = coreRest (co s n c) := by
  have freed : coreRest (co (modSq s n c q fun k => { k with hold := .none }) n c) = coreRest (co s n c) := by
    rw [modSq, co_modCo_same, coreRest_putSeq]
  cases r with
  | none => exact freed
  | some d => exact (coreRest_writeRegAt ..).trans freed

theorem sq_holdWritten (s : State) (n c : Nat) (q : Seq) (r : Option Reg) (v : Word) :
    sq (holdWritten s n c q r v) n c q = match r with
      | some d => regWrite { sq s n c q with hold := .none } d v
      | none => { sq s n c q with hold := .none } := by
  have freed : sq (modSq s n c q fun k => { k with hold := .none }) n c q = { sq s n c q with hold := .none } := by
    rw [sq_modSq, if_pos ⟨rfl, rfl, rfl⟩]
  cases r with
  | none => exact freed
  | some d => exact (sq_writeRegAt ..).trans (by rw [freed])

theorem regWrite_hold (k : Sequencer) (h : Hold) (d : Reg) (v : Word) :
    regWrite { k with hold := h } d v = { regWrite k d v with hold := h } := by
  unfold regWrite
  split <;> rfl

theorem regWrite_pc (k : Sequencer) (d : Reg) (v : Word) : (regWrite k d v).pc = k.pc := by
  unfold regWrite
  split <;> rfl

section
variable {s : State} {n c : Nat} {q : Seq} {p : PendAcc} {v : Word}

/-- A retirement leaves all of the core but its sequencers, tokens and results. -/
theorem coreRest_retired (s : State) (n c : Nat) (q : Seq) (p : PendAcc) (v : Word) :
    coreRest (co (landTokAt (holdWritten s n c q p.reg v) n c p.tok) n c) = coreRest (co s n c) :=
  (coreRest_landTokAt ..).trans (coreRest_holdWritten ..)

theorem holdDone_run (h : (co s n c).mode = .run) :
    holdDone s n c q p v = landTokAt (holdWritten s n c q p.reg v) n c p.tok := by
  have mode := congrArg Core.mode (coreRest_retired s n c q p v)
  exact cutProgress_run (mode.trans h)

theorem l1_holdDone (h : (co s n c).mode = .run) : (co (holdDone s n c q p v) n c).l1 = (co s n c).l1 := by
  have l1 := congrArg Core.l1 (coreRest_retired s n c q p v)
  rw [holdDone_run h]
  exact l1

/-- What a retirement leaves: a sequencer that goes on where it stands, with its register written. -/
theorem holdDone_seq (h : (co s n c).mode = .run) :
    (sq (holdDone s n c q p v) n c q).hold = .none ∧ (sq (holdDone s n c q p v) n c q).pc = (sq s n c q).pc
    ∧ ∀ d, p.reg = some d → (sq (holdDone s n c q p v) n c q).regs = (regWrite (sq s n c q) d v).regs := by
  rw [holdDone_run h, sq_landTokAt, sq_holdWritten]
  cases p.reg with
  | none => exact ⟨rfl, rfl, fun _ hd => nomatch hd⟩
  | some r =>
    simp only [regWrite_hold, regWrite_pc]
    exact ⟨trivial, trivial, fun _ hd => by cases hd; rfl⟩

end

/-! The steps. -/

theorem exec_loadDataReturn (n c : Nat) (q : Seq) (s : State) : exec (.loadDataReturn n c q) s = execLoadDataReturn n c q s := rfl
theorem exec_ldqFill (n c tag : Nat) (s : State) : exec (.ldqFill n c tag) s = execLdqFill n c tag s := rfl
theorem exec_blkRetire (n c tag : Nat) (s : State) : exec (.blkRetire n c tag) s = .next (blkFinish s n c tag) := rfl
theorem exec_atomicPerform (n c : Nat) (q : Seq) (s : State) : exec (.atomicPerform n c q) s = execAtomicPerform n c q s := rfl
theorem exec_atomicReturn (n c : Nat) (q : Seq) (s : State) : exec (.atomicReturn n c q) s = execAtomicReturn n c q s := rfl

section
variable {s : State} {n c : Nat} {q : Seq} {p : PendAcc} {v : Word}

theorem loadDataReturn_data (hh : (sq s n c q).hold = .load p) (hd : p.data = some v) :
    exec (.loadDataReturn n c q) s
      = .next (if p.code ≠ 0 then replyFault s n c q p p.code else holdDone s n c q p (extend p.signed p.size v.toNat)) := by
  rw [exec_loadDataReturn, execLoadDataReturn, hh]
  dsimp only
  rw [hd]

/-- The state with what an atomic acquires (R238). -/
def atomicAcquired (s : State) (n c : Nat) (p : PendAcc) : State :=
  if p.acq then acquireL1 s n c (scopeOf c p.tgt) false else s

theorem atomicAcquired_seqs (s : State) (n c : Nat) (p : PendAcc) : Keeps (coresVia seqCore) s (atomicAcquired s n c p) := by
  unfold atomicAcquired
  split
  · exact (acquireL1_keeps ..).accessSeqs
  · exact .refl s

/-- An atomic's reply: its fault, or its value and what it acquires (R238). -/
theorem atomicReturn_data (hh : (sq s n c q).hold = .atomic p) (hd : p.data = some v) :
    exec (.atomicReturn n c q) s
      = .next (if p.code ≠ 0 then replyFault s n c q p p.code
          else holdDone (atomicAcquired s n c p) n c q p (extend p.signed p.size v.toNat)) := by
  rw [exec_atomicReturn, execAtomicReturn, hh]
  dsimp only
  rw [hd]
  dsimp only
  split <;> rfl

theorem atomicPerform_goes {k : Nat} (hh : (sq s n c q).hold = .atomic p) (ha : p.aop = some k) (hd : p.data = none) :
    let g := atomicT s n c (some (classOf (co s n c))) p.tgt k p.size p.op.toNat p.cmp.toNat
    let r : PendAcc := { p with data := some (BitVec.ofNat 64 g.v), code := if g.poison then 0x07 else 0 }
    exec (.atomicPerform n c q) s
      = .next (schedule (modSq (if g.poison then g.s else setABit g.s n c p.aBit) n c q fun x => { x with hold := .atomic r }) 0
          (.atomicReturn n c q)) := by
  rw [exec_atomicPerform, execAtomicPerform, hh]
  dsimp only
  rw [ha, hd]
  rfl

end

/-- What an LDQ puts into its slot: its data, extended, or its fault (R216). -/
def ldqEntry (p : PendAcc) (v : Word) : QEntry :=
  if p.code = 0 then .filled (extend p.signed p.size v.toNat) else .bad p.code p.va

/-- The state with an LDQ retired, its slot filled. -/
def ldqFilled (s : State) (n c : Nat) (p : PendAcc) (rest : List PendAcc) (q i : Nat) (v : Word) : State :=
  landTokAt (modCo s n c fun k => queueFill { k with loads := rest } q i (ldqEntry p v)) n c p.tok

theorem ldqFilled_reads {α : Type} {f : Core → α} (hf : ∀ k, f (tokenCore k) = f k) (s : State) (n c : Nat) (p : PendAcc)
    (rest : List PendAcc) (q i : Nat) (v : Word) :
    f (co (ldqFilled s n c p rest q i v) n c) = f (queueFill { co s n c with loads := rest } q i (ldqEntry p v)) := by
  rw [ldqFilled, landTokAt_reads hf, co_modCo_same]

section
variable {s : State} {n c tag q i : Nat} {p : PendAcc} {rest : List PendAcc} {v : Word}

theorem exec_ldqFill_run (hf : takeFirst (fun x => x.tag == tag) (co s n c).loads = some (p, rest))
    (hq : p.queue = some (q, i)) (hd : p.data = some v) (hr : (co s n c).mode = .run) :
    exec (.ldqFill n c tag) s = .next (ldqFilled s n c p rest q i v) := by
  have runs : (co (ldqFilled s n c p rest q i v) n c).mode = .run := (ldqFilled_reads (f := Core.mode) (fun _ => rfl) ..).trans hr
  rw [exec_ldqFill, execLdqFill, hf]
  dsimp only
  rw [hq, hd]
  dsimp only
  rw [ite_not]
  exact congrArg _ (cutProgress_run runs)

theorem ldqFill_fills (hf : takeFirst (fun x => x.tag == tag) (co s n c).loads = some (p, rest))
    (hq : p.queue = some (q, i)) (hd : p.data = some v) (hr : (co s n c).mode = .run) :
    ∃ y, exec (.ldqFill n c tag) s = .next y ∧ (co y n c).loads = rest
      ∧ queueOf (co y n c) q = queueOf (queueFill (co s n c) q i (ldqEntry p v)) q :=
  ⟨_, exec_ldqFill_run hf hq hd hr, ldqFilled_reads (f := Core.loads) (fun _ => rfl) ..,
    ldqFilled_reads (f := fun k => queueOf k q) (fun _ => rfl) ..⟩

end

/-! The retirement of a block transfer (R219). -/

section
variable {s : State} {n c tag : Nat} {b : BlkOp} {rest : List BlkOp}

theorem blkFinish_none (h : takeFirst (fun b => b.tag == tag) (co s n c).blks = none) : blkFinish s n c tag = s := by
  rw [blkFinish, h]

theorem blkFinish_waits (h : takeFirst (fun b => b.tag == tag) (co s n c).blks = some (b, rest))
    (hw : b.lines ≠ [] ∨ s.now < b.due) : blkFinish s n c tag = s := by
  have open_ : ¬(b.lines.isEmpty && decide (b.due ≤ s.now)) = true := by
    rw [Bool.and_eq_true, List.isEmpty_iff, decide_eq_true_eq]
    rintro ⟨none, due⟩
    exact hw.elim (· none) (Nat.not_lt.mpr due)
  rw [blkFinish, h]
  dsimp only
  rw [if_neg open_]

theorem blkFinish_retires (h : takeFirst (fun b => b.tag == tag) (co s n c).blks = some (b, rest)) (hl : b.lines = [])
    (hd : b.due ≤ s.now) (hr : (co s n c).mode = .run) :
    blkFinish s n c tag = landTokAt (modCo s n c fun k => { k with blks := rest }) n c b.tok := by
  have done : (b.lines.isEmpty && decide (b.due ≤ s.now)) = true := by rw [hl, decide_eq_true hd]; rfl
  have runs : (co (landTokAt (modCo s n c fun k => { k with blks := rest }) n c b.tok) n c).mode = .run := by
    rw [landTokAt_reads (f := Core.mode) fun _ => rfl, co_modCo_same]
    exact hr
  rw [blkFinish, h]
  dsimp only
  rw [if_pos done]
  exact cutProgress_run runs

end

/-! An atomic in a scratchpad (R238, R242). -/

theorem atomicT_spad {s : State} {c off : Nat} (n : Nat) (cls : Option Nat) (k size x z : Nat)
    (h : spadPoisoned (co s n c) off = false) :
    atomicT s n c cls (.spad c off) k size x z
      = ⟨spadRead (co s n c) off size, false, modCo s n c fun d =>
          spadWrite d off size (fullMask size) (atomicNew k size (spadRead (co s n c) off size) x z)⟩ := by
  simp only [atomicT, h, Bool.false_eq_true, if_false]

/-- Settles O47: each completion by its retirement or its fault; a line and an atomic in the scratchpad by their equations. -/
theorem completions : Obligations.Completions := by
  refine ⟨⟨fun s n c q p v hh hd => ⟨fun hz hr => ?_, fun hz hm => ?_, fun hz hr => ⟨?_, ?_, ?_⟩⟩,
      fun s n c tag p rest q i v => ldqFill_fills,
      fun s n c tag h => (exec_blkRetire n c tag s).trans (congrArg _ (blkFinish_none h)),
      fun s n c tag b rest h => ⟨fun hw => (exec_blkRetire n c tag s).trans (congrArg _ (blkFinish_waits h hw)),
        fun hl hd hr => ⟨_, (exec_blkRetire n c tag s).trans (congrArg _ (blkFinish_retires h hl hd hr)), ?_, ?_⟩⟩,
      fun s tag t off va near => ⟨blkMove_store s tag off va near, blkMove_load s tag off va near⟩⟩,
    fun s n c q p k => atomicPerform_goes, fun s n c q p v hh hd hz hr => ?_, fun s n c q p v hh hd hz hr => ?_,
    fun s n c q p v hh hd hz hm => ?_, fun s n c cls off k size x z h => ?_⟩
  · obtain ⟨hold, pc, regs⟩ := holdDone_seq (q := q) (p := p) (v := extend p.signed p.size v.toNat) hr
    exact ⟨_, (loadDataReturn_data hh hd).trans (congrArg _ (if_neg (not_not.mpr hz))), hold, pc, regs⟩
  · rw [loadDataReturn_data hh hd, if_pos hz, replyFault_handler hm]
  · rw [loadDataReturn_data hh hd, if_pos hz, replyFault_run hr]
  · rw [sq_unissue, takenBack]
  · rw [sq_unissue, takenBack]
  · rw [landTokAt_reads (f := Core.blks) fun _ => rfl, co_modCo_same]
  · intro none
    rw [none, landTokAt]
  · have kept := atomicAcquired_seqs s n c p
    have runs := (kept.modeAt n c).trans hr
    obtain ⟨hold, -, regs⟩ := holdDone_seq (q := q) (p := p) (v := extend p.signed p.size v.toNat) runs
    refine ⟨_, (atomicReturn_data hh hd).trans (congrArg _ (if_neg (not_not.mpr hz))), hold,
      fun d hp => (regs d hp).trans (by rw [kept.seqAt]), fun ha => ?_⟩
    rw [l1_holdDone runs, atomicAcquired, ha, if_neg Bool.false_ne_true]
  · rw [atomicReturn_data hh hd, if_pos hz, replyFault_run hr]
  · rw [atomicReturn_data hh hd, if_pos hz, replyFault_handler hm]
  · rw [atomicT_spad n cls k size x z h]
    exact ⟨rfl, rfl, co_modCo_same ..⟩

end Sys2Proof.Machine
end

section
/-! PROOFS. Window accesses (R190, R196, R210, R215, R238): an access at its target, its answer, and frames without one (O48). -/

namespace Sys2Proof.Machine

open Sys2Proof.Claims

theorem exec_windowAccess (n : Nat) (r : WinReq) (s : State) : exec (.windowAccess n r) s = execWindowAccess n r s := rfl
theorem exec_windowReply (n : Nat) (r : WinRep) (s : State) : exec (.windowReply n r) s = execWindowReply n r s := rfl
theorem exec_windowPeergone (n c tag : Nat) (s : State) : exec (.windowPeergone n c tag) s = execWindowPeergone n c tag s := rfl

/-! At the target (R190). -/

section
variable {s z : State} {n : Nat} {r : WinReq}

/-- The permission that a window access needs. -/
def winNeed : WinOp → Need
  | .load => .r
  | .store => .w
  | .atomic .. => .rw

/-- The check of a window access at its target, under its caller's ASID. -/
def winCheck (s : State) (n : Nat) (r : WinReq) : Chk :=
  chkLocal s n none (smGet (nd s n).troot 0 r.asid) r.asid r.off r.size (winNeed r.op) true

/-- The caller's own copy of the line goes down first, on the caller's own node. -/
def winOwn (z : State) (n : Nat) (r : WinReq) (sp : Space) (pa : Nat) : State :=
  if r.src = n then l1Drop z n r.core sp pa true else z

/-- One that faults leaves the target as it was (R196). -/
theorem performWindow_fault {code : Nat} (h : winCheck s n r = .fault code z) :
    performWindow s n r = (s, winRep n r code 0) := by
  unfold performWindow
  extract_lets rep need cls
  rw [show chkLocal s n none (smGet (nd s n).troot 0 r.asid) r.asid r.off r.size need true = .fault code z from h]
  rfl

variable {sp : Space} {pa : Nat} {k : Kind} {zp : Bool}

/-- What a load does at the home of its line: poison faults, unless it travels with the data or the page is a ZP page (R210). -/
theorem performWindow_load_eq (ho : r.op = .load) (h : winCheck s n r = .ok (.mem sp pa k zp) z) :
    performWindow s n r =
      (let x := winOwn z n r sp pa
       let y := touch x n (some r.cls) sp pa r.size false
       let p := isPoison (nd x n) sp pa
       if p && !zp && !r.poison then (s, { winRep n r 0 0 with poison := true })
       else if p && zp then (addPoisonZ y r.src r.core, winRep n r 0 0)
       else (y, { winRep n r 0 (homeRead (nd y n) sp pa r.size) with poison := p })) := by
  unfold performWindow
  extract_lets rep need cls
  rw [show chkLocal s n none (smGet (nd s n).troot 0 r.asid) r.asid r.off r.size need true = .ok (.mem sp pa k zp) z from h]
  cases r
  cases ho
  rfl

theorem performWindow_load (ho : r.op = .load) (h : winCheck s n r = .ok (.mem sp pa k zp) z) :
    let x := winOwn z n r sp pa
    let y := touch x n (some r.cls) sp pa r.size false
    (isPoison (nd x n) sp pa = false → performWindow s n r = (y, winRep n r 0 (homeRead (nd y n) sp pa r.size)))
    ∧ (isPoison (nd x n) sp pa = true → zp = true → performWindow s n r = (addPoisonZ y r.src r.core, winRep n r 0 0))
    ∧ (isPoison (nd x n) sp pa = true → zp = false → r.poison = false →
        performWindow s n r = (s, { winRep n r 0 0 with poison := true })) := by
  rw [performWindow_load_eq ho h]
  dsimp only
  refine ⟨fun hp => ?_, fun hp hz => ?_, fun hp hz hr => ?_⟩
  · rw [hp]
    rfl
  · rw [hp, hz]
    rfl
  · rw [hp, hz, hr]
    rfl

theorem performWindow_store (ho : r.op = .store) (h : winCheck s n r = .ok (.mem sp pa k zp) z) :
    let x := touch (winOwn z n r sp pa) n (some r.cls) sp pa r.size true
    let y := modNd x n fun d => homeWrite d sp pa r.size (fullMask r.size) r.data.toNat
    performWindow s n r = (if r.poison then modNd y n fun d => setPoison d sp pa true else y, winRep n r 0 0) := by
  intro x y
  unfold performWindow
  extract_lets rep need cls
  rw [show chkLocal s n none (smGet (nd s n).troot 0 r.asid) r.asid r.off r.size need true = .ok (.mem sp pa k zp) z from h]
  cases r
  cases ho
  rfl

/-- What an atomic does at the home of its line (R238): none on a host page, none on poison. -/
theorem performWindow_atomic_eq {op : Nat} {v c : Word} {a b : Bool} (ho : r.op = .atomic op v c a b)
    (h : winCheck s n r = .ok (.mem sp pa k zp) z) :
    performWindow s n r =
      (let w := winOwn z n r sp pa
       if sp = .host then (s, winRep n r 0x06 0)
       else if isPoison (nd w n) sp pa then (s, { winRep n r 0x07 0 with poison := true })
       else
         let x := touch (touch w n (some r.cls) sp pa r.size false) n (some r.cls) sp pa r.size true
         let old := homeRead (nd x n) sp pa r.size
         (modNd x n fun d => homeWrite d sp pa r.size (fullMask r.size) (atomicNew op r.size old v.toNat c.toNat),
           winRep n r 0 old)) := by
  unfold performWindow
  extract_lets rep need cls
  rw [show chkLocal s n none (smGet (nd s n).troot 0 r.asid) r.asid r.off r.size need true = .ok (.mem sp pa k zp) z from h]
  cases r
  cases ho
  rfl

theorem performWindow_atomic {op : Nat} {v c : Word} {a b : Bool} (ho : r.op = .atomic op v c a b)
    (h : winCheck s n r = .ok (.mem sp pa k zp) z) :
    let w := winOwn z n r sp pa
    (sp = .host → performWindow s n r = (s, winRep n r 0x06 0))
    ∧ (sp ≠ .host → isPoison (nd w n) sp pa = true → performWindow s n r = (s, { winRep n r 0x07 0 with poison := true }))
    ∧ (sp ≠ .host → isPoison (nd w n) sp pa = false →
        let x := touch (touch w n (some r.cls) sp pa r.size false) n (some r.cls) sp pa r.size true
        let old := homeRead (nd x n) sp pa r.size
        performWindow s n r = (modNd x n fun d => homeWrite d sp pa r.size (fullMask r.size)
            (atomicNew op r.size old v.toNat c.toNat), winRep n r 0 old)) := by
  rw [performWindow_atomic_eq ho h]
  refine ⟨fun hs => if_pos hs, fun hs hp => (if_neg hs).trans (if_pos hp), fun hs hp => (if_neg hs).trans (if_neg ?_)⟩
  rw [hp]
  exact Bool.false_ne_true

end

/-! At the sender: acknowledgements and answers (R215). -/

section
variable {s : State} {n : Nat} {r : WinRep}

/-- An acknowledgement releases its store, whose fault is taken deferred. -/
theorem windowReply_store {w : WinOut} {rest : List WinOut} (hs : r.isStore = true)
    (hw : takeFirst (fun w => w.tag == r.tag) (co s n r.core).winOut = some (w, rest)) :
    exec (.windowReply n r) s = .next (modCo s n r.core fun k =>
      { k with
        winOut := rest
        deferred := k.deferred ++ if r.code ≠ 0 then [⟨r.code, 0, seqIdx w.seq, true, false, w.addr, 0⟩] else [] }) := by
  rw [exec_windowReply, execWindowReply]
  dsimp only
  rw [if_pos hs, hw]

/-- The state as an answer finds it: a STRONG load without a fault has acquired (R224, R226). -/
def answered (s : State) (n : Nat) (r : WinRep) : State :=
  if r.code = 0 then winAcquire s n r.core r.node (r.addr.toNat % 2 ^ 48) else s

/-- The fault that an answer carries. -/
def answerCode (r : WinRep) : Nat := if r.code ≠ 0 then r.code else if r.poison then 0x07 else 0

theorem sq_answered (s : State) (n : Nat) (r : WinRep) (c : Nat) (q : Seq) : sq (answered s n r) n c q = sq s n c q := by
  unfold answered
  split
  · exact (winAcquire_keeps ..).accessSeqs.seqAt n c q
  · rfl

/-- The answer to an LDQ or to a line of a BLKLD. -/
def answerSlot (s : State) (n : Nat) (r : WinRep) : Out :=
  if (co s n r.core).loads.any fun p => p.tag == r.tag then
    .next (schedule (modCo (answered s n r) n r.core fun k => { k with loads := k.loads.map fun p =>
      if p.tag == r.tag then { p with data := some (r.data.setWidth 64), code := answerCode r } else p }) 0
        (.ldqFill n r.core r.tag))
  else .next (blkReply (answered s n r) n r.core r.tag r)

/-- An answer goes to the instruction that holds its sequencer for it, or else to a slot or a line. -/
theorem windowReply_answer (hs : r.isStore = false) :
    exec (.windowReply n r) s = match (sq s n r.core r.seq).hold with
      | .load p =>
        if p.tag = r.tag then
          .next (schedule (modSq (answered s n r) n r.core r.seq fun q =>
            { q with hold := .load { p with data := some (r.data.setWidth 64), code := answerCode r } }) 0
            (.loadDataReturn n r.core r.seq))
        else answerSlot s n r
      | .atomic p =>
        if p.tag = r.tag then
          .next (schedule (modSq (answered s n r) n r.core r.seq fun q =>
            { q with hold := .atomic { p with data := some (r.data.setWidth 64), code := answerCode r } }) 0
            (.atomicReturn n r.core r.seq))
        else answerSlot s n r
      | _ => answerSlot s n r := by
  rw [exec_windowReply, execWindowReply]
  dsimp only
  rw [if_neg (ne_true_of_eq_false hs), ← sq_answered s n r]
  rfl

/-- What holds no sequencer under the tag of an answer leaves it to a slot or a line. -/
theorem windowReply_slot (hs : r.isStore = false)
    (hh : ∀ p, (sq s n r.core r.seq).hold = .load p ∨ (sq s n r.core r.seq).hold = .atomic p → p.tag ≠ r.tag) :
    exec (.windowReply n r) s = answerSlot s n r := by
  rw [windowReply_answer hs]
  split
  · next p hp => exact if_neg (hh p (.inl hp))
  · next p hp => exact if_neg (hh p (.inr hp))
  · rfl

theorem answerSlot_load {p : PendAcc} (hp : p ∈ (co s n r.core).loads) (ht : p.tag = r.tag) :
    answerSlot s n r = .next (schedule (modCo (answered s n r) n r.core fun k => { k with loads := k.loads.map fun p =>
      if p.tag == r.tag then { p with data := some (r.data.setWidth 64), code := answerCode r } else p }) 0
        (.ldqFill n r.core r.tag)) := by
  have waits : ((co s n r.core).loads.any fun p => p.tag == r.tag) = true := List.any_eq_true.mpr ⟨p, hp, beq_iff_eq.mpr ht⟩
  rw [answerSlot, if_pos waits]

theorem answerSlot_blk (h : ∀ p ∈ (co s n r.core).loads, p.tag ≠ r.tag) :
    answerSlot s n r = .next (blkReply (answered s n r) n r.core r.tag r) := by
  refine if_neg fun any => ?_
  obtain ⟨p, hp, ht⟩ := List.any_eq_true.mp any
  exact h p hp (beq_iff_eq.mp ht)

end

/-! Ten frames without an answer (R215). -/

section
variable {s : State} {n c tag : Nat} {q : Seq} {p : PendAcc}

/-- The sequencer that an access of a tag holds, while no answer has come. -/
def winHeld (s : State) (n c tag : Nat) : Option Seq :=
  allSeqs.find? fun q => match (sq s n c q).hold with
    | .load p => p.tag == tag && p.data.isNone
    | .atomic p => p.tag == tag && p.data.isNone
    | _ => false

theorem windowPeergone_held (hf : winHeld s n c tag = some q)
    (hh : (sq s n c q).hold = .load p ∨ (sq s n c q).hold = .atomic p) :
    exec (.windowPeergone n c tag) s = .next (replyFault s n c q p 0x0E) := by
  rw [exec_windowPeergone, execWindowPeergone]
  dsimp only
  split
  · next i hi =>
    cases hi.symm.trans hf
    rcases hh with hh | hh <;> rw [hh] <;> rfl
  · next hi => cases hi.symm.trans hf

theorem windowPeergone_store {w : WinOut} {rest : List WinOut} (hf : winHeld s n c tag = none)
    (hw : takeFirst (fun w => w.tag == tag) (co s n c).winOut = some (w, rest)) :
    exec (.windowPeergone n c tag) s = .next (modCo s n c fun k =>
      { k with winOut := rest, deferred := k.deferred ++ [⟨0x0E, 0, seqIdx w.seq, true, false, w.addr, 0⟩] }) := by
  rw [exec_windowPeergone, execWindowPeergone]
  dsimp only
  split
  · next i hi => cases hi.symm.trans hf
  · rw [hw]
    rfl

end

/-- Settles O48: what the target does by its check and its operation; at the sender, who waits under the tag of an answer. -/
theorem windowAccesses : Obligations.WindowAccesses := by
  refine ⟨fun s n r => exec_windowAccess n r s,
    fun s n r => ⟨fun code z ho h => ?_, fun code z ho h => ?_, fun code z op v c a b ho h => ?_,
      fun sp pa k zp z ho h => ?_, fun sp pa k zp z ho h => ?_, fun sp pa k zp z op v c a b ho h => ?_⟩,
    fun s n r w rest hs hw => ⟨_, windowReply_store hs hw, ?_, fun hc => ?_, fun hc => ?_⟩,
    fun s n r hs => ⟨fun p hp ht => ?_, fun p hp ht => ?_, fun hh => ⟨fun p hp ht => ?_, fun hl => ?_⟩⟩,
    fun s n c tag q p hf hh hr => ?_, fun s n c tag w rest hf hw => ⟨_, windowPeergone_store hf hw, ?_, ?_⟩⟩
  · exact performWindow_fault (z := z) (by rw [winCheck, ho]; exact h)
  · exact performWindow_fault (z := z) (by rw [winCheck, ho]; exact h)
  · exact performWindow_fault (z := z) (by rw [winCheck, ho]; exact h)
  · exact performWindow_load ho (by rw [winCheck, ho]; exact h)
  · exact performWindow_store ho (by rw [winCheck, ho]; exact h)
  · exact performWindow_atomic ho (by rw [winCheck, ho]; exact h)
  · rw [co_modCo_same]
  · rw [co_modCo_same, if_neg (not_not.mpr hc), List.append_nil]
  · rw [co_modCo_same, if_pos hc]
  · rw [windowReply_answer hs, hp]
    exact if_pos ht
  · rw [windowReply_answer hs, hp]
    exact if_pos ht
  · exact (windowReply_slot hs hh).trans (answerSlot_load hp ht)
  · exact (windowReply_slot hs hh).trans (answerSlot_blk hl)
  · exact (windowPeergone_held hf hh).trans (congrArg _ (replyFault_run hr))
  · rw [co_modCo_same]
  · rw [co_modCo_same]

end Sys2Proof.Machine
end

section
/-! PROOFS. What ordering, atomics, rings and barriers share (R95, R225, R235): a claim under weaker conditions, where control
stands once an instruction has issued, and what a release hands over. -/

namespace Sys2Proof.Machine

open Sys2Proof.Claims

/-! The issue. -/

/-- A claim stands for fewer sources and fewer results in flight. -/
theorem canIssue_mono {s : State} {t : Tok} {seqs : List Seq} {rs rs' : List Reg} {j k : Nat} (hr : rs' ⊆ rs) (hk : j ≤ k)
    (h : CanIssue s t seqs rs k) : CanIssue s t seqs rs' j := by
  obtain ⟨runs, taken, span, flags, pops, room, ready, slots⟩ := h
  rw [srcsReady, List.all_eq_true] at ready
  exact ⟨runs, taken, span, flags, pops, room, List.all_eq_true.mpr fun r m => ready r (hr m), inflightRoom_mono hk slots⟩

/-- Where control stands does not depend on when the instruction retires. -/
theorem pc_begun (s : State) (t : Tok) (len : Nat) : (cs (begun s t len)).pc = (cs (past s t len)).pc := by
  rw [begun, past, pastWith, takeIssue_pc, takeIssue_pc]

/-- Where control goes on is told by the sequencer and its image alone, which no access changes. -/
theorem pc_begun_keeps {s r : State} (h : Keeps accessView s r) (t : Tok) (len : Nat) :
    (cs (begun r t len)).pc = (cs (begun s t len)).pc := by
  have image : imageOf (cc r) = imageOf (cc s) := (congrArg imageOf (accessCore_of_keeps h) :)
  rw [begun, begun, takeIssue_pc, takeIssue_pc, continuation, continuation, h.accessSeq, image]

/-! The hand-over of the DETERM buffer. -/

theorem cores_stageEntries (d : Node) (l : List DetEntry) : (stageEntries d l).2.cores = d.cores := by
  induction l generalizing d with
  | nil => rfl
  | cons e r ih =>
    unfold stageEntries
    split
    · exact ih _
    · exact ih _

/-- A hand-over takes DETERM entries from a core and nothing else. -/
theorem drainDet_cores (s : State) (n c : Nat) : Keeps (coresVia accessCore) s (drainDet s n c) := by
  have staged : Keeps (coresVia accessCore) s (modNd s n fun _ => (stageEntries (nd s n) (co s n c).detBuf).2) :=
    .modNd s n (congrArg (fun l c => accessCore (smGet l {} c)) (cores_stageEntries ..))
  unfold drainDet
  dsimp only
  split
  · exact .refl s
  · refine staged.trans (.modCo_sees (seesCores_via fun _ _ => id) _ n c ?_)
    exact fun _ => rfl

theorem releaseL1_cores (s : State) (n c scope : Nat) (all : Bool) :
    Keeps (coresVia accessCore) s (releaseL1 s n c scope all) := (releaseL1_keeps s n c scope all).comp Prod.snd

theorem handedOver_cores (q : State) (n c scope : Nat) :
    Keeps (coresVia accessCore) q (drainDet (releaseL1 q n c scope true) n c) :=
  (releaseL1_cores q n c scope true).trans (drainDet_cores ..)

end Sys2Proof.Machine
end

section
/-! PROOFS. FENCE and QFENCE (R225, R229, R230; O19): what a fence hands over and drops, and where a QFENCE leaves its join. -/

namespace Sys2Proof.Machine

open Sys2Proof.Claims

/-! FENCE (R225, R229). -/

theorem exec_fence (t : Tok) (a y : BitVec 5) (s : State) : exec (.fence t a y) s = execFence t a y s := rfl

section
variable {t : Tok} {a y : BitVec 5} {s : State}

/-- What a fence of a scope does on the state past it: a release first, then an acquire. -/
def fenced (p : State) (n c scope : Nat) (rel acq : Bool) : State :=
  let q := if rel then drainDet (releaseL1 p n c scope true) n c else p
  if acq then acquireL1 q n c scope true else q

/-- A release waits for the sequencer's BLK stores and acknowledgements; an acquire waits for nothing. -/
theorem fence_goes (h : CanIssue s t allSeqs [] 0)
    (hr : y.toNat / 2 = 1 → blksDone s s.cur.node s.cur.core s.cur.seq = true
      ∧ acked s s.cur.node s.cur.core s.cur.seq a.toNat = true) :
    exec (.fence t a y) s
      = .next (fenced (past s t 1) s.cur.node s.cur.core a.toNat (y.toNat / 2 = 1) (y.toNat % 2 = 1)) := by
  rw [exec_fence]
  unfold execFence
  refine (runOp_acts h (decodeFault_none rfl (.inl rfl) (mem_allSeqs _) rfl) rfl ?_ rfl).trans ?_
  · by_cases rel : y.toNat / 2 = 1
    · obtain ⟨blks, acks⟩ := hr rel
      simp [blks, acks]
    · simp [rel]
  · simp only [fenced, decide_eq_true_eq, ← cur_past s t 1]
    rfl

theorem fence_waits (h : CanIssue s t allSeqs [] 0) (hy : y.toNat / 2 = 1)
    (hr : ¬(blksDone s s.cur.node s.cur.core s.cur.seq = true ∧ acked s s.cur.node s.cur.core s.cur.seq a.toNat = true)) :
    exec (.fence t a y) s = .next (setBlocked s) := by
  rw [exec_fence]
  unfold execFence
  refine runOp_full_of_canIssue (x := ()) (s' := s) h (decodeFault_none rfl (.inl rfl) (mem_allSeqs _) rfl) rfl ?_
  simpa [hy] using hr

end

/-! QFENCE (R230). -/

theorem exec_qfence (t : Tok) (a : SOp) (sc : BitVec 5) (s : State) : exec (.qfence t a sc) s = execQfence t a sc s := rfl

theorem joins_placeJoin (k : Core) (id m scope : Nat) (q : Option Seq) :
    (placeJoin k id m scope q).joins = k.joins ++ [⟨id, m, scope, q, false⟩] := by
  unfold placeJoin
  dsimp only
  split_ifs <;> rfl

theorem seqCore_placeJoin (k : Core) (id m scope : Nat) (q : Option Seq) : seqCore (placeJoin k id m scope q) = seqCore k := by
  unfold placeJoin
  dsimp only
  split_ifs <;> rfl

/-- The state with the join of a QFENCE of mask `m` placed: one that names queues, and not only the sequencer, has a join. -/
def joinPlaced (p : State) (m scope : Nat) : State :=
  if 1 < m then
    modCc (newTag p).2 fun k => placeJoin k (256 * (newTag p).1 + p.cur.core) (m / 2 * 2) scope
      (if m % 2 = 1 then some p.cur.seq else none)
  else (newTag p).2

section
variable (p : State) (m scope : Nat)

theorem cur_joinPlaced : (joinPlaced p m scope).cur = p.cur := by
  unfold joinPlaced
  split <;> rfl

theorem cs_joinPlaced : cs (joinPlaced p m scope) = cs p := by
  unfold joinPlaced
  split
  · rw [cs_modCc_of _ fun _ => seqCore_placeJoin .., cs_newTag]
  · exact cs_newTag p

theorem joins_joinPlaced (hm : 1 < m) :
    (cc (joinPlaced p m scope)).joins = (cc p).joins
      ++ [⟨256 * (cc p).nextTag + p.cur.core, m / 2 * 2, scope, if m % 2 = 1 then some p.cur.seq else none, false⟩] := by
  rw [joinPlaced, if_pos hm, cc_modCc, joins_placeJoin, cc_newTag]
  rfl

end

/-- What a QFENCE with SEQ does once its join is placed: it hands over as a release, and its sequencer waits for the join. -/
def joinAwaited (q : State) (id scope : Nat) (tok : Option Nat) : State :=
  modCs (drainDet (releaseL1 q q.cur.node q.cur.core scope true) q.cur.node q.cur.core) fun k =>
    { k with hold := .join id scope tok }

theorem cs_joinAwaited (q : State) (id scope : Nat) (tok : Option Nat) :
    cs (joinAwaited q id scope tok) = { cs q with hold := .join id scope tok } := by
  rw [joinAwaited, cs_modCs, (handedOver_cores ..).coreSeq]

theorem joins_joinAwaited (q : State) (id scope : Nat) (tok : Option Nat) :
    (cc (joinAwaited q id scope tok)).joins = (cc q).joins := by
  rw [joinAwaited, cc_modCs, putSeq_joins]
  exact (congrArg Core.joins (Keeps.readCore (g := accessCore) (handedOver_cores q q.cur.node q.cur.core scope)) :)

/-- The joins of a core once a QFENCE has issued: its own is the last. -/
theorem joins_issued (s : State) (t : Tok) (len m scope : Nat) (hm : 1 < m) :
    (cc (joinPlaced (begun s t len) m scope)).joins = (cc s).joins
      ++ [⟨256 * (cc s).nextTag + s.cur.core, m / 2 * 2, scope, if m % 2 = 1 then some s.cur.seq else none, false⟩] := by
  have issued := IssueFrame.begun s t len
  have joins : (cc (begun s t len)).joins = (cc s).joins := issued.core Core.joins
  have tag : (cc (begun s t len)).nextTag = (cc s).nextTag := issued.core Core.nextTag
  rw [joins_joinPlaced _ _ _ hm, joins, tag, issued.cur]

section
variable {t : Tok} {a : SOp} {sc : BitVec 5} {s : State} (h : CanIssue s t allSeqs (sopSrcs a) 0)
include h

theorem qfence_illegal (hm : (opv s a).toNat = 0 ∨ 64 ≤ (opv s a).toNat) :
    exec (.qfence t a sc) s = .next (takeTrap s s.cur.node s.cur.core (causeHere s 0x01)) := by
  rw [exec_qfence]
  unfold execQfence
  exact runOp_fault_of_canIssue h (decodeFault_none rfl (.inl rfl) (mem_allSeqs _) rfl) (if_pos hm.symm)

theorem qfence_waits (hz : 0 < (opv s a).toNat) (hm : (opv s a).toNat < 64) (hr : joinRoom (cc s) (opv s a).toNat = false) :
    exec (.qfence t a sc) s = .next (setBlocked s) := by
  rw [exec_qfence]
  unfold execQfence
  exact runOp_full_of_canIssue (x := (opv s a).toNat) (s' := s) h (decodeFault_none rfl (.inl rfl) (mem_allSeqs _) rfl)
    (if_neg (by omega)) hr

theorem qfence_goes (hz : 0 < (opv s a).toNat) (hm : (opv s a).toNat < 64) (hr : joinRoom (cc s) (opv s a).toNat = true) :
    exec (.qfence t a sc) s = .next (if (opv s a).toNat % 2 = 1
      then joinAwaited (joinPlaced (begun s t (1 + sopLen a)) (opv s a).toNat sc.toNat)
        (256 * (cc s).nextTag + s.cur.core) sc.toNat (pushKey s t)
      else retirePushes (joinPlaced (begun s t (1 + sopLen a)) (opv s a).toNat sc.toNat) t []) := by
  have issued := IssueFrame.begun s t (1 + sopLen a)
  have there (q : State) (hq : q.cur = s.cur) :
      (drainDet (releaseL1 q q.cur.node q.cur.core sc.toNat true) q.cur.node q.cur.core).cur = s.cur :=
    (handedOver_cores ..).cur.trans hq
  have tag : (cc (begun s t (1 + sopLen a))).nextTag = (cc s).nextTag := issued.core Core.nextTag
  rw [exec_qfence, ← pushKey_congr (there _ ((cur_joinPlaced _ (opv s a).toNat sc.toNat).trans issued.cur)), ← tag,
    ← issued.cur]
  unfold execQfence
  exact runOp_of_canIssue (x := (opv s a).toNat) (s' := s) h (decodeFault_none rfl (.inl rfl) (mem_allSeqs _) rfl)
    (if_neg (by omega)) hr

/-- Without SEQ the sequencer goes on, its join behind the others (R230). -/
theorem qfence_without_seq (hz : 0 < (opv s a).toNat) (hm : (opv s a).toNat < 64)
    (hr : joinRoom (cc s) (opv s a).toNat = true) (he : (opv s a).toNat % 2 = 0) :
    ∃ y, exec (.qfence t a sc) s = .next y
      ∧ (cc y).joins
        = (cc s).joins ++ [⟨256 * (cc s).nextTag + s.cur.core, (opv s a).toNat, sc.toNat, none, false⟩]
      ∧ (cs y).hold = (cs s).hold ∧ (cs y).pc = (cs (past s t (1 + sopLen a))).pc := by
  have odd : ¬(opv s a).toNat % 2 = 1 := by omega
  have mask : (opv s a).toNat / 2 * 2 = (opv s a).toNat := by omega
  have goes := qfence_goes (sc := sc) h hz hm hr
  rw [if_neg odd] at goes
  have seq : cs (retirePushes (joinPlaced (begun s t (1 + sopLen a)) (opv s a).toNat sc.toNat) t [])
      = cs (begun s t (1 + sopLen a)) :=
    (retirePushes_keeps (f := coresVia seqCore) ..).sameSeq.trans (cs_joinPlaced ..)
  refine ⟨_, goes, ?_, ?_, ?_⟩
  · rw [cc_retirePushes, joins_issued _ _ _ _ _ (by omega), if_neg odd, mask]
  · rw [seq]
    exact (IssueFrame.begun s t (1 + sopLen a)).seq Sequencer.hold
  · rw [seq, pc_begun]

/-- With SEQ the sequencer waits for the join, which also waits for what the sequencer has stored (R230). -/
theorem qfence_with_seq (hz : 0 < (opv s a).toNat) (hm : (opv s a).toNat < 64)
    (hr : joinRoom (cc s) (opv s a).toNat = true) (ho : (opv s a).toNat % 2 = 1) :
    ∃ y, exec (.qfence t a sc) s = .next y
      ∧ (cs y).hold = .join (256 * (cc s).nextTag + s.cur.core) sc.toNat (pushKey s t)
      ∧ (cs y).pc = (cs (begun s t (1 + sopLen a))).pc
      ∧ (1 < (opv s a).toNat → (cc y).joins = (cc s).joins
          ++ [⟨256 * (cc s).nextTag + s.cur.core, (opv s a).toNat - 1, sc.toNat, some s.cur.seq, false⟩]) := by
  have mask : (opv s a).toNat / 2 * 2 = (opv s a).toNat - 1 := by omega
  have goes := qfence_goes (sc := sc) h hz hm hr
  rw [if_pos ho] at goes
  refine ⟨_, goes, ?_, ?_, fun hq => ?_⟩
  · rw [cs_joinAwaited]
  · rw [cs_joinAwaited, cs_joinPlaced]
  · rw [joins_joinAwaited, joins_issued _ _ _ _ _ hq, if_pos ho, mask]

end

/-- Settles O19: FENCE by its release and its acquire, QFENCE by its mask: what it refuses, and where its join stands. -/
theorem fences : Obligations.Fences := by
  refine ⟨fun t a y s h => ⟨?_, ?_, ?_, ?_⟩, fun t a sc s h => ⟨qfence_illegal h, fun hz hm hr =>
    ⟨qfence_without_seq h hz hm hr, qfence_with_seq h hz hm hr⟩, qfence_waits h⟩⟩
  · rintro rfl
    exact fence_goes h fun e => absurd e (by decide)
  · rintro rfl hr
    exact fence_goes h fun _ => hr
  · rintro rfl hr
    exact fence_goes h fun _ => hr
  · rintro (rfl | rfl) hr <;> exact fence_waits h rfl hr

end Sys2Proof.Machine
end

section
/-! PROOFS. Atomics (R226, R238, R239): their issue and what they compute (O20). -/

namespace Sys2Proof.Machine

open Sys2Proof.Claims

/-! What an atomic computes at 64 bits (R238). -/

theorem sextN_le_iff (x y : Word) : sextN x.toNat 64 ≤ sextN y.toNat 64 ↔ x.sle y = true := by
  have signed (v : Word) : sextN v.toNat 64 = v.toInt := by rw [sextN_eq_bmod _ (by decide), BitVec.toInt_eq_toNat_bmod]
  rw [signed, signed, BitVec.sle_iff_toInt_le]

theorem atomicNew_word (x y z : Word) :
    let f (k : Nat) : Word := BitVec.ofNat 64 (atomicNew k 8 x.toNat y.toNat z.toNat)
    f 0 = x + y ∧ f 1 = x &&& y ∧ f 2 = x ||| y ∧ f 3 = x ^^^ y
    ∧ f 4 = (if x.sle y then x else y) ∧ f 5 = (if x.sle y then y else x)
    ∧ f 6 = (if x.ule y then x else y) ∧ f 7 = (if x.ule y then y else x)
    ∧ f 8 = y ∧ f 12 = (if x = z then y else x) := by
  have word (v : Word) : BitVec.ofNat 64 v.toNat = v := by rw [BitVec.ofNat_toNat, BitVec.setWidth_eq]
  refine ⟨?_, ?_, ?_, ?_, ?_, ?_, ?_, ?_, word y, ?_⟩
  · rw [← word (x + y), BitVec.toNat_add]; rfl
  · rw [← word (x &&& y), BitVec.toNat_and]; rfl
  · rw [← word (x ||| y), BitVec.toNat_or]; rfl
  · rw [← word (x ^^^ y), BitVec.toNat_xor]; rfl
  · simp only [atomicNew, Nat.reduceMul, sextN_le_iff, apply_ite (BitVec.ofNat 64), word]
  · simp only [atomicNew, Nat.reduceMul, sextN_le_iff, apply_ite (BitVec.ofNat 64), word]
  · simp only [atomicNew, Nat.min_def, BitVec.ule_iff_toNat_le, apply_ite (BitVec.ofNat 64), word]
  · simp only [atomicNew, Nat.max_def, BitVec.ule_iff_toNat_le, apply_ite (BitVec.ofNat 64), word]
  · simp only [atomicNew, BitVec.toNat_inj, apply_ite (BitVec.ofNat 64), word]

/-! What an atomic leaves (R238, R239). -/

theorem atomicT_keeps (s : State) (n c : Nat) (cls : Option Nat) (t : Target) (k size x z : Nat) :
    Keeps accessView s (atomicT s n c cls t k size x z).s := by
  cases t with
  | remote m rl off => exact .refl s
  | spad o off =>
    unfold atomicT
    dsimp only
    split
    · exact .refl s
    · exact accessView_modCo s n o fun _ => accessCore_spadWrite ..
  | mem sp pa kind zp =>
    have dropped := l1Drop_keeps s n c sp pa true
    unfold atomicT
    dsimp only
    split
    · split
      · exact dropped
      · exact (dropped.trans (accessView_touch ..)).trans (detPut_keeps ..)
    · split
      · exact dropped.trans (accessView_touch ..)
      · exact ((dropped.trans (accessView_touch ..)).trans (accessView_touch ..)).trans (accessView_homeWrite ..)

theorem putABit_keeps (s : State) (n c a : Nat) (on : Bool) : Keeps accessView s (putABit s n c a on) := by
  unfold putABit
  dsimp only
  refine .trans ((accessView_home s n ?_).trans (accessView_modCo _ n c ?_)) (.modQd _ n _ rfl) <;> exact fun _ => rfl

theorem withoutABit_keeps (s r : State) (n c : Nat) : Keeps accessView r (withoutABit s r n c) := by
  unfold withoutABit
  split
  · exact putABit_keeps ..
  · exact .refl r

/-! The issue (R226, R238, R239). -/

/-- An atomic that is outstanding: what its issue knows of it. -/
def amoPend (t : Tok) (d b : Reg) (k size : Nat) (o : BitVec 2) (y : AmoPlan) (p : State) : PendAcc :=
  { pendLoad p (newTag p).1 y.x size (k < 9 || k == 12) (some d) none none t y.pc with
    aop := some k, op := BitVec.ofNat 64 ((reg p b).toNat % 2 ^ (8 * size)),
    cmp := BitVec.ofNat 64 ((reg p d).toNat % 2 ^ (8 * size)),
    rel := amoRel p y.x.t o, acq := amoAcq p y.x.t o, aBit := y.aBit }

/-- What an atomic releases before it sets out (R226). -/
def amoReleased (o : BitVec 2) (tg : Target) (p : State) : State :=
  if amoRel p tg o then releaseL1 (newTag p).2 p.cur.node p.cur.core (scopeOf p.cur.core tg) false else (newTag p).2

theorem amoReleased_seqs (o : BitVec 2) (tg : Target) (p : State) : Keeps (coresVia seqCore) p (amoReleased o tg p) := by
  unfold amoReleased
  split
  · exact (newTag_seqs p).trans (releaseL1_keeps ..).accessSeqs
  · exact newTag_seqs p

/-- A sequencer that holds for an atomic, as far as `Keeps` sees it: the steps that follow change nothing of it. -/
theorem holds_atomic {q r z : State} {w : PendAcc} (h : Keeps (coresVia seqCore) q r)
    (hz : Keeps (coresVia seqCore) (modCs r fun k => { k with hold := .atomic w }) z) :
    (cs z).hold = .atomic w ∧ (cs z).pc = (cs q).pc := by
  rw [hz.sameSeq, cs_modCs, h.sameSeq]
  exact ⟨rfl, rfl⟩

/-- An atomic as it issues: its sequencer holds for the old value, which is there at once on a DETERM page. -/
theorem amoOp_eff {t : Tok} {d a b : Reg} {k size : Nat} {o : BitVec 2} {y : AmoPlan} {p z : State}
    (hz : z = (amoOp t d a b k size o).eff y p) :
    ∃ v, (cs z).hold = .atomic { amoPend t d b k size o y p with data := v } ∧ v.isSome = isDeterm y.x.t
      ∧ (cs z).pc = (cs p).pc := by
  have released := amoReleased_seqs o y.x.t p
  obtain ⟨⟨tg, va⟩, pc, aBit⟩ := y
  subst hz
  cases tg with
  | remote m rl off =>
    obtain ⟨hold, at_⟩ := holds_atomic (w := amoPend t d b k size o ⟨⟨.remote m rl off, va⟩, pc, aBit⟩ p) released
      (sendWindow_seqs ..)
    exact ⟨none, hold, rfl, at_⟩
  | spad w off =>
    obtain ⟨hold, at_⟩ := holds_atomic (w := amoPend t d b k size o ⟨⟨.spad w off, va⟩, pc, aBit⟩ p) released (.schedule ..)
    exact ⟨none, hold, rfl, at_⟩
  | mem sp pa kd zp =>
    cases kd
    case determ =>
      obtain ⟨hold, at_⟩ := holds_atomic (released.trans (atomicT_keeps ..).accessSeqs) (.schedule ..)
      exact ⟨some _, hold, rfl, at_⟩
    all_goals
      obtain ⟨hold, at_⟩ := holds_atomic (w := amoPend t d b k size o ⟨⟨.mem sp pa _ zp, va⟩, pc, aBit⟩ p) released
        (.schedule ..)
      exact ⟨none, hold, rfl, at_⟩

theorem and_not_eq_false {b c : Bool} (h : b = true → c = true) : (b && !c) = false :=
  Bool.and_eq_false_imp.mpr fun e => congrArg (!·) (h e)

section
variable {t : Tok} {d a b : Reg} {k size : Nat} {o : BitVec 2} {s s' : State} {x : Access}
  (hp : accessPre s (reg s a) size size .rw true = .go x s')
include hp

/-- A page of host memory faults PERM. -/
theorem amoOp_pre_host {pa : Nat} {kd : Kind} {zp : Bool} (hx : x.t = .mem .host pa kd zp) :
    (amoOp t d a b k size o).pre s
      = .fault (causeAt s 0x06 (reg s a)) (keepTlb s s' s.cur.node s.cur.core) := by
  simp only [amoOp, hp, hx]
  rfl

/-- A poisoned line of a DETERM page faults POISON at issue. -/
theorem amoOp_pre_poison (hx : ∀ pa kd zp, x.t ≠ .mem .host pa kd zp) (hd : isDeterm x.t = true)
    (hq : (atomicT s' s.cur.node s.cur.core none x.t k size 0 0).poison = true) :
    (amoOp t d a b k size o).pre s
      = .fault (causeAt s 0x07 (reg s a)) (keepTlb s s' s.cur.node s.cur.core) := by
  obtain ⟨tg, va⟩ := x
  have bad : (isDeterm tg && (atomicT s' s.cur.node s.cur.core none tg k size 0 0).poison) = true := by
    rw [Bool.and_eq_true]
    exact ⟨hd, hq⟩
  simp only [amoOp, hp, bad, if_true]
  rfl

/-- What the checks let through goes on, with its access put off on a page that is not DETERM (R196). -/
theorem amoOp_pre_go (hx : ∀ pa kd zp, x.t ≠ .mem .host pa kd zp)
    (hc : isDeterm x.t = true → (atomicT s' s.cur.node s.cur.core none x.t k size 0 0).poison = false)
    (hi : isStrong s' x.t = true → strongIdle s' = true)
    (hr : amoRel s' x.t o = true → blksDone s' s.cur.node s.cur.core s.cur.seq = true
      ∧ acked s' s.cur.node s.cur.core s.cur.seq (scopeOf s.cur.core x.t) = true) :
    ∃ y r, (amoOp t d a b k size o).pre s = .go y r ∧ y.x = x ∧ Keeps accessView s' r := by
  obtain ⟨tg, va⟩ := x
  have clean : (isDeterm tg && (atomicT s' s.cur.node s.cur.core none tg k size 0 0).poison) = false :=
    Bool.and_eq_false_imp.mpr hc
  have idle : (isStrong s' tg && !strongIdle s') = false := and_not_eq_false hi
  have open_ : (amoRel s' tg o && !(blksDone s' s.cur.node s.cur.core s.cur.seq
      && acked s' s.cur.node s.cur.core s.cur.seq (scopeOf s.cur.core tg))) = false :=
    and_not_eq_false fun e => Bool.and_eq_true_iff.mpr (hr e)
  simp only [amoOp, hp, clean, idle, open_, Bool.false_eq_true, if_false]
  split
  · split
    · exact ⟨_, _, rfl, rfl, .refl _⟩
    · exact ⟨_, _, rfl, rfl, withoutABit_keeps ..⟩
  · exact ⟨_, _, rfl, rfl, .refl _⟩

end

/-- The outcomes of a row of the atomics. -/
theorem amo_outcomes {i : Instr} {t : Tok} {d a b : Reg} {k size : Nat} {o : BitVec 2} {s : State}
    (hi : exec i s = runOp (amoOp t d a b k size o) s) (h : CanIssue s t [.ctrl, .load, .store] [a, b, d] 0) :
    let n := s.cur.node
    let c := s.cur.core
    (∀ k s', accessPre s (reg s a) size size .rw true = .fault k s' → exec i s = .next (takeTrap s' n c k))
    ∧ (∀ s', accessPre s (reg s a) size size .rw true = .hold s' → exec i s = .next (setBlocked s))
    ∧ ∀ x s', accessPre s (reg s a) size size .rw true = .go x s' →
      (∀ pa kd zp, x.t = .mem .host pa kd zp →
        exec i s = .next (takeTrap (keepTlb s s' n c) n c (causeAt s 0x06 (reg s a))))
      ∧ ((∀ pa kd zp, x.t ≠ .mem .host pa kd zp) → isDeterm x.t = true → (atomicT s' n c none x.t k size 0 0).poison = true →
        exec i s = .next (takeTrap (keepTlb s s' n c) n c (causeAt s 0x07 (reg s a))))
      ∧ ((∀ pa kd zp, x.t ≠ .mem .host pa kd zp) →
        (isDeterm x.t = true → (atomicT s' n c none x.t k size 0 0).poison = false) →
        (isStrong s' x.t = true → strongIdle s' = true) →
        (amoRel s' x.t o = true → blksDone s' n c s.cur.seq = true ∧ acked s' n c s.cur.seq (scopeOf c x.t) = true) →
        ∃ y p, exec i s = .next y ∧ (cs y).hold = .atomic p ∧ p.aop = some k ∧ p.va = reg s a ∧ p.size = size
          ∧ p.reg = some d ∧ p.op.toNat = (reg s' b).toNat % 2 ^ (8 * size) ∧ p.cmp.toNat = (reg s' d).toNat % 2 ^ (8 * size)
          ∧ p.data.isSome = isDeterm x.t ∧ (cs y).pc = (cs (begun s' t 1)).pc) := by
  intro n c
  have issue : CanIssue s t [.ctrl, .load, .store] (if k = 12 then [a, b, d] else [a, b]) 0 := by
    refine canIssue_mono ?_ le_rfl h
    split
    · exact List.Subset.refl _
    · exact fun r m => List.mem_of_mem_take (i := 2) m
  have decoded : decodeFault (amoOp t d a b k size o) s = none := decodeFault_none rfl (.inl rfl) h.taken rfl
  have cut (v : Word) : (BitVec.ofNat 64 (v.toNat % 2 ^ (8 * size))).toNat = v.toNat % 2 ^ (8 * size) :=
    Nat.mod_eq_of_lt ((Nat.mod_le ..).trans_lt v.isLt)
  rw [hi]
  refine ⟨fun k s' hp => ?_, fun s' hp => ?_, fun x s' hp => ⟨fun pa kd zp hx => ?_, fun hx hd hq => ?_, fun hx hc hs hr => ?_⟩⟩
  · exact runOp_fault_of_canIssue issue decoded (by simp only [amoOp, hp])
  · exact runOp_hold_of_canIssue (s' := s') issue decoded (by simp only [amoOp, hp])
  · exact runOp_fault_of_canIssue issue decoded (amoOp_pre_host hp hx)
  · exact runOp_fault_of_canIssue issue decoded (amoOp_pre_poison hp hx hd hq)
  · obtain ⟨y, r, goes, hy, kept⟩ := amoOp_pre_go (t := t) (d := d) (b := b) (k := k) (o := o) hp hx hc hs hr
    obtain ⟨v, hold, found, at_⟩ := amoOp_eff (t := t) (d := d) (a := a) (b := b) (k := k) (size := size) (o := o) (y := y)
      (p := begun r t 1) rfl
    have value (e : Reg) : reg (begun r t 1) e = reg s' e := ((same_begun r t 1).reg e).trans (kept.accessReg e)
    refine ⟨_, _, runOp_of_canIssue issue decoded goes rfl, hold, rfl, ?_, rfl, rfl, ?_, ?_, ?_, ?_⟩
    · exact (congrArg Access.va hy).trans (accessPre_va hp)
    · rw [← value]; exact cut _
    · rw [← value]; exact cut _
    · exact found.trans (congrArg (fun x => isDeterm x.t) hy)
    · exact at_.trans (pc_begun_keeps kept t 1)

/-- Settles O20: each row by the one operation of the atomics; what they compute by their integers at 64 bits. -/
theorem atomics : Obligations.Atomics := by
  refine ⟨⟨List.forall_iff_forall_mem.mp ?_, List.forall_iff_forall_mem.mp ?_⟩, atomicNew_word⟩
  · exact ⟨fun _ _ _ _ _ _ _ => amo_outcomes rfl, fun _ _ _ _ _ _ _ => amo_outcomes rfl,
      fun _ _ _ _ _ _ _ => amo_outcomes rfl, fun _ _ _ _ _ _ _ => amo_outcomes rfl,
      fun _ _ _ _ _ _ _ => amo_outcomes rfl, fun _ _ _ _ _ _ _ => amo_outcomes rfl,
      fun _ _ _ _ _ _ _ => amo_outcomes rfl, fun _ _ _ _ _ _ _ => amo_outcomes rfl,
      fun _ _ _ _ _ _ _ => amo_outcomes rfl, fun _ _ _ _ _ _ _ => amo_outcomes rfl⟩
  · exact ⟨fun _ _ _ _ _ _ => amo_outcomes rfl, fun _ _ _ _ _ _ => amo_outcomes rfl, fun _ _ _ _ _ _ => amo_outcomes rfl⟩

end Sys2Proof.Machine
end

section
/-! PROOFS. The counts of a ring (R244; O22): HEAD, TAIL and CLAIMED stay in their order, at most COUNT apart. -/

namespace Sys2Proof.Machine

/-! Distances. -/

theorem dist_succ_left {a b : BitVec 16} (h : dist a b + 1 < 2 ^ 16) : dist (a + 1) b = dist a b + 1 := by
  unfold dist at *
  bv_omega

theorem dist_succ_right {a b : BitVec 16} (h : 0 < dist a b) : dist a (b + 1) = dist a b - 1 := by
  unfold dist at *
  bv_omega

theorem eq_of_dist_eq_zero {a b : BitVec 16} (h : dist a b = 0) : a = b := by
  unfold dist at h
  bv_omega

/-! The order. -/

/-- HEAD, TAIL and CLAIMED stand in that order, at most COUNT apart. -/
def InOrder (x : Ring) : Prop := x.countL2 ≤ 10 ∧ dist x.tail x.head ≤ dist x.claimed x.head ∧ dist x.claimed x.head ≤ x.count

theorem InOrder.count_le {x : Ring} (h : InOrder x) : x.count ≤ 2 ^ 10 := Nat.pow_le_pow_right (by decide) h.1

theorem inOrder_claim {x : Ring} (h : InOrder x) (hf : 1 ≤ freeCount x) (l : SMap Nat) :
    InOrder { x with slots := l, claimed := x.claimed + 1 } := by
  have small := h.count_le
  obtain ⟨size, tail, claimed⟩ := h
  have free : dist x.claimed x.head + 1 ≤ x.count := by
    unfold freeCount at hf
    omega
  have next : dist (x.claimed + 1) x.head = dist x.claimed x.head + 1 := dist_succ_left (by omega)
  exact ⟨size, (by rw [next]; omega : dist x.tail x.head ≤ dist (x.claimed + 1) x.head), next.trans_le free⟩

/-- TAIL stands where it cannot move: at CLAIMED, or at a slot neither published nor released. -/
def TailRests (x : Ring) : Prop := slotLive x x.tail = true → smGet x.slots 0 x.tail.toNat < 2

/-- TAIL moves within the live slots, and with COUNT steps it comes to rest. -/
theorem advTail_inOrder (k : Nat) {x : Ring} (h : InOrder x) :
    InOrder (advTail k x) ∧ (x.count ≤ dist x.tail x.head + k → TailRests (advTail k x)) := by
  induction k generalizing x with
  | zero =>
    obtain ⟨size, tail, claimed⟩ := h
    refine ⟨⟨size, tail, claimed⟩, fun far live => ?_⟩
    have before : dist x.tail x.head < dist x.claimed x.head := of_decide_eq_true live
    omega
  | succ k ih =>
    have small := h.count_le
    obtain ⟨size, tail, claimed⟩ := h
    unfold advTail
    split
    · next moves =>
      rw [Bool.and_eq_true, slotLive, decide_eq_true_eq] at moves
      have next : dist (x.tail + 1) x.head = dist x.tail x.head + 1 := dist_succ_left (by omega)
      have there : InOrder { x with tail := x.tail + 1 } := ⟨size, next.trans_le moves.1, claimed⟩
      obtain ⟨order, rests⟩ := ih there
      refine ⟨order, fun far => rests ?_⟩
      change x.count ≤ dist (x.tail + 1) x.head + k
      omega
    · next stops =>
      refine ⟨⟨size, tail, claimed⟩, fun _ live => ?_⟩
      rw [live, Bool.true_and, decide_eq_true_eq] at stops
      omega

/-- HEAD moves over released slots and never past a TAIL that rests. -/
theorem advHead_inOrder (k : Nat) {x : Ring} (h : InOrder x) (hr : TailRests x) : InOrder (advHead k x) := by
  induction k generalizing x with
  | zero => exact h
  | succ k ih =>
    obtain ⟨size, tail, claimed⟩ := h
    unfold advHead
    split
    · next moves =>
      rw [Bool.and_eq_true, beq_iff_eq] at moves
      obtain ⟨live, released⟩ := moves
      have apart : x.tail ≠ x.head := by
        intro e
        have rests := hr (e ▸ live)
        rw [e] at rests
        omega
      have ahead : 0 < dist x.tail x.head := Nat.pos_of_ne_zero fun e => apart (eq_of_dist_eq_zero e)
      have tail' : dist x.tail (x.head + 1) = dist x.tail x.head - 1 := dist_succ_right ahead
      have claimed' : dist x.claimed (x.head + 1) = dist x.claimed x.head - 1 := dist_succ_right (by omega)
      refine ih ⟨size, ?_, ?_⟩ fun still => ?_
      · change dist x.tail (x.head + 1) ≤ dist x.claimed (x.head + 1)
        omega
      · change dist x.claimed (x.head + 1) ≤ x.count
        omega
      · have before : dist x.tail (x.head + 1) < dist x.claimed (x.head + 1) := of_decide_eq_true still
        change smGet (smDel x.slots x.head.toNat) 0 x.tail.toNat < 2
        rw [smGet_smDel_ne _ _ fun e => apart (BitVec.eq_of_toNat_eq e)]
        exact hr (decide_eq_true (by omega))
    · exact ⟨size, tail, claimed⟩

theorem inOrder_ringSettle {x : Ring} (h : InOrder x) : InOrder (ringSettle x) := by
  obtain ⟨order, rests⟩ := advTail_inOrder x.count h
  exact advHead_inOrder _ order (rests (Nat.le_add_left ..))

/-- Settles O22: a claim by its free slot; a publication and a release because HEAD never passes a TAIL that rests. -/
theorem ringOrder : Obligations.RingOrder :=
  fun _ h => ⟨fun free => inOrder_claim h free _, fun _ _ => inOrder_ringSettle h⟩

end Sys2Proof.Machine
end

section
/-! PROOFS. The ring instructions (R243 to R246; O21): their shared test, and what each does once it is passed. -/

namespace Sys2Proof.Machine

open Sys2Proof.Claims

/-! The ring operand (R246). -/

theorem ringAt_illegal (s : State) {v : Word} (h : 2 ^ 13 ≤ v.toNat) : ringAt s v = .inl 0x01 := if_pos h

theorem ringAt_own (s : State) {v : Word} (h : v.toNat < 32) : ringAt s v = .inr (quadOf s.cur.core, v.toNat) := by
  have member : fld v 12 5 = 0 := by
    rw [fld, bitsOf, Nat.shiftRight_eq_div_pow, Nat.div_eq_of_lt h, Nat.zero_mod]
  have number : fld v 4 0 = v.toNat := by rw [fld_low5, Nat.mod_eq_of_lt h]
  rw [ringAt, if_neg (by omega)]
  simp only [member, number, if_true]

/-! The shared test. -/

/-- The operand b of a ring instruction, 0 where it has none. -/
def ringIdx (s : State) : Option SOp → Word
  | some b => opv s b
  | none => 0

/-- The operands of a ring instruction name a ring, which stands as `x` and is seen as `y`, and the slot or count `i`. -/
structure NamesRing (s : State) (a : SOp) (idx : Option SOp) (q r : Nat) (x y : Ring) (i : BitVec 16) : Prop where
  found : ringAt s (opv s a) = .inr (q, r)
  fits  : (ringIdx s idx).toNat < 2 ^ 16
  ring  : ringOf s s.cur.node q r = x
  seen  : ringSeen s q r = y
  slot  : (ringIdx s idx).setWidth 16 = i

section
variable {s : State} {a : SOp} {idx : Option SOp} {bad wait : Ring → BitVec 16 → Bool}
  {val : State → Nat → Nat → Ring → BitVec 16 → Word} {q r : Nat} {x y : Ring} {i : BitVec 16}

theorem ringPre_operand {code : Nat} (ha : ringAt s (opv s a) = .inl code) :
    ringPre a idx bad wait val s = .fault (causeHere s code) s := by
  unfold ringPre
  rw [ha]

/-- The test of a ring that the operands name, the instruction's own misuse test and its wait still open. -/
theorem ringPre_eq (hr : NamesRing s a idx q r x y i) :
    ringPre a idx bad wait val s =
      if !ringMine s x || bad x i then .fault (causeHere s codeRingMisuse) s
      else if !(wait x i && wait y i) then .hold s
      else .go ⟨q, r, x, val s q r x i⟩ s := by
  obtain ⟨found, fits, rfl, rfl, rfl⟩ := hr
  unfold ringPre
  rw [found]
  cases idx <;> exact if_neg (Nat.not_le.mpr fits)

theorem ringPre_misuse (hr : NamesRing s a idx q r x y i) (hm : ringMine s x = false ∨ bad x i = true) :
    ringPre a idx bad wait val s = .fault (causeHere s 0x0C) s := by
  rw [ringPre_eq hr]
  refine if_pos ?_
  rcases hm with hm | hm <;> simp [hm]

theorem ringPre_waits (hr : NamesRing s a idx q r x y i) (hm : ringMine s x = true) (hn : bad x i = false)
    (hw : wait x i = false) : ringPre a idx bad wait val s = .hold s := by
  rw [ringPre_eq hr]
  simp [hm, hn, hw]

theorem ringPre_goes (hr : NamesRing s a idx q r x y i) (hm : ringMine s x = true) (hn : bad x i = false)
    (hw : wait x i = true) (hv : wait y i = true) :
    ringPre a idx bad wait val s = .go ⟨q, r, x, val s q r x i⟩ s := by
  rw [ringPre_eq hr]
  simp [hm, hn, hw, hv]

end

/-! Rings as an issue leaves them. -/

theorem ringScope_congr {s p : State} (h : p.cur = s.cur) (q : Nat) : ringScope p q = ringScope s q := by
  rw [ringScope, h, ringScope]

theorem ringAcquire_of_cur {s p : State} (h : p.cur = s.cur) (y : RingPlan) :
    ringAcquire p y = acquireL1 p s.cur.node s.cur.core (ringScope s y.q) false := by
  rw [ringAcquire, ringScope_congr h, h]

theorem IssueFrame.taskId {s p : State} (h : IssueFrame s p) : taskId (cc p) = Machine.taskId (cc s) := h.core Machine.taskId

/-! The instructions with a result. -/

theorem exec_rngclaim (t : Tok) (d : Reg) (a : SOp) (s : State) : exec (.rngclaim t d a) s = execRngclaim t d a s := rfl
theorem exec_rngstat (t : Tok) (d : Reg) (a : SOp) (s : State) : exec (.rngstat t d a) s = execRngstat t d a s := rfl
theorem exec_rngwfill (t : Tok) (d : Reg) (a b : SOp) (s : State) : exec (.rngwfill t d a b) s = execRngwfill t d a b s := rfl
theorem exec_rngwfree (t : Tok) (d : Reg) (a b : SOp) (s : State) : exec (.rngwfree t d a b) s = execRngwfree t d a b s := rfl
theorem exec_rngpeek (t : Tok) (d : Reg) (a b : SOp) (s : State) : exec (.rngpeek t d a b) s = execRngpeek t d a b s := rfl
theorem exec_rngpub (t : Tok) (a b : SOp) (s : State) : exec (.rngpub t a b) s = execRngpub t a b s := rfl
theorem exec_rngrel (t : Tok) (a b : SOp) (s : State) : exec (.rngrel t a b) s = execRngrel t a b s := rfl
theorem exec_rnginit (t : Tok) (a b : SOp) (s : State) : exec (.rnginit t a b) s = execRnginit t a b s := rfl

section
variable {s : State} {t : Tok} {d : Reg} {a b : SOp} {idx : Option SOp} {bad wait : Ring → BitVec 16 → Bool}
  {val : State → Nat → Nat → Ring → BitVec 16 → Word} {act : State → RingPlan → State} {new : Nat} {k : Cause} {y : RingPlan}

section
variable (h : CanIssue s t allSeqs (ringResult t d a idx bad wait val act).srcs 1)
include h

theorem ringResult_faults (hp : ringPre a idx bad wait val s = .fault k s) :
    runOp (ringResult t d a idx bad wait val act) s = .next (takeTrap s s.cur.node s.cur.core k) :=
  runOp_fault_of_canIssue h (decodeFault_none rfl (.inl rfl) (mem_allSeqs _) rfl) hp

theorem ringResult_waits (hp : ringPre a idx bad wait val s = .hold s) :
    runOp (ringResult t d a idx bad wait val act) s = .next (setBlocked s) :=
  runOp_hold_of_canIssue (s' := s) h (decodeFault_none rfl (.inl rfl) (mem_allSeqs _) rfl) hp

theorem ringResult_goes (hp : ringPre a idx bad wait val s = .go y s) :
    runOp (ringResult t d a idx bad wait val act) s
      = .next (flyReg (act (begun s t (ringResult t d a idx bad wait val act).len) y) d y.v 4 (pushKey s t) 0) := by
  rw [← pushKey_congr (same_begun s t (ringResult t d a idx bad wait val act).len).cur]
  exact runOp_of_canIssue h (decodeFault_none rfl (.inl rfl) (mem_allSeqs _) rfl) hp rfl

end

/-! The instructions that release. -/

theorem ringRelease_faults (h : CanIssue s t allSeqs (sopSrcs a ++ sopSrcs b) 0)
    (hp : ringPre a (some b) bad (fun _ _ => true) (fun _ _ _ _ i => i.setWidth 64) s = .fault k s) :
    runOp (ringRelease t a b bad new) s = .next (takeTrap s s.cur.node s.cur.core k) :=
  runOp_fault_of_canIssue h (decodeFault_none rfl (.inl rfl) (mem_allSeqs _) rfl) hp

/-- Earlier stores are handed over, then the slot changes and the counts move (R244, R246). -/
theorem ringRelease_goes {q r : Nat} {x : Ring} {i : BitVec 16} (h : CanIssue s t allSeqs (sopSrcs a ++ sopSrcs b) 0)
    (hd : blksDone s s.cur.node s.cur.core s.cur.seq = true)
    (hp : ringPre a (some b) bad (fun _ _ => true) (fun _ _ _ _ i => i.setWidth 64) s = .go ⟨q, r, x, i.setWidth 64⟩ s) :
    runOp (ringRelease t a b bad new) s
      = .next (putRing (releaseL1 (past s t (1 + sopLen a + sopLen b)) s.cur.node s.cur.core (ringScope s q) false) q r
          (ringSettle { x with slots := smPut x.slots i.toNat new })) := by
  have slot : (i.setWidth 64).toNat % 2 ^ 16 = i.toNat := by bv_omega
  have there := cur_past s t (1 + sopLen a + sopLen b)
  refine (runOp_of_canIssue h (decodeFault_none rfl (.inl rfl) (mem_allSeqs _) rfl) hp hd).trans ?_
  rw [← ringScope_congr there, ← there, ← slot]
  rfl

end

/-! What the operand and the ring refuse. -/

section
variable {s : State} {t : Tok} {d : Reg} {a b : SOp} {k : Cause}

/-- What the shared test finds of the operands alone, every ring instruction with an operand b faults on. -/
theorem ringIndexed_traps (h : CanIssue s t allSeqs (sopSrcs a ++ sopSrcs b) 1)
    (hp : ∀ bad wait val, ringPre a (some b) bad wait val s = .fault k s) :
    let trap : Out := .next (takeTrap s s.cur.node s.cur.core k)
    exec (.rngwfill t d a b) s = trap ∧ exec (.rngwfree t d a b) s = trap ∧ exec (.rngpeek t d a b) s = trap
    ∧ exec (.rngpub t a b) s = trap ∧ exec (.rngrel t a b) s = trap := by
  have h0 : CanIssue s t allSeqs (sopSrcs a ++ sopSrcs b) 0 := canIssue_mono (List.Subset.refl _) (by decide) h
  rw [exec_rngwfill, exec_rngwfree, exec_rngpeek, exec_rngpub, exec_rngrel]
  exact ⟨ringResult_faults h (hp ..), ringResult_faults h (hp ..), ringResult_faults h (hp ..),
    ringRelease_faults h0 (hp ..), ringRelease_faults h0 (hp ..)⟩

/-- CLAIM and STAT have one operand. -/
theorem canIssue_single (h : CanIssue s t allSeqs (sopSrcs a) 1) : CanIssue s t allSeqs (sopSrcs a ++ []) 1 :=
  canIssue_mono (by rw [List.append_nil]; exact List.Subset.refl _) le_rfl h

theorem ringSingle_traps (h : CanIssue s t allSeqs (sopSrcs a) 1)
    (hp : ∀ bad wait val, ringPre a none bad wait val s = .fault k s) :
    let trap : Out := .next (takeTrap s s.cur.node s.cur.core k)
    exec (.rngclaim t d a) s = trap ∧ exec (.rngstat t d a) s = trap := by
  rw [exec_rngclaim, exec_rngstat]
  exact ⟨ringResult_faults (canIssue_single h) (hp ..), ringResult_faults (canIssue_single h) (hp ..)⟩

end

/-! What each does on a ring that the core may use. -/

section
variable {s : State} {t : Tok} {d : Reg} {a b : SOp} {q r : Nat} {x y : Ring} {i : BitVec 16}

section
variable (hr : NamesRing s a none q r x y i) (hm : ringMine s x = true) (h : CanIssue s t allSeqs (sopSrcs a) 1)
include hr hm h

theorem rngclaim_goes (hf : 1 ≤ freeCount x) (hv : 1 ≤ freeCount y) :
    exec (.rngclaim t d a) s
      = .next (flyReg (acquireL1 (putRing (begun s t (1 + sopLen a)) q r
          { x with slots := smPut x.slots x.claimed.toNat 1, who := smPut x.who x.claimed.toNat (taskId (cc s)),
                   claimed := x.claimed + 1 }) s.cur.node s.cur.core (ringScope s q) false)
          d (x.claimed.setWidth 64) 4 (pushKey s t) 0) := by
  have issued := IssueFrame.begun s t (1 + sopLen a)
  have cur (z : Ring) : (putRing (begun s t (1 + sopLen a)) q r z).cur = s.cur := issued.cur
  rw [exec_rngclaim, ← issued.taskId]
  refine (ringResult_goes (canIssue_single h) (ringPre_goes hr hm rfl (decide_eq_true hf) (decide_eq_true hv))).trans ?_
  exact congrArg (fun z => Host.Outcome.next (flyReg z d (x.claimed.setWidth 64) 4 (pushKey s t) 0))
    (ringAcquire_of_cur (cur _) ⟨q, r, x, x.claimed.setWidth 64⟩)

theorem rngclaim_waits (hf : freeCount x = 0) : exec (.rngclaim t d a) s = .next (setBlocked s) := by
  rw [exec_rngclaim]
  exact ringResult_waits (canIssue_single h) (ringPre_waits hr hm rfl (decide_eq_false (by omega)))

theorem rngstat_goes :
    exec (.rngstat t d a) s
      = .next (flyReg (begun s t (1 + sopLen a)) d
          (BitVec.ofNat 64 (x.count * 2 ^ 48 + y.claimed.toNat * 2 ^ 32 + y.tail.toNat * 2 ^ 16 + y.head.toNat))
          4 (pushKey s t) 0) := by
  rw [exec_rngstat, ← hr.seen]
  exact ringResult_goes (canIssue_single h) (ringPre_goes hr hm rfl rfl rfl)

end

section
variable (hr : NamesRing s a (some b) q r x y i) (h : CanIssue s t allSeqs (sopSrcs a ++ sopSrcs b) 1)
include hr h

theorem rngwfill_misuse (h1 : 1 ≤ dist x.head i) (h2 : dist x.head i ≤ 32767) :
    exec (.rngwfill t d a b) s = .next (takeTrap s s.cur.node s.cur.core (causeHere s 0x0C)) := by
  rw [exec_rngwfill]
  exact ringResult_faults h (ringPre_misuse hr (.inr (Bool.and_eq_true_iff.mpr ⟨decide_eq_true h1, decide_eq_true h2⟩)))

theorem rngwfree_misuse (hi : i = 0 ∨ x.count < i.toNat) :
    exec (.rngwfree t d a b) s = .next (takeTrap s s.cur.node s.cur.core (causeHere s 0x0C)) := by
  rw [exec_rngwfree]
  refine ringResult_faults h (ringPre_misuse hr (.inr (Bool.or_eq_true_iff.mpr ?_)))
  exact hi.imp beq_iff_eq.mpr decide_eq_true

variable (hm : ringMine s x = true)
include hm

theorem rngwfill_goes (hi : ¬(1 ≤ dist x.head i ∧ dist x.head i ≤ 32767)) (hf : dist i x.head < dist x.tail x.head)
    (hv : dist i y.head < dist y.tail y.head) :
    exec (.rngwfill t d a b) s
      = .next (flyReg (acquireL1 (begun s t (1 + sopLen a + sopLen b)) s.cur.node s.cur.core (ringScope s q) false) d
          (BitVec.ofNat 64 (dist x.tail i)) 4 (pushKey s t) 0) := by
  have current : (decide (1 ≤ dist x.head i) && decide (dist x.head i ≤ 32767)) = false := by simpa using hi
  rw [exec_rngwfill]
  refine (ringResult_goes h (ringPre_goes hr hm current (decide_eq_true hf) (decide_eq_true hv))).trans ?_
  exact congrArg (fun z => Host.Outcome.next (flyReg z d (BitVec.ofNat 64 (dist x.tail i)) 4 (pushKey s t) 0))
    (ringAcquire_of_cur (same_begun s t (1 + sopLen a + sopLen b)).cur ⟨q, r, x, BitVec.ofNat 64 (dist x.tail i)⟩)

theorem rngwfree_goes (hz : i ≠ 0) (hc : i.toNat ≤ x.count) (hf : i.toNat ≤ freeCount x) (hv : i.toNat ≤ freeCount y) :
    exec (.rngwfree t d a b) s
      = .next (flyReg (acquireL1 (begun s t (1 + sopLen a + sopLen b)) s.cur.node s.cur.core (ringScope s q) false) d
          (BitVec.ofNat 64 (freeCount x)) 4 (pushKey s t) 0) := by
  have fits : (i == 0 || decide (x.count < i.toNat)) = false :=
    Bool.or_eq_false_iff.mpr ⟨beq_eq_false_iff_ne.mpr hz, decide_eq_false (Nat.not_lt.mpr hc)⟩
  rw [exec_rngwfree]
  refine (ringResult_goes h (ringPre_goes hr hm fits (decide_eq_true hf) (decide_eq_true hv))).trans ?_
  exact congrArg (fun z => Host.Outcome.next (flyReg z d (BitVec.ofNat 64 (freeCount x)) 4 (pushKey s t) 0))
    (ringAcquire_of_cur (same_begun s t (1 + sopLen a + sopLen b)).cur ⟨q, r, x, BitVec.ofNat 64 (freeCount x)⟩)

theorem rngpeek_goes :
    exec (.rngpeek t d a b) s
      = .next (flyReg (begun s t (1 + sopLen a + sopLen b)) d
          (BitVec.ofNat 64 (0xFF * 2 ^ 40
            + (if x.core = s.cur.core then 0 else memberOf s s.cur.node s.cur.core x.core) * 2 ^ 19
            + x.base + (i.toNat % x.count) * 2 ^ x.slotL2)) 4 (pushKey s t) 0) := by
  rw [exec_rngpeek]
  exact ringResult_goes h (ringPre_goes hr hm rfl rfl rfl)

end

section
variable (hr : NamesRing s a (some b) q r x y i) (h : CanIssue s t allSeqs (sopSrcs a ++ sopSrcs b) 0)
include hr h

theorem rngpub_misuse (hl : slotLive x i = false) :
    exec (.rngpub t a b) s = .next (takeTrap s s.cur.node s.cur.core (causeHere s 0x0C)) := by
  rw [exec_rngpub]
  exact ringRelease_faults h (ringPre_misuse hr (.inr (by simp [hl])))

theorem rngrel_misuse (hl : dist x.tail x.head ≤ dist i x.head) :
    exec (.rngrel t a b) s = .next (takeTrap s s.cur.node s.cur.core (causeHere s 0x0C)) := by
  rw [exec_rngrel]
  exact ringRelease_faults h (ringPre_misuse hr (.inr (by simp [hl])))

variable (hm : ringMine s x = true) (hd : blksDone s s.cur.node s.cur.core s.cur.seq = true)
include hm hd

theorem rngpub_goes (hl : slotLive x i = true) (hs : smGet x.slots 0 i.toNat = 1) :
    exec (.rngpub t a b) s
      = .next (putRing (releaseL1 (past s t (1 + sopLen a + sopLen b)) s.cur.node s.cur.core (ringScope s q) false) q r
          (ringSettle { x with slots := smPut x.slots i.toNat 2 })) := by
  rw [exec_rngpub]
  exact ringRelease_goes h hd (ringPre_goes hr hm (by simp [hl, hs]) rfl rfl)

theorem rngrel_goes (hl : dist i x.head < dist x.tail x.head) (hs : smGet x.slots 0 i.toNat ≠ 3) :
    exec (.rngrel t a b) s
      = .next (putRing (releaseL1 (past s t (1 + sopLen a + sopLen b)) s.cur.node s.cur.core (ringScope s q) false) q r
          (ringSettle { x with slots := smPut x.slots i.toNat 3 })) := by
  rw [exec_rngrel]
  exact ringRelease_goes h hd (ringPre_goes hr hm (by simp [hl, hs]) rfl rfl)

end

end

/-! RNGINIT (R245, R246). -/

/-- A ring that RNGINIT may make: no other's and unused, and within the owner's partition. -/
theorem rnginit_goes {t : Tok} {a b : SOp} {s : State} {l : Word} {r : Nat} {x : Ring}
    (h : CanIssue s t allSeqs (sopSrcs a ++ sopSrcs b) 0) (hl : opv s b = l) (hr : fld (opv s a) 4 0 = r)
    (hx : ringOf s s.cur.node (quadOf s.cur.core) r = x) (ha : (opv s a).toNat < 32) (count : fld l 27 24 ≤ 10)
    (least : 6 ≤ fld l 23 20) (most : fld l 23 20 ≤ 13) (aligned : fld l 18 0 % 64 = 0)
    (empty : x.valid = true → x.owner = taskId (cc s) ∧ x.core = s.cur.core ∧ x.claimed = x.head)
    (fits : fld l 18 0 + 2 ^ fld l 27 24 * 2 ^ fld l 23 20 ≤ (cc s).part * 8192) :
    exec (.rnginit t a b) s
      = .next (putRing (past s t (1 + sopLen a + sopLen b)) (quadOf s.cur.core) r
          ⟨true, taskId (cc s), s.cur.core, 0, 0, 0, fld l 27 24, fld l 23 20, fld l 18 0, [], []⟩) := by
  have issued := IssueFrame.past s t (1 + sopLen a + sopLen b)
  have operands : (decide (32 ≤ (opv s a).toNat) || decide (10 < fld l 27 24) || decide (fld l 23 20 < 6)
      || decide (13 < fld l 23 20) || fld l 18 0 % 64 != 0) = false := by
    simp [ha, count, least, most, aligned]
  have own : (x.valid && (!(x.owner == taskId (cc s) && x.core == s.cur.core) || x.claimed != x.head)) = false := by
    cases hv : x.valid
    · rfl
    · obtain ⟨owner, core, unused⟩ := empty hv
      simp [owner, core, unused]
  rw [exec_rnginit]
  unfold execRnginit
  refine (runOp_of_canIssue (x := (r, l)) (s' := s) h (decodeFault_none rfl (.inl rfl) (mem_allSeqs _) rfl) ?_ rfl).trans ?_
  · simp only [hl, hr, hx, operands, own, Nat.not_lt.mpr fits, Bool.false_eq_true, if_false]
  · rw [← issued.taskId, ← issued.cur]
    rfl

/-- Settles O21: what the shared test of the rings refuses, then each instruction on a ring that its core may use. -/
theorem ringInstructions : Obligations.RingInstructions := by
  refine ⟨⟨fun t d a b s code ha h => ?_, fun s v => ⟨ringAt_illegal s, ringAt_own s⟩, fun t d a b s q r ha hb => ?_⟩,
    fun t a b s h ha count least most aligned empty fits => rnginit_goes h rfl rfl rfl ha count least most aligned empty fits⟩
  · have first : CanIssue s t allSeqs (sopSrcs a) 1 := canIssue_mono (List.subset_append_left ..) le_rfl h
    obtain ⟨claim, stat⟩ := ringSingle_traps (d := d) first fun _ _ _ => ringPre_operand ha
    obtain ⟨wfill, wfree, peek, pub, rel⟩ := ringIndexed_traps (d := d) h fun _ _ _ => ringPre_operand ha
    exact ⟨claim, stat, wfill, wfree, peek, pub, rel⟩
  · have single : NamesRing s a none q r _ _ 0 := ⟨ha, Nat.two_pow_pos 16, rfl, rfl, rfl⟩
    have indexed : NamesRing s a (some b) q r _ _ _ := ⟨ha, hb, rfl, rfl, rfl⟩
    refine ⟨fun h hm => ringIndexed_traps h fun _ _ _ => ringPre_misuse indexed (.inl hm),
      fun h hm => ringSingle_traps h fun _ _ _ => ringPre_misuse single (.inl hm),
      fun h hm => ⟨rngclaim_goes single hm h, rngclaim_waits single hm h, rngstat_goes single hm h⟩,
      fun h hm => ⟨rngwfill_goes indexed h hm, rngwfill_misuse indexed h, rngwfree_goes indexed h hm,
        rngwfree_misuse indexed h, rngpeek_goes indexed h hm⟩,
      fun h hm hd => ⟨rngpub_goes indexed h hm hd, rngpub_misuse indexed h, rngrel_goes indexed h hm hd,
        rngrel_misuse indexed h⟩⟩

end Sys2Proof.Machine
end

section
/-! PROOFS. Barriers (R235, R247 to R250; O23): what is read of them after an issue, after an arrival and after a completion. -/

namespace Sys2Proof.Machine

open Sys2Proof.Claims

/-! Barriers as a reader of nodes sees them. -/

/-- The barriers that a node holds: of its tenants, its quads and its cores. -/
def barView (d : Node) : SMap Barrier × (Nat → SMap Barrier) × (Nat → SMap Barrier) :=
  (d.tbars, fun q => (smGet d.quads {} q).bars, coresVia Core.bars d)

theorem barView_cores : SeesCores Core.bars barView := fun d c k h =>
  Prod.ext rfl (Prod.ext rfl (seesCores_via (fun _ _ => id) d c k h))

theorem Keeps.bar {s t : State} (h : Keeps barView s t) (n lvl own id : Nat) : barOf t n lvl own id = barOf s n lvl own id := by
  have same := h.nodes n
  rw [barView, barView, Prod.mk.injEq, Prod.mk.injEq] at same
  obtain ⟨tenants, quads, cores⟩ := same
  unfold barOf
  split
  · exact congrArg (smGet · {} id) (congrFun cores own)
  · exact congrArg (smGet · {} id) (congrFun quads own)
  · exact congrArg (smGet · {} _) tenants

theorem begun_bars (s : State) (t : Tok) (len : Nat) : Keeps barView s (begun s t len) :=
  takeIssue_keeps (barView_cores.weaken fun _ _ h => (congrArg Core.bars h :)) _ s

theorem past_bars (s : State) (t : Tok) (len : Nat) : Keeps barView s (past s t len) := by
  unfold past pastWith
  exact takeIssue_keeps (barView_cores.weaken fun _ _ h => (congrArg Core.bars h :)) _ s

/-- The owner of a barrier of the moving core, which an issue does not change (R247). -/
theorem IssueFrame.barOwner {s p : State} (h : IssueFrame s p) (lvl : Nat) :
    barOwner p s.cur.node s.cur.core lvl = Machine.barOwner s s.cur.node s.cur.core lvl := by
  have tenant : tenantOf (cc p) = tenantOf (cc s) := h.core tenantOf
  rw [cc, cc, h.cur] at tenant
  rw [Machine.barOwner, tenant, Machine.barOwner]

/-! One barrier changes. -/

theorem barOf_putBar (s : State) (n lvl own id : Nat) (b : Barrier) : barOf (putBar s n lvl own id b) n lvl own id = b := by
  unfold putBar barOf
  split <;> simp [qd_modQd]

/-- A DOMAIN barrier of a node is no other node's. -/
theorem barOf_putBar_domain_ne (s : State) {n m : Nat} (own id : Nat) (b : Barrier) (h : m ≠ n) :
    barOf (putBar s n 4 own id b) m 4 own id = barOf s m 4 own id := by
  simp only [putBar, barOf, nd_modNd_ne s _ h]

theorem putBar_now (s : State) (n lvl own id : Nat) (b : Barrier) : (putBar s n lvl own id b).now = s.now := by
  unfold putBar
  split <;> rfl

theorem barSettle_bars (s : State) (n lvl own id : Nat) : Keeps barView s (barSettle s n lvl own id) := by
  unfold barSettle
  split
  · exact .schedule ..
  · exact .refl s

/-- Below DOMAIN all have arrived once those of the one node have. -/
theorem barAllIn_eq (s : State) (n own id : Nat) {lvl : Nat} (h : lvl ≠ 4) :
    barAllIn s n lvl own id = barFull (barOf s n lvl own id) := by
  rw [barAllIn, bne_iff_ne.mpr h, Bool.true_or, Bool.and_true]

theorem barFull_iff (b : Barrier) : barFull b = true ↔ b.part ≠ 0 ∧ b.part ≤ b.arr := by
  rw [barFull, Bool.and_eq_true, bne_iff_ne, decide_eq_true_eq]

/-! An arrival (R248). -/

/-- The state with an arrival counted and its phase noted for the sequencer. -/
def arrived (s : State) (n c lvl id : Nat) (q : Seq) : State :=
  let b := barOf s n lvl (barOwner s n c lvl) id
  modSq (putBar s n lvl (barOwner s n c lvl) id { b with arr := b.arr + 1 }) n c q fun k =>
    { k with phases := smPut k.phases (16 * lvl + id) (some (arrivePhase b)),
             doneQ := if lvl = 2 then smPut k.doneQ id false else k.doneQ }

theorem arrive_eq (s : State) (n c lvl id : Nat) (q : Seq) :
    arrive s n c lvl id q =
      (arrivePhase (barOf s n lvl (barOwner s n c lvl) id),
        if (barOf s n lvl (barOwner s n c lvl) id).arr + 1 = (barOf s n lvl (barOwner s n c lvl) id).part then
          barSettle (arrived s n c lvl id q) n lvl (barOwner s n c lvl) id
        else arrived s n c lvl id q) := rfl

theorem barOf_arrived (s : State) (n c lvl id : Nat) (q : Seq) :
    let b := barOf s n lvl (barOwner s n c lvl) id
    barOf (arrived s n c lvl id q) n lvl (barOwner s n c lvl) id = { b with arr := b.arr + 1 } := by
  have noted (s : State) (f : Sequencer → Sequencer) : Keeps barView s (modSq s n c q f) :=
    .modSq_sees barView_cores s n c q putSeq_bars
  exact ((noted ..).bar ..).trans (barOf_putBar ..)

/-- An arrival belongs to the phase under way while not all have arrived. -/
theorem arrivePhase_open {b : Barrier} (h : b.arr < b.part) : arrivePhase b = b.phase := by
  rw [arrivePhase, Nat.div_eq_of_lt h]
  exact BitVec.add_zero _

section
variable (s : State) (n c id : Nat) (q : Seq) {lvl : Nat}

theorem barOf_arrive :
    let b := barOf s n lvl (barOwner s n c lvl) id
    barOf (arrive s n c lvl id q).2 n lvl (barOwner s n c lvl) id = { b with arr := b.arr + 1 } := by
  rw [arrive_eq]
  dsimp only
  split
  · rw [(barSettle_bars ..).bar, barOf_arrived]
  · rw [barOf_arrived]

/-- The last arrival schedules the completion (R248). -/
theorem arrive_last (hl : lvl ≠ 4) (hp : (barOf s n lvl (barOwner s n c lvl) id).part ≠ 0)
    (ha : (barOf s n lvl (barOwner s n c lvl) id).arr + 1 = (barOf s n lvl (barOwner s n c lvl) id).part) :
    (s.now + barLat lvl, Instr.barrierComplete n lvl (barOwner s n c lvl) id) ∈ (arrive s n c lvl id q).2.timers := by
  have all : barAllIn (arrived s n c lvl id q) n lvl (barOwner s n c lvl) id = true := by
    rw [barAllIn_eq _ _ _ _ hl, barFull_iff, barOf_arrived]
    exact ⟨hp, ha.ge⟩
  have now : (arrived s n c lvl id q).now = s.now := putBar_now ..
  rw [arrive_eq, if_pos ha, barSettle, if_pos all, schedule, now]
  exact mem_insertBy ..

end

/-! The completion (R235, R248 to R250). -/

theorem tbars_noHome : SeesNoHome Node.tbars := fun _ => rfl

theorem publishEntry_tbars (s : State) (n : Nat) (e : DetEntry) : Keeps Node.tbars s (publishEntry s n e) := by
  have port (s : State) (bytes : Nat) (w : Bool) : Keeps Node.tbars s (touch s n (some e.cls) e.sp e.pa bytes w) :=
    touch_keeps tbars_noHome.port (.inr fun _ _ => rfl) ..
  unfold publishEntry
  extract_lets was s1 bytes s2
  have read : Keeps Node.tbars s s1 := by
    unfold s1
    split
    · exact port ..
    · exact .refl s
  split
  · exact port ..
  · refine (read.trans (port ..)).trans (.home tbars_noHome _ n fun d => ?_)
    simp

theorem publish_tbars (s : State) (n t : Nat) : Keeps Node.tbars s (publish s n t) := by
  have core (s : State) (c : Nat) (u : Core → Core) : Keeps Node.tbars s (modCo s n c u) := .modCo s n c rfl
  unfold publish
  extract_lets mine s1 s2
  have taken : Keeps Node.tbars s s1 := .modNd s n rfl
  have published : Keeps Node.tbars s1 s2 := .foldl _ (fun s e => publishEntry_tbars s n e) _ s1
  exact (taken.trans published).trans (.foldl _ (fun s c => core s c _) _ s2)

/-- What a DIE barrier publishes as it completes changes no barrier (R235, R250). -/
theorem diePublish_tbars (s : State) (n own : Nat) : Keeps Node.tbars s (diePublish s n own) := by
  unfold diePublish
  refine .trans ?_ (publish_tbars ..)
  split
  · exact .foldl _ (fun s c => drainDet_keeps (fun _ => rfl) s n c) _ s
  · exact quantumEnd_keeps (fun _ => rfl) s n

theorem exec_barrierComplete (n lvl own id : Nat) (s : State) :
    exec (.barrierComplete n lvl own id) s = execBarrierComplete n lvl own id s := rfl

/-- A barrier whose phase has completed: the next phase has the arrivals beyond the participants. -/
def completed (b : Barrier) : Barrier := { b with phase := b.phase + 1, arr := b.arr - b.part }

theorem barOf_barNext (s : State) (n lvl own id : Nat) :
    barOf (barNext s n lvl own id) n lvl own id = completed (barOf s n lvl own id) := barOf_putBar ..

theorem barrierComplete_waits {s : State} {n lvl own id : Nat} (hl : lvl ≠ 4)
    (h : (barOf s n lvl own id).arr < (barOf s n lvl own id).part) : exec (.barrierComplete n lvl own id) s = .next s := by
  have open_ : barAllIn s n lvl own id = false := by
    rw [barAllIn_eq _ _ _ _ hl, Bool.eq_false_iff]
    exact fun e => absurd ((barFull_iff _).mp e).2 (Nat.not_le.mpr h)
  rw [exec_barrierComplete, execBarrierComplete, open_]
  rfl

/-- What a completion does before any count of its barrier changes: at DIE it publishes (R250). -/
def barPublished (s : State) (n lvl own : Nat) : State := if lvl = 3 then diePublish s n own else s

theorem barOf_barPublished (s : State) (n lvl own id : Nat) :
    barOf (barPublished s n lvl own) n lvl own id = barOf s n lvl own id := by
  unfold barPublished
  split
  · next h =>
    have same := (diePublish_tbars s n own).nodes n
    simp only [h, barOf, same]
  · rfl

/-- Below DOMAIN one phase of one node's barrier completes. -/
theorem barrierComplete_goes {s : State} {n lvl own id : Nat} (hl : lvl ≠ 4) (hp : (barOf s n lvl own id).part ≠ 0)
    (ha : (barOf s n lvl own id).part ≤ (barOf s n lvl own id).arr) :
    ∃ y, exec (.barrierComplete n lvl own id) s = .next y ∧ barOf y n lvl own id = completed (barOf s n lvl own id) := by
  have all : barAllIn s n lvl own id = true := by
    rw [barAllIn_eq _ _ _ _ hl, barFull_iff]
    exact ⟨hp, ha⟩
  refine ⟨barSettle (barNext (barPublished s n lvl own) n lvl own id) n lvl own id, ?_, ?_⟩
  · rw [exec_barrierComplete, execBarrierComplete, all]
    simp only [barPublished, hl, Bool.not_true, Bool.false_eq_true, if_false]
  · rw [(barSettle_bars ..).bar, barOf_barNext, barOf_barPublished]

/-- A DOMAIN barrier completes on each node of a list once, on no other. -/
theorem barOf_foldl_barNext {l : List Nat} (hl : l.Nodup) (s : State) (own id m : Nat) :
    barOf (l.foldl (fun s m => barNext s m 4 own id) s) m 4 own id
      = if m ∈ l then completed (barOf s m 4 own id) else barOf s m 4 own id := by
  induction l generalizing s with
  | nil => rfl
  | cons n r ih =>
    obtain ⟨once, rest⟩ := List.nodup_cons.mp hl
    rw [List.foldl_cons, ih rest]
    by_cases e : m = n
    · subst e
      rw [if_neg once, if_pos List.mem_cons_self, barOf_barNext]
    · have same : barOf (barNext s n 4 own id) m 4 own id = barOf s m 4 own id := barOf_putBar_domain_ne _ _ _ _ e
      simp only [same, List.mem_cons, e, false_or]

theorem barrierComplete_domain {s : State} {n own id : Nat} (h : barAllIn s n 4 own id = true)
    (hn : (barNodes s n own id).Nodup) :
    ∃ y, exec (.barrierComplete n 4 own id) s = .next y ∧ ∀ m ∈ barNodes s n own id,
      barOf y m 4 own id = completed (barOf s m 4 own id) := by
  refine ⟨barSettle ((barNodes s n own id).foldl (fun s m => barNext s m 4 own id) s) n 4 own id, ?_, fun m hm => ?_⟩
  · rw [exec_barrierComplete, execBarrierComplete, h]
    rfl
  · rw [(barSettle_bars ..).bar, barOf_foldl_barNext hn, if_pos hm]

/-! BARINIT (R247, R248). -/

theorem exec_barinit (t : Tok) (a : SOp) (l : BitVec 5) (s : State) : exec (.barinit t a l) s = execBarinit t a l s := rfl
theorem exec_bararr (t : Tok) (d : Reg) (a : SOp) (l : BitVec 5) (s : State) :
    exec (.bararr t d a l) s = execBararr t d a l s := rfl
theorem exec_barwait (t : Tok) (d : Reg) (a : SOp) (l : BitVec 5) (s : State) :
    exec (.barwait t d a l) s = execBarwait t d a l s := rfl
theorem exec_barsync (t : Tok) (d : Reg) (a : SOp) (l : BitVec 5) (s : State) :
    exec (.barsync t d a l) s = execBarsync t d a l s := rfl

/-- A barrier of the moving core, its quad, or its tenant, as its level has it (R247). -/
abbrev ownBar (s : State) (lvl id : Nat) : Barrier :=
  barOf s s.cur.node lvl (barOwner s s.cur.node s.cur.core lvl) id

/-- An issue leaves the barriers of the moving core as they are. -/
theorem ownBar_issued {s p : State} (h : IssueFrame s p) (hb : Keeps barView s p) (lvl id : Nat) :
    ownBar p lvl id = ownBar s lvl id := by rw [ownBar, h.cur, hb.bar, h.barOwner]

/-- The operand of BARINIT: its reserved bits, and as many participants as its level takes (R247). -/
structure BarinitOk (v : Word) (lvl : Nat) : Prop where
  level : 1 ≤ lvl
  high  : fld v 63 19 = 0
  low   : fld v 7 4 = 0
  most  : fld v 18 8 ≤ barMax lvl
  some_ : fld v 18 8 ≠ 0 ∨ lvl = 4

theorem BarinitOk.legal {v : Word} {lvl : Nat} (h : BarinitOk v lvl) :
    (lvl = 0 || fld v 63 19 != 0 || fld v 7 4 != 0 || decide (barMax lvl < fld v 18 8)
      || (fld v 18 8 == 0 && lvl != 4)) = false := by
  obtain ⟨level, high, low, most, part⟩ := h
  have enough : (fld v 18 8 == 0 && lvl != 4) = false := by
    rcases part with part | part <;> simp [part]
  simp [Nat.one_le_iff_ne_zero.mp level, high, low, most, enough]

section
variable {t : Tok} {a : SOp} {l : BitVec 5} {s : State} (h : CanIssue s t allSeqs (sopSrcs a) 0)
  (ho : BarinitOk (opv s a) l.toNat)
include h ho

theorem barinit_goes (hz : (ownBar s l.toNat (fld (opv s a) 3 0)).arr = 0) :
    exec (.barinit t a l) s
      = .next (putBar (past s t (1 + sopLen a)) s.cur.node l.toNat (barOwner s s.cur.node s.cur.core l.toNat)
          (fld (opv s a) 3 0) { ownBar s l.toNat (fld (opv s a) 3 0) with part := fld (opv s a) 18 8 }) := by
  have issued := IssueFrame.past s t (1 + sopLen a)
  rw [exec_barinit]
  unfold execBarinit
  refine (runOp_of_canIssue (x := (fld (opv s a) 3 0, fld (opv s a) 18 8)) (s' := s) h
    (decodeFault_none rfl (.inl rfl) (mem_allSeqs _) rfl) ?_ rfl).trans ?_
  · simp only [ho.legal, hz, Bool.false_eq_true, ne_eq, not_true_eq_false, if_false]
  · rw [← ownBar_issued issued (past_bars s t (1 + sopLen a)), ← issued.barOwner, ← issued.cur]
    rfl

theorem barinit_misuse (hz : (ownBar s l.toNat (fld (opv s a) 3 0)).arr ≠ 0) :
    exec (.barinit t a l) s = .next (takeTrap s s.cur.node s.cur.core (causeHere s 0x0C)) := by
  rw [exec_barinit]
  unfold execBarinit
  refine runOp_fault_of_canIssue h (decodeFault_none rfl (.inl rfl) (mem_allSeqs _) rfl) ?_
  simp only [ho.legal, Bool.false_eq_true, if_false]
  exact if_pos hz

end

/-! BARARR, BARWAIT and BARSYNC (R248, R249). -/

/-- The state of an issue at LANE, where a number is taken for the value that comes. -/
def laneTaken (p : State) : State := { p with free := p.free + 1 }

section
variable {t : Tok} {d : Reg} {a : SOp} {l : BitVec 5} {s : State}

theorem barId_of_lt {v : Word} (h : v.toNat < 16) : barId v = some v.toNat := if_pos h

theorem arrivePre_go {lvl : Nat} (hi : (opv s a).toNat < 16) (hp : 2 ≤ lvl → (ownBar s lvl (opv s a).toNat).part ≠ 0)
    (hd : 1 ≤ lvl → blksDone s s.cur.node s.cur.core s.cur.seq = true
      ∧ acked s s.cur.node s.cur.core s.cur.seq (barScope lvl) = true) :
    arrivePre a lvl s = .go (opv s a).toNat s := by
  have open_ : (2 ≤ lvl && (ownBar s lvl (opv s a).toNat).part == 0) = false := by simpa using hp
  have done : (lvl = 0 || (blksDone s s.cur.node s.cur.core s.cur.seq
      && acked s s.cur.node s.cur.core s.cur.seq (barScope lvl))) = true := by
    rcases Nat.eq_zero_or_pos lvl with z | pos
    · simp [z]
    · obtain ⟨blks, acks⟩ := hd pos
      simp [blks, acks]
  simp only [arrivePre, barId_of_lt hi, open_, done, Bool.false_eq_true, if_false, if_true]

theorem arrivePre_misuse {lvl : Nat} (hi : (opv s a).toNat < 16) (hl : 2 ≤ lvl)
    (hp : (ownBar s lvl (opv s a).toNat).part = 0) : arrivePre a lvl s = .fault (causeHere s 0x0C) s := by
  have empty : (2 ≤ lvl && (ownBar s lvl (opv s a).toNat).part == 0) = true := by simp [hl, hp]
  simp only [arrivePre, barId_of_lt hi, empty, if_true]
  rfl

variable (h : CanIssue s t allSeqs (sopSrcs a) 1) (hi : (opv s a).toNat < 16)
include h hi

section
variable (hl : l.toNat = 0)
include hl

theorem bararr_lane : ∃ v, exec (.bararr t d a l) s
    = .next (flyReg (laneTaken (begun s t (1 + sopLen a))) d v 2 (pushKey s t) 0) := by
  have pre : arrivePre a l.toNat s = .go (opv s a).toNat s := arrivePre_go hi (by omega) (by omega)
  rw [exec_bararr, ← pushKey_congr (same_begun s t (1 + sopLen a)).cur]
  exact ⟨_, (runOp_of_canIssue h (decodeFault_none rfl (.inl rfl) (mem_allSeqs _) rfl) pre rfl).trans
    (congrArg _ (if_pos hl))⟩

theorem barwait_lane : ∃ v, exec (.barwait t d a l) s
    = .next (flyReg (laneTaken (begun s t (1 + sopLen a))) d v 2 (pushKey s t) 0) := by
  rw [exec_barwait, ← pushKey_congr (same_begun s t (1 + sopLen a)).cur]
  refine ⟨(lanePhase (begun s t (1 + sopLen a))).1, (runOp_of_canIssue (x := (opv s a).toNat) (s' := s) h
    (decodeFault_none rfl (.inl rfl) (mem_allSeqs _) rfl) ?_ rfl).trans ?_⟩
  · simp only [barId_of_lt hi, hl, if_true]
  · simp only [hl, if_true]
    rfl

theorem barsync_lane : ∃ v, exec (.barsync t d a l) s
    = .next (flyReg (laneTaken (begun s t (1 + sopLen a))) d v 2 (pushKey s t) 0) := by
  have pre : arrivePre a l.toNat s = .go (opv s a).toNat s := arrivePre_go hi (by omega) (by omega)
  have there : (decide (l.toNat = 4) && barLost s s.cur.node (tenantOf (cc s)) (opv s a).toNat) = false := by simp [hl]
  rw [exec_barsync, ← pushKey_congr (same_begun s t (1 + sopLen a)).cur]
  refine ⟨_, (runOp_of_canIssue (x := (opv s a).toNat) (s' := s) h (decodeFault_none rfl (.inl rfl) (mem_allSeqs _) rfl) ?_
    rfl).trans (congrArg _ (if_pos hl))⟩
  simp only [pre, there, Bool.false_eq_true, if_false]

end

section
variable (hl : 1 ≤ l.toNat)
include hl

section
variable (hp : l.toNat = 1 ∨ (ownBar s l.toNat (opv s a).toNat).part ≠ 0)
  (hd : blksDone s s.cur.node s.cur.core s.cur.seq = true)
  (hk : acked s s.cur.node s.cur.core s.cur.seq (barScope l.toNat) = true)
include hp hd hk

theorem bararr_goes :
    let r := arrive (releaseL1 (begun s t (1 + sopLen a)) s.cur.node s.cur.core (barScope l.toNat) false) s.cur.node s.cur.core
      l.toNat (opv s a).toNat s.cur.seq
    exec (.bararr t d a l) s = .next (flyReg r.2 d (r.1.setWidth 64) 2 (pushKey s t) 0) := by
  have issued := IssueFrame.begun s t (1 + sopLen a)
  have pre : arrivePre a l.toNat s = .go (opv s a).toNat s :=
    arrivePre_go hi (fun e => hp.resolve_left (by omega)) fun _ => ⟨hd, hk⟩
  rw [exec_bararr, ← pushKey_congr issued.cur, ← issued.cur]
  exact (runOp_of_canIssue h (decodeFault_none rfl (.inl rfl) (mem_allSeqs _) rfl) pre rfl).trans
    (congrArg _ (if_neg (by omega)))

theorem barsync_goes (hx : l.toNat = 4 → barLost s s.cur.node (tenantOf (cc s)) (opv s a).toNat = false) :
    let r := arrive (releaseL1 (begun s t (1 + sopLen a)) s.cur.node s.cur.core (barScope l.toNat) false) s.cur.node s.cur.core
      l.toNat (opv s a).toNat s.cur.seq
    exec (.barsync t d a l) s = .next (modCs r.2 fun k =>
      { k with hold := .barrier l.toNat (barOwner s s.cur.node s.cur.core l.toNat) (opv s a).toNat r.1 d (pushKey s t) }) := by
  have issued := IssueFrame.begun s t (1 + sopLen a)
  have pre : arrivePre a l.toNat s = .go (opv s a).toNat s :=
    arrivePre_go hi (fun e => hp.resolve_left (by omega)) fun _ => ⟨hd, hk⟩
  have there : (decide (l.toNat = 4) && barLost s s.cur.node (tenantOf (cc s)) (opv s a).toNat) = false :=
    Bool.and_eq_false_imp.mpr fun e => hx (of_decide_eq_true e)
  rw [exec_barsync, ← pushKey_congr issued.cur, ← issued.barOwner, ← issued.cur]
  refine (runOp_of_canIssue (x := (opv s a).toNat) (s' := s) h (decodeFault_none rfl (.inl rfl) (mem_allSeqs _) rfl) ?_
    rfl).trans (congrArg _ (if_neg (by omega)))
  simp only [pre, there, Bool.false_eq_true, if_false]

end

/-- Without an arrival of its own a sequencer has no phase to wait for. -/
theorem barwait_misuse (hn : smGet (cs s).phases none (16 * l.toNat + (opv s a).toNat) = none) :
    exec (.barwait t d a l) s = .next (takeTrap s s.cur.node s.cur.core (causeHere s 0x0C)) := by
  rw [exec_barwait]
  refine runOp_fault_of_canIssue h (decodeFault_none rfl (.inl rfl) (mem_allSeqs _) rfl) ?_
  simp only [barId_of_lt hi, hn, Nat.one_le_iff_ne_zero.mp hl, if_false]
  rfl

/-- A wait whose phase has completed acquires, and the phase count comes. -/
theorem barwait_goes {ph : BitVec 32} (hs : smGet (cs s).phases none (16 * l.toNat + (opv s a).toNat) = some ph)
    (hd : phaseDone s s.cur.node s.cur.core l.toNat (opv s a).toNat s.cur.seq ph = true) :
    exec (.barwait t d a l) s
      = .next (flyReg (acquireL1 (begun s t (1 + sopLen a)) s.cur.node s.cur.core (barScope l.toNat) false) d
          ((ownBar s l.toNat (opv s a).toNat).phase.setWidth 64) 2 (pushKey s t) 0) := by
  have issued := IssueFrame.begun s t (1 + sopLen a)
  rw [exec_barwait, ← pushKey_congr issued.cur, ← ownBar_issued issued (begun_bars s t (1 + sopLen a)), ← issued.cur]
  refine (runOp_of_canIssue (x := (opv s a).toNat) (s' := s) h (decodeFault_none rfl (.inl rfl) (mem_allSeqs _) rfl) ?_
    rfl).trans ?_
  · simp only [barId_of_lt hi, hs, hd, Nat.one_le_iff_ne_zero.mp hl, if_false, if_true]
  · simp only [Nat.one_le_iff_ne_zero.mp hl, if_false]
    rfl

end

theorem bararr_misuse (hl : 2 ≤ l.toNat) (hp : (ownBar s l.toNat (opv s a).toNat).part = 0) :
    exec (.bararr t d a l) s = .next (takeTrap s s.cur.node s.cur.core (causeHere s 0x0C)) := by
  rw [exec_bararr]
  exact runOp_fault_of_canIssue h (decodeFault_none rfl (.inl rfl) (mem_allSeqs _) rfl) (arrivePre_misuse hi hl hp)

end

/-- Settles O23: BARINIT; the arrivals and waits by level; then how an arrival and a completion count. -/
theorem barrierInstructions : Obligations.BarrierInstructions := by
  refine ⟨fun t d a l s => ⟨fun h hl high low most part => ?_, fun h hi => ⟨fun hz => ?_, fun hl hp hd hk => ?_,
      bararr_misuse h hi, barwait_misuse h hi, fun ph hl => barwait_goes h hi hl⟩⟩,
    fun s n c lvl id q lo hi => ⟨barOf_arrive s n c id q, arrivePhase_open, arrive_last s n c id q (by omega)⟩,
    fun s n lvl own id hl => ⟨barrierComplete_goes (by omega), barrierComplete_waits (by omega)⟩,
    fun s n own id => barrierComplete_domain⟩
  · have operand : BarinitOk (opv s a) l.toNat := ⟨hl, high, low, most, part⟩
    exact ⟨barinit_goes h operand, barinit_misuse h operand⟩
  · exact ⟨bararr_lane h hi hz, barwait_lane h hi hz, barsync_lane h hi hz⟩
  · exact ⟨bararr_goes h hi hl hp hd hk, barsync_goes h hi hl hp hd hk⟩

end Sys2Proof.Machine
end

section
/-! PROOFS. COPY, COPYI, CPWAIT and CPSTAT (R253 to R256, R263): acceptance, and what is read of the copy engine. -/

namespace Sys2Proof.Machine

open Sys2Proof.Claims

theorem exec_copy (f : FE) (s : State) : exec (.copy f) s = execCopy f s := rfl
theorem exec_copyi (f : FE) (s : State) : exec (.copyi f) s = execCopyi f s := rfl
theorem exec_cpwait (f : FE) (s : State) : exec (.cpwait f) s = execCpwait f s := rfl
theorem exec_cpstat (f : FE) (s : State) : exec (.cpstat f) s = execCpstat f s := rfl

/-! Acceptance (R255, R256). -/

/-- The entry of a command as a core accepts it: with the next sequence number, and nothing of it done (R255, R256). -/
def acceptedEntry (k : Core) (x : CopyCmd) (f : FE) : CEntry :=
  ⟨x, none, k.cAcc + 1, f.sig, false, 0, 0, classOf k, ginOf k, false, false, 0⟩

/-- An accepted command is the last entry of the queue, and its number is the next (R256). -/
theorem cc_copyAccept (x : CopyCmd) (f : FE) (s : State) :
    (cc (copyAccept x f s)).cq = (cc s).cq ++ [acceptedEntry (cc s) x f]
      ∧ (cc (copyAccept x f s)).cAcc = (cc s).cAcc + 1 := by
  have flies := IssueFrame.flyReg (modCc s fun k =>
    { k with cq := k.cq ++ [acceptedEntry (cc s) x f], cAcc := k.cAcc + 1 }) f.d (((cc s).cAcc + 1).setWidth 64) 2 none 0
  have queue := flies.core Core.cq
  have count := flies.core Core.cAcc
  rw [cc_modCc] at queue count
  exact ⟨queue, count⟩

section
variable {f : FE} {srcs : List Reg} {pre : State → Pre CopyCmd} {x : CopyCmd} {s t : State}
  (h : CanIssueE s f [.ctrl] srcs 1)
include h

theorem runOp_copyOp_goes (hp : pre s = .go x t) (hq : (cc s).cq.length < 32) :
    runOp (copyOp f srcs pre) s = .next (copyAccept x f (pastE t f)) := by
  refine (runOp_of_canIssue h.issue (decodeFault_none rfl (.inr h.task) h.issue.taken rfl) hp (decide_eq_true hq)).trans ?_
  rw [takeIssue_pastE _ t f rfl rfl rfl rfl rfl rfl]
  rfl

/-- A full queue is waited for. -/
theorem runOp_copyOp_full (hp : pre s = .go x t) (hq : 32 ≤ (cc s).cq.length) :
    runOp (copyOp f srcs pre) s = .next (setBlocked s) :=
  runOp_full_of_canIssue h.issue (decodeFault_none rfl (.inr h.task) h.issue.taken rfl) hp (decide_eq_false hq.not_gt)

theorem runOp_copyOp_waits (hp : pre s = .hold t) : runOp (copyOp f srcs pre) s = .next (setBlocked s) :=
  runOp_hold_of_canIssue h.issue (decodeFault_none rfl (.inr h.task) h.issue.taken rfl) hp

theorem runOp_copyOp_faults {k : Cause} (hp : pre s = .fault k t) :
    runOp (copyOp f srcs pre) s = .next (takeTrap t s.cur.node s.cur.core k) :=
  runOp_fault_of_canIssue h.issue (decodeFault_none rfl (.inr h.task) h.issue.taken rfl) hp

end

/-! COPY: the block, its fields, then its checks (R255). -/

section
variable {f : FE} {s s' : State} (h : CanIssueE s f [.ctrl] [f.a] 1)
include h

section
variable {v : Nat} (hr : readWhole (reg s f.a) 128 s = .go v s')
include hr

theorem exec_copy_illegal (hl : blockLegal v = false) :
    exec (.copy f) s = .next (takeTrap s' s.cur.node s.cur.core (causeHere s' codeIllegal)) := by
  rw [exec_copy, execCopy]
  refine runOp_copyOp_faults h ?_
  simp only [hr, hl, Bool.false_eq_true, if_false]

variable {x : CopyCmd} {t : State} (hl : blockLegal v = true) (hc : copyChecks (blockCmd v) s' = .go x t)
include hl hc

theorem exec_copy_goes (hq : (cc s).cq.length < 32) : exec (.copy f) s = .next (copyAccept x f (pastE t f)) := by
  rw [exec_copy, execCopy]
  refine runOp_copyOp_goes h ?_ hq
  simp only [hr, hl, if_true, hc]

theorem exec_copy_full (hq : 32 ≤ (cc s).cq.length) : exec (.copy f) s = .next (setBlocked s) := by
  rw [exec_copy, execCopy]
  refine runOp_copyOp_full (x := x) (t := t) h ?_ hq
  simp only [hr, hl, if_true, hc]

end

theorem exec_copy_faults {k : Cause} (hr : readWhole (reg s f.a) 128 s = .fault k s') :
    exec (.copy f) s = .next (takeTrap s' s.cur.node s.cur.core k) := by
  rw [exec_copy, execCopy]
  refine runOp_copyOp_faults h ?_
  simp only [hr]

theorem exec_copy_waits (hr : readWhole (reg s f.a) 128 s = .hold s') : exec (.copy f) s = .next (setBlocked s) := by
  rw [exec_copy, execCopy]
  refine runOp_copyOp_waits (t := s') h ?_
  simp only [hr]

theorem exec_copy_unaligned (ha : (reg s f.a).toNat % 128 ≠ 0) :
    exec (.copy f) s = .next (takeTrap s s.cur.node s.cur.core (causeAt s codeAlign (reg s f.a))) :=
  exec_copy_faults h (if_pos ha)

end

/-! COPYI (R263): its length, then its two addresses. -/

theorem lenOk_iff (n : Nat) : lenOk n = true ↔ n % 4 = 0 ∧ 4 ≤ n ∧ n ≤ 2 ^ 24 := by
  simp only [lenOk, Bool.and_eq_true, beq_iff_eq, decide_eq_true_eq, and_assoc]

/-- A length in range is not refused. -/
theorem lenOk_passes {n : Nat} (h : n % 4 = 0 ∧ 4 ≤ n ∧ n ≤ 2 ^ 24) : ¬ (!lenOk n) = true := by
  rw [(lenOk_iff n).mpr h]
  decide

theorem mult4_of_mod {w : Word} (h : w.toNat % 4 = 0) : mult4 w = true := beq_iff_eq.mpr h
theorem mult4_of_mod_ne {w : Word} (h : w.toNat % 4 ≠ 0) : mult4 w = false := beq_eq_false_iff_ne.mpr h

section
variable {src dst : Word} (len : Nat) (s : State)

theorem copyChecks_copyi_src (ha : src.toNat % 4 ≠ 0) :
    copyChecks (copyiCmd src dst len) s = .fault (causeAt s codeAlign src) s := by
  simp [copyChecks, copyiCmd, mult4_of_mod_ne ha]

theorem copyChecks_copyi_dst (ha : src.toNat % 4 = 0) (hb : dst.toNat % 4 ≠ 0) :
    copyChecks (copyiCmd src dst len) s = .fault (causeAt s codeAlign dst) s := by
  simp [copyChecks, copyiCmd, mult4_of_mod ha, mult4_of_mod_ne hb]

/-- Outside deterministic mode an aligned COPYI passes: it has no strides, and no footprints are compared (R264). -/
theorem copyChecks_copyi_go (ha : src.toNat % 4 = 0) (hb : dst.toNat % 4 = 0) (hd : (cc s).det = false) :
    copyChecks (copyiCmd src dst len) s = .go (copyiCmd src dst len) s := by
  have still : mult4 0#64 = true := rfl
  simp [copyChecks, copyiCmd, mult4_of_mod ha, mult4_of_mod hb, hd, still]

end

section
variable {f : FE} {s : State} (h : CanIssueE s f [.ctrl] [f.a, f.b, f.d] 1)
include h

theorem exec_copyi_illegal
    (hl : ¬ ((reg s f.d).toNat % 4 = 0 ∧ 4 ≤ (reg s f.d).toNat ∧ (reg s f.d).toNat ≤ 2 ^ 24)) :
    exec (.copyi f) s = .next (takeTrap s s.cur.node s.cur.core (causeHere s codeIllegal)) := by
  have bad : lenOk (reg s f.d).toNat = false := Bool.eq_false_iff.mpr fun ok => hl ((lenOk_iff _).mp ok)
  rw [exec_copyi, execCopyi]
  refine runOp_copyOp_faults h ?_
  simp only [bad, Bool.not_false, if_true]

variable (hl : (reg s f.d).toNat % 4 = 0 ∧ 4 ≤ (reg s f.d).toNat ∧ (reg s f.d).toNat ≤ 2 ^ 24)
include hl

theorem exec_copyi_src_unaligned (ha : (reg s f.a).toNat % 4 ≠ 0) :
    exec (.copyi f) s = .next (takeTrap s s.cur.node s.cur.core (causeAt s codeAlign (reg s f.a))) := by
  rw [exec_copyi, execCopyi]
  exact runOp_copyOp_faults h ((if_neg (lenOk_passes hl)).trans (copyChecks_copyi_src _ s ha))

variable (ha : (reg s f.a).toNat % 4 = 0)
include ha

theorem exec_copyi_dst_unaligned (hb : (reg s f.b).toNat % 4 ≠ 0) :
    exec (.copyi f) s = .next (takeTrap s s.cur.node s.cur.core (causeAt s codeAlign (reg s f.b))) := by
  rw [exec_copyi, execCopyi]
  exact runOp_copyOp_faults h ((if_neg (lenOk_passes hl)).trans (copyChecks_copyi_dst _ s ha hb))

variable (hb : (reg s f.b).toNat % 4 = 0) (hd : (cc s).det = false)
include hb hd

theorem exec_copyi_goes (hq : (cc s).cq.length < 32) :
    exec (.copyi f) s
      = .next (copyAccept (copyiCmd (reg s f.a) (reg s f.b) (reg s f.d).toNat) f (pastE s f)) := by
  rw [exec_copyi, execCopyi]
  exact runOp_copyOp_goes h ((if_neg (lenOk_passes hl)).trans (copyChecks_copyi_go _ s ha hb hd)) hq

theorem exec_copyi_full (hq : 32 ≤ (cc s).cq.length) : exec (.copyi f) s = .next (setBlocked s) := by
  rw [exec_copyi, execCopyi]
  exact runOp_copyOp_full h ((if_neg (lenOk_passes hl)).trans (copyChecks_copyi_go _ s ha hb hd)) hq

end

/-! CPWAIT and CPSTAT (R263). -/

section
variable {f : FE} {s : State} (h : CanIssueE s f [.ctrl] [f.a] 1)
include h

theorem exec_cpwait_illegal (hv : 2 ^ 32 ≤ (reg s f.a).toNat) :
    exec (.cpwait f) s = .next (takeTrap s s.cur.node s.cur.core (causeHere s codeIllegal)) := by
  have high : fld (reg s f.a) 63 32 ≠ 0 := fun zero => hv.not_gt ((fld_high_zero _).mp zero)
  rw [exec_cpwait, execCpwait]
  exact runOp_feResult_faults h (if_pos high)

section
variable (hv : (reg s f.a).toNat < 2 ^ 32)
include hv

theorem exec_cpwait_goes (hr : reached (cc s).cCmp (cpTarget (cc s) (reg s f.a)) = true) :
    exec (.cpwait f) s = .next (flyReg (begunE s f) f.d ((cc s).cCmp.setWidth 64) 2 (pushKey s f.tk) f.sig) := by
  rw [exec_cpwait, execCpwait]
  exact runOp_feResult_goes h ((if_neg (not_not.mpr ((fld_high_zero _).mpr hv))).trans (if_pos hr)) rfl

theorem exec_cpwait_waits (hr : reached (cc s).cCmp (cpTarget (cc s) (reg s f.a)) = false) :
    exec (.cpwait f) s = .next (setBlocked s) := by
  rw [exec_cpwait, execCpwait]
  refine runOp_hold_of_canIssue (s' := s) h.issue (decodeFault_none rfl (.inr h.task) h.issue.taken rfl) ?_
  exact (if_neg (not_not.mpr ((fld_high_zero _).mpr hv))).trans (if_neg (Bool.eq_false_iff.mp hr))

end

/-- What CPSTAT reads, by its operand (R263). -/
def cpstatValue (s : State) (k : Core) : Nat → Option Word
  | 0 => some (cpstatWord s k)
  | 1 => some (k.cAcc.setWidth 64)
  | 2 => some (k.cCmp.setWidth 64)
  | 3 => some (BitVec.ofNat 64 (copyProgress k))
  | _ => none

theorem exec_cpstat_goes {i : Nat} {w : Word} (hi : (reg s f.a).toNat = i) (hw : cpstatValue s (cc s) i = some w) :
    exec (.cpstat f) s = .next (flyReg (begunE s f) f.d w 2 (pushKey s f.tk) f.sig) := by
  rw [exec_cpstat, execCpstat]
  refine runOp_feResult_goes h ?_ rfl
  dsimp only
  rw [hi]
  unfold cpstatValue at hw
  split at hw <;> cases hw <;> rfl

theorem exec_cpstat_illegal (hi : 3 < (reg s f.a).toNat) :
    exec (.cpstat f) s = .next (takeTrap s s.cur.node s.cur.core (causeHere s codeIllegal)) := by
  obtain ⟨i, large⟩ : ∃ i, (reg s f.a).toNat = i + 4 := Nat.exists_eq_add_of_le' hi
  rw [exec_cpstat, execCpstat]
  refine runOp_feResult_faults h ?_
  dsimp only
  rw [large]
  rfl

end

end Sys2Proof.Machine
end

section
/-! PROOFS. The copy engine (R254, R256 to R262): how an entry begins, moves its pieces and completes, and what O32 claims. -/

namespace Sys2Proof.Machine

open Sys2Proof.Claims

theorem exec_copyEntryBegin (n c : Nat) (s : State) : exec (.copyEntryBegin n c) s = execCopyEntryBegin n c s := rfl
theorem exec_copyPiece (n c : Nat) (s : State) : exec (.copyPiece n c) s = execCopyPiece n c s := rfl
theorem exec_copyEntryComplete (n c : Nat) (s : State) :
    exec (.copyEntryComplete n c) s = execCopyEntryComplete n c s := rfl

/-! An entry begins (R257, R258, R261). -/

/-- The state in which an entry has begun: its BWAIT flags are taken, once, and its pages are still to be checked (R257). -/
def copyOpened (s : State) (n c : Nat) (e : CEntry) : State :=
  modCopy (if e.begun then s else modCo s n c fun k => { k with evt := k.evt &&& ~~~e.cmd.bwait }) n c e
    fun y => { y with begun := true }

/-- An entry that has begun waits for no flag again. -/
theorem bwait_met {s : State} {n c : Nat} {e : CEntry}
    (h : e.begun = true ∨ (co s n c).evt &&& e.cmd.bwait = e.cmd.bwait) :
    (!e.begun && (co s n c).evt &&& e.cmd.bwait != e.cmd.bwait) = false := by
  rcases h with begun | set
  · rw [begun]
    rfl
  · rw [set, bne_self_eq_false, Bool.and_false]

section
variable {s : State} {n c : Nat} (hd : copyBeginDue s n c = true)
include hd

/-- A cancelled entry leaves the queue and is counted. -/
theorem exec_copyEntryBegin_cancelled (hc : copyCancelled s n c = true) :
    exec (.copyEntryBegin n c) s = .next (modCo s n c fun k => { k with cq := k.cq.tail, cCmp := k.cCmp + 1 }) := by
  rw [exec_copyEntryBegin, execCopyEntryBegin]
  simp only [hd, hc, Bool.not_true, Bool.false_eq_true, if_false, if_true]

variable {e : CEntry} (hc : copyCancelled s n c = false) (he : copyHead (co s n c) = some e)
include hc he

theorem exec_copyEntryBegin_waits (hb : e.begun = false) (hf : (co s n c).evt &&& e.cmd.bwait ≠ e.cmd.bwait) :
    exec (.copyEntryBegin n c) s = .next s := by
  have short : ((co s n c).evt &&& e.cmd.bwait != e.cmd.bwait) = true := bne_iff_ne.mpr hf
  rw [exec_copyEntryBegin, execCopyEntryBegin]
  simp only [hd, hc, he, hb, short, Bool.not_true, Bool.not_false, Bool.and_true, Bool.false_eq_true, if_false, if_true]

section
variable (hf : e.begun = true ∨ (co s n c).evt &&& e.cmd.bwait = e.cmd.bwait)
include hf

/-- A page that fails is the engine's fault, for its core to take (R258). -/
theorem exec_copyEntryBegin_faults {code : Nat} {a : Word} {s' : State}
    (hp : copyPages n c e.cmd 0 (e.cmd.n1 * e.cmd.n2 * e.cmd.n3) (copyOpened s n c e) = (some (code, a), s')) :
    exec (.copyEntryBegin n c) s = .next (engFault (keepTlb (copyOpened s n c e) s' n c) n c 5 code a 0) := by
  unfold copyOpened at hp ⊢
  rw [exec_copyEntryBegin, execCopyEntryBegin]
  simp only [hd, hc, he, bwait_met hf, hp, Bool.not_true, Bool.false_eq_true, if_false]

/-- With every page checked, the entry is ready for its first piece. -/
theorem exec_copyEntryBegin_goes {s' : State}
    (hp : copyPages n c e.cmd 0 (e.cmd.n1 * e.cmd.n2 * e.cmd.n3) (copyOpened s n c e) = (none, s')) :
    ∃ d, exec (.copyEntryBegin n c) s = .next (modCopy s' n c e fun y => { y with checked := true, due := d }) := by
  unfold copyOpened at hp
  rw [exec_copyEntryBegin, execCopyEntryBegin]
  simp only [hd, hc, he, bwait_met hf, hp, Bool.not_true, Bool.false_eq_true, if_false]
  exact ⟨_, rfl⟩

end

end

/-! Pieces (R254): none is empty, and none crosses a line or the end of its run. -/

theorem pieceAt_size_le (x : CopyCmd) (d : Nat) :
    (pieceAt x d).2.2 ≤ min (x.len0 - d % x.len0) (128 - (pieceAt x d).2.1.toNat % 128) := by
  unfold pieceAt
  dsimp only
  split
  · exact le_rfl
  · exact min_le_left ..

/-- A piece within its lines and its run. -/
theorem pieceAt_bounds (x : CopyCmd) (d : Nat) (h : 0 < x.len0) :
    let p := pieceAt x d
    0 < p.2.2 ∧ p.2.1.toNat % 128 + p.2.2 ≤ 128 ∧ (x.fill = false → p.1.toNat % 128 + p.2.2 ≤ 128)
      ∧ d % x.len0 + p.2.2 ≤ x.len0 := by
  have left : d % x.len0 < x.len0 := Nat.mod_lt d h
  have most := pieceAt_size_le x d
  refine ⟨?_, by omega, fun hf => ?_, by omega⟩
  · unfold pieceAt
    dsimp only
    split <;> omega
  · simp only [pieceAt, hf, Bool.false_eq_true, if_false]
    omega

/-! A piece moves (R254, R258 to R262). -/

/-- Whether an access of either end of a piece is held back: of the target, or of the source where it is read (R262). -/
theorem pieceHeld_iff (fill source target : Bool) :
    ((!fill && source) || target) = false ↔ target = false ∧ (fill = false → source = false) := by
  rw [Bool.or_eq_false_iff, and_comm]
  cases fill <;> simp

/-- The piece that an entry moves next (R254). -/
abbrev nextPiece (e : CEntry) : Word × Word × Nat := pieceAt e.cmd e.bytes

/-- The source of an entry's next piece, as its check leaves it: a FILL reads none (R254). -/
def pieceSource (s : State) (n c : Nat) (e : CEntry) : Chk :=
  if e.cmd.fill then .ok (.spad c 0) s else chk s n c (nextPiece e).1 (nextPiece e).2.2 .r

section
variable {s : State} {n c : Nat} {e : CEntry} (hd : copyPieceDue s n c = true) (he : copyHead (co s n c) = some e)
include hd he

theorem exec_copyPiece_source_faults {code : Nat} {s1 : State} (hs : pieceSource s n c e = .fault code s1) :
    exec (.copyPiece n c) s = .next (engFault (keepTlb s s1 n c) n c 5 code (nextPiece e).1 0) := by
  unfold pieceSource at hs
  rw [exec_copyPiece, execCopyPiece]
  simp only [hd, he, hs, Bool.not_true, Bool.false_eq_true, if_false]

variable {a : Target} {s1 : State} (hs : pieceSource s n c e = .ok a s1)
include hs

theorem exec_copyPiece_target_faults {code : Nat} {va : Word} {s2 : State}
    (hp : engCheck n c .w true 2 (nextPiece e).2.1 (nextPiece e).2.2 s1 = (some (code, va), s2)) :
    exec (.copyPiece n c) s = .next (engFault (keepTlb s s2 n c) n c 5 code va 0) := by
  unfold pieceSource at hs
  rw [exec_copyPiece, execCopyPiece]
  simp only [hd, he, hs, hp, Bool.not_true, Bool.false_eq_true, if_false]

end

/-- A piece whose source and target, `a` and `t`, have passed their checks, in the state that these leave. -/
structure PieceChecked (s : State) (n c : Nat) (e : CEntry) (a t : Target) (s3 : State) : Prop where
  due    : copyPieceDue s n c = true
  head   : copyHead (co s n c) = some e
  checks : ∃ s1 s2, pieceSource s n c e = .ok a s1
    ∧ engCheck n c .w true 2 (nextPiece e).2.1 (nextPiece e).2.2 s1 = (none, s2)
    ∧ chk s2 n c (nextPiece e).2.1 (nextPiece e).2.2 .w = .ok t s3

/-- Whether neither end of a piece is held back, by an empty bucket or by stores on their way to the same node (R262). -/
def PieceOpen (s3 : State) (ag : Agent) (e : CEntry) (a t : Target) : Prop :=
  engHold ag t (nextPiece e).2.2 true s3 = false
    ∧ (e.cmd.fill = false → engHold ag a (nextPiece e).2.2 false s3 = false)

/-- What a piece carries: the pattern of a FILL, or what its source gives (R254). -/
def pieceGot (s3 : State) (ag : Agent) (e : CEntry) (a : Target) : EngGot :=
  if e.cmd.fill then ⟨fillBytes e.cmd.pattern (nextPiece e).2.1 (nextPiece e).2.2, false, 0, s3⟩
  else engRead ag a (nextPiece e).2.2 s3

/-- What the write of a piece gives: the code of a window target that drops it, and the state after. -/
def pieceWritten (ag : Agent) (e : CEntry) (t : Target) (g : EngGot) : Nat × State :=
  engWrite ag t (nextPiece e).2.2 g.v g.poison g.s

/-- A charge of a class touches no core, and no quad's clock. -/
theorem co_charge (s : State) (n c k : Nat) (u : Bucket → Bucket) : co (modNd s n fun d => charge d k u) n c = co s n c := by
  rw [co, nd_modNd_same, charge, ← co]

theorem coreCyc_charge (s : State) (n c k : Nat) (u : Bucket → Bucket) :
    coreCyc (modNd s n fun d => charge d k u) n c = coreCyc s n c := by
  have quads : Keeps Node.quads s (modNd s n fun d => charge d k u) := .modNd s n rfl
  exact quads.coreCyc rfl n c

/-- A piece is written and counted: its bytes are charged to its class, and the next is due after one cc (R262, log 7). -/
def pieceCounted (s : State) (n c : Nat) (e : CEntry) : State :=
  modCopy (modNd s n fun d => charge d e.cls fun b => { b with cpy := drain b.cpy (nextPiece e).2.2 }) n c e fun z =>
    { z with piece := z.piece + 1, bytes := z.bytes + (nextPiece e).2.2, waitBud := false, due := coreCyc s n c + 1 }

section
variable {s s3 : State} {n c : Nat} {e : CEntry} {a t : Target} (h : PieceChecked s n c e a t s3)
include h

theorem exec_copyPiece_waits (ho : ¬ PieceOpen s3 (coreAgent s n c e.cls) e a t) :
    exec (.copyPiece n c) s
      = .next (modCopy s n c e fun x =>
          { x with waitBud := (!e.cmd.fill && engEmpty (coreAgent s n c e.cls) a (nextPiece e).2.2 false s3)
                     || engEmpty (coreAgent s n c e.cls) t (nextPiece e).2.2 true s3 }) := by
  obtain ⟨s1, s2, hs, hp, ht⟩ := h.checks
  have held := Bool.eq_true_of_not_eq_false (mt (pieceHeld_iff _ _ _).mp ho)
  unfold pieceSource at hs
  rw [exec_copyPiece, execCopyPiece]
  simp only [h.due, h.head, hs, hp, ht, held, Bool.not_true, Bool.false_eq_true, if_false, if_true]

variable (ho : PieceOpen s3 (coreAgent s n c e.cls) e a t)
include ho

/-- A piece for which the DETERM buffer of its core can have no room ends the entry (R237). -/
theorem exec_copyPiece_conflict (hr : detRoom (co s n c) (detLines [t]) = .conflict) :
    exec (.copyPiece n c) s = .next (engFault (keepTlb s s3 n c) n c 5 codeDetConflict (nextPiece e).2.1 0) := by
  obtain ⟨s1, s2, hs, hp, ht⟩ := h.checks
  have held := (pieceHeld_iff _ _ _).mpr ho
  unfold pieceSource at hs
  rw [exec_copyPiece, execCopyPiece]
  simp only [h.due, h.head, hs, hp, ht, held, hr, Bool.not_true, Bool.false_eq_true, if_false]

variable (hr : detRoom (co s n c) (detLines [t]) = .ok)
include hr

section
variable {g : EngGot} (hgot : pieceGot s3 (coreAgent s n c e.cls) e a = g)
include hgot

theorem exec_copyPiece_read_faults (hg : g.code ≠ 0) :
    exec (.copyPiece n c) s = .next (engFault (keepTlb s g.s n c) n c 5 g.code (nextPiece e).1 0) := by
  obtain ⟨s1, s2, hs, hp, ht⟩ := h.checks
  have held := (pieceHeld_iff _ _ _).mpr ho
  unfold pieceSource at hs
  unfold pieceGot at hgot
  rw [exec_copyPiece, execCopyPiece]
  simp only [h.due, h.head, hs, hp, ht, held, hr, hgot, hg, Bool.not_true, Bool.false_eq_true, if_false, ne_eq,
    not_false_eq_true, if_true]

theorem exec_copyPiece_goes (hg : g.code = 0) (hw : (pieceWritten (coreAgent s n c e.cls) e t g).1 = 0) :
    exec (.copyPiece n c) s = .next (pieceCounted (pieceWritten (coreAgent s n c e.cls) e t g).2 n c e) := by
  obtain ⟨s1, s2, hs, hp, ht⟩ := h.checks
  have held := (pieceHeld_iff _ _ _).mpr ho
  unfold pieceSource at hs
  unfold pieceGot at hgot
  unfold pieceWritten at hw ⊢
  rw [exec_copyPiece, execCopyPiece]
  simp only [h.due, h.head, hs, hp, ht, held, hr, hgot, hg, hw, Bool.not_true, Bool.false_eq_true, if_false, ne_eq,
    not_true_eq_false, coreCyc_charge]
  rfl

end

end

/-! What is read after a piece is counted: bytes stay as the write left them, and only the entry's counts go on. -/

theorem homeMem_pieceCounted (s : State) (n c : Nat) (e : CEntry) (sp : Space) :
    homeMem (nd (pieceCounted s n c e) n) sp = homeMem (nd s n) sp := by
  unfold pieceCounted modCopy
  rw [nd_modCo, if_pos rfl, nd_modNd_same]
  cases sp <;> rfl

/-- Beside the queue, the core stays as the write of the piece left it. -/
theorem spad_pieceCounted (s : State) (n c : Nat) (e : CEntry) : (co (pieceCounted s n c e) n c).spad = (co s n c).spad := by
  unfold pieceCounted modCopy
  rw [co_modCo_same, co_charge]

theorem cq_pieceCounted (s : State) (n c : Nat) (e : CEntry) :
    (co (pieceCounted s n c e) n c).cq
      = (co s n c).cq.map fun z => if z.joinId.isNone && z.seqNo == e.seqNo then
          { z with piece := z.piece + 1, bytes := z.bytes + (nextPiece e).2.2, waitBud := false, due := coreCyc s n c + 1 }
        else z := by
  unfold pieceCounted modCopy
  rw [co_modCo_same, co_charge]

/-! An entry completes (R256, R259). -/

/-- The state in which the head entry has left the queue and is counted, its BSIG and SIGMASK to be set (R256). -/
def copyCompleted (s : State) (n c : Nat) (e : CEntry) (r : List CEntry) : State :=
  if e.sig ||| e.cmd.bsig = 0 then modCo s n c fun k => { k with cq := r, cCmp := k.cCmp + 1 }
  else later (modCo s n c fun k => { k with cq := r, cCmp := k.cCmp + 1 }) (.flags n c (e.sig ||| e.cmd.bsig))

theorem co_copyCompleted (s : State) (n c : Nat) (e : CEntry) (r : List CEntry) :
    co (copyCompleted s n c e r) n c = { co s n c with cq := r, cCmp := (co s n c).cCmp + 1 } := by
  unfold copyCompleted
  split
  · rw [co_modCo_same]
  · rw [co_later, co_modCo_same]

theorem late_copyCompleted {s : State} {n c : Nat} {e : CEntry} {r : List CEntry} (h : e.sig ||| e.cmd.bsig ≠ 0) :
    (copyCompleted s n c e r).late = s.late ++ [.flags n c (e.sig ||| e.cmd.bsig)] := by
  rw [copyCompleted, if_neg h, later_late, modCo_late]

theorem exec_copyEntryComplete_goes {s : State} {n c : Nat} {e : CEntry} {r : List CEntry} (hd : copyDoneDue s n c = true)
    (hq : (co s n c).cq = e :: r) : exec (.copyEntryComplete n c) s = .next (copyCompleted s n c e r) := by
  rw [exec_copyEntryComplete, execCopyEntryComplete]
  simp only [hd, hq, Bool.not_true, Bool.false_eq_true, if_false]
  rfl

/-- Settles O32: the four instructions by their operands; then how an entry begins, moves its pieces and completes. -/
theorem copies : Obligations.Copies := by
  refine ⟨⟨fun f s h => ⟨fun v s' x t hr hl hc => ⟨exec_copy_goes h hr hl hc, exec_copy_full h hr hl hc⟩,
        fun v s' => exec_copy_illegal h, fun k s' => exec_copy_faults h, fun s' => exec_copy_waits h, exec_copy_unaligned h⟩,
      fun f s h => ⟨exec_copyi_illegal h, exec_copyi_src_unaligned h, exec_copyi_dst_unaligned h,
        fun hl ha hb hd => ⟨exec_copyi_goes h hl ha hb hd, exec_copyi_full h hl ha hb hd⟩⟩,
      fun f s x => ?_, fun f s h => ⟨exec_cpwait_illegal h, exec_cpwait_goes h, exec_cpwait_waits h, fun hv => ?_,
        fun hv => ?_, fun hv => ?_, fun hv => ?_, exec_cpstat_illegal h⟩⟩,
    fun s n c e hd hc he => ⟨exec_copyEntryBegin_waits hd hc he, fun hf =>
      ⟨fun s' => exec_copyEntryBegin_goes hd hc he hf, fun code a s' => exec_copyEntryBegin_faults hd hc he hf⟩⟩,
    fun s n c => exec_copyEntryBegin_cancelled, pieceAt_bounds, fun s n c e hd he => ?_, fun s n c e r hd hq =>
      ⟨_, exec_copyEntryComplete_goes hd hq, congrArg Core.cq (co_copyCompleted s n c e r),
        congrArg Core.cCmp (co_copyCompleted s n c e r), late_copyCompleted⟩⟩
  · obtain ⟨queue, count⟩ := cc_copyAccept x f s
    exact ⟨_, queue, rfl, rfl, rfl, count⟩
  iterate 4 exact exec_cpstat_goes h (congrArg BitVec.toNat hv) rfl
  · refine ⟨fun code s1 => exec_copyPiece_source_faults hd he, fun a s1 hs =>
      ⟨fun code va s2 => exec_copyPiece_target_faults hd he hs, fun s2 t s3 hp ht => ?_⟩⟩
    have checked : PieceChecked s n c e a t s3 := ⟨hd, he, s1, s2, hs, hp, ht⟩
    exact ⟨exec_copyPiece_waits checked, exec_copyPiece_conflict checked,
      fun ho hr => exec_copyPiece_read_faults checked ho hr rfl, fun ho hr hg hw => ⟨_, exec_copyPiece_goes checked ho hr rfl hg hw, homeMem_pieceCounted _ n c e,
        spad_pieceCounted _ n c e, cq_pieceCounted _ n c e⟩⟩

end Sys2Proof.Machine
end

section
/-! PROOFS. Bit fields (R7, R8): the bits of a word after a field is put, and what is read of its fields. -/

namespace Sys2Proof.Machine

theorem testBit_bitsOf (x hi lo i : Nat) : (bitsOf x hi lo).testBit i = (decide (i < hi + 1 - lo) && x.testBit (lo + i)) := by
  rw [bitsOf, Nat.testBit_mod_two_pow, Nat.testBit_shiftRight]

/-- A field is put between the low bits of a number and what stands above it. -/
theorem put_between (x v lo k : Nat) :
    x - x / 2 ^ lo % 2 ^ k * 2 ^ lo + v * 2 ^ lo = 2 ^ lo * (2 ^ k * (x / 2 ^ lo / 2 ^ k) + v) + x % 2 ^ lo := by
  have whole : 2 ^ lo * (2 ^ k * (x / 2 ^ lo / 2 ^ k) + x / 2 ^ lo % 2 ^ k) + x % 2 ^ lo = x := by
    rw [Nat.div_add_mod, Nat.div_add_mod]
  rw [Nat.mul_add] at whole ⊢
  rw [Nat.mul_comm _ (2 ^ lo), Nat.mul_comm v]
  omega

/-- The bits of a word whose field from `lo` to `hi` is put. -/
theorem testBit_putFld {n hi lo i : Nat} (x : BitVec n) (v : Nat) (hn : i < n) :
    (putFld x hi lo v).toNat.testBit i
      = if lo ≤ i ∧ i < hi + 1 then v.testBit (i - lo) else x.toNat.testBit i := by
  unfold putFld bitsOf
  rw [BitVec.toNat_ofNat, Nat.testBit_mod_two_pow, decide_eq_true hn, Bool.true_and, Nat.shiftRight_eq_div_pow, put_between,
    Nat.testBit_two_pow_mul_add _ (Nat.mod_lt _ (Nat.two_pow_pos lo))]
  by_cases below : i < lo
  · rw [if_pos below, if_neg (by omega), Nat.testBit_mod_two_pow, decide_eq_true below, Bool.true_and]
  · rw [if_neg below, Nat.testBit_two_pow_mul_add _ (Nat.mod_lt _ (Nat.two_pow_pos _))]
    by_cases within : i - lo < hi + 1 - lo
    · rw [if_pos within, if_pos (by omega), Nat.testBit_mod_two_pow, decide_eq_true within, Bool.true_and]
    · rw [if_neg within, if_neg (by omega), Nat.testBit_div_two_pow, Nat.testBit_div_two_pow]
      congr 1
      omega

section
variable {n hi lo a b : Nat} (x : BitVec n) (v : Nat)

/-- Fields with the same bits are the same. -/
theorem fld_congr {y : BitVec n} (h : ∀ i, lo ≤ i → i < hi + 1 → y.toNat.testBit i = x.toNat.testBit i) :
    fld y hi lo = fld x hi lo := by
  refine Nat.eq_of_testBit_eq fun i => ?_
  rw [fld, fld, testBit_bitsOf, testBit_bitsOf]
  by_cases within : i < hi + 1 - lo
  · rw [h (lo + i) (by omega) (by omega)]
  · rw [decide_eq_false within, Bool.false_and, Bool.false_and]

/-- A field that is put leaves the others. -/
theorem fld_putFld_apart (hn : hi < n) (h : hi < b ∨ a < lo) : fld (putFld x a b v) hi lo = fld x hi lo :=
  fld_congr x fun i _ _ => by rw [testBit_putFld x v (by omega), if_neg (by omega)]

/-- And reads back its low bits. -/
theorem fld_putFld_same (hn : hi < n) : fld (putFld x hi lo v) hi lo = v % 2 ^ (hi + 1 - lo) := by
  refine Nat.eq_of_testBit_eq fun i => ?_
  rw [fld, testBit_bitsOf, Nat.testBit_mod_two_pow]
  by_cases within : i < hi + 1 - lo
  · rw [testBit_putFld x v (by omega), if_pos (by omega), Nat.add_sub_cancel_left]
  · rw [decide_eq_false within, Bool.false_and, Bool.false_and]

theorem fld_lt (hi lo : Nat) : fld x hi lo < 2 ^ (hi + 1 - lo) := Nat.mod_lt _ (Nat.two_pow_pos _)

end

/-- A word whose bits from `k` on are zero is its low field. -/
theorem fld_low {n : Nat} (x : BitVec n) {k : Nat} (h : x.toNat < 2 ^ (k + 1)) : fld x k 0 = x.toNat :=
  Nat.mod_eq_of_lt h

theorem fld_from_zero {n : Nat} (x : BitVec n) {hi lo : Nat} (hn : hi + 1 = n) : fld x hi lo = 0 ↔ x.toNat < 2 ^ lo := by
  subst hn
  have small : x.toNat / 2 ^ lo < 2 ^ (hi + 1 - lo) := by
    rw [Nat.div_lt_iff_lt_mul (Nat.two_pow_pos lo)]
    refine x.isLt.trans_le ?_
    rw [← Nat.pow_add]
    exact Nat.pow_le_pow_right (by decide) (by omega)
  rw [fld, bitsOf, Nat.shiftRight_eq_div_pow, Nat.mod_eq_of_lt small, Nat.div_eq_zero_iff_lt (Nat.two_pow_pos lo)]

end Sys2Proof.Machine
end

section
/-! PROOFS. The image of a packet (R266 to R268): what is read of it after a stack entry, k0 or a payload word is written, its
stack (O51), and the entries that an instruction pops. -/

namespace Sys2Proof.Machine

open Sys2Proof.Claims

/-! Stack entries and SDEP. -/

section
variable (p : PImage) (v : Word) (i : Nat)

/-- A stack entry lies above every field of the header and k0 to k3. -/
theorem fld_setStack {hi lo : Nat} (h : hi < 512) : fld (setStack p i v) hi lo = fld p hi lo :=
  fld_putFld_apart p _ (by omega) (.inl (by omega))

theorem pSdep_setStack : pSdep (setStack p i v) = pSdep p := fld_setStack p v i (by decide)

theorem pSdep_lt : pSdep p < 16 := fld_lt p 100 97

theorem pSdep_putSdep {d : Nat} (h : d < 16) : pSdep (putFld p 100 97 d) = d :=
  (fld_putFld_same p d (by decide)).trans (Nat.mod_eq_of_lt h)

theorem pStack_setStack_same (h : i < 16) : pStack (setStack p i v) i = v := by
  refine BitVec.eq_of_toNat_eq ?_
  rw [pStack, setStack, fld_putFld_same p v.toNat (by omega), BitVec.toNat_ofNat,
    show 575 + 64 * i + 1 - (512 + 64 * i) = 64 by omega, Nat.mod_mod, Nat.mod_eq_of_lt v.isLt]

theorem pStack_setStack_ne {j : Nat} (hj : j < 16) (h : j ≠ i) : pStack (setStack p i v) j = pStack p j :=
  congrArg (BitVec.ofNat 64) (fld_putFld_apart p _ (by omega) (by omega))

theorem pStack_putSdep {d j : Nat} (hj : j < 16) : pStack (putFld p 100 97 d) j = pStack p j :=
  congrArg (BitVec.ofNat 64) (fld_putFld_apart p _ (by omega) (by omega))

theorem pInstr_setStack {j : Nat} (hi : i < 8) (hj : j < 16) : pInstr (setStack p i v) j = pInstr p j :=
  congrArg (BitVec.ofNat 16) (fld_putFld_apart p _ (by omega) (by omega))

theorem pInstr_putSdep {d j : Nat} (hj : j < 16) : pInstr (putFld p 100 97 d) j = pInstr p j :=
  congrArg (BitVec.ofNat 16) (fld_putFld_apart p _ (by omega) (by omega))

end

/-! Push and pop. -/

section
variable {p : PImage} (v : Word)

theorem pSdep_pushStack (h : pSdep p < 8) : pSdep (pushStack p v) = pSdep p + 1 := pSdep_putSdep _ (by omega)

theorem pStack_pushStack_top (h : pSdep p < 8) : pStack (pushStack p v) (pSdep p) = v :=
  (pStack_putSdep _ (by omega)).trans (pStack_setStack_same _ _ _ (by omega))

theorem pStack_pushStack_ne {i : Nat} (hi : i < 16) (h : i ≠ pSdep p) : pStack (pushStack p v) i = pStack p i :=
  (pStack_putSdep _ hi).trans (pStack_setStack_ne _ _ _ hi h)

theorem pInstr_pushStack {i : Nat} (h : pSdep p < 8) (hi : i < 16) : pInstr (pushStack p v) i = pInstr p i :=
  (pInstr_putSdep _ hi).trans (pInstr_setStack _ _ _ h hi)

end

section
variable {p : PImage} (h : 0 < pSdep p)

theorem pSdep_popStack : pSdep (popStack p).2 = pSdep p - 1 :=
  pSdep_putSdep _ (have := pSdep_lt p; by omega)

theorem pStack_popStack_ne {i : Nat} (hi : i < 16) (hne : i ≠ pSdep p - 1) : pStack (popStack p).2 i = pStack p i :=
  (pStack_putSdep _ hi).trans (pStack_setStack_ne _ _ _ hi hne)

theorem pStack_popStack_top : pStack (popStack p).2 (pSdep p - 1) = 0 :=
  have := pSdep_lt p
  (pStack_putSdep _ (by omega)).trans (pStack_setStack_same _ _ _ (by omega))

include h in
theorem pInstr_popStack {i : Nat} (hd : pSdep p ≤ 8) (hi : i < 16) : pInstr (popStack p).2 i = pInstr p i :=
  (pInstr_putSdep _ hi).trans (pInstr_setStack _ _ _ (by omega) hi)

end

/-- Settles O51: a push and a pop, each by the entry it writes and by SDEP. -/
theorem packetStack : Obligations.PacketStack :=
  ⟨fun _ v h => ⟨pSdep_pushStack v h, pStack_pushStack_top v h, fun _ hi => pStack_pushStack_ne v (by omega),
      fun _ => pInstr_pushStack v h⟩,
    fun _ h hd => ⟨rfl, pSdep_popStack, pStack_popStack_top, fun _ hi => pStack_popStack_ne (by omega),
      fun _ => pInstr_popStack h hd⟩⟩

/-! The entries that an instruction pops. -/

theorem popStack_snd (p : PImage) : (popStack p).2 = putFld (setStack p (pSdep p - 1) 0) 100 97 (pSdep p - 1) := rfl

theorem popMany_succ (k : Nat) (p : PImage) :
    popMany (k + 1) p = ((popStack p).1 :: (popMany k (popStack p).2).1, (popMany k (popStack p).2).2) := by
  rw [popMany]

/-- A field that is no stack entry and not SDEP stays as entries are popped. -/
theorem fld_less {hi lo : Nat} (h : hi < 97 ∨ 100 < lo ∧ hi < 512) (k : Nat) (p : PImage) :
    fld (popMany k p).2 hi lo = fld p hi lo := by
  induction k generalizing p with
  | zero => rfl
  | succ k ih =>
    rw [popMany_succ, ih, popStack_snd, fld_putFld_apart _ _ (by omega) (by omega), fld_setStack _ _ _ (by omega)]

/-- What is popped comes from below SDEP, the top first. -/
theorem popped_popMany {k i : Nat} {p : PImage} (hk : k ≤ pSdep p) (hi : i < k) :
    popped (popMany k p).1 i = pStack p (pSdep p - 1 - i) := by
  induction k generalizing p i with
  | zero => omega
  | succ k ih =>
    cases i with
    | zero => rfl
    | succ i =>
      have depth : pSdep (popStack p).2 = pSdep p - 1 := pSdep_popStack
      have small := pSdep_lt p
      rw [popMany_succ, popped, List.getD_cons_succ, ← popped, ih (by omega) (by omega), depth,
        pStack_popStack_ne (by omega) (by omega)]
      congr 1
      omega

end Sys2Proof.Machine
end

section
/-! PROOFS. The outcomes of a prism instruction (R272, R273, R289): it goes on, ends its hop, or its packet is parked. -/

namespace Sys2Proof.Machine

open Sys2Proof.Claims

/-! Each instruction by its meaning in the prism. -/

theorem exec_pshi (v : BitVec 11) (s : State) : exec (.pshi v) s = execPshi v s := rfl
theorem exec_pshk (n : BitVec 2) (s : State) : exec (.pshk n) s = execPshk n s := rfl
theorem exec_popk (n : BitVec 2) (s : State) : exec (.popk n) s = execPopk n s := rfl
theorem exec_dup (s : State) : exec .dup s = execDup s := rfl
theorem exec_drops (s : State) : exec .drops s = execDrops s := rfl
theorem exec_swap (s : State) : exec .swap s = execSwap s := rfl
theorem exec_over (s : State) : exec .over s = execOver s := rfl
theorem exec_get (d : BitVec 3) (e : BitVec 4) (s : State) : exec (.get d e) s = execGet d e s := rfl
theorem exec_pldw (w : BitVec 4) (s : State) : exec (.pldw w) s = execPldw w s := rfl
theorem exec_pstw (w : BitVec 4) (s : State) : exec (.pstw w) s = execPstw w s := rfl
theorem exec_brz (t : BitVec 4) (s : State) : exec (.brz t) s = execBrz t s := rfl
theorem exec_brnz (t : BitVec 4) (s : State) : exec (.brnz t) s = execBrnz t s := rfl
theorem exec_jmp (t : BitVec 4) (s : State) : exec (.jmp t) s = execJmp t s := rfl
theorem exec_entry (t : BitVec 4) (s : State) : exec (.entry t) s = execEntry t s := rfl
theorem exec_ctrld (s : State) : exec .ctrld s = execCtrld s := rfl
theorem exec_ctradd (s : State) : exec .ctradd s = execCtradd s := rfl
theorem exec_swld (s : State) : exec .swld s = execSwld s := rfl
theorem exec_swadd (s : State) : exec .swadd s = execSwadd s := rfl
theorem exec_swcas (s : State) : exec .swcas s = execSwcas s := rfl
theorem exec_clone (d : BitVec 3) (s : State) : exec (.clone d) s = execClone d s := rfl
theorem exec_dirset (d : BitVec 3) (s : State) : exec (.dirset d) s = execDirset d s := rfl
theorem exec_dirsetStack (s : State) : exec .dirsetStack s = execDirsetStack s := rfl
theorem exec_dirmin (m : BitVec 6) (s : State) : exec (.dirmin m) s = execDirmin m s := rfl
theorem exec_dirminNa (m : BitVec 6) (s : State) : exec (.dirminNa m) s = execDirminNa m s := rfl
theorem exec_dirto (s : State) : exec .dirto s = execDirto s := rfl
theorem exec_dirtoStack (s : State) : exec .dirtoStack s = execDirtoStack s := rfl
theorem exec_fwd (s : State) : exec .fwd s = execFwd s := rfl
theorem exec_dlvr (s : State) : exec .dlvr s = execDlvr s := rfl
theorem exec_park (s : State) : exec .park s = execPark s := rfl
theorem exec_drop (s : State) : exec .drop s = execDrop s := rfl
theorem exec_dropN (s : State) : exec .dropN s = execDropN s := rfl

/-! Checks and outcomes. -/

/-- A hop whose instruction executes: its step is counted (R273). -/
def stepping (h : Hop) : Hop := { h with steps := h.steps + 1 }

/-- A step is charged to a bucket, which is all that it changes of a node (R289). -/
theorem chargeStep_keeps {α : Type} {f : Node → α} (hf : SeesNoBucket f) (s : State) (h : Hop) :
    Keeps f s (chargeStep s h) :=
  .modNd s _ (hf _ _)

/-- Whether the mask bit that an instruction needs is clear. -/
def needClear (h : Hop) : Option Nat → Bool
  | some b => !cfgMask h.cfg b
  | none => false

/-- What a prism instruction answers once its checks have passed. -/
def hopOutcome (s : State) (h : Hop) (rest : PImage) : POut → Out
  | .fault code z => .next (parkHop z (stepping h) code h.pc)
  | .gone z => .next (endHop z s.cur.node z.cur.ctx)
  | .deliver z => .next (beginDelivery z s.cur.node z.cur.ctx { stepping h with img := rest })
  | .go img push nxt delay z =>
    .next (schedule (putHop z s.cur.node z.cur.ctx
      { stepping h with img := push.foldl pushStack img, prev := h.pc, pc := nxt.getD (h.pc + 1) }) delay
      (.progHop s.cur.node z.cur.ctx))

/-- A prism instruction tests its mask bit, then the stack, then itself (R273). -/
theorem runPrismOp_eq {s : State} {h : Hop} (here : curHop s = some h) (o : POp) :
    runPrismOp o s =
      if needClear h o.need then .next (parked s h 0x42)
      else if pSdep h.img < o.pops ∨ 8 < pSdep h.img - o.pops + o.pushes then .next (parked s h 0x43)
      else hopOutcome s h (less h o.pops) (o.act (chargeStep s h) (stepping h) (popMany o.pops h.img).1 (less h o.pops)) := by
  rw [runPrismOp, here]
  rfl

/-- An instruction that pops and pushes as one that may execute, with a mask bit that is set, may execute. -/
theorem hopping_with_mask {s : State} {h : Hop} {pops pushes b : Nat} (hh : Hopping s h pops pushes none)
    (hm : cfgMask h.cfg b = true) : Hopping s h pops pushes (some b) :=
  ⟨hh.here, fun _ hc => Option.some.inj hc ▸ hm, hh.deep, hh.fits⟩

/-- The entries that an instruction pops are those at the top, in their order. -/
theorem popped_top {s : State} {h : Hop} {pops pushes i : Nat} {need : Option Nat} (hh : Hopping s h pops pushes need)
    (hi : i < pops) : popped (popMany pops h.img).1 i = top h i := popped_popMany hh.deep hi

section
variable {o : POp} {s z : State} {h : Hop}

/-- An instruction that may execute does what it does once its checks have passed. -/
theorem runPrismOp_of_hopping (hh : Hopping s h o.pops o.pushes o.need) :
    runPrismOp o s
      = hopOutcome s h (less h o.pops) (o.act (chargeStep s h) (stepping h) (popMany o.pops h.img).1 (less h o.pops)) := by
  have masked : needClear h o.need = false := by
    cases hb : o.need with
    | none => rfl
    | some b => rw [needClear, hh.mask b hb]; rfl
  rw [runPrismOp_eq hh.here, masked, if_neg Bool.false_ne_true,
    if_neg (not_or.mpr ⟨Nat.not_lt.mpr hh.deep, Nat.not_lt.mpr hh.fits⟩)]

variable {i : Instr} (hi : exec i s = runPrismOp o s) (hh : Hopping s h o.pops o.pushes o.need)
include hi hh

/-- It goes on with the packet as it leaves it. -/
theorem hop_goes {img : PImage} {push : List Word} {nxt : Option Nat} {delay : Nat}
    (ha : o.act (chargeStep s h) (stepping h) (popMany o.pops h.img).1 (less h o.pops) = .go img push nxt delay z)
    (hz : z.cur = s.cur) :
    exec i s = .next (hopOn z h (push.foldl pushStack img) (nxt.getD (h.pc + 1)) delay) := by
  rw [hi, runPrismOp_of_hopping hh, ha, hopOutcome, hopOn, hz]
  rfl

/-- It goes on without a push. -/
theorem hop_sets {img : PImage} {delay : Nat}
    (ha : o.act (chargeStep s h) (stepping h) (popMany o.pops h.img).1 (less h o.pops) = .go img [] none delay z)
    (hz : z.cur = s.cur) : exec i s = .next (hopOn z h img (h.pc + 1) delay) := hop_goes hi hh ha hz

/-- It goes on with one value pushed. -/
theorem hop_pushes {img : PImage} {v : Word} {delay : Nat}
    (ha : o.act (chargeStep s h) (stepping h) (popMany o.pops h.img).1 (less h o.pops) = .go img [v] none delay z)
    (hz : z.cur = s.cur) : exec i s = .next (hopOn z h (pushStack img v) (h.pc + 1) delay) := hop_goes hi hh ha hz

/-- It goes on elsewhere. -/
theorem hop_jumps {img : PImage} {t delay : Nat}
    (ha : o.act (chargeStep s h) (stepping h) (popMany o.pops h.img).1 (less h o.pops) = .go img [] (some t) delay z)
    (hz : z.cur = s.cur) : exec i s = .next (hopOn z h img t delay) := hop_goes hi hh ha hz

/-- It faults, and the packet is parked. -/
theorem hop_faults {code : Nat}
    (ha : o.act (chargeStep s h) (stepping h) (popMany o.pops h.img).1 (less h o.pops) = .fault code (chargeStep s h)) :
    exec i s = .next (parked s h code) := by
  rw [hi, runPrismOp_of_hopping hh, ha, hopOutcome]
  rfl

/-- It ends the hop. -/
theorem hop_ends (ha : o.act (chargeStep s h) (stepping h) (popMany o.pops h.img).1 (less h o.pops) = .gone z)
    (hz : z.cur = s.cur) : exec i s = .next (endHop z s.cur.node s.cur.ctx) := by
  rw [hi, runPrismOp_of_hopping hh, ha, hopOutcome, hz]

/-- It delivers the packet. -/
theorem hop_delivers
    (ha : o.act (chargeStep s h) (stepping h) (popMany o.pops h.img).1 (less h o.pops) = .deliver (chargeStep s h)) :
    exec i s = .next (beginDelivery (chargeStep s h) s.cur.node s.cur.ctx { stepping h with img := less h o.pops }) := by
  rw [hi, runPrismOp_of_hopping hh, ha, hopOutcome]
  rfl

end

section
variable {i : Instr} {o : POp} {s : State} {h : Hop} (hi : exec i s = runPrismOp o s) (here : curHop s = some h)
include hi here

/-- Where the mask bit that it needs is clear, it is refused (R273). -/
theorem hop_refused {b : Nat} (hb : o.need = some b) (hm : cfgMask h.cfg b = false) :
    exec i s = .next (parked s h 0x42) := by
  rw [hi, runPrismOp_eq here, hb, needClear, hm]
  rfl

/-- Where the stack is too short, or too full, it faults (R273). -/
theorem hop_stack (hn : o.need = none) (hd : pSdep h.img < o.pops ∨ 8 < pSdep h.img - o.pops + o.pushes) :
    exec i s = .next (parked s h 0x43) := by
  rw [hi, runPrismOp_eq here, hn, needClear, if_neg Bool.false_ne_true, if_pos hd]

end

end Sys2Proof.Machine
end

section
/-! PROOFS. Node counters, notices and what a counter fires (R278, R283, R287, R310): what they change of the nodes, and what a
counter reads after a change. -/

namespace Sys2Proof.Machine

/-! Armed operations. -/

/-- A node but for what an armed operation that fires changes. -/
def fireRest (d : Node) : Node := { d with eps := [], armed := [], cores := [] }

/-- A node but for what a change of a counter changes. -/
def counterRest (d : Node) : Node := { d with eps := [], armed := [], cores := [], counters := [] }

/-- A node but for what a change of a counter that may wait for deliveries changes, or a notice that is applied. -/
def softRest (d : Node) : Node := { d with eps := [], armed := [], cores := [], counters := [], trt := [] }

/-- A node but for what a notice changes, sent or applied. -/
def noticeRest (d : Node) : Node :=
  { d with eps := [], armed := [], cores := [], counters := [], trt := [], links := [], netSeq := 0, paceq := [] }

section
variable {α : Type} {f : Node → α}

theorem fireArmed_keeps (hf : ∀ d, f (fireRest d) = f d) (s : State) (n i : Nat) : Keeps f s (fireArmed s n i) := by
  have acquired (s : State) (c : Nat) : Keeps f s (acquireL1 s n c 3 false) := by
    rw [acquireL1, if_neg (by decide)]
    exact .under hf s n rfl
  have endpoint (d : Node) (l : SMap Endpoint) : f { d with eps := l } = f d := by rw [← hf, ← hf d]; rfl
  have put (s : State) (u : Node → SMap (Option Armed)) : Keeps f s (modNd s n fun d => { d with armed := u d }) :=
    .under hf s n rfl
  have core (s : State) (c : Nat) (u : Core → Core) : Keeps f s (modCo s n c u) := .under hf s n rfl
  unfold fireArmed
  split
  · exact .refl s
  · extract_lets free q s1 s2 k
    have used : Keeps f s s2 := ((epNeed_blind endpoint ..).trans (modEp_blind endpoint ..)).trans (acquired ..)
    split
    · exact .refl s
    · split
      · exact put s _
      · split
        · exact (used.trans (put ..)).trans (core ..)
        · exact (used.trans (put ..)).trans (core ..)

theorem fireOn_keeps (hf : ∀ d, f (fireRest d) = f d) (s : State) (n i : Nat) : Keeps f s (fireOn s n i) :=
  .foldl _ (fun s _ => fireArmed_keeps hf s n _) _ s

/-! Changes of a counter. -/

theorem setCtr_keeps (hf : ∀ d, f (counterRest d) = f d) (s : State) (n i : Nat) (v : Word) : Keeps f s (setCtr s n i v) := by
  have fires (d : Node) : f (fireRest d) = f d := by rw [← hf, ← hf d]; rfl
  unfold setCtr
  exact .trans (.under hf s n rfl) (fireOn_keeps fires ..)

theorem addCtr_keeps (hf : ∀ d, f (counterRest d) = f d) (s : State) (n i : Nat) (v : Word) : Keeps f s (addCtr s n i v) :=
  setCtr_keeps hf ..

theorem softCtr_keeps (hf : ∀ d, f (softRest d) = f d) (s : State) (n i : Nat) (add : Bool) (v : Word) :
    Keeps f s (softCtr s n i add v) := by
  have counts (d : Node) : f (counterRest d) = f d := by rw [← hf, ← hf d]; rfl
  unfold softCtr
  split
  · exact .under hf s n rfl
  · split
    · exact addCtr_keeps counts ..
    · exact setCtr_keeps counts ..

/-! Notices (R287). -/

theorem applyNotice_keeps (hf : ∀ d, f (softRest d) = f d) (s : State) (n t i : Nat) (drop : Bool) :
    Keeps f s (applyNotice s n t i drop) := by
  have counts (d : Node) : f (counterRest d) = f d := by rw [← hf, ← hf d]; rfl
  unfold applyNotice addLost modTrt
  dsimp only
  split
  · exact .under hf s n rfl
  · exact addCtr_keeps counts ..

theorem sendNotice_keeps (hf : ∀ d, f (noticeRest d) = f d) (s : State) (n : Nat) (p : PImage) (drop : Bool) :
    Keeps f s (sendNotice s n p drop) := by
  have soft (d : Node) : f (softRest d) = f d := by rw [← hf, ← hf d]; rfl
  have fabric : SeesNoFabric f := fun d => by rw [← hf, ← hf d]; rfl
  unfold sendNotice
  split
  · exact applyNotice_keeps soft ..
  · exact travel_keeps fabric ..

end

theorem softCtr_cur (s : State) (n i : Nat) (add : Bool) (v : Word) : (softCtr s n i add v).cur = s.cur :=
  (softCtr_keeps (f := fun _ => ()) (fun _ => rfl) ..).cur

theorem sendNotice_cur (s : State) (n : Nat) (p : PImage) (drop : Bool) : (sendNotice s n p drop).cur = s.cur :=
  (sendNotice_keeps (f := fun _ => ()) (fun _ => rfl) ..).cur

/-! What a counter reads. -/

theorem counters_setCtr (s : State) (n i : Nat) (v : Word) :
    (nd (setCtr s n i v) n).counters = smSet (nd s n).counters 0 i v := by
  rw [setCtr, (fireOn_keeps (f := Node.counters) (fun _ => rfl) ..).nodes n, nd_modNd_same]

/-- A counter reads what it was set to. -/
theorem ctrAt_setCtr {s : State} {n : Nat} (h : smWf 0 (nd s n).counters = true) (i : Nat) (v : Word) :
    ctrAt (nd (setCtr s n i v) n) i = v := by
  rw [ctrAt, counters_setCtr, smGet_smSet_same h]

/-- Outside a tenant's deliveries a change is made at once (R283). -/
theorem softCtr_free {s : State} {n i : Nat} (h : busyTenant (nd s n) i = none) (add : Bool) (v : Word) :
    softCtr s n i add v = if add then addCtr s n i v else setCtr s n i v := by
  rw [softCtr, h]

/-- Where nothing is armed, a counter that changes fires nothing. -/
theorem fireOn_unarmed {s : State} {n : Nat} (h : (nd s n).armed = []) (i : Nat) : fireOn s n i = s := by
  rw [fireOn, h]
  rfl

/-- A core that is not listed waits for no counter. -/
theorem smGet_wakeCtr (i : Nat) (v : Word) (m : SMap Core) (c : Nat) :
    smGet (m.map fun x => (x.1, wakeCtr i v x.2)) {} c = wakeCtr i v (smGet m {} c) :=
  smGet_mapVal (d := ({} : Core)) (wakeCtr i v) m c

/-- Where nothing is armed, each core takes the value, or stays as it is (R295). -/
theorem co_setCtr {s : State} {n : Nat} (h : (nd s n).armed = []) (i : Nat) (v : Word) (c : Nat) :
    co (setCtr s n i v) n c = wakeCtr i v (co s n c) := by
  rw [setCtr, fireOn_unarmed (by rw [nd_modNd_same]; exact h), co, nd_modNd_same]
  exact smGet_wakeCtr ..

end Sys2Proof.Machine
end

section
/-! PROOFS. What prism instructions compute (R274, R277 to R279; O52): on the stack, on counters and in the tenant's window. -/

namespace Sys2Proof.Machine

open Sys2Proof.Claims

/-! CMP.c as the claims write it (R274). -/

section
variable (a b : Word)

theorem cmpVal_equal : cmpVal 0 a b = if a = b then 1 else 0 := by
  by_cases h : a = b <;> simp [cmpVal, b2n, h]

theorem cmpVal_unequal : cmpVal 1 a b = if a = b then 0 else 1 := by
  by_cases h : a = b <;> simp [cmpVal, b2n, h]

theorem cmpVal_less : cmpVal 2 a b = if a.slt b then 1 else 0 := by
  rw [cmpVal, ← BitVec.slt]
  cases a.slt b <;> rfl

theorem cmpVal_below : cmpVal 3 a b = if a.ult b then 1 else 0 := by
  rw [cmpVal, ← BitVec.ult]
  cases a.ult b <;> rfl

theorem cmpVal_notLess : cmpVal 4 a b = if a.slt b then 0 else 1 := by
  have turned : decide (b.toInt ≤ a.toInt) = !a.slt b := by
    rw [BitVec.slt, ← decide_not, decide_eq_decide, Int.not_lt]
  rw [cmpVal, turned]
  cases a.slt b <;> rfl

theorem cmpVal_notBelow : cmpVal 5 a b = if a.ult b then 0 else 1 := by
  have turned : decide (b.toNat ≤ a.toNat) = !a.ult b := by
    rw [BitVec.ult, ← decide_not, decide_eq_decide, Nat.not_lt]
  rw [cmpVal, turned]
  cases a.ult b <;> rfl

end

/-! Values and branches. -/

/-- An instruction a, b → a op b puts one value in the place of the two. -/
theorem binOp_goes {i : Instr} {f g : Word → Word → Word} (hi : ∀ s, exec i s = runPrismOp (binOp f) s)
    (hf : ∀ a b, f a b = g a b) (s : State) (h : Hop) (hh : Hopping s h 2 1 none) :
    exec i s = .next (hopOn (chargeStep s h) h (pushStack (less h 2) (g (top h 1) (top h 0))) (h.pc + 1) 1) := by
  rw [← hf, ← popped_top hh (i := 0) (by decide), ← popped_top hh (i := 1) (by decide)]
  exact hop_pushes (o := binOp f) (hi s) hh rfl rfl

section
variable {s : State} {h : Hop}

/-- The payload words of a packet are those of its image with entries popped. -/
theorem pPlen_less (h : Hop) (k : Nat) : pPlen (less h k) = pPlen h.img := fld_less (.inl (by decide)) k h.img

theorem pldw_goes (hh : Hopping s h 0 1 none) {w : BitVec 4} (hw : w.toNat < 4 * pPlen h.img) :
    exec (.pldw w) s = .next (hopOn (chargeStep s h) h (pushStack h.img (pPayload h.img w.toNat)) (h.pc + 1) 1) := by
  exact hop_pushes (exec_pldw w s) hh (if_neg (Nat.not_le.mpr hw)) rfl

theorem pstw_goes (hh : Hopping s h 1 0 none) {w : BitVec 4} (hw : w.toNat < 4 * pPlen h.img) :
    exec (.pstw w) s = .next (hopOn (chargeStep s h) h (setPayload (less h 1) w.toNat (top h 0)) (h.pc + 1) 1) := by
  have within : ¬4 * pPlen (less h 1) ≤ w.toNat := by rw [pPlen_less]; exact Nat.not_le.mpr hw
  rw [← popped_top hh (i := 0) (by decide)]
  exact hop_sets (exec_pstw w s) hh (if_neg within) rfl

theorem entry_goes (hh : Hopping s h 0 0 none) (t : BitVec 4) :
    exec (.entry t) s = .next (hopOn (chargeStep s h) h (putFld h.img 111 108 t.toNat) (h.pc + 1) 1) :=
  hop_sets (exec_entry t s) hh rfl rfl

theorem jmp_goes (hh : Hopping s h 0 0 none) (t : BitVec 4) :
    exec (.jmp t) s = .next (hopOn (chargeStep s h) h h.img t.toNat 1) :=
  hop_jumps (exec_jmp t s) hh rfl rfl

/-- A branch that is taken where its test holds of the value on top (R274). -/
theorem branch_goes {i : Instr} {t : Nat} {taken : Word → Bool} (hh : Hopping s h 1 0 none)
    (hi : exec i s = runPrismOp { pops := 1, act := branchAct t taken } s) :
    exec i s = .next (hopOn (chargeStep s h) h (less h 1) (if taken (top h 0) then t else h.pc + 1) 1) := by
  rw [hop_goes hi hh rfl rfl, popped_top hh (by decide)]
  cases taken (top h 0) <;> rfl

theorem brz_goes (hh : Hopping s h 1 0 none) (t : BitVec 4) :
    exec (.brz t) s = .next (hopOn (chargeStep s h) h (less h 1) (if top h 0 = 0 then t.toNat else h.pc + 1) 1) := by
  rw [branch_goes (taken := fun v => v == 0) hh (exec_brz t s)]
  by_cases zero : top h 0 = 0 <;> simp [zero]

theorem brnz_goes (hh : Hopping s h 1 0 none) (t : BitVec 4) :
    exec (.brnz t) s = .next (hopOn (chargeStep s h) h (less h 1) (if top h 0 = 0 then h.pc + 1 else t.toNat) 1) := by
  rw [branch_goes (taken := fun v => v != 0) hh (exec_brnz t s)]
  by_cases zero : top h 0 = 0 <;> simp [zero]

end

/-! Counters and the window (R278, R279). -/

section
variable {s : State} {h : Hop}

/-- A step charged leaves counters and the deep store as they are. -/
theorem ctrAt_chargeStep (s : State) (h : Hop) (n i : Nat) : ctrAt (nd (chargeStep s h) n) i = ctrAt (nd s n) i :=
  (chargeStep_keeps (f := fun d => ctrAt d i) (fun _ _ => rfl) s h).nodes n

theorem rwLen_chargeStep (s : State) (h : Hop) (n : Nat) (c : List Word) : rwLen (nd (chargeStep s h) n) c = rwLen (nd s n) c :=
  (chargeStep_keeps (f := fun d => rwLen d c) (fun _ _ => rfl) s h).nodes n

theorem ctrAct_goes {i : Nat} {v : List Word} {p : PImage} (hi : (popped v i).toNat < cwLen h.cfg) (change : Bool) :
    ctrAct i change (chargeStep s h) (stepping h) v p
      = .go p [ctrAt (nd s s.cur.node) (cwBase h.cfg + (popped v i).toNat)] none 2
          (if change then softCtr (chargeStep s h) s.cur.node (cwBase h.cfg + (popped v i).toNat) true (popped v 0)
            else chargeStep s h) := by
  rw [← ctrAt_chargeStep s h]
  exact if_neg (Nat.not_le.mpr hi)

theorem ctrld_goes (hh : Hopping s h 1 1 (some 0)) (hi : (top h 0).toNat < cwLen h.cfg) :
    exec .ctrld s = .next (hopOn (chargeStep s h) h
      (pushStack (less h 1) (ctrAt (nd s s.cur.node) (cwBase h.cfg + (top h 0).toNat))) (h.pc + 1) 2) := by
  rw [← popped_top hh (by decide)] at hi ⊢
  exact hop_pushes (exec_ctrld s) hh (ctrAct_goes hi false) rfl

theorem ctradd_goes (hh : Hopping s h 2 1 (some 1)) (hi : (top h 1).toNat < cwLen h.cfg) :
    exec .ctradd s
      = .next (hopOn (softCtr (chargeStep s h) s.cur.node (cwBase h.cfg + (top h 1).toNat) true (top h 0)) h
          (pushStack (less h 2) (ctrAt (nd s s.cur.node) (cwBase h.cfg + (top h 1).toNat))) (h.pc + 1) 2) := by
  rw [← popped_top hh (i := 0) (by decide)]
  rw [← popped_top hh (i := 1) (by decide)] at hi ⊢
  exact hop_pushes (exec_ctradd s) hh (ctrAct_goes hi true) (softCtr_cur ..)

/-- An instruction on the window pushes the word as it found it at its home slice, and writes its function of it. -/
theorem windowOp_goes {i : Instr} {k b : Nat} {new : Word → List Word → Word} {f : Hop → Word → Word}
    (hi : ∀ s, exec i s = runPrismOp { pops := k, pushes := 1, need := some b, act := windowAct (k - 1) new } s) (hk : 0 < k)
    (hf : ∀ s h, Hopping s h k 1 (some b) → ∀ old, new old (popMany k h.img).1 = f h old)
    (s : State) (h : Hop) (hh : Hopping s h k 1 (some b)) (hw : (top h (k - 1)).toNat < rwLen (nd s s.cur.node) h.cfg) :
    let a := rwBase h.cfg + 8 * (top h (k - 1)).toNat
    let z := touch (chargeStep s h) s.cur.node none .deep a 8 true
    let old : Word := BitVec.ofNat 64 (homeRead (nd z s.cur.node) .deep a 8)
    isPoison (nd z s.cur.node) .deep a = false →
    exec i s = .next (hopOn (modNd z s.cur.node fun d => homeWrite d .deep a 8 (fullMask 8) (f h old).toNat) h
      (pushStack (less h k) old) (h.pc + 1) (Config.latNear + sliceDelay (chargeStep s h) s.cur.node .deep a)) := by
  intro a z old clean
  have place : popped (popMany k h.img).1 (k - 1) = top h (k - 1) := popped_top hh (by omega)
  have there : ¬rwLen (nd (chargeStep s h) s.cur.node) h.cfg ≤ (top h (k - 1)).toNat := by
    rw [rwLen_chargeStep]
    exact Nat.not_le.mpr hw
  rw [← hf s h hh]
  refine hop_pushes (hi s) hh ?_ (touchUncharged_keeps (f := fun _ => ()) (fun _ _ _ => rfl) (chargeStep s h) ..).cur
  unfold windowAct
  dsimp only
  rw [place]
  exact (if_neg there).trans (if_neg (Bool.eq_false_iff.mp clean))

end

/-- Settles O52: the instructions that compute, each by what it pops; then those on counters and in the window. -/
theorem prismValues : Obligations.PrismValues := by
  refine ⟨⟨?_, fun s h hh => ⟨fun v => hop_pushes (exec_pshi v s) hh rfl rfl,
      fun n => hop_pushes (exec_pshk n s) hh rfl rfl,
        fun d e => hop_pushes (exec_get d e s) hh rfl rfl, fun w => pldw_goes hh⟩,
      fun s h hh => ⟨fun n => ?_, hop_sets (exec_drops s) hh rfl rfl, brz_goes hh, brnz_goes hh, fun w => pstw_goes hh⟩,
      fun s h hh => ?_, fun s h hh => ?_, fun s h hh => ?_,
      fun s h hh => ⟨jmp_goes hh, entry_goes hh⟩⟩,
    fun s h => ctrld_goes, fun s h => ctradd_goes, ?_⟩
  · exact List.forall_iff_forall_mem.mp ⟨binOp_goes (fun _ => rfl) fun _ _ => rfl,
      binOp_goes (fun _ => rfl) fun _ _ => rfl,
      binOp_goes (fun _ => rfl) fun _ _ => rfl,
      binOp_goes (fun _ => rfl) fun _ _ => rfl,
      binOp_goes (fun _ => rfl) fun _ _ => rfl,
      binOp_goes (fun _ => rfl) shlW_eq,
      binOp_goes (fun _ => rfl) shrW_eq,
      binOp_goes (fun _ => rfl) cmpVal_equal,
      binOp_goes (fun _ => rfl) cmpVal_unequal,
      binOp_goes (fun _ => rfl) cmpVal_less,
      binOp_goes (fun _ => rfl) cmpVal_below,
      binOp_goes (fun _ => rfl) cmpVal_notLess,
      binOp_goes (fun _ => rfl) cmpVal_notBelow,
      binOp_goes (fun _ => rfl) fun _ _ => rfl,
      binOp_goes (fun _ => rfl) fun _ _ => rfl⟩
  · rw [← popped_top hh (i := 0) (by decide)]
    exact hop_sets (exec_popk n s) hh rfl rfl
  · rw [← popped_top hh (i := 0) (by decide)]
    rw [hop_goes (exec_dup s) hh rfl rfl]
    rfl
  · rw [← popped_top hh (i := 0) (by decide), ← popped_top hh (i := 1) (by decide)]
    rw [hop_goes (exec_swap s) hh rfl rfl]
    rfl
  · rw [← popped_top hh (i := 0) (by decide), ← popped_top hh (i := 1) (by decide)]
    rw [hop_goes (exec_over s) hh rfl rfl]
    rfl
  · have loads := windowOp_goes (f := fun _ old => old) exec_swld (by decide) fun _ _ _ _ => rfl
    have adds := windowOp_goes (f := fun h old => old + top h 0) exec_swadd (by decide) fun _ _ hh _ => by
      rw [popped_top hh (by decide)]
    have swaps := windowOp_goes (f := fun h old => if old = top h 1 then top h 0 else old) exec_swcas (by decide)
      fun _ _ hh _ => by rw [popped_top hh (by decide), popped_top hh (by decide)]
    refine List.forall_mem_cons.mpr ⟨loads, List.forall_mem_cons.mpr ⟨adds, List.forall_mem_singleton.mpr ?_⟩⟩
    with_reducible exact swaps

end Sys2Proof.Machine
end

section
/-! PROOFS. Prism instructions that give a packet its direction, send it on, copy it, deliver it or end its hop (R280 to R284;
O53). -/

namespace Sys2Proof.Machine

open Sys2Proof.Claims

/-! What FWD, DLVR and CLONE do with a packet (R281 to R283). -/

section
variable {s : State} {h : Hop} {p : PImage} (v : List Word)

/-- A packet toward a link that it may take leaves over it, a hop spent. -/
theorem forwardAct_leaves (hd : pDir p < 6) (hl : hasLink s (pDir p) = true) (hm : cfgMask h.cfg 7 = true) (hb : 0 < pHopb p) :
    forwardAct s h v p = .gone (sendToward s s.cur.node (pDir p) (hopSpent p)) := by
  rw [forwardAct]
  simp [hl, hm, hd.ne, Nat.ne_of_lt (Nat.lt_succ_of_lt hd), hb.ne']

theorem forwardAct_local (hd : pDir p = 6) : forwardAct s h v p = deliverAct s h v p := by
  rw [forwardAct]
  exact if_pos hd

theorem deliverAct_delivers (hb : deliveryBar h.cfg = none) : deliverAct s h v p = .deliver s := by
  rw [deliverAct, hb]

theorem deliverAct_barred {code : Nat} (hb : deliveryBar h.cfg = some code) : deliverAct s h v p = .fault code s := by
  rw [deliverAct, hb]

/-- The packet that stays where it is cloned, a clone spent (R282). -/
def cloneKept (p : PImage) : PImage := putFld p 119 116 (pClb p - 1)

/-- Its copy, as it leaves toward `d`: marked, one copy deeper, a hop spent. -/
def cloneSent (p : PImage) (d : Nat) : PImage :=
  hopSpent (setDir (putFld (putFld (cloneKept p) 82 82 1) 115 112 (min (pCdep (cloneKept p) + 1) 15)) d)

variable {d0 d : Nat} (hd : (if d0 = 7 then pDir p else d0) = d)
include hd

section
variable (hm : cfgMask h.cfg 4 = true) (h6 : d < 6) (hl : hasLink s d = true) (hf : cfgMask h.cfg 7 = true)
include hm h6 hl hf

theorem cloneAct_sends (hc : 0 < pClb p) (hb : 0 < pHopb p) :
    cloneAct d0 s h v p = .go (cloneKept p) [] none 1 (sendToward s s.cur.node d (cloneSent p d)) := by
  rw [cloneAct, hd]
  simp [hm, hl, hf, h6.not_ge, hc.ne', hb.ne', cloneKept, cloneSent]

end

end

/-! The instructions. -/

section
variable {s : State} {h : Hop}

/-- An instruction that sets DIR goes on with the packet turned (R280). -/
theorem dirOp_goes {i : Instr} {k d : Nat} {need : Option Nat} {f : State → Hop → List Word → Nat}
    (hi : exec i s = runPrismOp { pops := k, need := need, act := dirAct f } s) (hh : Hopping s h k 0 need)
    (hd : f (chargeStep s h) (stepping h) (popMany k h.img).1 = d) :
    exec i s = .next (hopOn (chargeStep s h) h (setDir (less h k) d) (h.pc + 1) 1) := by
  rw [← hd]
  exact hop_sets hi hh rfl rfl

/-- One that pops nothing turns the packet as it finds it. -/
theorem turnOp_goes {i : Instr} {d : Nat} {need : Option Nat} {f : State → Hop → List Word → Nat}
    (hi : exec i s = runPrismOp { need := need, act := dirAct f } s) (hh : Hopping s h 0 0 need)
    (hd : f (chargeStep s h) (stepping h) [] = d) :
    exec i s = .next (hopOn (chargeStep s h) h (setDir h.img d) (h.pc + 1) 1) :=
  dirOp_goes (k := 0) hi hh hd

/-- The direction that CLONE names is its operand, or the packet's (R282). -/
theorem cloneDir_eq (d : BitVec 3) (p : PImage) :
    (if d.toNat = 7 then pDir p else d.toNat) = if d = 7 then pDir p else d.toNat := by
  by_cases hd : d = 7
  · subst hd
    rfl
  · have other : d.toNat ≠ 7 := fun same => hd (BitVec.eq_of_toNat_eq same)
    rw [if_neg other, if_neg hd]

end

/-- Settles O53: directions by what sets them, then what ends a hop or copies its packet. -/
theorem prismMoves : Obligations.PrismMoves := by
  refine ⟨fun s h hh => ⟨fun d => turnOp_goes (exec_dirset d s) hh rfl, turnOp_goes (exec_dirto s) hh rfl,
      fun m hm => ⟨turnOp_goes (exec_dirmin m s) (hopping_with_mask hh hm) rfl,
        turnOp_goes (exec_dirminNa m s) (hopping_with_mask hh hm) rfl⟩,
      fun hd hm hb hl => hop_ends (exec_fwd s) hh (forwardAct_leaves [] hd hl hm hb) rfl,
      fun hd hb => hop_delivers (exec_fwd s) hh ((forwardAct_local [] hd).trans (deliverAct_delivers (p := h.img) [] hb)),
      fun hb => hop_delivers (exec_dlvr s) hh (deliverAct_delivers (p := h.img) [] hb), hop_faults (exec_park s) hh rfl,
      hop_ends (exec_drop s) hh rfl rfl, hop_ends (exec_dropN s) hh rfl (sendNotice_cur ..),
      fun d hm hf h6 hl hc hb =>
        hop_sets (exec_clone d s) hh (cloneAct_sends [] (cloneDir_eq d h.img) hm h6 hl hf hc hb) rfl⟩,
    fun s h hh => ⟨dirOp_goes (exec_dirsetStack s) hh ?_, dirOp_goes (exec_dirtoStack s) hh ?_⟩⟩
  · rw [popped_top hh (by decide)]
  · rw [popped_top hh (by decide)]
    rfl

end Sys2Proof.Machine
end

section
/-! PROOFS. Where a prism instruction parks or drops its packet (R273, R278 to R285, R288; O54). -/

namespace Sys2Proof.Machine

open Sys2Proof.Claims

/-! What FWD and CLONE refuse (R281, R282). -/

section
variable {s : State} {h : Hop} {p : PImage} (v : List Word)

/-- A direction without a link, or one that the mask closes, is refused. -/
theorem forwardAct_refused
    (hd : pDir p = 7 ∨ (pDir p < 6 ∧ (hasLink s (pDir p) = false ∨ cfgMask h.cfg 7 = false))) :
    forwardAct s h v p = .fault 0x42 s := by
  have away : pDir p ≠ 6 := by omega
  have closed : pDir p = 7 ∨ !hasLink s (pDir p) ∨ !cfgMask h.cfg 7 := by
    rcases hd with none_ | ⟨-, link | mask⟩
    · exact .inl none_
    · exact .inr (.inl (by rw [link]; rfl))
    · exact .inr (.inr (by rw [mask]; rfl))
  rw [forwardAct]
  exact (if_neg away).trans (if_pos closed)

theorem forwardAct_spent (hd : pDir p < 6) (hl : hasLink s (pDir p) = true) (hm : cfgMask h.cfg 7 = true) (hb : pHopb p = 0) :
    forwardAct s h v p = .fault 0x40 s := by
  rw [forwardAct]
  simp [hl, hm, hd.ne, Nat.ne_of_lt (Nat.lt_succ_of_lt hd), hb]

variable {d : Nat} (h6 : d < 6) (hl : hasLink s d = true) (hm : cfgMask h.cfg 4 = true) (hf : cfgMask h.cfg 7 = true)
include h6 hl hm hf

theorem cloneAct_noClone (hc : pClb p = 0) : cloneAct d s h v p = .fault 0x45 s := by
  rw [cloneAct, if_neg (show d ≠ 7 by omega)]
  simp [hm, hl, hf, h6.not_ge, hc]

theorem cloneAct_noHop (hc : 0 < pClb p) (hb : pHopb p = 0) : cloneAct d s h v p = .fault 0x40 s := by
  rw [cloneAct, if_neg (show d ≠ 7 by omega)]
  simp [hm, hl, hf, h6.not_ge, hc.ne', hb]

end

/-! What lies outside the windows (R278, R279). -/

section
variable {s : State} {h : Hop}

theorem ctrAct_outside {z : State} {i : Nat} {v : List Word} {p : PImage}
    (hi : cwLen h.cfg ≤ (popped v i).toNat) (change : Bool) :
    ctrAct i change z (stepping h) v p = .fault 0x46 z := if_pos hi

theorem ctrld_outside (hh : Hopping s h 1 1 (some 0)) (hi : cwLen h.cfg ≤ (top h 0).toNat) :
    exec .ctrld s = .next (parked s h 0x46) := by
  rw [← popped_top hh (by decide)] at hi
  exact hop_faults (exec_ctrld s) hh (ctrAct_outside hi false)

theorem ctradd_outside (hh : Hopping s h 2 1 (some 1)) (hi : cwLen h.cfg ≤ (top h 1).toNat) :
    exec .ctradd s = .next (parked s h 0x46) := by
  rw [← popped_top hh (by decide)] at hi
  exact hop_faults (exec_ctradd s) hh (ctrAct_outside hi true)

theorem swld_outside (hh : Hopping s h 1 1 (some 2)) (hw : rwLen (nd s s.cur.node) h.cfg ≤ (top h 0).toNat) :
    exec .swld s = .next (parked s h 0x46) := by
  rw [← popped_top hh (by decide), ← rwLen_chargeStep s h] at hw
  exact hop_faults (exec_swld s) hh (if_pos hw)

theorem pldw_outside (hh : Hopping s h 0 1 none) {w : BitVec 4} (hw : 4 * pPlen h.img ≤ w.toNat) :
    exec (.pldw w) s = .next (parked s h 0x46) := hop_faults (exec_pldw w s) hh (if_pos hw)

theorem pstw_outside (hh : Hopping s h 1 0 none) {w : BitVec 4} (hw : 4 * pPlen h.img ≤ w.toNat) :
    exec (.pstw w) s = .next (parked s h 0x46) := by
  rw [← pPlen_less h 1] at hw
  exact hop_faults (exec_pstw w s) hh (if_pos hw)

end

/-! Mask bits and the stack (R273). -/

section
variable {i : Instr} {o : POp}

/-- An instruction whose mask bit is clear is refused. -/
theorem refused_without (hi : ∀ s, exec i s = runPrismOp o s) {b : Nat} (hb : o.need = some b) (s : State) (h : Hop)
    (here : curHop s = some h) (hm : cfgMask h.cfg b = false) : exec i s = .next (parked s h 0x42) :=
  hop_refused (hi s) here hb hm

/-- An instruction that finds its stack too short, or too full, faults. -/
theorem stack_faults (hi : ∀ s, exec i s = runPrismOp o s) (hn : o.need = none) {a b : Nat}
    (ha : o.pops = a) (hb : o.pushes = b)
    (s : State) (h : Hop) (here : curHop s = some h) (hd : pSdep h.img < a ∨ 8 < pSdep h.img - a + b) :
    exec i s = .next (parked s h 0x43) := by
  subst ha hb
  exact hop_stack (hi s) here hn hd

theorem binOp_stack {f : Word → Word → Word} (hi : ∀ s, exec i s = runPrismOp (binOp f) s) (s : State) (h : Hop)
    (here : curHop s = some h) (hd : pSdep h.img < 2 ∨ 8 < pSdep h.img - 2 + 1) : exec i s = .next (parked s h 0x43) :=
  stack_faults hi rfl rfl rfl s h here hd

end

/-- Settles O54: the mask and the stack for each instruction that needs them, then each instruction's own faults, and what
becomes of the packet. -/
theorem prismFaults : Obligations.PrismFaults := by
  refine ⟨fun m => ?_, fun v n c g t => ?_, fun s h => ctrld_outside, fun s h => ctradd_outside, fun s h => swld_outside,
    fun s h w hh => pldw_outside hh, fun s h w hh => pstw_outside hh,
    fun s h hh => ⟨fun hd => hop_faults (exec_fwd s) hh (forwardAct_refused [] hd),
      fun hd hl hm hb => hop_faults (exec_fwd s) hh (forwardAct_spent [] hd hl hm hb),
      fun code hb => hop_faults (exec_dlvr s) hh (deliverAct_barred (p := h.img) [] hb),
      fun d h6 hl hm hf => ⟨fun hc => hop_faults (exec_clone d s) hh (cloneAct_noClone [] h6 hl hm hf hc),
        fun hc hb => hop_faults (exec_clone d s) hh (cloneAct_noHop [] h6 hl hm hf hc hb)⟩⟩,
    fun s h fidx => ⟨fun hx => if_pos ⟨rfl, hx⟩, fun code hc => if_neg fun both => ?_⟩⟩
  · exact List.forall_iff_forall_mem.mp ⟨refused_without exec_ctrld rfl, refused_without exec_ctradd rfl,
      refused_without exec_swld rfl, refused_without exec_swadd rfl, refused_without exec_swcas rfl,
      refused_without (exec_dirmin m) rfl, refused_without (exec_dirminNa m) rfl⟩
  · exact List.forall_iff_forall_mem.mp ⟨stack_faults (exec_pshi v) rfl rfl rfl, stack_faults (exec_pshk n) rfl rfl rfl,
      stack_faults (exec_get c g) rfl rfl rfl, stack_faults exec_dup rfl rfl rfl, stack_faults exec_swap rfl rfl rfl,
      stack_faults exec_over rfl rfl rfl, binOp_stack fun _ => rfl, binOp_stack fun _ => rfl, binOp_stack fun _ => rfl,
      binOp_stack fun _ => rfl, binOp_stack fun _ => rfl, binOp_stack fun _ => rfl, binOp_stack fun _ => rfl,
      binOp_stack (f := cmpVal c.toNat) fun _ => rfl,
      stack_faults (exec_popk n) rfl rfl rfl, stack_faults exec_drops rfl rfl rfl, stack_faults (exec_brz t) rfl rfl rfl,
      stack_faults (exec_brnz t) rfl rfl rfl, stack_faults exec_dirsetStack rfl rfl rfl,
      stack_faults exec_dirtoStack rfl rfl rfl, stack_faults (exec_pldw t) rfl rfl rfl,
      stack_faults (exec_pstw t) rfl rfl rfl⟩
  · obtain ⟨hops, exh⟩ := both
    rcases hc with other | clear
    · exact other hops
    · rw [clear] at exh
      exact Bool.false_ne_true exh

end Sys2Proof.Machine
end

section
/-! PROOFS. Contexts and deliveries of the router (R271, R283, R294): what is read of a context, a tenant and a counter
after each step. -/

namespace Sys2Proof.Machine

open Sys2Proof.Claims

/-! Contexts (R271). -/

/-- A list of deliveries one of which is changed, as far as that one is there. -/
theorem find_map_key {l : List (Nat × Hop)} {k : Nat} (hl : (l.find? fun e => e.1 == k).isSome = true) (h : Hop) :
    ((l.map fun e => if e.1 == k then (k, h) else e).find? fun e => e.1 == k) = some (k, h) := by
  induction l with
  | nil => cases hl
  | cons x r ih =>
    cases hx : x.1 == k with
    | true => rw [List.map_cons, if_pos hx, List.find?_cons, beq_self_eq_true]
    | false =>
      rw [List.find?_cons, hx] at hl
      rw [List.map_cons, if_neg (Bool.eq_false_iff.mp hx), List.find?_cons, hx]
      exact ih hl

/-- A context that holds a packet, or is one of the eight, holds what is put there. -/
theorem hopOf_putHop {s : State} {n k : Nat} (here : k < 8 ∨ (hopOf (nd s n) k).isSome = true) (h : Hop) :
    hopOf (nd (putHop s n k h) n) k = some h := by
  rw [putHop, nd_modNd_same]
  by_cases hk : k < 8
  · rw [if_pos hk, hopOf, if_pos hk]
    exact smGet_smPut_same ..
  · have there := here.resolve_left hk
    rw [hopOf, if_neg hk, Option.isSome_map] at there
    rw [if_neg hk, hopOf, if_neg hk]
    exact congrArg (Option.map _) (find_map_key there h)

/-- A context that is ended holds nothing. -/
theorem hopOf_endHop {s : State} {n k : Nat} (wf : smWf none (nd s n).hops = true) : hopOf (nd (endHop s n k) n) k = none := by
  rw [endHop, nd_modNd_same]
  by_cases hk : k < 8
  · rw [if_pos hk, hopOf, if_pos hk]
    exact smGet_smDel_same wf k
  · rw [if_neg hk, hopOf, if_neg hk, Option.map_eq_none_iff, List.find?_eq_none]
    intro e he
    simpa using (List.mem_filter.mp he).2

/-- A node but for its contexts. -/
def contextRest (d : Node) : Node := { d with hops := [], dataDel := [] }

section
variable {α : Type} {f : Node → α}

theorem putHop_keeps (hf : ∀ d, f (contextRest d) = f d) (s : State) (n k : Nat) (h : Hop) : Keeps f s (putHop s n k h) := by
  refine .under hf s n ?_
  split <;> rfl

theorem endHop_keeps (hf : ∀ d, f (contextRest d) = f d) (s : State) (n k : Nat) : Keeps f s (endHop s n k) := by
  refine .under hf s n ?_
  split <;> rfl

/-- A record is written at the homes of its lines (R286). -/
theorem writeRecord_keeps (hf : SeesNoHome f) (s : State) (n a : Nat) (r : BitVec 4096) : Keeps f s (writeRecord s n a r) := by
  refine .foldl _ (fun s k => ?_) _ s
  dsimp only
  split
  · exact .refl s
  · exact (touchUncharged_keeps hf.port ..).trans (homeWrite_keeps hf ..)

theorem modTrt_keeps (hf : ∀ d l, f { d with trt := l } = f d) (s : State) (n t : Nat) (u : TenantRt → TenantRt) :
    Keeps f s (modTrt s n t u) := .modNd s n (hf _ _)

end

theorem trtOf_modTrt (s : State) (n t : Nat) (u : TenantRt → TenantRt) :
    trtOf (nd (modTrt s n t u) n) t = u (trtOf (nd s n) t) := by
  rw [modTrt, nd_modNd_same, trtOf, smGet_smPut_same]

/-! Deliveries (R283). -/

section
variable {s : State} {n k : Nat} {h : Hop}

theorem exec_deliveryReserve (n k : Nat) (s : State) : exec (.deliveryReserve n k) s = execDeliveryReserve n k s := rfl
theorem exec_deliveryCountAdvance (n k : Nat) (s : State) :
    exec (.deliveryCountAdvance n k) s = execDeliveryCountAdvance n k s := rfl
theorem exec_deliveryTimeout (n k : Nat) (s : State) : exec (.deliveryTimeout n k) s = execDeliveryTimeout n k s := rfl
theorem exec_dataDelivery (n : Nat) (p : PImage) (arr : Nat) (s : State) :
    exec (.dataDelivery n p arr) s = .next (deliverData s n p arr) := rfl

/-- A slot that is reserved: the tenant's RES goes on, and the context waits for its record. -/
theorem reserveSlot_reads (here : hopOf (nd s n) k = some h) :
    let p := resOf (nd s n) h.cfg (pTenant h.img)
    (trtOf (nd (reserveSlot s n k h) n) (pTenant h.img)).res = some (p + 1).toNat
      ∧ hopOf (nd (reserveSlot s n k h) n) k
          = some { h with stage := 2, slot := p.toNat, ready := s.now + Config.latNear } := by
  intro p
  obtain ⟨w, hw⟩ : ∃ w, w = writeRecord (modTrt s n (pTenant h.img) fun r => { r with res := some (p + 1).toNat }) n
      (dBase h.cfg + 512 * (p.toNat % dCnt h.cfg))
      (packetRecord (setDir h.img 6) (gsc (modTrt s n (pTenant h.img) fun r => { r with res := some (p + 1).toNat }) n)
        h.arr h.steps) :=
    ⟨_, rfl⟩
  have reserved : reserveSlot s n k h
      = schedule (putHop w n k { h with stage := 2, slot := p.toNat, ready := w.now + Config.latNear })
      Config.latNear (.deliveryCountAdvance n k) := by rw [hw]; rfl
  have context : Keeps (fun d => hopOf d k) s w :=
    hw ▸ (modTrt_keeps (fun _ _ => rfl) ..).trans (writeRecord_keeps (fun _ => rfl) ..)
  have tenant : Keeps (fun d => trtOf d (pTenant h.img))
      (modTrt s n (pTenant h.img) fun r => { r with res := some (p + 1).toNat })
      (reserveSlot s n k h) := by
    rw [reserved]
    exact (hw ▸ writeRecord_keeps (fun _ => rfl) ..).trans ((putHop_keeps (fun _ => rfl) ..).trans (.schedule ..))
  refine ⟨?_, ?_⟩
  · rw [tenant.nodes n, trtOf_modTrt]
  · rw [reserved, nd_schedule, hopOf_putHop (.inr ?_), context.now]
    rw [context.nodes n, here]
    rfl

section
variable (here : hopOf (nd s n) k = some h)
include here

theorem exec_deliveryReserve_goes (h1 : h.stage = 1) (hr : ringRoom (nd s n) h = true) :
    exec (.deliveryReserve n k) s = .next (reserveSlot s n k h) := by
  rw [exec_deliveryReserve, execDeliveryReserve, here]
  simp only [h1, hr, and_self, if_true]

theorem exec_deliveryReserve_waits (hr : ringRoom (nd s n) h = false) : exec (.deliveryReserve n k) s = .next s := by
  rw [exec_deliveryReserve, execDeliveryReserve, here]
  simp only [hr, Bool.false_eq_true, and_false, if_false]

theorem exec_deliveryTimeout_drops (h1 : h.stage = 1) (ht : h.until_ < frameOf s n) :
    exec (.deliveryTimeout n k) s = .next (sendNotice (endHop s n k) n h.img true) := by
  rw [exec_deliveryTimeout, execDeliveryTimeout, here]
  simp only [h1, ht, and_self, if_true]

theorem exec_deliveryTimeout_waits (ht : frameOf s n ≤ h.until_) : exec (.deliveryTimeout n k) s = .next s := by
  rw [exec_deliveryTimeout, execDeliveryTimeout, here]
  simp only [ht.not_gt, and_false, if_false]

end

/-- The state in which a delivery is counted and its context free (R283). -/
def deliveryCounted (s : State) (n k : Nat) (h : Hop) : State :=
  setCtr (endHop s n k) n (prodCtr h.cfg) (BitVec.ofNat 64 h.slot + 1)

/-- Where no change waits for the deliveries of a tenant, its RES alone is given up. -/
theorem flushWaiting_empty {t i : Nat} (hw : (trtOf (nd s n) t).waiting = []) :
    flushWaiting s n t i = modTrt s n t fun r => { r with res := none, waiting := [] } := by
  rw [flushWaiting, hw]
  rfl

section
variable (here : hopOf (nd s n) k = some h)
include here

theorem exec_deliveryCountAdvance_waits (hd : advanceDue s n h = false) : exec (.deliveryCountAdvance n k) s = .next s := by
  rw [exec_deliveryCountAdvance, execDeliveryCountAdvance, here]
  simp only [hd, Bool.not_false, if_true]

theorem exec_deliveryCountAdvance_counts (hd : advanceDue s n h = true) (hw : (trtOf (nd s n) (pTenant h.img)).waiting = []) :
    ∃ y, exec (.deliveryCountAdvance n k) s = .next y
      ∧ ∀ {α : Type} {f : Node → α}, (∀ d l, f { d with trt := l } = f d) →
          Keeps f (deliveryCounted s n k h) y := by
  have waiting : (trtOf (nd (deliveryCounted s n k h) n) (pTenant h.img)).waiting = [] := by
    have tenant : Keeps (fun d => trtOf d (pTenant h.img)) s (deliveryCounted s n k h) :=
      (endHop_keeps (fun _ => rfl) ..).trans (setCtr_keeps (fun _ => rfl) ..)
    rw [tenant.nodes n, hw]
  rw [exec_deliveryCountAdvance, execDeliveryCountAdvance, here]
  simp only [hd, Bool.not_true, Bool.false_eq_true, if_false]
  refine ⟨_, rfl, fun hf => ?_⟩
  split
  · refine Eq.mpr (congrArg (Keeps _ _) (flushWaiting_empty waiting)) ?_
    exact modTrt_keeps hf ..
  · exact .refl _

end

/-- A delivery that is counted: its produced count is the slot's number plus 1, and its context is free. -/
theorem deliveryCounted_reads (hc : smWf 0 (nd s n).counters = true) (hh : smWf none (nd s n).hops = true) :
    ctrAt (nd (deliveryCounted s n k h) n) (prodCtr h.cfg) = BitVec.ofNat 64 h.slot + 1
      ∧ hopOf (nd (deliveryCounted s n k h) n) k = none := by
  have counters : Keeps Node.counters s (endHop s n k) := endHop_keeps (fun _ => rfl) ..
  have contexts : Keeps (fun d => hopOf d k) (endHop s n k) (deliveryCounted s n k h) := setCtr_keeps (fun _ => rfl) ..
  refine ⟨ctrAt_setCtr ?_ _ _, (contexts.nodes n).trans (hopOf_endHop hh)⟩
  rw [counters.nodes n]
  exact hc

end

/-! DATA packets (R294). -/

section
variable {s : State} {n : Nat} {p : PImage} (arr : Nat)

theorem exec_dataDelivery_barred (hb : deliveryBar (prismCfg (nd s n) (pTenant p)) ≠ none) :
    exec (.dataDelivery n p arr) s = .next (sendNotice s n p true) := by
  obtain ⟨code, hc⟩ := Option.ne_none_iff_exists'.mp hb
  rw [exec_dataDelivery, deliverData]
  simp only [hc]

/-- The delivery that a DATA packet begins: it waits for room until the next frame has ended. -/
def dataHop (s : State) (n : Nat) (p : PImage) (arr : Nat) : Hop :=
  ⟨p, 0, 0, 0, 0, arr, 1, 0, frameOf s n + 1, 0, prismCfg (nd s n) (pTenant p)⟩

theorem deliverData_delivers (hb : deliveryBar (prismCfg (nd s n) (pTenant p)) = none) :
    hopOf (nd (deliverData s n p arr) n) (8 + (nd s n).nextDel) = some (dataHop s n p arr) := by
  obtain ⟨z, hz⟩ : ∃ z, z = modNd s n fun d =>
      { d with dataDel := d.dataDel ++ [(8 + (nd s n).nextDel, { dataHop s n p arr with until_ := 0 })],
               nextDel := d.nextDel + 1 } := ⟨_, rfl⟩
  have frame : frameOf z n = frameOf s n := by rw [frameOf, frameOf, gsc, gsc, hz, nd_modNd_same]; rfl
  have begun : deliverData s n p arr = beginDelivery z n (8 + (nd s n).nextDel) { dataHop s n p arr with until_ := 0 } := by
    rw [hz, deliverData]
    simp only [hb]
    rfl
  have waits : deliverData s n p arr = putHop z n (8 + (nd s n).nextDel) (dataHop s n p arr) := by
    rw [begun, beginDelivery, frame]
    rfl
  rw [waits, hopOf_putHop (.inr ?_)]
  rw [hz, nd_modNd_same, hopOf, if_neg (by omega), Option.isSome_map, List.find?_isSome]
  exact ⟨_, List.mem_append_right _ List.mem_cons_self, beq_self_eq_true _⟩

end

end Sys2Proof.Machine
end

section
/-! PROOFS. The router between packets (R271, R287, R314), the instruction that a hop executes (R272, R273), and what O50 claims
in all. -/

namespace Sys2Proof.Machine

open Sys2Proof.Claims

/-- A program packet that arrives waits behind the others (R271). -/
theorem progArrive_reads (s : State) (n : Nat) (p : PImage) (arr : Nat) (idx : Option Nat) (via : Nat) :
    (nd (progArrive s n p arr idx via) n).arrivals = (nd s n).arrivals ++ [⟨p, arr, idx, s.now, via⟩]
      ∧ (nd (progArrive s n p arr idx via) n).hops = (nd s n).hops := by
  rw [progArrive, nd_modNd_same]
  exact ⟨rfl, rfl⟩

/-! Notices and acknowledgements (R287, R314). -/

theorem exec_notice (n t i : Nat) (drop : Bool) (s : State) :
    exec (.notice n t i drop) s = .next (applyNotice s n t i drop) := rfl
theorem exec_ackReceive (n m b g : Nat) (s : State) : exec (.ackReceive n m b g) s = execAckReceive n m b g s := rfl

section
variable {s : State} {n t i : Nat} (drop : Bool)

theorem exec_notice_lost (hi : cwLen (prismCfg (nd s n) t) ≤ i) : exec (.notice n t i drop) s = .next (addLost s n t) := by
  rw [exec_notice, applyNotice]
  simp only [hi, if_true]

theorem exec_notice_counts (hi : i < cwLen (prismCfg (nd s n) t)) :
    exec (.notice n t i drop) s
      = .next (addCtr s n (cwBase (prismCfg (nd s n) t) + i) (if drop then 0x100000000 else 1)) := by
  rw [exec_notice, applyNotice]
  simp only [hi.not_ge, if_false]

/-- A lost notice is counted as far as the count goes (R451). -/
theorem addLost_reads (s : State) (n t : Nat) :
    (nd (addLost s n t) n).counters = (nd s n).counters
      ∧ (trtOf (nd (addLost s n t) n) t).lost.toNat = min ((trtOf (nd s n) t).lost.toNat + 1) (2 ^ 64 - 1) := by
  refine ⟨(modTrt_keeps (f := Node.counters) (fun _ _ => rfl) ..).nodes n, ?_⟩
  rw [addLost, trtOf_modTrt]
  dsimp only
  rw [satAdd, BitVec.toNat_ofNat, Nat.mod_eq_of_lt (by omega)]

end

/-- Nodes that a change leaves alike make the same state. -/
theorem modNd_congr {s : State} {n : Nat} {u v : Node → Node} (h : u (nd s n) = v (nd s n)) : modNd s n u = modNd s n v := by
  rw [modNd, h, modNd]

/-- The window toward a node after an acknowledgement (R314): what is outstanding shrinks, and once a round trip it is set. -/
def windowAcked (w : CWin) (b g now : Nat) : CWin :=
  if w.last = 0 ∨ w.last < g then { w with out := w.out - b, w := windowAfter w.w (now - g), last := now }
  else { w with out := w.out - b }

theorem exec_ackReceive_eq (n m b g : Nat) (s : State) :
    exec (.ackReceive n m b g) s
      = .next (modNd s n fun d => { d with cwin := smPut d.cwin m (windowAcked (cwinOf (nd s n) m) b g (gsc s n)) }) := by
  rw [exec_ackReceive, execAckReceive]
  refine congrArg _ (modNd_congr ?_)
  rfl

/-- The window toward a node is open to relaxed bytes that it has room for, and to any where nothing is outstanding. -/
theorem cwinOpen_iff (d : Node) (n m b : Nat) :
    cwinOpen d n m b true = true ↔ n = m ∨ (cwinOf d m).out = 0 ∨ (cwinOf d m).out + b ≤ (cwinOf d m).w := by
  simp [cwinOpen]

/-! Hops (R272, R273). -/

theorem exec_progHop (n k : Nat) (s : State) : exec (.progHop n k) s = execProgHop n k s := rfl

/-- Whatever a prism instruction does, the machine goes on. -/
theorem runPrismOp_next (o : POp) (s : State) : ∃ t, runPrismOp o s = .next t := by
  cases here : curHop s with
  | none => exact ⟨s, by rw [runPrismOp, here]⟩
  | some h =>
    rw [runPrismOp_eq here]
    split
    · exact ⟨_, rfl⟩
    · split
      · exact ⟨_, rfl⟩
      · cases o.act (chargeStep s h) (stepping h) (popMany o.pops h.img).1 (less h o.pops) <;> exact ⟨_, rfl⟩

theorem runPrism_next {u : BitVec 16} {i : Instr} (h : decodePrism u = some i) (s : State) : ∃ t, runPrism i s = .next t := by
  unfold decodePrism prismRow at h
  repeat
    rcases either_of_ite h with h | h
    · cases h; dsimp only [runPrism]; exact runPrismOp_next _ s
  cases h

/-- The state in which a context moves. -/
def inContext (s : State) (n k : Nat) : State := { s with cur := { s.cur with node := n, ctx := k } }

/-- A hop with its tenant's block, read as it starts (R272). -/
def withBlock (s : State) (n : Nat) (h : Hop) : Hop :=
  if h.cfg = [] then { h with cfg := prismCfg (nd s n) (pTenant h.img) } else h

section
variable {s : State} {n k : Nat}

theorem exec_progHop_free (h : hopOf (nd s n) k = none) : exec (.progHop n k) s = .next (inContext s n k) := by
  have free : curHop (inContext s n k) = none := h
  rw [exec_progHop, execProgHop]
  unfold inContext at free ⊢
  simp only [free]

/-- A context that moves, with its tenant's block read. -/
def hopStarted (s : State) (n k : Nat) (h0 : Hop) : State := putHop (inContext s n k) n k (withBlock s n h0)

/-- The instruction at a hop's index, decoded from the packet's own bytes, runs (R272). -/
def fetchOutcome (y : State) (h : Hop) : Out :=
  match decodePrism (pInstr h.img h.pc) with
  | some i => runPrism i y
  | none => .next y

theorem fetchOutcome_runs {y : State} {h : Hop} {i : Instr} (hd : decodePrism (pInstr h.img h.pc) = some i) :
    ∃ t, fetchOutcome y h = .next t ∧ exec i y = .next t := by
  obtain ⟨t, ran⟩ := runPrism_next hd y
  refine ⟨t, ?_, (runPrism_eq_exec hd y).symm.trans ran⟩
  rw [fetchOutcome, hd]
  exact ran

variable {h0 : Hop} (here : hopOf (nd s n) k = some h0)
include here

/-- A hop stands still while it delivers, is parked past its last instruction or after 32 steps, and else executes. -/
theorem exec_progHop_eq :
    exec (.progHop n k) s
      = if (withBlock s n h0).stage ≠ 0 then .next (hopStarted s n k h0)
        else if pNim1 (withBlock s n h0).img < (withBlock s n h0).pc then
          .next (parkHop (hopStarted s n k h0) (withBlock s n h0) 0x44 (withBlock s n h0).prev)
        else if 32 ≤ (withBlock s n h0).steps then
          .next (parkHop (hopStarted s n k h0) (withBlock s n h0) 0x41 (withBlock s n h0).pc)
        else fetchOutcome (hopStarted s n k h0) (withBlock s n h0) := by
  have cur : curHop (inContext s n k) = some h0 := here
  have block : (if h0.cfg.isEmpty then { h0 with cfg := prismCfg (nd (inContext s n k) n) (pTenant h0.img) } else h0)
      = withBlock s n h0 := by
    rw [withBlock]
    simp only [List.isEmpty_iff]
    rfl
  unfold hopStarted fetchOutcome
  rw [exec_progHop, execProgHop]
  unfold inContext at cur block ⊢
  simp only [cur, block] <;> rfl

theorem curHop_hopStarted : curHop (hopStarted s n k h0) = some (withBlock s n h0) := by
  refine hopOf_putHop (s := inContext s n k) (.inr ?_) _
  exact Option.isSome_iff_exists.mpr ⟨h0, here⟩

end

/-- Settles O50: what the router does between packets, one by one; then which instruction a hop executes. -/
theorem router : Obligations.Router := by
  refine ⟨⟨fun s n p arr idx => ⟨_, rfl, progArrive_reads ..⟩,
      fun s n t i drop => ⟨fun hi => ⟨_, exec_notice_lost drop hi, addLost_reads s n t⟩, exec_notice_counts drop⟩,
      fun s n k h here h1 => ⟨fun hr => ⟨_, exec_deliveryReserve_goes here h1 hr, reserveSlot_reads here⟩,
        exec_deliveryReserve_waits here, exec_deliveryTimeout_drops here h1, exec_deliveryTimeout_waits here⟩,
      fun s n k h here => ⟨exec_deliveryCountAdvance_waits here, fun hd hw hc hh => ?_⟩,
      fun s n p arr => ⟨exec_dataDelivery_barred arr, fun hb =>
        ⟨_, _, exec_dataDelivery .., deliverData_delivers arr hb, rfl, rfl, rfl, rfl⟩⟩,
      fun s n m b g => ⟨exec_ackReceive_eq n m b g s, cwinOpen_iff _ n m b⟩⟩,
    fun s n k => ⟨exec_progHop_free, fun h0 here =>
      ⟨fun hs => ?_, fun hs hp => ?_, fun hs hp hn => ?_, fun i hs hp hn hd => ?_⟩⟩⟩
  · obtain ⟨y, hy, kept⟩ := exec_deliveryCountAdvance_counts here hd hw
    obtain ⟨count, free⟩ := deliveryCounted_reads (h := h) hc hh
    have counter : Keeps (fun d => ctrAt d (prodCtr h.cfg)) (deliveryCounted s n k h) y := kept fun _ _ => rfl
    have context : Keeps (fun d => hopOf d k) (deliveryCounted s n k h) y := kept fun _ _ => rfl
    exact ⟨y, hy, (counter.nodes n).trans count, (context.nodes n).trans free⟩
  · exact (exec_progHop_eq here).trans (if_pos hs)
  · exact (exec_progHop_eq here).trans ((if_neg (not_not.mpr hs)).trans (if_pos hp))
  · exact (exec_progHop_eq here).trans ((if_neg (not_not.mpr hs)).trans ((if_neg hp.not_gt).trans (if_pos hn)))
  · obtain ⟨t, fetched, ran⟩ := fetchOutcome_runs (y := hopStarted s n k h0) hd
    exact ⟨curHop_hopStarted here, t, (exec_progHop_eq here).trans ((if_neg (not_not.mpr hs)).trans
      ((if_neg hp.not_gt).trans ((if_neg hn.not_ge).trans fetched))), ran⟩

end Sys2Proof.Machine
end

section
/-! PROOFS. The packet instructions (R292, R293, R298): what PBUILD stamps, what their checks refuse, and what a queued packet
carries. -/

namespace Sys2Proof.Machine

open Sys2Proof.Claims

/-! A register that names scratchpad bytes. -/

theorem exec_pbuild (f : FE) (s : State) : exec (.pbuild f) s = execPbuild f s := rfl
theorem exec_psend (f : FE) (s : State) : exec (.psend f) s = execPsend f s := rfl
theorem exec_presume (f : FE) (s : State) : exec (.presume f) s = execPresume f s := rfl

/-- No bit of a number stands above those it fits. -/
theorem not_fld_above {x : Word} {k : Nat} (h : x.toNat < 2 ^ k) : ¬ fld x 63 k ≠ 0 :=
  not_not.mpr ((fld_from_zero x rfl).mpr h)

/-! PBUILD: the packet and its slot (R292). -/

section
variable (s : State) (p : PImage) (dhint : Nat) (k0 : Word)

/-- The fields that PBUILD clears lie outside those it stamps. -/
theorem fld_buildPacket {hi lo : Nat} (hn : hi < 2304) (h : hi < 82 ∨ 82 < lo ∧ hi < 112 ∨ 159 < lo) :
    fld (buildPacket s p dhint k0) hi lo = fld (stampSender s (setK (putFld p 179 168 dhint) 0 k0)) hi lo := by
  unfold buildPacket
  dsimp only
  rw [fld_putFld_apart _ _ hn (by omega), fld_putFld_apart _ _ hn (by omega), fld_putFld_apart _ _ hn (by omega),
    fld_putFld_apart _ _ hn (by omega), fld_putFld_apart _ _ hn (by omega), fld_putFld_apart _ _ hn (by omega)]

theorem pSrcn_stampSender : pSrcn (stampSender s p) = s.cur.node % 2 ^ 12 := by
  unfold stampSender pSrcn
  dsimp only
  rw [fld_putFld_apart _ _ (by decide) (by decide), fld_putFld_apart _ _ (by decide) (by decide),
    fld_putFld_same _ _ (by decide)]

theorem pTenant_stampSender : pTenant (stampSender s p) = tenantOf (cc s) % 64 := by
  unfold stampSender pTenant
  dsimp only
  rw [fld_putFld_apart _ _ (by decide) (by decide), fld_putFld_apart _ _ (by decide) (by decide),
    fld_putFld_apart _ _ (by decide) (by decide), fld_putFld_same _ _ (by decide)]
  rfl

/-- The sender's stamp leaves what lies outside its fields. -/
theorem fld_stampSender {hi lo : Nat} (hn : hi < 2304) (h : 167 < lo ∧ hi < 180 ∨ 191 < lo) :
    fld (stampSender s p) hi lo = fld p hi lo := by
  unfold stampSender
  dsimp only
  rw [fld_putFld_apart _ _ hn (by omega), fld_putFld_apart _ _ hn (by omega), fld_putFld_apart _ _ hn (by omega),
    fld_putFld_apart _ _ hn (by omega)]

theorem pSrcn_buildPacket : pSrcn (buildPacket s p dhint k0) = s.cur.node % 2 ^ 12 :=
  (fld_buildPacket s p dhint k0 (by decide) (by decide)).trans (pSrcn_stampSender ..)

theorem pTenant_buildPacket : pTenant (buildPacket s p dhint k0) = tenantOf (cc s) % 64 :=
  (fld_buildPacket s p dhint k0 (by decide) (by decide)).trans (pTenant_stampSender ..)

theorem pDhint_buildPacket (h : dhint < 2 ^ 12) : pDhint (buildPacket s p dhint k0) = dhint := by
  rw [pDhint, fld_buildPacket s p dhint k0 (by decide) (by decide), fld_stampSender _ _ (by decide) (by decide), setK,
    fld_putFld_apart _ _ (by decide) (by decide), fld_putFld_same _ _ (by decide), Nat.mod_eq_of_lt h]

theorem pK_buildPacket : pK (buildPacket s p dhint k0) 0 = k0 := by
  rw [pK, fld_buildPacket s p dhint k0 (by decide) (by decide), fld_stampSender _ _ (by decide) (by decide), setK,
    fld_putFld_same _ _ (by decide)]
  exact BitVec.eq_of_toNat_eq (by rw [BitVec.toNat_ofNat, Nat.mod_mod, Nat.mod_eq_of_lt k0.isLt])

end

theorem freeSlot_issueCore (k : Core) : freeSlot (issueCore k) = freeSlot k := rfl

section
variable {f : FE} {s : State} {o v i : Nat} (h : CanIssueE s f [.ctrl] [f.a, f.b, f.d] 1)
  (ho : spadOff (reg s f.a) 32 = some o) (hd : (reg s f.d).toNat < 2 ^ 12)
include h ho hd

theorem exec_pbuild_goes (hv : spadTake s o 288 = .inr v) (hi : freeSlot (cc s) = some i) :
    exec (.pbuild f) s
      = .next (flyReg (modCc (begunE s f) fun k =>
          putSlot k i (.built (buildPacket s (BitVec.ofNat 2304 v) (reg s f.d).toNat (reg s f.b))))
          f.d (BitVec.ofNat 64 i) 2 (pushKey s f.tk) f.sig) := by
  have same := same_begunE s f
  have slots : freeSlot (cc (begunE s f)) = some i := by
    rw [← freeSlot_issueCore, (begunE_keeps s f).issueCore, freeSlot_issueCore, hi]
  rw [exec_pbuild, execPbuild]
  refine (runOp_of_canIssue (s' := s) (x := buildPacket s (BitVec.ofNat 2304 v) (reg s f.d).toNat (reg s f.b)) h.issue
    (decodeFault_none rfl (.inr h.task) h.issue.taken rfl) ?_ (show (freeSlot (cc s)).isSome = true by rw [hi]; rfl)).trans ?_
  · dsimp only
    rw [ho]
    dsimp only
    rw [if_neg (not_fld_above hd), hv, fld_low (reg s f.d) hd]
  · rw [takeIssue_begunE _ s f rfl rfl rfl rfl rfl rfl]
    dsimp only
    rw [slots, ← pushKey_congr same.cur]

theorem exec_pbuild_faults {code : Nat} (hv : spadTake s o 288 = .inl code) :
    exec (.pbuild f) s = .next (takeTrap s s.cur.node s.cur.core (causeAt s code (BitVec.ofNat 64 o))) := by
  rw [exec_pbuild, execPbuild]
  refine runOp_fault_of_canIssue (s' := s) h.issue (decodeFault_none rfl (.inr h.task) h.issue.taken rfl) ?_
  dsimp only
  rw [ho]
  dsimp only
  rw [if_neg (not_fld_above hd), hv]

theorem exec_pbuild_waits (hv : spadTake s o 288 = .inr v) (hi : freeSlot (cc s) = none) :
    exec (.pbuild f) s = .next (setBlocked s) := by
  rw [exec_pbuild, execPbuild]
  refine runOp_full_of_canIssue (s' := s) (x := buildPacket s (BitVec.ofNat 2304 v) (fld (reg s f.d) 11 0) (reg s f.b)) h.issue
    (decodeFault_none rfl (.inr h.task) h.issue.taken rfl) ?_ (show (freeSlot (cc s)).isSome = false by rw [hi]; rfl)
  dsimp only
  rw [ho]
  dsimp only
  rw [if_neg (not_fld_above hd), hv]

end

/-! PSEND (R293). -/

section
variable {f : FE} {s : State} (h : CanIssueE s f [.ctrl] [f.a] 1)
include h

theorem exec_psend_beyond (hv : 8 ≤ (reg s f.a).toNat) :
    exec (.psend f) s = .next (takeTrap s s.cur.node s.cur.core (causeHere s codeIllegal)) := by
  rw [exec_psend, execPsend]
  exact runOp_fault_of_canIssue h.issue (decodeFault_none rfl (.inr h.task) h.issue.taken rfl) (if_pos hv)

theorem exec_psend_unbuilt (hv : (reg s f.a).toNat < 8) (hs : ∀ p, slotOf (cc s) (reg s f.a).toNat ≠ .built p) :
    exec (.psend f) s = .next (takeTrap s s.cur.node s.cur.core (causeHere s codeIllegal)) := by
  rw [exec_psend, execPsend]
  refine runOp_fault_of_canIssue (s' := s) h.issue (decodeFault_none rfl (.inr h.task) h.issue.taken rfl) ?_
  dsimp only
  rw [if_neg hv.not_ge]
  cases slot : slotOf (cc s) (reg s f.a).toNat with
  | built p => exact absurd slot (hs p)
  | free => rfl
  | queued p => rfl

section
variable {p : PImage} (hv : (reg s f.a).toNat < 8) (hs : slotOf (cc s) (reg s f.a).toNat = .built p)
include hv hs

theorem exec_psend_illegal (hl : packetLegal s p = false) :
    exec (.psend f) s = .next (takeTrap s s.cur.node s.cur.core (causeHere s codeIllegal)) := by
  rw [exec_psend, execPsend]
  refine runOp_fault_of_canIssue (s' := s) h.issue (decodeFault_none rfl (.inr h.task) h.issue.taken rfl) ?_
  dsimp only
  rw [if_neg hv.not_ge, hs]
  dsimp only
  rw [hl, if_pos (show (!false) = true from rfl)]

section
variable (hl : packetLegal s p = true)
include hl

theorem exec_psend_forbidden (hp : pType p = 0 ∧ cfgMask (prismCfg (cn s) (tenantOf (cc s))) 7 = false) :
    exec (.psend f) s = .next (takeTrap s s.cur.node s.cur.core (causeHere s codePerm)) := by
  rw [exec_psend, execPsend]
  refine runOp_fault_of_canIssue (s' := s) h.issue (decodeFault_none rfl (.inr h.task) h.issue.taken rfl) ?_
  dsimp only
  rw [if_neg hv.not_ge, hs]
  dsimp only
  rw [hl, if_neg (by decide), if_pos ⟨hp.1, by rw [hp.2]; rfl⟩]

section
variable (hp : ¬(pType p = 0 ∧ cfgMask (prismCfg (cn s) (tenantOf (cc s))) 7 = false))
include hp

theorem exec_psend_goes (hq : (cc s).pq.length < 16) :
    exec (.psend f) s = .next (queuePacket f p (some (reg s f.a).toNat) none (pastE s f)) := by
  rw [exec_psend, execPsend]
  refine (runOp_of_canIssue (s' := s) (x := ((reg s f.a).toNat, p)) h.issue
    (decodeFault_none rfl (.inr h.task) h.issue.taken rfl) ?_ (decide_eq_true hq)).trans ?_
  · dsimp only
    rw [if_neg hv.not_ge, hs]
    dsimp only
    rw [hl, if_neg (by decide), if_neg fun n => hp ⟨n.1, Bool.not_eq_true' _ ▸ n.2⟩]
  · rw [takeIssue_pastE _ s f rfl rfl rfl rfl rfl rfl]

theorem exec_psend_waits (hq : 16 ≤ (cc s).pq.length) : exec (.psend f) s = .next (setBlocked s) := by
  rw [exec_psend, execPsend]
  refine runOp_full_of_canIssue (s' := s) (x := ((reg s f.a).toNat, p)) h.issue
    (decodeFault_none rfl (.inr h.task) h.issue.taken rfl) ?_ (decide_eq_false hq.not_gt)
  dsimp only
  rw [if_neg hv.not_ge, hs]
  dsimp only
  rw [hl, if_neg (by decide), if_neg fun n => hp ⟨n.1, Bool.not_eq_true' _ ▸ n.2⟩]

end
end
end
end

/-! PRESUME (R298). -/

section
variable {f : FE} {s : State} {o v arr : Nat} (h : CanIssueE s f [.ctrl] [f.a, f.b] 1)
  (ho : spadOff (reg s f.a) 32 = some o) (hb : (reg s f.b).toNat < 2 ^ 16) (hn : inTorus s (fld (reg s f.b) 11 0) = true)
  (hv : spadTake s o 288 = .inr v) (ha : spadTake s (o + 296) 1 = .inr arr)

/-- The packet that a record holds, stamped by its new sender and with its fields of the way cleared (R298). -/
def resumedPacket (s : State) (v : Nat) : PImage :=
  stampSender s (putFld (putFld (putFld (BitVec.ofNat 2304 v) 159 148 0) 147 140 0) 139 136 0)

include hb hn in
theorem presume_target : ¬(fld (reg s f.b) 63 16 ≠ 0 ∨ (!inTorus s (fld (reg s f.b) 11 0)) = true) :=
  not_or.mpr ⟨not_fld_above hb, by rw [hn]; decide⟩

include h ho hb hn hv ha

theorem exec_presume_goes (hl : packetLegal s (resumedPacket s v) = true) (ht : pType (resumedPacket s v) = 1)
    (hq : (cc s).pq.length < 16) :
    exec (.presume f) s
      = .next (queuePacket f (resumedPacket s v) none (some (fld (reg s f.b) 11 0, fld (reg s f.b) 15 12, arr % 8))
          (pastE s f)) := by
  rw [exec_presume, execPresume]
  refine (runOp_of_canIssue (s' := s) (x := (resumedPacket s v, fld (reg s f.b) 11 0, fld (reg s f.b) 15 12, arr % 8)) h.issue
    (decodeFault_none rfl (.inr h.task) h.issue.taken rfl) ?_ (decide_eq_true hq)).trans ?_
  · dsimp only
    rw [ho]
    dsimp only
    rw [if_neg (presume_target hb hn), hv, ha]
    dsimp only
    rw [← resumedPacket, if_neg (not_or.mpr ⟨by rw [hl]; decide, not_not.mpr ht⟩)]
  · rw [takeIssue_pastE _ s f rfl rfl rfl rfl rfl rfl]

theorem exec_presume_illegal (hl : packetLegal s (resumedPacket s v) = false ∨ pType (resumedPacket s v) ≠ 1) :
    exec (.presume f) s = .next (takeTrap s s.cur.node s.cur.core (causeHere s codeIllegal)) := by
  rw [exec_presume, execPresume]
  refine runOp_fault_of_canIssue (s' := s) h.issue (decodeFault_none rfl (.inr h.task) h.issue.taken rfl) ?_
  dsimp only
  rw [ho]
  dsimp only
  rw [if_neg (presume_target hb hn), hv, ha]
  dsimp only
  rw [← resumedPacket, if_pos (hl.imp_left fun l => by rw [l]; rfl)]

end

/-! The packet queue (R293). -/

/-- Clearing stack entries leaves the header. -/
theorem fld_clearStack {hi lo : Nat} (h : hi < 512) (p : PImage) : fld (clearStack p) hi lo = fld p hi lo := by
  unfold clearStack
  generalize upFrom (pSdep p) (8 - pSdep p) = l
  induction l generalizing p with
  | nil => rfl
  | cons i l ih => exact (ih _).trans (fld_setStack p 0 i h)

theorem nextSeq_takeSeq_same (k : Core) (o : Bool) : nextSeq (takeSeq k o) o = nextSeq k o + 1 := by cases o <;> rfl
theorem nextSeq_takeSeq_other (k : Core) (o : Bool) : nextSeq (takeSeq k o) (!o) = nextSeq k (!o) := by cases o <;> rfl
theorem takeSeq_pq (k : Core) (o : Bool) : (takeSeq k o).pq = k.pq := by cases o <;> rfl

/-- A core with the entry of a packet in its queue, and its slot marked. -/
def coreQueued (e : PEntry) (ordered : Bool) (k : Core) : Core :=
  let k := takeSeq { k with pq := k.pq ++ [e] } ordered
  match e.slot with
  | some i => putSlot k i (.queued e.img)
  | none => k

theorem coreQueued_pq (e : PEntry) (o : Bool) (k : Core) : (coreQueued e o k).pq = k.pq ++ [e] := by
  unfold coreQueued
  cases e.slot <;> exact takeSeq_pq _ o

theorem nextSeq_coreQueued_same (e : PEntry) (o : Bool) (k : Core) : nextSeq (coreQueued e o k) o = nextSeq k o + 1 := by
  unfold coreQueued
  cases e.slot <;> exact nextSeq_takeSeq_same { k with pq := k.pq ++ [e] } o

theorem nextSeq_coreQueued_other (e : PEntry) (o : Bool) (k : Core) :
    nextSeq (coreQueued e o k) (!o) = nextSeq k (!o) := by
  unfold coreQueued
  cases e.slot <;> exact nextSeq_takeSeq_other { k with pq := k.pq ++ [e] } o

/-- The entry that a packet becomes: its number in its header, its stack cleared above SDEP. -/
def queuedEntry (f : FE) (p : PImage) (slot : Option Nat) (resume : Option (Nat × Nat × Nat)) (k : Core) : PEntry :=
  ⟨clearStack (putFld p 223 192 (nextSeq k (packetOrdered p)).toNat), slot, resume, none, f.sig, ginOf k, classOf k⟩

theorem queuePacket_eq (f : FE) (p : PImage) (i : Option Nat) (r : Option (Nat × Nat × Nat)) (s : State) :
    queuePacket f p i r s
      = flyReg (modCc s (coreQueued (queuedEntry f p i r (cc s)) (packetOrdered p))) f.d
          ((nextSeq (cc s) (packetOrdered p)).setWidth 64) 2 none 0 := by
  cases i <;> rfl

theorem seq_queuedEntry (f : FE) (p : PImage) (i : Option Nat) (r : Option (Nat × Nat × Nat)) (k : Core) :
    fld (queuedEntry f p i r k).img 223 192 = (nextSeq k (packetOrdered p)).toNat := by
  rw [queuedEntry, fld_clearStack (by decide), fld_putFld_same _ _ (by decide)]
  exact Nat.mod_eq_of_lt (nextSeq k (packetOrdered p)).isLt

/-- What is read of the core, but for what is in flight, is what the entry and its slot leave. -/
theorem queuePacket_core {α : Type} (f : FE) (p : PImage) (i : Option Nat) (r : Option (Nat × Nat × Nat)) (s : State)
    (g : Core → α) (hg : ∀ k, g (coreRest k) = g k) :
    g (cc (queuePacket f p i r s)) = g (coreQueued (queuedEntry f p i r (cc s)) (packetOrdered p) (cc s)) := by
  rw [queuePacket_eq, ← hg, (IssueFrame.flyReg ..).core g, cc_modCc, hg]

/-- What a queued packet carries, and the numbers of the channels after it. -/
theorem queuePacket_queued (f : FE) (p : PImage) (i : Option Nat) (r : Option (Nat × Nat × Nat)) (s : State) :
    ∃ e y, queuePacket f p i r s = y ∧ (cc y).pq = (cc s).pq ++ [e] ∧ e.slot = i ∧ e.resume = r
      ∧ fld e.img 223 192 = (nextSeq (cc s) (packetOrdered p)).toNat
      ∧ nextSeq (cc y) (packetOrdered p) = nextSeq (cc s) (packetOrdered p) + 1
      ∧ nextSeq (cc y) (!packetOrdered p) = nextSeq (cc s) (!packetOrdered p) := by
  have pq := queuePacket_core f p i r s (fun k => k.pq) fun _ => rfl
  have number (o : Bool) := queuePacket_core f p i r s (nextSeq · o) fun k => by cases o <;> rfl
  exact ⟨queuedEntry f p i r (cc s), _, rfl, pq.trans (coreQueued_pq ..), rfl, rfl, seq_queuedEntry ..,
    (number _).trans (nextSeq_coreQueued_same ..), (number _).trans (nextSeq_coreQueued_other ..)⟩

end Sys2Proof.Machine
end

section
/-! PROOFS. Park retrieval (R297): the request, its answer, and what a core that waits for it takes back. -/

namespace Sys2Proof.Machine

open Sys2Proof.Claims

theorem exec_pparkget (f : FE) (s : State) : exec (.pparkget f) s = execPparkget f s := rfl
theorem exec_parkgetRequest (n src c t : Nat) (s : State) :
    exec (.parkgetRequest n src c t) s = execParkgetRequest n src c t s := rfl
theorem exec_parkgetReply (n c k : Nat) (r : ParkRecord) (s : State) :
    exec (.parkgetReply n c k r) s = execParkgetReply n c k r s := rfl
theorem exec_pparkgetPeergone (n c : Nat) (s : State) : exec (.pparkgetPeergone n c) s = execPparkgetPeergone n c s := rfl

/-! The torus under an issue (R26). -/

@[simp] theorem clearFlags_torus (s : State) (m : BitVec 16) : (clearFlags s m).torus = s.torus := by
  unfold clearFlags
  split <;> rfl

@[simp] theorem popTok_torus (s : State) (f k : Nat) : (popTok s f k).torus = s.torus := by
  unfold popTok
  split <;> rfl

@[simp] theorem reserveTok_torus (s : State) (f k : Nat) : (reserveTok s f k).torus = s.torus := by
  unfold reserveTok
  split <;> rfl

@[simp] theorem pushLater_torus (s : State) (f k : Nat) : (pushLater s f k).torus = s.torus := by
  unfold pushLater
  split <;> rfl

theorem takeIssue_torus {α : Type} (o : Op α) (s : State) : (takeIssue o s).torus = s.torus := by
  unfold takeIssue
  dsimp only
  split <;> simp [takeTokens, retirePushes]

theorem inTorus_congr {s t : State} (h : t.torus = s.torus) (m : Nat) : inTorus t m = inTorus s m := by
  rw [inTorus, h, inTorus]

/-! PPARKGET. -/

theorem tenantOf_issueCore (k : Core) : tenantOf (issueCore k) = tenantOf k := rfl

/-- CTRL waiting for its answer, or for 10 frames without one. -/
def parkgetHeld (p : State) (f : FE) (o m : Nat) (pc : BitVec 28) : State :=
  schedule (modCs p fun q => { q with hold := .parkget f.d o m (backOf p f pc) }) peerTime
    (.pparkgetPeergone p.cur.node p.cur.core)

/-- And the request on its way. -/
def parkgetSent (p : State) (f : FE) (o m : Nat) (pc : BitVec 28) : State :=
  travel (parkgetHeld p f o m pc) p.cur.node m 32
    (.parkgetRequest m p.cur.node p.cur.core (tenantOf (cc (parkgetHeld p f o m pc))))

theorem parkgetHeld_keeps (p : State) (f : FE) (o m : Nat) (pc : BitVec 28) : Keeps issueView p (parkgetHeld p f o m pc) := by
  unfold parkgetHeld
  refine .trans ?_ (.schedule ..)
  exact .modSq_sees issueView_cores p _ _ _ fun _ _ _ => issueCore_putSeq ..

theorem hold_parkgetSent (p : State) (f : FE) (o m : Nat) (pc : BitVec 28) :
    (cs (parkgetSent p f o m pc)).hold = .parkget f.d o m (backOf p f pc) := by
  unfold parkgetSent
  rw [(travel_keeps (f := coresVia seqCore) (fun _ => rfl) ..).sameSeq]
  unfold parkgetHeld
  rw [(Keeps.schedule (f := coresVia seqCore) ..).sameSeq, cs_modCs]

section
variable {f : FE} {s : State} {o : Nat} (h : CanIssueE s f [.ctrl] [f.a, f.b] 0) (ho : spadOff (reg s f.a) 128 = some o)
  (hb : (reg s f.b).toNat < 2 ^ 12)
include h ho hb

theorem exec_pparkget_goes (hp : o + 512 ≤ (cc s).part * 8192) (hl : isLost s s.cur.node (reg s f.b).toNat = false)
    (ht : inTorus s (reg s f.b).toNat = true) :
    exec (.pparkget f) s = .next (parkgetSent (begunE s f) f o (reg s f.b).toNat (cs s).pc) := by
  have torus : (parkgetHeld (begunE s f) f o (reg s f.b).toNat (cs s).pc).torus = s.torus := takeIssue_torus ..
  rw [exec_pparkget, execPparkget]
  refine (runOp_of_canIssue (s' := s) (x := (o, (reg s f.b).toNat, (cs s).pc)) h.issue
    (decodeFault_none rfl (.inr h.task) h.issue.taken rfl) ?_ rfl).trans ?_
  · dsimp only
    rw [ho]
    dsimp only
    rw [if_neg (not_fld_above hb), if_neg hp.not_gt, fld_low (reg s f.b) hb, hl, if_neg (by decide)]
  · rw [takeIssue_begunE _ s f rfl rfl rfl rfl rfl rfl]
    dsimp only
    rw [← parkgetHeld, if_pos ((inTorus_congr torus _).trans ht), ← parkgetSent]

theorem exec_pparkget_lost (hp : o + 512 ≤ (cc s).part * 8192) (hl : isLost s s.cur.node (reg s f.b).toNat = true) :
    exec (.pparkget f) s = .next (takeTrap s s.cur.node s.cur.core (causeHere s codePeerGone)) := by
  rw [exec_pparkget, execPparkget]
  refine runOp_fault_of_canIssue (s' := s) h.issue (decodeFault_none rfl (.inr h.task) h.issue.taken rfl) ?_
  dsimp only
  rw [ho]
  dsimp only
  rw [if_neg (not_fld_above hb), if_neg hp.not_gt, fld_low (reg s f.b) hb, if_pos hl]

theorem exec_pparkget_beyond (hp : (cc s).part * 8192 < o + 512) :
    exec (.pparkget f) s = .next (takeTrap s s.cur.node s.cur.core (causeAt s codeXlate (BitVec.ofNat 64 o))) := by
  rw [exec_pparkget, execPparkget]
  refine runOp_fault_of_canIssue (s' := s) h.issue (decodeFault_none rfl (.inr h.task) h.issue.taken rfl) ?_
  dsimp only
  rw [ho]
  dsimp only
  rw [if_neg (not_fld_above hb), if_pos hp]

/-- CTRL waits with the request under way. -/
theorem exec_pparkget_waits (hp : o + 512 ≤ (cc s).part * 8192) (hl : isLost s s.cur.node (reg s f.b).toNat = false)
    (ht : inTorus s (reg s f.b).toNat = true) :
    ∃ y b, exec (.pparkget f) s = .next y ∧ (cs y).hold = .parkget f.d o (reg s f.b).toNat b ∧ b.pc = (cs s).pc
      ∧ underWay y s.cur.node (reg s f.b).toNat
          (.parkgetRequest (reg s f.b).toNat s.cur.node s.cur.core (tenantOf (cc s))) = true := by
  have cur : (begunE s f).cur = s.cur := (same_begunE s f).cur
  have kept := (begunE_keeps s f).trans (parkgetHeld_keeps (begunE s f) f o (reg s f.b).toNat (cs s).pc)
  have tenant : tenantOf (cc (parkgetHeld (begunE s f) f o (reg s f.b).toNat (cs s).pc)) = tenantOf (cc s) := by
    rw [← tenantOf_issueCore, kept.issueCore, tenantOf_issueCore]
  refine ⟨_, backOf (begunE s f) f (cs s).pc, exec_pparkget_goes h ho hb hp hl ht, hold_parkgetSent .., rfl, ?_⟩
  unfold parkgetSent
  rw [cur, tenant]
  exact underWay_travel ..

end

/-! The request at its node. -/

/-- Where the oldest record of a tenant's ring lies. -/
def oldestRecord (s : State) (n t : Nat) : Nat :=
  pBase (prismCfg (nd s n) t) + 512 * ((trtOf (nd s n) t).parkOut.toNat % pCnt (prismCfg (nd s n) t))

/-- The node once the record has been read. -/
def recordRead (s : State) (n a : Nat) : State :=
  if a + 512 ≤ (nd s n).dways * 2 ^ 25 then touch s n none .deep a 512 false else s

theorem recordRead_keeps {α : Type} {g : Node → α} (hg : SeesNoPort g) (s : State) (n a : Nat) :
    Keeps g s (recordRead s n a) := by
  unfold recordRead
  split
  · exact touchUncharged_keeps hg ..
  · exact .refl s

theorem exec_parkgetRequest_empty {s : State} {n src c t : Nat} (h : (trtOf (nd s n) t).parkIn = (trtOf (nd s n) t).parkOut) :
    exec (.parkgetRequest n src c t) s = .next (travel s n src 32 (.parkgetReply src c 0 ⟨0, []⟩)) := by
  rw [exec_parkgetRequest, execParkgetRequest]
  exact if_pos (by rw [h, BitVec.sub_self]; rfl)

/-- The four lines of a record. -/
theorem mem_lines {i : Nat} (h : i < 4) : i ∈ upFrom 0 4 := by
  interval_cases i <;> decide

/-- The lines of a record that are poisoned. -/
def recordBad (s : State) (n a : Nat) : List Nat :=
  (upFrom 0 4).filter fun i =>
    decide (a + 512 ≤ (nd s n).dways * 2 ^ 25) && isPoison (nd (recordRead s n a) n) .deep (a + 128 * i)

theorem mem_recordBad {s : State} {n a i : Nat} (ha : a + 512 ≤ (nd s n).dways * 2 ^ 25) (hi : i < 4) :
    i ∈ recordBad s n a ↔ isPoison (nd s n) .deep (a + 128 * i) = true := by
  have same := (recordRead_keeps (g := fun d => isPoison d .deep (a + 128 * i)) (fun _ _ _ => rfl) s n a).nodes n
  rw [recordBad, List.mem_filter, decide_eq_true ha, Bool.true_and, same]
  exact and_iff_right (mem_lines hi)

/-- The bytes of a record. -/
def recordBits (s : State) (n a : Nat) : Nat :=
  if a + 512 ≤ (nd s n).dways * 2 ^ 25 then homeRead (nd (recordRead s n a) n) .deep a 512 else 0

theorem exec_parkgetRequest_takes {s : State} {n src c t : Nat} (h : (trtOf (nd s n) t).parkIn ≠ (trtOf (nd s n) t).parkOut) :
    exec (.parkgetRequest n src c t) s
      = .next (travel (modTrt (recordRead s n (oldestRecord s n t)) n t fun r => { r with parkOut := r.parkOut + 1 }) n src 544
          (.parkgetReply src c ((trtOf (nd s n) t).parkIn - (trtOf (nd s n) t).parkOut).toNat
            ⟨BitVec.ofNat 4096 (recordBits s n (oldestRecord s n t)), recordBad s n (oldestRecord s n t)⟩)) := by
  have some : ((trtOf (nd s n) t).parkIn - (trtOf (nd s n) t).parkOut).toNat ≠ 0 := fun zero =>
    h (sub_eq_zero.mp (BitVec.eq_of_toNat_eq zero))
  rw [exec_parkgetRequest, execParkgetRequest]
  dsimp only
  rw [if_neg some]
  unfold recordBits recordBad recordRead oldestRecord
  simp only [decide_eq_true_eq]

/-- The oldest record is taken, and travels back. -/
theorem parkgetRequest_takes {s : State} {n src c t : Nat} (h : (trtOf (nd s n) t).parkIn ≠ (trtOf (nd s n) t).parkOut) :
    ∃ y v bad, exec (.parkgetRequest n src c t) s = .next y
      ∧ (trtOf (nd y n) t).parkOut = (trtOf (nd s n) t).parkOut + 1
      ∧ underWay y n src
          (.parkgetReply src c ((trtOf (nd s n) t).parkIn - (trtOf (nd s n) t).parkOut).toNat ⟨v, bad⟩) = true
      ∧ (oldestRecord s n t + 512 ≤ (nd s n).dways * 2 ^ 25 → ∀ i, i < 4 →
          (i ∈ bad ↔ isPoison (nd s n) .deep (oldestRecord s n t + 128 * i) = true)) := by
  refine ⟨_, _, _, exec_parkgetRequest_takes h, ?_, underWay_travel .., fun ha _ hi => mem_recordBad ha hi⟩
  have read := (recordRead_keeps (g := fun d => trtOf d t) (fun _ _ _ => rfl) s n (oldestRecord s n t)).nodes n
  have sent := travel_keeps (f := fun d => trtOf d t) fun _ => rfl
  rw [(sent ..).nodes n, trtOf_modTrt, read]

/-! The answer, or none. -/

section
variable {s : State} {n c off m : Nat} {d : Reg} {b : Back} (hh : (sq s n c .ctrl).hold = .parkget d off m b)
include hh

/-- The record written to the partition of its core, with the poison of its lines. -/
def recordLanded (s : State) (n c off : Nat) (v : BitVec 4096) (bad : List Nat) : State :=
  bad.foldl (fun s i => poisonT s n c (.spad c (off + 128 * i)))
    (modCo s n c fun q =>
      (upFrom 0 4).foldl (fun q i => spadWrite q (off + 128 * i) 128 (fullMask 128) (v.toNat >>> (1024 * i))) q)

theorem exec_parkgetReply_lands (k : Nat) (v : BitVec 4096) (bad : List Nat) :
    exec (.parkgetReply n c k ⟨v, bad⟩) s
      = .next (answerDone (writeRegAt (if k = 0 then s else recordLanded s n c off v bad) n c .ctrl d
          (BitVec.ofNat 64 k)) n c b) := by
  rw [exec_parkgetReply, execParkgetReply, hh]
  dsimp only
  by_cases none : k = 0
  · rw [if_pos none, if_pos none, if_pos none]
  · rw [if_neg none, if_neg none, if_neg none]
    rfl

theorem exec_pparkgetPeergone_faults (hg : b.sent + 10 * Config.frameCc ≤ s.now ∨ isLost s n m = true) :
    exec (.pparkgetPeergone n c) s = .next (answerFault s n c b ⟨codePeerGone, 0, 0, false, false, pcWord b.pc, 0⟩) := by
  rw [exec_pparkgetPeergone, execPparkgetPeergone, hh]
  exact if_pos hg

theorem exec_pparkgetPeergone_early (ht : s.now < b.sent + 10 * Config.frameCc) (hl : isLost s n m = false) :
    exec (.pparkgetPeergone n c) s = .next s := by
  rw [exec_pparkgetPeergone, execPparkgetPeergone, hh]
  exact if_neg (not_or.mpr ⟨ht.not_ge, by rw [hl]; decide⟩)

end

end Sys2Proof.Machine
end

section
/-! PROOFS. Packet injection (R293, R294, R298, R314, R391): where the head packet of a queue goes, stamped with the step at
which it leaves. -/

namespace Sys2Proof.Machine

open Sys2Proof.Claims

theorem exec_packetInjection (n c : Nat) (s : State) : exec (.packetInjection n c) s = execPacketInjection n c s := rfl

/-! What an injection leaves. -/

/-- A node but for what a packet that leaves changes: its bucket, its window, the queues of the fabric and of the shutter. -/
def injectionRest (d : Node) : Node :=
  { d with bucket := [], cwin := [], links := [], netSeq := 0, paceq := [], shutter := {} }

section
variable {α : Type} {f : Node → α} (hf : ∀ d, f (injectionRest d) = f d)
include hf

theorem seesNoFabric_of_injection : SeesNoFabric f := fun d => by rw [← hf, ← hf d]; rfl

theorem launch_keeps (s : State) (n t m bytes : Nat) (i : Instr) : Keeps f s (launch s n t m bytes i) := by
  unfold launch modSh
  split
  · exact .trans (.under hf s n rfl) (.under hf _ n rfl)
  · exact netSend_keeps (seesNoFabric_of_injection hf) ..

theorem cwinSend_keeps (s : State) (n m bytes : Nat) (relaxed : Bool) : Keeps f s (cwinSend s n m bytes relaxed) := by
  unfold cwinSend
  split
  · exact .refl s
  · exact .trans (.under hf s n rfl) (.schedule ..)

end

/-! The packet that leaves its queue. -/

section
variable (s : State) (n c : Nat) (e : PEntry)

theorem gsc_packetLeave : gsc (packetLeave s n c e) n = gsc s n := by
  unfold packetLeave modCo gsc
  rw [nd_modNd_same]
  rfl

theorem cancelled_packetLeave (t : Nat) (g : BitVec 32) :
    cancelled (nd (packetLeave s n c e) n) t g = cancelled (nd s n) t g := by
  unfold packetLeave modCo
  rw [nd_modNd_same]
  rfl

theorem pDone_packetLeave : (co (packetLeave s n c e) n c).pDone = (co s n c).pDone + 1 := by
  unfold packetLeave
  rw [co_modCo_same]
  cases e.slot <;> rfl

end

/-- A packet `p` of a core sets out for `m`: the bucket it takes from, the flags it sets, and its way. -/
def packetGoes (z : State) (n c : Nat) (e : PEntry) (p : PImage) (m : Nat) : State :=
  let z := if pType p = 1 then z
    else modNd z n fun d => charge d (pClass p) fun b => { b with msg := drain b.msg (32 * pPlen p) }
  let z := if e.sig = 0 then z else later z (.flags n c e.sig)
  match e.resume with
  | some r => netSend z n m 1 (pTenant p) (packetBytes p - 32) (.progArrival m p r.2.2 (some r.2.1))
  | none =>
    if pType p = 1 then schedule (cwinSend z n m (packetBytes p) true) 0 (.progArrival n p 6 none)
    else launch z n (pTenant p) m (32 * pPlen p) (.dataDelivery m p (arrivalDir z n m))

section
variable {α : Type} {f : Node → α}

theorem packetGoes_keeps (hf : ∀ d, f (injectionRest d) = f d) (z : State) (n c : Nat) (e : PEntry) (p : PImage) (m : Nat) :
    Keeps f z (packetGoes z n c e p m) := by
  unfold packetGoes
  extract_lets z1 z2
  have charged : Keeps f z z1 := by
    unfold z1
    split
    · exact .refl z
    · exact .under hf z n rfl
  have flagged : Keeps f z z2 := by
    unfold z2
    split
    · exact charged
    · exact charged.trans (.later ..)
  split
  · exact flagged.trans (netSend_keeps (seesNoFabric_of_injection hf) ..)
  · split
    · exact flagged.trans ((cwinSend_keeps hf ..).trans (.schedule ..))
    · exact flagged.trans (launch_keeps hf ..)

end

section
variable {z : State} {n c m : Nat} {e : PEntry} {p : PImage}

/-- A program packet of this node arrives at once. -/
theorem mem_packetGoes (hp : pType p = 1) (hr : e.resume = none) :
    (z.now, Instr.progArrival n p 6 none) ∈ (packetGoes z n c e p m).timers := by
  unfold packetGoes
  rw [if_pos hp, hr]
  dsimp only
  rw [if_pos hp]
  have now : (cwinSend (if e.sig = 0 then z else later z (.flags n c e.sig)) n m (packetBytes p) true).now = z.now := by
    rw [(cwinSend_keeps (f := fun _ => ()) (fun _ => rfl) ..).now]
    split <;> rfl
  rw [← now]
  exact mem_insertBy ..

section
variable (hs : e.sig = 0)
include hs

theorem packetGoes_program (hp : pType p = 1) (hr : e.resume = none) :
    packetGoes z n c e p m = schedule (cwinSend z n m (packetBytes p) true) 0 (.progArrival n p 6 none) := by
  unfold packetGoes
  rw [hr, hs]
  dsimp only
  rw [if_pos hp, if_pos hp, if_pos rfl]

theorem packetGoes_resume {r : Nat × Nat × Nat} (hp : pType p = 1) (hr : e.resume = some r) :
    packetGoes z n c e p m = netSend z n m 1 (pTenant p) (packetBytes p - 32) (.progArrival m p r.2.2 (some r.2.1)) := by
  unfold packetGoes
  rw [hr, hs, if_pos hp]
  rfl

theorem packetGoes_data (hp : pType p ≠ 1) (hr : e.resume = none) :
    packetGoes z n c e p m
      = launch (modNd z n fun d => charge d (pClass p) fun b => { b with msg := drain b.msg (32 * pPlen p) }) n (pTenant p) m
          (32 * pPlen p) (.dataDelivery m p (arrivalDir z n m)) := by
  unfold packetGoes
  rw [hr, hs]
  dsimp only
  rw [if_neg hp, if_neg hp, if_pos rfl]
  rfl

end
end

section
variable {s : State} {n c : Nat} {e : PEntry} (hd : packetDue s n c = true) (he : packetHead (co s n c) = some e)
include hd he

theorem exec_packetInjection_cancelled (hc : cancelled (nd s n) (pTenant e.img) e.gin = true) :
    exec (.packetInjection n c) s = .next (packetLeave s n c e) := by
  rw [exec_packetInjection, execPacketInjection, hd, he, if_neg (by decide)]
  dsimp only
  rw [if_pos ((cancelled_packetLeave ..).trans hc)]

/-- The packet is stamped with the step at which it leaves (R293). -/
theorem exec_packetInjection_goes (hc : cancelled (nd s n) (pTenant e.img) e.gin = false) :
    exec (.packetInjection n c) s
      = .next (packetGoes (packetLeave s n c e) n c e (putFld e.img 255 224 (gsc s n)) (packetDest s n e)) := by
  rw [exec_packetInjection, execPacketInjection, hd, he, if_neg (by decide)]
  dsimp only
  rw [if_neg (by rw [cancelled_packetLeave, hc]; decide), gsc_packetLeave]
  rfl

end

/-- The stamp leaves the type of a packet. -/
theorem pType_stamped (p : PImage) (v : Nat) : pType (putFld p 255 224 v) = pType p :=
  fld_putFld_apart p v (by decide) (.inl (by decide))

theorem packetInjection_injects {s : State} {n c : Nat} {e : PEntry} (hd : packetDue s n c = true)
    (he : packetHead (co s n c) = some e) :
    ∃ y, exec (.packetInjection n c) s = .next y
      ∧ (cancelled (nd s n) (pTenant e.img) e.gin = true → y = packetLeave s n c e)
      ∧ (co y n c).pDone = (co s n c).pDone + 1
      ∧ (cancelled (nd s n) (pTenant e.img) e.gin = false →
          y = packetGoes (packetLeave s n c e) n c e (putFld e.img 255 224 (gsc s n)) (packetDest s n e)) := by
  cases hc : cancelled (nd s n) (pTenant e.img) e.gin with
  | true => exact ⟨_, exec_packetInjection_cancelled hd he hc, fun _ => rfl, pDone_packetLeave .., nofun⟩
  | false =>
    have kept := packetGoes_keeps (f := coresVia Core.pDone) fun _ => rfl
    exact ⟨_, exec_packetInjection_goes hd he hc, nofun, ((kept ..).core n c).trans (pDone_packetLeave ..), fun _ => rfl⟩

end Sys2Proof.Machine
end

section
/-! PROOFS. The instructions on node counters (R278, R295, R296), and what O33 claims in all. -/

namespace Sys2Proof.Machine

open Sys2Proof.Claims

theorem exec_pctrr (f : FE) (s : State) : exec (.pctrr f) s = execPctrr f s := rfl
theorem exec_pctrw (f : FE) (s : State) : exec (.pctrw f) s = execPctrw f s := rfl
theorem exec_pctrs (f : FE) (s : State) : exec (.pctrs f) s = execPctrs f s := rfl
theorem exec_pctra (f : FE) (s : State) : exec (.pctra f) s = execPctra f s := rfl

/-- A claim stands for fewer results in flight. -/
theorem canIssueE_fewer {s : State} {f : FE} {seqs : List Seq} {srcs : List Reg} {j k : Nat} (hk : j ≤ k)
    (h : CanIssueE s f seqs srcs k) : CanIssueE s f seqs srcs j :=
  ⟨{ h.issue with slots := inflightRoom_mono hk h.issue.slots }, h.task⟩

/-! The outcomes of a counter instruction. -/

section
variable {f : FE} {srcs : List Reg} {rel acq : Bool} {wait : State → Nat → Option Word} {hold : Nat → State → State}
  {act : State → Nat → State} {s : State} {i : Nat} {v : Word}

/-- A counter instruction whose wait is over, with its result to come. -/
theorem runOp_ctrOp_result (h : CanIssueE s f [.ctrl] srcs 1) (ho : ctrOperand s (reg s f.a) = .inr i)
    (hw : wait s i = some v) (hr : (!rel || blksDone s s.cur.node s.cur.core s.cur.seq) = true) :
    runOp (ctrOp f srcs true rel acq wait hold act) s
      = .next ((ctrOp f srcs true rel acq wait hold act).eff (i, v) (begunE s f)) := by
  refine (runOp_of_canIssue (s' := s) (x := (i, v)) h.issue (decodeFault_none rfl (.inr h.task) h.issue.taken rfl)
    ?_ hr).trans ?_
  · unfold ctrOp
    dsimp only
    rw [ho]
    dsimp only
    rw [hw]
  · rw [takeIssue_begunE _ s f rfl rfl rfl rfl rfl rfl]

/-- And one without a result. -/
theorem runOp_ctrOp_past (h : CanIssueE s f [.ctrl] srcs 0) (ho : ctrOperand s (reg s f.a) = .inr i)
    (hw : wait s i = some v) (hr : (!rel || blksDone s s.cur.node s.cur.core s.cur.seq) = true) :
    runOp (ctrOp f srcs false rel acq wait hold act) s
      = .next ((ctrOp f srcs false rel acq wait hold act).eff (i, v) (pastE s f)) := by
  refine (runOp_of_canIssue (s' := s) (x := (i, v)) h.issue (decodeFault_none rfl (.inr h.task) h.issue.taken rfl)
    ?_ hr).trans ?_
  · unfold ctrOp
    dsimp only
    rw [ho]
    dsimp only
    rw [hw]
  · rw [takeIssue_pastE _ s f rfl rfl rfl rfl rfl rfl]

section
variable {result : Bool} (h : CanIssueE s f [.ctrl] srcs (if result then 1 else 0))
include h

theorem runOp_ctrOp_holds (ho : ctrOperand s (reg s f.a) = .inr i) (hw : wait s i = none) :
    runOp (ctrOp f srcs result rel acq wait hold act) s = .next (setBlocked (hold i s)) := by
  refine (runOp_hold_of_canIssue (s' := hold i s) h.issue (decodeFault_none rfl (.inr h.task) h.issue.taken rfl) ?_).trans ?_
  · unfold ctrOp
    dsimp only
    rw [ho]
    dsimp only
    rw [hw]
  · exact congrArg _ (congrArg setBlocked (if_pos rfl))

/-- A release waits for the block stores of its sequencer (R296). -/
theorem runOp_ctrOp_full (ho : ctrOperand s (reg s f.a) = .inr i) (hw : wait s i = some v)
    (hr : (!rel || blksDone s s.cur.node s.cur.core s.cur.seq) = false) :
    runOp (ctrOp f srcs result rel acq wait hold act) s = .next (setBlocked s) := by
  refine runOp_full_of_canIssue (s' := s) (x := (i, v)) h.issue (decodeFault_none rfl (.inr h.task) h.issue.taken rfl) ?_ hr
  unfold ctrOp
  dsimp only
  rw [ho]
  dsimp only
  rw [hw]

theorem runOp_ctrOp_faults {code : Nat} (ho : ctrOperand s (reg s f.a) = .inl code) :
    runOp (ctrOp f srcs result rel acq wait hold act) s
      = .next (takeTrap s s.cur.node s.cur.core (causeHere s code)) := by
  refine runOp_fault_of_canIssue (s' := s) h.issue (decodeFault_none rfl (.inr h.task) h.issue.taken rfl) ?_
  unfold ctrOp
  dsimp only
  rw [ho]

end
end

/-! Each instruction. -/

section
variable {f : FE} {s : State} {i : Nat} (ho : ctrOperand s (reg s f.a) = .inr i)
include ho

theorem exec_pctrr_goes (h : CanIssueE s f [.ctrl] [f.a] 1) :
    exec (.pctrr f) s
      = .next (flyReg (acquireL1 (begunE s f) s.cur.node s.cur.core 3 false) f.d (ctrAt (cn s) i) 12 (pushKey s f.tk)
          f.sig) := by
  have cur : (begunE s f).cur = s.cur := (same_begunE s f).cur
  have moved : (acquireL1 (begunE s f) s.cur.node s.cur.core 3 false).cur = s.cur := (acquireL1_keeps ..).cur.trans cur
  rw [exec_pctrr, execPctrr, runOp_ctrOp_result (v := ctrAt (cn s) i) h ho rfl rfl]
  unfold ctrOp
  dsimp only
  rw [if_pos rfl, if_pos rfl, if_neg (by decide), cur, pushKey_congr moved]

theorem exec_pctrw_goes (h : CanIssueE s f [.ctrl] [f.a, f.b] 1) {v : Word} (hv : ctrWaited (reg s f.b) s i = some v) :
    exec (.pctrw f) s
      = .next (flyReg (acquireL1 (modCc (begunE s f) fun k => { k with ctrWait := none }) s.cur.node s.cur.core 3 false)
          f.d v 12 (pushKey s f.tk) f.sig) := by
  have cur : (begunE s f).cur = s.cur := (same_begunE s f).cur
  have moved : (acquireL1 (modCc (begunE s f) fun k => { k with ctrWait := none }) s.cur.node s.cur.core 3 false).cur = s.cur :=
    (acquireL1_keeps ..).cur.trans cur
  rw [exec_pctrw, execPctrw, runOp_ctrOp_result h ho hv rfl]
  unfold ctrOp
  dsimp only
  rw [if_pos rfl, if_pos rfl, if_neg (by decide), cur, pushKey_congr moved]

theorem exec_pctrw_waits (h : CanIssueE s f [.ctrl] [f.a, f.b] 1) (hv : ctrWaited (reg s f.b) s i = none) :
    exec (.pctrw f) s = .next (setBlocked (ctrBegin (reg s f.b) i s)) := by
  rw [exec_pctrw, execPctrw, runOp_ctrOp_holds h ho hv]

section
variable (hd : blksDone s s.cur.node s.cur.core s.cur.seq = true)
include hd

theorem exec_pctra_goes (h : CanIssueE s f [.ctrl] [f.a, f.b] 1) :
    exec (.pctra f) s
      = .next (flyReg (softCtr (releaseL1 (begunE s f) s.cur.node s.cur.core 3 false) s.cur.node i true (reg s f.b)) f.d
          (ctrAt (cn s) i) 12 (pushKey s f.tk) f.sig) := by
  have cur : (begunE s f).cur = s.cur := (same_begunE s f).cur
  have kept := releaseL1_keeps (begunE s f) s.cur.node s.cur.core 3 false
  have released := kept.cur.trans cur
  have operand := (kept.accessReg f.b).trans ((same_begunE s f).reg f.b)
  rw [exec_pctra, execPctra, runOp_ctrOp_result (v := ctrAt (cn s) i) h ho rfl (by rw [hd]; rfl)]
  unfold ctrOp
  dsimp only
  rw [if_pos rfl, if_pos rfl, if_neg (by decide), cur, released, operand, pushKey_congr ((softCtr_cur ..).trans released)]

theorem exec_pctrs_goes (h : CanIssueE s f [.ctrl] [f.a, f.b] 0) :
    exec (.pctrs f) s
      = .next (signal (softCtr (releaseL1 (pastE s f) s.cur.node s.cur.core 3 false) s.cur.node i false (reg s f.b))
          f.sig) := by
  have cur : (pastE s f).cur = s.cur := (same_pastE s f).cur
  have kept := releaseL1_keeps (pastE s f) s.cur.node s.cur.core 3 false
  have released := kept.cur.trans cur
  have operand := (kept.accessReg f.b).trans ((same_pastE s f).reg f.b)
  rw [exec_pctrs, execPctrs, runOp_ctrOp_past (v := ctrAt (cn s) i) h ho rfl (by rw [hd]; rfl)]
  unfold ctrOp
  dsimp only
  rw [if_pos rfl, if_neg (by decide), if_neg (by decide), cur, released, operand]

end

section
variable (hd : ¬ blksDone s s.cur.node s.cur.core s.cur.seq = true)
include hd

theorem exec_pctra_waits (h : CanIssueE s f [.ctrl] [f.a, f.b] 1) : exec (.pctra f) s = .next (setBlocked s) := by
  rw [exec_pctra, execPctra, runOp_ctrOp_full h ho rfl (by rw [Bool.eq_false_iff.mpr hd]; rfl)]

theorem exec_pctrs_waits (h : CanIssueE s f [.ctrl] [f.a, f.b] 0) : exec (.pctrs f) s = .next (setBlocked s) := by
  rw [exec_pctrs, execPctrs, runOp_ctrOp_full h ho rfl (by rw [Bool.eq_false_iff.mpr hd]; rfl)]

end
end

section
variable {f : FE} {s : State} {code : Nat} (ho : ctrOperand s (reg s f.a) = .inl code)
include ho

theorem exec_pctrr_faults (h : CanIssueE s f [.ctrl] [f.a] 1) :
    exec (.pctrr f) s = .next (takeTrap s s.cur.node s.cur.core (causeHere s code)) := by
  rw [exec_pctrr, execPctrr, runOp_ctrOp_faults h ho]

section
variable (h : CanIssueE s f [.ctrl] [f.a, f.b] 1)
include h

theorem exec_pctrw_faults : exec (.pctrw f) s = .next (takeTrap s s.cur.node s.cur.core (causeHere s code)) := by
  rw [exec_pctrw, execPctrw, runOp_ctrOp_faults h ho]

theorem exec_pctra_faults : exec (.pctra f) s = .next (takeTrap s s.cur.node s.cur.core (causeHere s code)) := by
  rw [exec_pctra, execPctra, runOp_ctrOp_faults h ho]

theorem exec_pctrs_faults : exec (.pctrs f) s = .next (takeTrap s s.cur.node s.cur.core (causeHere s code)) := by
  rw [exec_pctrs, execPctrs, runOp_ctrOp_faults (canIssueE_fewer (by decide) h) ho]

end
end

/-! The wait of PCTRW, and the values of a counter (R295). -/

section
variable {s : State} {t : Word} {i : Nat}

theorem ctrWaited_fresh (h : (cc s).ctrWait = none) :
    ctrWaited t s i = if passed (ctrAt (cn s) i) t then some (ctrAt (cn s) i) else none := by
  rw [ctrWaited, h]

theorem ctrWaited_met {w : Word} (h : (cc s).ctrWait = some (i, t, some w)) : ctrWaited t s i = some w := by
  rw [ctrWaited, h]
  exact if_pos ⟨rfl, rfl⟩

theorem cc_setCtr (h : (cn s).armed = []) (v : Word) : cc (setCtr s s.cur.node i v) = wakeCtr i v (cc s) := by
  rw [cc, (setCtr_keeps (f := fun _ => ()) (fun _ => rfl) ..).cur, co_setCtr h]
  rfl

/-- The first value that satisfies a wait is kept for it. -/
theorem ctrWait_setCtr {v : Word} (hw : (cc s).ctrWait = some (i, t, none)) (ha : (cn s).armed = [])
    (hp : passed v t = true) : (cc (setCtr s s.cur.node i v)).ctrWait = some (i, t, some v) := by
  rw [cc_setCtr ha, wakeCtr, hw]
  simp [hp]

end

theorem ctrOperand_illegal (s : State) {v : Word} (h : 65536 ≤ v.toNat) : ctrOperand s v = .inl codeIllegal := by
  rw [ctrOperand]
  exact if_pos h

theorem ctrOperand_outside {s : State} {v : Word} (h : v.toNat < 65536)
    (hw : cwLen (prismCfg (cn s) (tenantOf (cc s))) ≤ v.toNat) : ctrOperand s v = .inl codePerm := by
  rw [ctrOperand]
  exact (if_neg h.not_ge).trans (if_pos hw)

theorem ctrAt_softCtr {s : State} {m i : Nat} (hb : busyTenant (nd s m) i = none) (hw : smWf 0 (nd s m).counters = true)
    (v : Word) :
    ctrAt (nd (softCtr s m i false v) m) i = v ∧ ctrAt (nd (softCtr s m i true v) m) i = ctrAt (nd s m) i + v := by
  rw [softCtr_free hb, softCtr_free hb]
  exact ⟨ctrAt_setCtr hw i v, ctrAt_setCtr hw i _⟩

/-- Settles O33: each instruction by its operation, park retrieval by its request and its answer, an injection by where the
head packet goes, and the counters by what they read. -/
theorem packets : Obligations.Packets := by
  refine ⟨⟨fun f s o h ho hd => ⟨fun v i hv hi => ⟨exec_pbuild_goes h ho hd hv hi, pSrcn_buildPacket ..,
      pDhint_buildPacket _ _ _ _ hd, pTenant_buildPacket .., pK_buildPacket ..⟩,
      fun _ => exec_pbuild_faults h ho hd, fun _ => exec_pbuild_waits h ho hd⟩,
    fun f s h => ⟨exec_psend_beyond h, exec_psend_unbuilt h, fun p hv hs => ⟨exec_psend_illegal h hv hs,
      exec_psend_forbidden h hv hs, fun hl hp => ⟨exec_psend_goes h hv hs hl hp, exec_psend_waits h hv hs hl hp⟩⟩⟩,
    fun f s o v arr h ho hb hn hv ha => ⟨exec_presume_goes h ho hb hn hv ha, exec_presume_illegal h ho hb hn hv ha⟩,
    queuePacket_queued⟩,
    ⟨fun f s o h ho hb => ⟨exec_pparkget_waits h ho hb, exec_pparkget_lost h ho hb, exec_pparkget_beyond h ho hb⟩,
      fun s n src c t => ⟨exec_parkgetRequest_empty, parkgetRequest_takes⟩,
      fun s n c k v bad d off m b hh => exec_parkgetReply_lands hh k v bad,
      fun s n c d off m b hh => ⟨exec_pparkgetPeergone_faults hh, exec_pparkgetPeergone_early hh⟩,
      fun s n c e hd he => ?_⟩,
    fun f s i ho => ⟨exec_pctrr_goes ho, fun h => ⟨fun _ => exec_pctrw_goes ho h, exec_pctrw_waits ho h,
        fun hd => exec_pctra_goes ho hd h, fun hd => exec_pctra_waits ho hd h⟩,
      fun h => ⟨fun hd => exec_pctrs_goes ho hd h, fun hd => exec_pctrs_waits ho hd h⟩⟩,
    fun f s code ho => ⟨exec_pctrr_faults ho,
      fun h => ⟨exec_pctrw_faults ho h, exec_pctra_faults ho h, exec_pctrs_faults ho h⟩⟩,
    fun s t i => ⟨ctrWaited_fresh, fun _ => ctrWaited_met, fun _ => ctrWait_setCtr⟩,
    fun s v => ⟨ctrOperand_illegal s, ctrOperand_outside⟩, fun s m i v hb hw => ctrAt_softCtr hb hw v⟩
  obtain ⟨y, step, dropped, done, goes⟩ := packetInjection_injects hd he
  refine ⟨y, step, dropped, done, fun hc ht hr => ?_, fun r hc ht hr hs => ?_, fun hc ht hr hs => ?_⟩
  · rw [goes hc]
    exact ⟨mem_packetGoes ((pType_stamped ..).trans ht) hr,
      fun hs => packetGoes_program hs ((pType_stamped ..).trans ht) hr⟩
  · have dest : packetDest s n e = r.1 := by rw [packetDest, hr]
    rw [goes hc, dest]
    exact packetGoes_resume hs ((pType_stamped ..).trans ht) hr
  · rw [goes hc]
    exact packetGoes_data hs (fun h => ht ((pType_stamped ..).symm.trans h)) hr

end Sys2Proof.Machine
end
